-- ==== Sys2Proof/Word.lean ====
section
/-! DEFINITION. The word types of the Sarari 9 and the sparse tables in which the model keeps what the spec gives by number. -/

namespace Sys2Proof

/-- A 64-bit register value (R35). -/
abbrev Word := BitVec 64

/-- The smallest addressable unit (R2). -/
abbrev Byte := BitVec 8

/-- A v register, 1,024 bits (R76). -/
abbrev VReg := BitVec 1024

/-- A table by number: a list of keys and values, read with a default for every key not listed. -/
abbrev Assoc (α : Type) := List (Nat × α)

/-- The value at `k`, or `d` when `k` is not listed. -/
def Assoc.get {α : Type} (d : α) : Assoc α → Nat → α
  | [], _ => d
  | (k', v) :: m, k => if k = k' then v else Assoc.get d m k

/-- `m` with `v` at `k`; on a list in rising key order the result is in rising key order. -/
def Assoc.set {α : Type} : Assoc α → Nat → α → Assoc α
  | [], k, v => [(k, v)]
  | (k', v') :: m, k, v =>
    if k < k' then (k, v) :: (k', v') :: m
    else if k = k' then (k, v) :: m
    else (k', v') :: Assoc.set m k v

/-- `m` with no entry at `k`. -/
def Assoc.erase {α : Type} (m : Assoc α) (k : Nat) : Assoc α := m.filter (fun e => e.1 != k)

/-- A set of numbers as a list; insertion keeps one copy, in rising order on a rising list. -/
def insertNat : List Nat → Nat → List Nat
  | [], k => [k]
  | k' :: m, k => if k < k' then k :: k' :: m else if k = k' then k' :: m else k' :: insertNat m k

/-- Little-endian value of a list of bytes (R2). -/
def ofBytes : List Byte → Nat
  | [] => 0
  | b :: bs => b.toNat + 256 * ofBytes bs

/-- The first `n` bytes of `v`, least significant first (R2). -/
def toBytes : Nat → Nat → List Byte
  | 0, _ => []
  | n + 1, v => BitVec.ofNat 8 v :: toBytes n (v / 256)

/-- Bits [hi:lo] of a number (R2). -/
def bitsOf (v hi lo : Nat) : Nat := (v >>> lo) % 2 ^ (hi + 1 - lo)

end Sys2Proof
end

