-- ==== Sys2Proof/Syntax.lean ====
section
/-! DEFINITION. The abstract syntax: the eight instruction formats bit for bit (R52-R59), the names of units and
registers that device steps carry, and the one type `Instr` with a constructor for every row of the opcode table. -/

namespace Sys2Proof

/-- A sequencer of the module, by the unit that holds it: the A-seq or X-seq of a tile, the sequencer M of a memory
core, or the service core of a cluster (R15, R16, R18, R27). -/
inductive SeqId where
  | a (tile : Nat)
  | x (tile : Nat)
  | m (core : Nat)
  | s (cluster : Nat)
  deriving DecidableEq, Repr

/-- The four sequencer kinds of R66, in the order of STATUS.KIND (R68). -/
inductive Kind where
  | a | x | m | s
  deriving DecidableEq, Repr

/-- The kind of a sequencer. -/
def SeqId.kind : SeqId → Kind
  | .a _ => .a
  | .x _ => .x
  | .m _ => .m
  | .s _ => .s

/-- Where the launch unit finds a record: at the head of a launch queue, or in the pending-launch pool (R132). -/
inductive RecordSource where
  | queue (n : Nat)
  | pool (ticket : Nat)
  deriving DecidableEq, Repr

/-- The registers a host or firmware write may name (R136, R252, R257, R290, R291, R297). -/
inductive HostReg where
  | lqBase (queue : Nat)
  | lqCfg (queue : Nat)
  | lqOwn (queue : Nat)
  | allow (partition : Nat) (word : Nat)
  | ringBase (partition : Nat)
  | ringSize (partition : Nat)
  | wdog
  | pwrCap
  | timeout
  | shadow (router : Nat) (destination : Nat) (partition : Nat)
  | readOnly (offset : Nat)
  deriving DecidableEq, Repr

/-- The monitors of R296. -/
inductive Monitor where
  | temp (router : Nat)
  | volt (cluster : Nat)
  | proc (cluster : Nat)
  deriving DecidableEq, Repr

/-- F64-A (R56). -/
structure F64A where
  pred : BitVec 3
  pneg : BitVec 1
  d : BitVec 6
  a : BitVec 6
  b : BitVec 6
  c : BitVec 6
  ty : BitVec 4
  fn : BitVec 6
  imm16 : BitVec 16
  deriving DecidableEq, Repr

/-- F64-M (R41, R56). -/
structure F64M where
  pred : BitVec 3
  pneg : BitVec 1
  d : BitVec 6
  base : BitVec 6
  ty : BitVec 4
  sc : BitVec 4
  ord : BitVec 3
  fe : BitVec 2
  fn3 : BitVec 3
  off22 : BitVec 22
  deriving DecidableEq, Repr

/-- F64-B (R44, R56). -/
structure F64B where
  pred : BitVec 3
  pneg : BitVec 1
  a : BitVec 6
  b : BitVec 6
  cc : BitVec 4
  disp34 : BitVec 34
  deriving DecidableEq, Repr

/-- F64-I (R56, R58). -/
structure F64I where
  pred : BitVec 3
  pneg : BitVec 1
  d : BitVec 6
  a : BitVec 6
  ty : BitVec 4
  imm34 : BitVec 34
  deriving DecidableEq, Repr

/-- F96-Q: an F64-A word and the wait bytes of its four operands (R39, R56). -/
structure F96Q where
  base : F64A
  wa : BitVec 8
  wb : BitVec 8
  wc : BitVec 8
  wd : BitVec 8
  deriving DecidableEq, Repr

/-- F96-E (R56). -/
structure F96E where
  pred : BitVec 3
  pneg : BitVec 1
  d : BitVec 6
  a : BitVec 6
  b : BitVec 6
  c : BitVec 6
  tida : BitVec 8
  tidb : BitVec 8
  tidc : BitVec 8
  zero : BitVec 2
  aux32 : BitVec 32
  deriving DecidableEq, Repr

/-- F96-I (R56, R59). -/
structure F96I where
  pred : BitVec 3
  pneg : BitVec 1
  d : BitVec 6
  zero1 : BitVec 6
  ty : BitVec 4
  zero2 : BitVec 2
  imm64 : BitVec 64
  deriving DecidableEq, Repr

/-- F128-C (R56). -/
structure F128C where
  pred : BitVec 3
  pneg : BitVec 1
  d : BitVec 6
  a : BitVec 6
  b : BitVec 6
  c : BitVec 6
  sub8 : BitVec 8
  flags18 : BitVec 18
  imm64 : BitVec 64
  deriving DecidableEq, Repr

/-- What a participant of a collective asks for: kind, function, element type, element count and root (R263). -/
structure CollWhat where
  kind : Nat
  fn : Nat
  ty : Nat
  count : Nat
  root : Nat
  deriving DecidableEq, Repr

/-- What comes with a device's value of a collective: what its participants ask for, and whether they propose in-network (R263,
R264). -/
structure CollOffer where
  what : CollWhat
  inNetwork : Bool
  deriving DecidableEq, Repr

/-- A link's configuration as a retraining finds it: its width in lanes, the physical lanes of its logical lanes, and the speed code
(R258). -/
structure LinkConfig where
  width : BitVec 8
  lanes : BitVec 32
  speed : BitVec 8
  deriving DecidableEq, Repr

/-- What a switch shows to the security controller: its certificate chain, its signed report, and whether the session opens
(R260). -/
structure Evidence where
  chain : List (BitVec 8)
  report : List (BitVec 8)
  session : Bool
  deriving DecidableEq, Repr

/-- One constructor for every row of the opcode table: the encoded instructions (R60-R62) with their fields as the
words give them, then the device steps with what the outside world or the device's own choice supplies. A device step
without arguments concerns the unit, entry or number that the state names as its subject. -/
inductive Instr where
  | nop (f : F64A)
  | nop96 (f : F96Q)
  | nop128 (f : F128C)
  | add (f : F64A)
  | addImm (f : F64I)
  | addQw (f : F96Q)
  | sub (f : F64A)
  | subQw (f : F96Q)
  | mul (f : F64A)
  | mulQw (f : F96Q)
  | mulh (f : F64A)
  | mulhQw (f : F96Q)
  | div (f : F64A)
  | divQw (f : F96Q)
  | rem (f : F64A)
  | remQw (f : F96Q)
  | and (f : F64A)
  | andImm (f : F64I)
  | andQw (f : F96Q)
  | or (f : F64A)
  | orImm (f : F64I)
  | orQw (f : F96Q)
  | xor (f : F64A)
  | xorImm (f : F64I)
  | xorQw (f : F96Q)
  | shl (f : F64A)
  | shlImm (f : F64I)
  | shlQw (f : F96Q)
  | shr (f : F64A)
  | shrImm (f : F64I)
  | shrQw (f : F96Q)
  | sra (f : F64A)
  | sraImm (f : F64I)
  | sraQw (f : F96Q)
  | rot (f : F64A)
  | rotQw (f : F96Q)
  | min (f : F64A)
  | minQw (f : F96Q)
  | max (f : F64A)
  | maxQw (f : F96Q)
  | clz (f : F64A)
  | clzQw (f : F96Q)
  | popc (f : F64A)
  | popcQw (f : F96Q)
  | bfx (f : F64A)
  | bfxQw (f : F96Q)
  | bfi (f : F64A)
  | bfiQw (f : F96Q)
  | cmp (f : F64A)
  | cmpImm (f : F64I)
  | cmpQw (f : F96Q)
  | sel (f : F64A)
  | selQw (f : F96Q)
  | mov (f : F64A)
  | movImm (f : F64I)
  | movQw (f : F96Q)
  | lea (f : F64A)
  | leaQw (f : F96Q)
  | gaddr (f : F64A)
  | gaddrQw (f : F96Q)
  | fadd (f : F64A)
  | faddQw (f : F96Q)
  | fsub (f : F64A)
  | fsubQw (f : F96Q)
  | fmul (f : F64A)
  | fmulQw (f : F96Q)
  | fma (f : F64A)
  | fmaQw (f : F96Q)
  | fdiv (f : F64A)
  | fdivQw (f : F96Q)
  | fsqrt (f : F64A)
  | fsqrtQw (f : F96Q)
  | fmin (f : F64A)
  | fminQw (f : F96Q)
  | fmax (f : F64A)
  | fmaxQw (f : F96Q)
  | fcmp (f : F64A)
  | fcmpQw (f : F96Q)
  | fsgn (f : F64A)
  | fsgnQw (f : F96Q)
  | fcvt (f : F64A)
  | fcvtQw (f : F96Q)
  | frnd (f : F64A)
  | frndQw (f : F96Q)
  | fexp2 (f : F64A)
  | fexp2Qw (f : F96Q)
  | flog2 (f : F64A)
  | flog2Qw (f : F96Q)
  | vbcast (f : F64A)
  | vbcastQw (f : F96Q)
  | vred (f : F64A)
  | vredQw (f : F96Q)
  | vshuf (f : F64A)
  | vshufQw (f : F96Q)
  | vcomp (f : F64A)
  | vcompQw (f : F96Q)
  | viota (f : F64A)
  | viotaQw (f : F96Q)
  | vgath (f : F64A)
  | vgathQw (f : F96Q)
  | vscat (f : F64A)
  | vscatQw (f : F96Q)
  | vld (f : F64A)
  | vldQw (f : F96Q)
  | vst (f : F64A)
  | vstQw (f : F96Q)
  | vext (f : F64A)
  | vextQw (f : F96Q)
  | vins (f : F64A)
  | vinsQw (f : F96Q)
  | plog (f : F64A)
  | plogQw (f : F96Q)
  | pmov (f : F64A)
  | pmovQw (f : F96Q)
  | ld (f : F64M)
  | st (f : F64M)
  | fest (f : F64M)
  | feq (f : F64M)
  | atom (f : F64M)
  | acq (f : F64M)
  | rel (f : F64M)
  | fence (f : F64M)
  | waitseq (f : F64M)
  | bind (f : F64A)
  | unbind (f : F64A)
  | barinit (f : F64A)
  | bararv (f : F64A)
  | barwait (f : F64A)
  | bardef (f : F64A)
  | qbind (f : F64A)
  | qadv (f : F64A)
  | qpub (f : F64A)
  | qavail (f : F64A)
  | acton (f : F64A)
  | actoff (f : F64A)
  | fend (f : F64A)
  | spawn (f : F64A)
  | migr (f : F64A)
  | nestcfg (f : F64A)
  | nestgo (f : F64A)
  | alignh (f : F64A)
  | b (f : F64B)
  | call (f : F64B)
  | brq (f : F64B)
  | j (f : F64I)
  | jr (f : F64A)
  | ret (f : F64A)
  | bopush (f : F64A)
  | omclaim (f : F64A)
  | omrel (f : F64A)
  | accz (f : F64A)
  | accrd (f : F64A)
  | accwr (f : F64A)
  | mprog (f : F64A)
  | semwait (f : F64A)
  | semsig (f : F64A)
  | tfmt (f : F64A)
  | tqry (f : F64A)
  | chseq (f : F64A)
  | chtail (f : F64A)
  | strbind (f : F64A)
  | mcpoll (f : F64A)
  | tlook (f : F64A)
  | tins (f : F64A)
  | tevict (f : F64A)
  | tlbinv (f : F64M)
  | probe (f : F64M)
  | evqld (f : F64A)
  | evslope (f : F64A)
  | evrun (f : F64A)
  | evgvt (f : F64A)
  | evstat (f : F64A)
  | pair (f : F64A)
  | unpair (f : F64A)
  | fpck (f : F64A)
  | errq (f : F64A)
  | trap (f : F64A)
  | eret (f : F64A)
  | csrr (f : F64A)
  | csrw (f : F64A)
  | wfe (f : F64A)
  | tsc (f : F64A)
  | cyc (f : F64A)
  | halt (f : F64A)
  | li (f : F96I)
  | mma (f : F96E)
  | copy (f : F96E)
  | get (f : F96E)
  | push (f : F96E)
  | chapp (f : F96E)
  | launch (f : F128C)
  | coll (f : F128C)
  | puts (f : F128C)
  | tdef (f : F128C)
  | tdup (f : F128C)
  | tlbw (f : F128C)
  | evdef (f : F128C)
  | evdep (f : F128C)
  | evsamp (f : F128C)
  | launchQueueKick (queue : Nat) (tail : BitVec 32)
  | launchRecordCheck (src : RecordSource)
  | dependencePoll (src : RecordSource)
  | gangPlacement (src : RecordSource) (tiles : List Nat)
  | recordBlocking (src : RecordSource)
  | reexecution (gang : Nat) (tiles : List Nat)
  | actorSelection (seq : SeqId)
  | reelClaim (seq : SeqId) (slot : Nat)
  | alignhTimeout (seq : SeqId)
  | deferredArrival (gang : Nat) (index : Nat)
  | commandStart (tile : Nat) (engine : Nat)
  | commandCompletion (tile : Nat) (engine : Nat) (number : Nat)
  | putsSignal (tile : Nat) (engine : Nat) (number : Nat)
  | switchCombine (collective : Nat) (device : Nat) (offer : CollOffer) (values : List (BitVec 64))
  | gvtReduction (gang : Nat) (peers : BitVec 64)
  | linkCrcGroup (port : Nat) (beats : List (BitVec 256)) (crc : BitVec 32)
  | linkRetrain (port : Nat) (found : LinkConfig) (remote : BitVec 64)
  | switchAttestation (slot : Nat) (number : BitVec 16) (digest : BitVec 64) (shown : Evidence)
  | rectangleReset (die : Nat) (rect : Nat)
  | bar2Access (partition : Nat) (write : Bool) (address : BitVec 64) (data : List (BitVec 8))
  | feataccWrite (partition : Nat) (upper : Bool) (value : BitVec 64)
  | pfaultClear (partition : Nat) (value : BitVec 64)
  | crectWrite (die : Nat) (rect : Nat) (value : BitVec 64)
  | layoutEntryWrite (partition : Nat) (code : Nat) (value : BitVec 32)
  | registerWrite (function : Nat) (reg : HostReg) (value : BitVec 64)
  | recoveryImage (image : List (BitVec 8))
  | spdmRequest (function : Nat) (index : Nat)
  | monitorRefresh (monitor : Monitor) (value : BitVec 16)
  | droopTrip (cluster : Nat) (analog : Bool)
  | wfeTimeout (seq : SeqId)
  | illegalFormat (word : BitVec 32)
  | unassignedOpcode (bits : BitVec 128)
  | fetchTranslationFault (address : BitVec 64) (denied : Bool)
  | firmwareStartComplete (hbmTrained : Bool)
  | deviceIdentifierAssign (device : BitVec 8)
  | rendezvousCommit
  | rendezvousRead
  | startTick
  | rendezvousRecheck
  | gangCompletion
  | preempt
  | preemptResume
  | watchdogExpiry
  | gondolaArrival
  | ringReturn
  | mcGondolaArrival
  | mcRequestCompletion
  | pushDelivery
  | mmaKstep
  | eventItem
  | remoteTokenAccept
  | gvtReceive
  | trapDelivery
  | requestResponse
  | ownerAccess
  | packetForward
  | packetDelivery
  | endToEndTimeout
  | routingDrain
  | routingSwap
  | switchRevocation
  | pairBoundary
  | pairWaitTimeout
  | functionReset
  | moduleReset
  | bootRomVerify
  | powerEstimate
  | stretchEnd
  | ballastEnd
  | pad
  | linkDown
  deriving DecidableEq, Repr

end Sys2Proof
end

