-- ==== Sys2Proof/Decode.lean ====
section
/-! DEFINITION. Decoding (R52-R64): the fields of each format read from an instruction's bits, the opcode maps of the
three length classes, the decoder of any bytes, and after it the encoder written from the same tables. -/

namespace Sys2Proof

/-- Why a list of bytes is no instruction: it ends before the instruction does. Every other list decodes; what R53, R54
and R63 refuse decodes to the device step of that name. -/
inductive Reject where
  | truncated
  deriving DecidableEq, Repr

/-- Bits [lo+w-1:lo] of an instruction (R2). -/
def field (bits : BitVec 128) (lo w : Nat) : BitVec w := bits.extractLsb' lo w

/-- F64-A read from the bits of R56. -/
def F64A.ofBits (w : BitVec 128) : F64A where
  pred := field w 10 3
  pneg := field w 13 1
  d := field w 14 6
  a := field w 20 6
  b := field w 26 6
  c := field w 32 6
  ty := field w 38 4
  fn := field w 42 6
  imm16 := field w 48 16

/-- F64-M read from the bits of R56. -/
def F64M.ofBits (w : BitVec 128) : F64M where
  pred := field w 10 3
  pneg := field w 13 1
  d := field w 14 6
  base := field w 20 6
  ty := field w 26 4
  sc := field w 30 4
  ord := field w 34 3
  fe := field w 37 2
  fn3 := field w 39 3
  off22 := field w 42 22

/-- F64-B read from the bits of R56. -/
def F64B.ofBits (w : BitVec 128) : F64B where
  pred := field w 10 3
  pneg := field w 13 1
  a := field w 14 6
  b := field w 20 6
  cc := field w 26 4
  disp34 := field w 30 34

/-- F64-I read from the bits of R56. -/
def F64I.ofBits (w : BitVec 128) : F64I where
  pred := field w 10 3
  pneg := field w 13 1
  d := field w 14 6
  a := field w 20 6
  ty := field w 26 4
  imm34 := field w 30 34

/-- F96-Q read from the bits of R56. -/
def F96Q.ofBits (w : BitVec 128) : F96Q where
  base := F64A.ofBits w
  wa := field w 64 8
  wb := field w 72 8
  wc := field w 80 8
  wd := field w 88 8

/-- F96-E read from the bits of R56. -/
def F96E.ofBits (w : BitVec 128) : F96E where
  pred := field w 10 3
  pneg := field w 13 1
  d := field w 14 6
  a := field w 20 6
  b := field w 26 6
  c := field w 32 6
  tida := field w 38 8
  tidb := field w 46 8
  tidc := field w 54 8
  zero := field w 62 2
  aux32 := field w 64 32

/-- F96-I read from the bits of R56. -/
def F96I.ofBits (w : BitVec 128) : F96I where
  pred := field w 10 3
  pneg := field w 13 1
  d := field w 14 6
  zero1 := field w 20 6
  ty := field w 26 4
  zero2 := field w 30 2
  imm64 := field w 32 64

/-- F128-C read from the bits of R56. -/
def F128C.ofBits (w : BitVec 128) : F128C where
  pred := field w 10 3
  pneg := field w 13 1
  d := field w 14 6
  a := field w 20 6
  b := field w 26 6
  c := field w 32 6
  sub8 := field w 38 8
  flags18 := field w 46 18
  imm64 := field w 64 64

/-- Part of the opcode map of the 64-bit class (R60): the opcodes 0x00 to 0x22. -/
def opcodes64a (opc : Nat) (w : BitVec 128) : Option Instr :=
  match opc with
  | 0x00 => some (.nop (.ofBits w))
  | 0x01 => some (.add (.ofBits w))
  | 0x02 => some (.sub (.ofBits w))
  | 0x03 => some (.mul (.ofBits w))
  | 0x04 => some (.mulh (.ofBits w))
  | 0x05 => some (.div (.ofBits w))
  | 0x06 => some (.rem (.ofBits w))
  | 0x07 => some (.and (.ofBits w))
  | 0x08 => some (.or (.ofBits w))
  | 0x09 => some (.xor (.ofBits w))
  | 0x0A => some (.shl (.ofBits w))
  | 0x0B => some (.shr (.ofBits w))
  | 0x0C => some (.sra (.ofBits w))
  | 0x0D => some (.rot (.ofBits w))
  | 0x0E => some (.min (.ofBits w))
  | 0x0F => some (.max (.ofBits w))
  | 0x10 => some (.clz (.ofBits w))
  | 0x11 => some (.popc (.ofBits w))
  | 0x12 => some (.bfx (.ofBits w))
  | 0x13 => some (.bfi (.ofBits w))
  | 0x14 => some (.cmp (.ofBits w))
  | 0x15 => some (.sel (.ofBits w))
  | 0x16 => some (.mov (.ofBits w))
  | 0x17 => some (.lea (.ofBits w))
  | 0x18 => some (.gaddr (.ofBits w))
  | 0x20 => some (.addImm (.ofBits w))
  | 0x21 => some (.andImm (.ofBits w))
  | 0x22 => some (.orImm (.ofBits w))
  | _ => none

/-- Part of the opcode map of the 64-bit class (R60): the opcodes 0x23 to 0x67. -/
def opcodes64b (opc : Nat) (w : BitVec 128) : Option Instr :=
  match opc with
  | 0x23 => some (.xorImm (.ofBits w))
  | 0x24 => some (.shlImm (.ofBits w))
  | 0x25 => some (.shrImm (.ofBits w))
  | 0x26 => some (.sraImm (.ofBits w))
  | 0x27 => some (.cmpImm (.ofBits w))
  | 0x28 => some (.movImm (.ofBits w))
  | 0x30 => some (.fadd (.ofBits w))
  | 0x31 => some (.fsub (.ofBits w))
  | 0x32 => some (.fmul (.ofBits w))
  | 0x33 => some (.fma (.ofBits w))
  | 0x34 => some (.fdiv (.ofBits w))
  | 0x35 => some (.fsqrt (.ofBits w))
  | 0x36 => some (.fmin (.ofBits w))
  | 0x37 => some (.fmax (.ofBits w))
  | 0x38 => some (.fcmp (.ofBits w))
  | 0x39 => some (.fsgn (.ofBits w))
  | 0x3A => some (.fcvt (.ofBits w))
  | 0x3B => some (.frnd (.ofBits w))
  | 0x3C => some (.fexp2 (.ofBits w))
  | 0x3D => some (.flog2 (.ofBits w))
  | 0x60 => some (.vbcast (.ofBits w))
  | 0x61 => some (.vred (.ofBits w))
  | 0x62 => some (.vshuf (.ofBits w))
  | 0x63 => some (.vcomp (.ofBits w))
  | 0x64 => some (.viota (.ofBits w))
  | 0x65 => some (.vgath (.ofBits w))
  | 0x66 => some (.vscat (.ofBits w))
  | 0x67 => some (.vld (.ofBits w))
  | _ => none

/-- Part of the opcode map of the 64-bit class (R60): the opcodes 0x68 to 0x8F. -/
def opcodes64c (opc : Nat) (w : BitVec 128) : Option Instr :=
  match opc with
  | 0x68 => some (.vst (.ofBits w))
  | 0x69 => some (.vext (.ofBits w))
  | 0x6A => some (.vins (.ofBits w))
  | 0x6C => some (.plog (.ofBits w))
  | 0x6D => some (.pmov (.ofBits w))
  | 0x70 => some (.ld (.ofBits w))
  | 0x71 => some (.st (.ofBits w))
  | 0x72 => some (.fest (.ofBits w))
  | 0x73 => some (.feq (.ofBits w))
  | 0x74 => some (.atom (.ofBits w))
  | 0x78 => some (.acq (.ofBits w))
  | 0x79 => some (.rel (.ofBits w))
  | 0x7A => some (.bind (.ofBits w))
  | 0x7B => some (.unbind (.ofBits w))
  | 0x7C => some (.fence (.ofBits w))
  | 0x7D => some (.barinit (.ofBits w))
  | 0x7E => some (.bararv (.ofBits w))
  | 0x7F => some (.barwait (.ofBits w))
  | 0x80 => some (.bardef (.ofBits w))
  | 0x81 => some (.waitseq (.ofBits w))
  | 0x88 => some (.qbind (.ofBits w))
  | 0x89 => some (.qadv (.ofBits w))
  | 0x8A => some (.qpub (.ofBits w))
  | 0x8B => some (.qavail (.ofBits w))
  | 0x8C => some (.acton (.ofBits w))
  | 0x8D => some (.actoff (.ofBits w))
  | 0x8E => some (.fend (.ofBits w))
  | 0x8F => some (.spawn (.ofBits w))
  | _ => none

/-- Part of the opcode map of the 64-bit class (R60): the opcodes 0x90 to 0xBA. -/
def opcodes64d (opc : Nat) (w : BitVec 128) : Option Instr :=
  match opc with
  | 0x90 => some (.migr (.ofBits w))
  | 0x91 => some (.nestcfg (.ofBits w))
  | 0x92 => some (.nestgo (.ofBits w))
  | 0x93 => some (.alignh (.ofBits w))
  | 0x98 => some (.b (.ofBits w))
  | 0x99 => some (.j (.ofBits w))
  | 0x9A => some (.jr (.ofBits w))
  | 0x9B => some (.call (.ofBits w))
  | 0x9C => some (.ret (.ofBits w))
  | 0x9D => some (.bopush (.ofBits w))
  | 0x9E => some (.brq (.ofBits w))
  | 0xA0 => some (.omclaim (.ofBits w))
  | 0xA1 => some (.omrel (.ofBits w))
  | 0xA3 => some (.accz (.ofBits w))
  | 0xA4 => some (.accrd (.ofBits w))
  | 0xA5 => some (.accwr (.ofBits w))
  | 0xA6 => some (.mprog (.ofBits w))
  | 0xA7 => some (.semwait (.ofBits w))
  | 0xA8 => some (.semsig (.ofBits w))
  | 0xAC => some (.tfmt (.ofBits w))
  | 0xAD => some (.tqry (.ofBits w))
  | 0xB0 => some (.chseq (.ofBits w))
  | 0xB1 => some (.chtail (.ofBits w))
  | 0xB2 => some (.strbind (.ofBits w))
  | 0xB3 => some (.mcpoll (.ofBits w))
  | 0xB8 => some (.tlook (.ofBits w))
  | 0xB9 => some (.tins (.ofBits w))
  | 0xBA => some (.tevict (.ofBits w))
  | _ => none

/-- Part of the opcode map of the 64-bit class (R60): the opcodes 0xC0 to 0xE7. -/
def opcodes64e (opc : Nat) (w : BitVec 128) : Option Instr :=
  match opc with
  | 0xC0 => some (.tlbinv (.ofBits w))
  | 0xC1 => some (.probe (.ofBits w))
  | 0xC8 => some (.evqld (.ofBits w))
  | 0xC9 => some (.evslope (.ofBits w))
  | 0xCA => some (.evrun (.ofBits w))
  | 0xCB => some (.evgvt (.ofBits w))
  | 0xCC => some (.evstat (.ofBits w))
  | 0xD0 => some (.pair (.ofBits w))
  | 0xD1 => some (.unpair (.ofBits w))
  | 0xD2 => some (.fpck (.ofBits w))
  | 0xD3 => some (.errq (.ofBits w))
  | 0xE0 => some (.trap (.ofBits w))
  | 0xE1 => some (.eret (.ofBits w))
  | 0xE2 => some (.csrr (.ofBits w))
  | 0xE3 => some (.csrw (.ofBits w))
  | 0xE4 => some (.wfe (.ofBits w))
  | 0xE5 => some (.tsc (.ofBits w))
  | 0xE6 => some (.cyc (.ofBits w))
  | 0xE7 => some (.halt (.ofBits w))
  | _ => none

/-- Part of the opcode map of the 96-bit class (R61): the opcodes 0x00 to 0x95. -/
def opcodes96a (opc : Nat) (w : BitVec 128) : Option Instr :=
  match opc with
  | 0x00 => some (.nop96 (.ofBits w))
  | 0x01 => some (.li (.ofBits w))
  | 0x10 => some (.mma (.ofBits w))
  | 0x11 => some (.copy (.ofBits w))
  | 0x12 => some (.get (.ofBits w))
  | 0x13 => some (.push (.ofBits w))
  | 0x14 => some (.chapp (.ofBits w))
  | 0x81 => some (.addQw (.ofBits w))
  | 0x82 => some (.subQw (.ofBits w))
  | 0x83 => some (.mulQw (.ofBits w))
  | 0x84 => some (.mulhQw (.ofBits w))
  | 0x85 => some (.divQw (.ofBits w))
  | 0x86 => some (.remQw (.ofBits w))
  | 0x87 => some (.andQw (.ofBits w))
  | 0x88 => some (.orQw (.ofBits w))
  | 0x89 => some (.xorQw (.ofBits w))
  | 0x8A => some (.shlQw (.ofBits w))
  | 0x8B => some (.shrQw (.ofBits w))
  | 0x8C => some (.sraQw (.ofBits w))
  | 0x8D => some (.rotQw (.ofBits w))
  | 0x8E => some (.minQw (.ofBits w))
  | 0x8F => some (.maxQw (.ofBits w))
  | 0x90 => some (.clzQw (.ofBits w))
  | 0x91 => some (.popcQw (.ofBits w))
  | 0x92 => some (.bfxQw (.ofBits w))
  | 0x93 => some (.bfiQw (.ofBits w))
  | 0x94 => some (.cmpQw (.ofBits w))
  | 0x95 => some (.selQw (.ofBits w))
  | _ => none

/-- Part of the opcode map of the 96-bit class (R61): the opcodes 0x96 to 0xEA. -/
def opcodes96b (opc : Nat) (w : BitVec 128) : Option Instr :=
  match opc with
  | 0x96 => some (.movQw (.ofBits w))
  | 0x97 => some (.leaQw (.ofBits w))
  | 0x98 => some (.gaddrQw (.ofBits w))
  | 0xB0 => some (.faddQw (.ofBits w))
  | 0xB1 => some (.fsubQw (.ofBits w))
  | 0xB2 => some (.fmulQw (.ofBits w))
  | 0xB3 => some (.fmaQw (.ofBits w))
  | 0xB4 => some (.fdivQw (.ofBits w))
  | 0xB5 => some (.fsqrtQw (.ofBits w))
  | 0xB6 => some (.fminQw (.ofBits w))
  | 0xB7 => some (.fmaxQw (.ofBits w))
  | 0xB8 => some (.fcmpQw (.ofBits w))
  | 0xB9 => some (.fsgnQw (.ofBits w))
  | 0xBA => some (.fcvtQw (.ofBits w))
  | 0xBB => some (.frndQw (.ofBits w))
  | 0xBC => some (.fexp2Qw (.ofBits w))
  | 0xBD => some (.flog2Qw (.ofBits w))
  | 0xE0 => some (.vbcastQw (.ofBits w))
  | 0xE1 => some (.vredQw (.ofBits w))
  | 0xE2 => some (.vshufQw (.ofBits w))
  | 0xE3 => some (.vcompQw (.ofBits w))
  | 0xE4 => some (.viotaQw (.ofBits w))
  | 0xE5 => some (.vgathQw (.ofBits w))
  | 0xE6 => some (.vscatQw (.ofBits w))
  | 0xE7 => some (.vldQw (.ofBits w))
  | 0xE8 => some (.vstQw (.ofBits w))
  | 0xE9 => some (.vextQw (.ofBits w))
  | 0xEA => some (.vinsQw (.ofBits w))
  | _ => none

/-- Part of the opcode map of the 96-bit class (R61): the opcodes 0xEC to 0xED. -/
def opcodes96c (opc : Nat) (w : BitVec 128) : Option Instr :=
  match opc with
  | 0xEC => some (.plogQw (.ofBits w))
  | 0xED => some (.pmovQw (.ofBits w))
  | _ => none

/-- Part of the opcode map of the 128-bit class (R62): the opcodes 0x00 to 0x09. -/
def opcodes128a (opc : Nat) (w : BitVec 128) : Option Instr :=
  match opc with
  | 0x00 => some (.nop128 (.ofBits w))
  | 0x01 => some (.launch (.ofBits w))
  | 0x02 => some (.coll (.ofBits w))
  | 0x03 => some (.puts (.ofBits w))
  | 0x04 => some (.tdef (.ofBits w))
  | 0x05 => some (.tdup (.ofBits w))
  | 0x06 => some (.tlbw (.ofBits w))
  | 0x07 => some (.evdef (.ofBits w))
  | 0x08 => some (.evdep (.ofBits w))
  | 0x09 => some (.evsamp (.ofBits w))
  | _ => none

/-- The instruction that an opcode of the 64-bit class names, if it is assigned (R60, R63). -/
def opcode64 (opc : Nat) (w : BitVec 128) : Option Instr :=
  opcodes64a opc w <|> opcodes64b opc w <|> opcodes64c opc w <|> opcodes64d opc w <|> opcodes64e opc w

/-- The instruction that an opcode of the 96-bit class names, if it is assigned (R61, R63). -/
def opcode96 (opc : Nat) (w : BitVec 128) : Option Instr :=
  opcodes96a opc w <|> opcodes96b opc w <|> opcodes96c opc w

/-- The instruction that an opcode of the 128-bit class names, if it is assigned (R62, R63). -/
def opcode128 (opc : Nat) (w : BitVec 128) : Option Instr :=
  opcodes128a opc w

/-- The PAD word (R53). -/
def padWord : BitVec 32 := 0xFFFFFFFC#32

/-- The length in bytes that bits [1:0] of the first word give (R52); 4 for a word of R53. -/
def lengthOf (first : BitVec 32) : Nat :=
  match (first.extractLsb' 0 2).toNat with
  | 1 => 8
  | 2 => 12
  | 3 => 16
  | _ => 4

/-- The bits of an instruction of `n` bytes, all above them zero. -/
def keepBytes (w : BitVec 128) (n : Nat) : BitVec 128 := BitVec.ofNat 128 (w.toNat % 2 ^ (8 * n))

/-- The instruction whose bits stand in `w`, first word lowest (R52, R53, R60-R63). -/
def decodeBits (w : BitVec 128) : Instr :=
  let first : BitVec 32 := field w 0 32
  let opc := (field w 2 8).toNat
  match (field w 0 2).toNat with
  | 1 => (opcode64 opc w).getD (.unassignedOpcode (keepBytes w 8))
  | 2 => (opcode96 opc w).getD (.unassignedOpcode (keepBytes w 12))
  | 3 => (opcode128 opc w).getD (.unassignedOpcode w)
  | _ => if first = padWord then .pad else .illegalFormat first

/-- The decoder: the instruction at the head of a list of bytes and the bytes after it. -/
def decode (bs : List Byte) : Except Reject (Instr × List Byte) :=
  let n := lengthOf (BitVec.ofNat 32 (ofBytes (bs.take 4)))
  if bs.length < 4 ∨ bs.length < n then .error .truncated
  else .ok (decodeBits (BitVec.ofNat 128 (ofBytes (bs.take n))), bs.drop n)

/-- The opcode-table word as the hardware stores it: each 32-bit word little-endian, the first at the lowest address, and
the bits above `nbits` zero up to the longest instruction (R2, R52). -/
def tableBytes (nbits w : Nat) : List Byte := toBytes 16 (w % 2 ^ nbits)

/-- The instruction the decoder reads from an opcode-table word. -/
def decodeTableWord (nbits w : Nat) : Option Instr :=
  match decode (tableBytes nbits w) with
  | .ok (i, _) => some i
  | .error _ => none

/-! The encoder. -/

/-- The bits of an F64-A instruction (R56). -/
def F64A.toBits (f : F64A) (opc : BitVec 8) : BitVec 64 :=
  f.imm16 ++ f.fn ++ f.ty ++ f.c ++ f.b ++ f.a ++ f.d ++ f.pneg ++ f.pred ++ opc ++ 1#2

/-- The bits of an F64-M instruction (R56). -/
def F64M.toBits (f : F64M) (opc : BitVec 8) : BitVec 64 :=
  f.off22 ++ f.fn3 ++ f.fe ++ f.ord ++ f.sc ++ f.ty ++ f.base ++ f.d ++ f.pneg ++ f.pred ++ opc ++ 1#2

/-- The bits of an F64-B instruction (R56). -/
def F64B.toBits (f : F64B) (opc : BitVec 8) : BitVec 64 :=
  f.disp34 ++ f.cc ++ f.b ++ f.a ++ f.pneg ++ f.pred ++ opc ++ 1#2

/-- The bits of an F64-I instruction (R56). -/
def F64I.toBits (f : F64I) (opc : BitVec 8) : BitVec 64 :=
  f.imm34 ++ f.ty ++ f.a ++ f.d ++ f.pneg ++ f.pred ++ opc ++ 1#2

/-- The bits of an F96-Q instruction (R56). -/
def F96Q.toBits (f : F96Q) (opc : BitVec 8) : BitVec 96 :=
  f.wd ++ f.wc ++ f.wb ++ f.wa ++ f.base.imm16 ++ f.base.fn ++ f.base.ty ++ f.base.c ++ f.base.b ++ f.base.a ++
    f.base.d ++ f.base.pneg ++ f.base.pred ++ opc ++ 2#2

/-- The bits of an F96-E instruction (R56). -/
def F96E.toBits (f : F96E) (opc : BitVec 8) : BitVec 96 :=
  f.aux32 ++ f.zero ++ f.tidc ++ f.tidb ++ f.tida ++ f.c ++ f.b ++ f.a ++ f.d ++ f.pneg ++ f.pred ++ opc ++ 2#2

/-- The bits of an F96-I instruction (R56). -/
def F96I.toBits (f : F96I) (opc : BitVec 8) : BitVec 96 :=
  f.imm64 ++ f.zero2 ++ f.ty ++ f.zero1 ++ f.d ++ f.pneg ++ f.pred ++ opc ++ 2#2

/-- The bits of an F128-C instruction (R56). -/
def F128C.toBits (f : F128C) (opc : BitVec 8) : BitVec 128 :=
  f.imm64 ++ f.flags18 ++ f.sub8 ++ f.c ++ f.b ++ f.a ++ f.d ++ f.pneg ++ f.pred ++ opc ++ 3#2

/-- The length and the bits of an instruction: its format's bits with the opcode of R60, R61 or R62. A device step has
no words. -/
def encodeBits : Instr → Nat × BitVec 128
  | .nop f => (8, (f.toBits 0x00#8).setWidth 128)
  | .nop96 f => (12, (f.toBits 0x00#8).setWidth 128)
  | .nop128 f => (16, f.toBits 0x00#8)
  | .add f => (8, (f.toBits 0x01#8).setWidth 128)
  | .addImm f => (8, (f.toBits 0x20#8).setWidth 128)
  | .addQw f => (12, (f.toBits 0x81#8).setWidth 128)
  | .sub f => (8, (f.toBits 0x02#8).setWidth 128)
  | .subQw f => (12, (f.toBits 0x82#8).setWidth 128)
  | .mul f => (8, (f.toBits 0x03#8).setWidth 128)
  | .mulQw f => (12, (f.toBits 0x83#8).setWidth 128)
  | .mulh f => (8, (f.toBits 0x04#8).setWidth 128)
  | .mulhQw f => (12, (f.toBits 0x84#8).setWidth 128)
  | .div f => (8, (f.toBits 0x05#8).setWidth 128)
  | .divQw f => (12, (f.toBits 0x85#8).setWidth 128)
  | .rem f => (8, (f.toBits 0x06#8).setWidth 128)
  | .remQw f => (12, (f.toBits 0x86#8).setWidth 128)
  | .and f => (8, (f.toBits 0x07#8).setWidth 128)
  | .andImm f => (8, (f.toBits 0x21#8).setWidth 128)
  | .andQw f => (12, (f.toBits 0x87#8).setWidth 128)
  | .or f => (8, (f.toBits 0x08#8).setWidth 128)
  | .orImm f => (8, (f.toBits 0x22#8).setWidth 128)
  | .orQw f => (12, (f.toBits 0x88#8).setWidth 128)
  | .xor f => (8, (f.toBits 0x09#8).setWidth 128)
  | .xorImm f => (8, (f.toBits 0x23#8).setWidth 128)
  | .xorQw f => (12, (f.toBits 0x89#8).setWidth 128)
  | .shl f => (8, (f.toBits 0x0A#8).setWidth 128)
  | .shlImm f => (8, (f.toBits 0x24#8).setWidth 128)
  | .shlQw f => (12, (f.toBits 0x8A#8).setWidth 128)
  | .shr f => (8, (f.toBits 0x0B#8).setWidth 128)
  | .shrImm f => (8, (f.toBits 0x25#8).setWidth 128)
  | .shrQw f => (12, (f.toBits 0x8B#8).setWidth 128)
  | .sra f => (8, (f.toBits 0x0C#8).setWidth 128)
  | .sraImm f => (8, (f.toBits 0x26#8).setWidth 128)
  | .sraQw f => (12, (f.toBits 0x8C#8).setWidth 128)
  | .rot f => (8, (f.toBits 0x0D#8).setWidth 128)
  | .rotQw f => (12, (f.toBits 0x8D#8).setWidth 128)
  | .min f => (8, (f.toBits 0x0E#8).setWidth 128)
  | .minQw f => (12, (f.toBits 0x8E#8).setWidth 128)
  | .max f => (8, (f.toBits 0x0F#8).setWidth 128)
  | .maxQw f => (12, (f.toBits 0x8F#8).setWidth 128)
  | .clz f => (8, (f.toBits 0x10#8).setWidth 128)
  | .clzQw f => (12, (f.toBits 0x90#8).setWidth 128)
  | .popc f => (8, (f.toBits 0x11#8).setWidth 128)
  | .popcQw f => (12, (f.toBits 0x91#8).setWidth 128)
  | .bfx f => (8, (f.toBits 0x12#8).setWidth 128)
  | .bfxQw f => (12, (f.toBits 0x92#8).setWidth 128)
  | .bfi f => (8, (f.toBits 0x13#8).setWidth 128)
  | .bfiQw f => (12, (f.toBits 0x93#8).setWidth 128)
  | .cmp f => (8, (f.toBits 0x14#8).setWidth 128)
  | .cmpImm f => (8, (f.toBits 0x27#8).setWidth 128)
  | .cmpQw f => (12, (f.toBits 0x94#8).setWidth 128)
  | .sel f => (8, (f.toBits 0x15#8).setWidth 128)
  | .selQw f => (12, (f.toBits 0x95#8).setWidth 128)
  | .mov f => (8, (f.toBits 0x16#8).setWidth 128)
  | .movImm f => (8, (f.toBits 0x28#8).setWidth 128)
  | .movQw f => (12, (f.toBits 0x96#8).setWidth 128)
  | .lea f => (8, (f.toBits 0x17#8).setWidth 128)
  | .leaQw f => (12, (f.toBits 0x97#8).setWidth 128)
  | .gaddr f => (8, (f.toBits 0x18#8).setWidth 128)
  | .gaddrQw f => (12, (f.toBits 0x98#8).setWidth 128)
  | .fadd f => (8, (f.toBits 0x30#8).setWidth 128)
  | .faddQw f => (12, (f.toBits 0xB0#8).setWidth 128)
  | .fsub f => (8, (f.toBits 0x31#8).setWidth 128)
  | .fsubQw f => (12, (f.toBits 0xB1#8).setWidth 128)
  | .fmul f => (8, (f.toBits 0x32#8).setWidth 128)
  | .fmulQw f => (12, (f.toBits 0xB2#8).setWidth 128)
  | .fma f => (8, (f.toBits 0x33#8).setWidth 128)
  | .fmaQw f => (12, (f.toBits 0xB3#8).setWidth 128)
  | .fdiv f => (8, (f.toBits 0x34#8).setWidth 128)
  | .fdivQw f => (12, (f.toBits 0xB4#8).setWidth 128)
  | .fsqrt f => (8, (f.toBits 0x35#8).setWidth 128)
  | .fsqrtQw f => (12, (f.toBits 0xB5#8).setWidth 128)
  | .fmin f => (8, (f.toBits 0x36#8).setWidth 128)
  | .fminQw f => (12, (f.toBits 0xB6#8).setWidth 128)
  | .fmax f => (8, (f.toBits 0x37#8).setWidth 128)
  | .fmaxQw f => (12, (f.toBits 0xB7#8).setWidth 128)
  | .fcmp f => (8, (f.toBits 0x38#8).setWidth 128)
  | .fcmpQw f => (12, (f.toBits 0xB8#8).setWidth 128)
  | .fsgn f => (8, (f.toBits 0x39#8).setWidth 128)
  | .fsgnQw f => (12, (f.toBits 0xB9#8).setWidth 128)
  | .fcvt f => (8, (f.toBits 0x3A#8).setWidth 128)
  | .fcvtQw f => (12, (f.toBits 0xBA#8).setWidth 128)
  | .frnd f => (8, (f.toBits 0x3B#8).setWidth 128)
  | .frndQw f => (12, (f.toBits 0xBB#8).setWidth 128)
  | .fexp2 f => (8, (f.toBits 0x3C#8).setWidth 128)
  | .fexp2Qw f => (12, (f.toBits 0xBC#8).setWidth 128)
  | .flog2 f => (8, (f.toBits 0x3D#8).setWidth 128)
  | .flog2Qw f => (12, (f.toBits 0xBD#8).setWidth 128)
  | .vbcast f => (8, (f.toBits 0x60#8).setWidth 128)
  | .vbcastQw f => (12, (f.toBits 0xE0#8).setWidth 128)
  | .vred f => (8, (f.toBits 0x61#8).setWidth 128)
  | .vredQw f => (12, (f.toBits 0xE1#8).setWidth 128)
  | .vshuf f => (8, (f.toBits 0x62#8).setWidth 128)
  | .vshufQw f => (12, (f.toBits 0xE2#8).setWidth 128)
  | .vcomp f => (8, (f.toBits 0x63#8).setWidth 128)
  | .vcompQw f => (12, (f.toBits 0xE3#8).setWidth 128)
  | .viota f => (8, (f.toBits 0x64#8).setWidth 128)
  | .viotaQw f => (12, (f.toBits 0xE4#8).setWidth 128)
  | .vgath f => (8, (f.toBits 0x65#8).setWidth 128)
  | .vgathQw f => (12, (f.toBits 0xE5#8).setWidth 128)
  | .vscat f => (8, (f.toBits 0x66#8).setWidth 128)
  | .vscatQw f => (12, (f.toBits 0xE6#8).setWidth 128)
  | .vld f => (8, (f.toBits 0x67#8).setWidth 128)
  | .vldQw f => (12, (f.toBits 0xE7#8).setWidth 128)
  | .vst f => (8, (f.toBits 0x68#8).setWidth 128)
  | .vstQw f => (12, (f.toBits 0xE8#8).setWidth 128)
  | .vext f => (8, (f.toBits 0x69#8).setWidth 128)
  | .vextQw f => (12, (f.toBits 0xE9#8).setWidth 128)
  | .vins f => (8, (f.toBits 0x6A#8).setWidth 128)
  | .vinsQw f => (12, (f.toBits 0xEA#8).setWidth 128)
  | .plog f => (8, (f.toBits 0x6C#8).setWidth 128)
  | .plogQw f => (12, (f.toBits 0xEC#8).setWidth 128)
  | .pmov f => (8, (f.toBits 0x6D#8).setWidth 128)
  | .pmovQw f => (12, (f.toBits 0xED#8).setWidth 128)
  | .ld f => (8, (f.toBits 0x70#8).setWidth 128)
  | .st f => (8, (f.toBits 0x71#8).setWidth 128)
  | .fest f => (8, (f.toBits 0x72#8).setWidth 128)
  | .feq f => (8, (f.toBits 0x73#8).setWidth 128)
  | .atom f => (8, (f.toBits 0x74#8).setWidth 128)
  | .acq f => (8, (f.toBits 0x78#8).setWidth 128)
  | .rel f => (8, (f.toBits 0x79#8).setWidth 128)
  | .fence f => (8, (f.toBits 0x7C#8).setWidth 128)
  | .waitseq f => (8, (f.toBits 0x81#8).setWidth 128)
  | .bind f => (8, (f.toBits 0x7A#8).setWidth 128)
  | .unbind f => (8, (f.toBits 0x7B#8).setWidth 128)
  | .barinit f => (8, (f.toBits 0x7D#8).setWidth 128)
  | .bararv f => (8, (f.toBits 0x7E#8).setWidth 128)
  | .barwait f => (8, (f.toBits 0x7F#8).setWidth 128)
  | .bardef f => (8, (f.toBits 0x80#8).setWidth 128)
  | .qbind f => (8, (f.toBits 0x88#8).setWidth 128)
  | .qadv f => (8, (f.toBits 0x89#8).setWidth 128)
  | .qpub f => (8, (f.toBits 0x8A#8).setWidth 128)
  | .qavail f => (8, (f.toBits 0x8B#8).setWidth 128)
  | .acton f => (8, (f.toBits 0x8C#8).setWidth 128)
  | .actoff f => (8, (f.toBits 0x8D#8).setWidth 128)
  | .fend f => (8, (f.toBits 0x8E#8).setWidth 128)
  | .spawn f => (8, (f.toBits 0x8F#8).setWidth 128)
  | .migr f => (8, (f.toBits 0x90#8).setWidth 128)
  | .nestcfg f => (8, (f.toBits 0x91#8).setWidth 128)
  | .nestgo f => (8, (f.toBits 0x92#8).setWidth 128)
  | .alignh f => (8, (f.toBits 0x93#8).setWidth 128)
  | .b f => (8, (f.toBits 0x98#8).setWidth 128)
  | .call f => (8, (f.toBits 0x9B#8).setWidth 128)
  | .brq f => (8, (f.toBits 0x9E#8).setWidth 128)
  | .j f => (8, (f.toBits 0x99#8).setWidth 128)
  | .jr f => (8, (f.toBits 0x9A#8).setWidth 128)
  | .ret f => (8, (f.toBits 0x9C#8).setWidth 128)
  | .bopush f => (8, (f.toBits 0x9D#8).setWidth 128)
  | .omclaim f => (8, (f.toBits 0xA0#8).setWidth 128)
  | .omrel f => (8, (f.toBits 0xA1#8).setWidth 128)
  | .accz f => (8, (f.toBits 0xA3#8).setWidth 128)
  | .accrd f => (8, (f.toBits 0xA4#8).setWidth 128)
  | .accwr f => (8, (f.toBits 0xA5#8).setWidth 128)
  | .mprog f => (8, (f.toBits 0xA6#8).setWidth 128)
  | .semwait f => (8, (f.toBits 0xA7#8).setWidth 128)
  | .semsig f => (8, (f.toBits 0xA8#8).setWidth 128)
  | .tfmt f => (8, (f.toBits 0xAC#8).setWidth 128)
  | .tqry f => (8, (f.toBits 0xAD#8).setWidth 128)
  | .chseq f => (8, (f.toBits 0xB0#8).setWidth 128)
  | .chtail f => (8, (f.toBits 0xB1#8).setWidth 128)
  | .strbind f => (8, (f.toBits 0xB2#8).setWidth 128)
  | .mcpoll f => (8, (f.toBits 0xB3#8).setWidth 128)
  | .tlook f => (8, (f.toBits 0xB8#8).setWidth 128)
  | .tins f => (8, (f.toBits 0xB9#8).setWidth 128)
  | .tevict f => (8, (f.toBits 0xBA#8).setWidth 128)
  | .tlbinv f => (8, (f.toBits 0xC0#8).setWidth 128)
  | .probe f => (8, (f.toBits 0xC1#8).setWidth 128)
  | .evqld f => (8, (f.toBits 0xC8#8).setWidth 128)
  | .evslope f => (8, (f.toBits 0xC9#8).setWidth 128)
  | .evrun f => (8, (f.toBits 0xCA#8).setWidth 128)
  | .evgvt f => (8, (f.toBits 0xCB#8).setWidth 128)
  | .evstat f => (8, (f.toBits 0xCC#8).setWidth 128)
  | .pair f => (8, (f.toBits 0xD0#8).setWidth 128)
  | .unpair f => (8, (f.toBits 0xD1#8).setWidth 128)
  | .fpck f => (8, (f.toBits 0xD2#8).setWidth 128)
  | .errq f => (8, (f.toBits 0xD3#8).setWidth 128)
  | .trap f => (8, (f.toBits 0xE0#8).setWidth 128)
  | .eret f => (8, (f.toBits 0xE1#8).setWidth 128)
  | .csrr f => (8, (f.toBits 0xE2#8).setWidth 128)
  | .csrw f => (8, (f.toBits 0xE3#8).setWidth 128)
  | .wfe f => (8, (f.toBits 0xE4#8).setWidth 128)
  | .tsc f => (8, (f.toBits 0xE5#8).setWidth 128)
  | .cyc f => (8, (f.toBits 0xE6#8).setWidth 128)
  | .halt f => (8, (f.toBits 0xE7#8).setWidth 128)
  | .li f => (12, (f.toBits 0x01#8).setWidth 128)
  | .mma f => (12, (f.toBits 0x10#8).setWidth 128)
  | .copy f => (12, (f.toBits 0x11#8).setWidth 128)
  | .get f => (12, (f.toBits 0x12#8).setWidth 128)
  | .push f => (12, (f.toBits 0x13#8).setWidth 128)
  | .chapp f => (12, (f.toBits 0x14#8).setWidth 128)
  | .launch f => (16, f.toBits 0x01#8)
  | .coll f => (16, f.toBits 0x02#8)
  | .puts f => (16, f.toBits 0x03#8)
  | .tdef f => (16, f.toBits 0x04#8)
  | .tdup f => (16, f.toBits 0x05#8)
  | .tlbw f => (16, f.toBits 0x06#8)
  | .evdef f => (16, f.toBits 0x07#8)
  | .evdep f => (16, f.toBits 0x08#8)
  | .evsamp f => (16, f.toBits 0x09#8)
  | .launchQueueKick _ _ => (0, 0)
  | .launchRecordCheck _ => (0, 0)
  | .dependencePoll _ => (0, 0)
  | .gangPlacement _ _ => (0, 0)
  | .recordBlocking _ => (0, 0)
  | .reexecution _ _ => (0, 0)
  | .actorSelection _ => (0, 0)
  | .reelClaim _ _ => (0, 0)
  | .alignhTimeout _ => (0, 0)
  | .deferredArrival _ _ => (0, 0)
  | .commandStart _ _ => (0, 0)
  | .commandCompletion _ _ _ => (0, 0)
  | .putsSignal _ _ _ => (0, 0)
  | .switchCombine _ _ _ _ => (0, 0)
  | .gvtReduction _ _ => (0, 0)
  | .linkCrcGroup _ _ _ => (0, 0)
  | .linkRetrain _ _ _ => (0, 0)
  | .switchAttestation _ _ _ _ => (0, 0)
  | .rectangleReset _ _ => (0, 0)
  | .bar2Access _ _ _ _ => (0, 0)
  | .feataccWrite _ _ _ => (0, 0)
  | .pfaultClear _ _ => (0, 0)
  | .crectWrite _ _ _ => (0, 0)
  | .layoutEntryWrite _ _ _ => (0, 0)
  | .registerWrite _ _ _ => (0, 0)
  | .recoveryImage _ => (0, 0)
  | .spdmRequest _ _ => (0, 0)
  | .monitorRefresh _ _ => (0, 0)
  | .droopTrip _ _ => (0, 0)
  | .wfeTimeout _ => (0, 0)
  | .illegalFormat w => (4, w.setWidth 128)
  | .unassignedOpcode w => (lengthOf (field w 0 32), w)
  | .fetchTranslationFault _ _ => (0, 0)
  | .firmwareStartComplete _ => (0, 0)
  | .deviceIdentifierAssign _ => (0, 0)
  | .rendezvousCommit => (0, 0)
  | .rendezvousRead => (0, 0)
  | .startTick => (0, 0)
  | .rendezvousRecheck => (0, 0)
  | .gangCompletion => (0, 0)
  | .preempt => (0, 0)
  | .preemptResume => (0, 0)
  | .watchdogExpiry => (0, 0)
  | .gondolaArrival => (0, 0)
  | .ringReturn => (0, 0)
  | .mcGondolaArrival => (0, 0)
  | .mcRequestCompletion => (0, 0)
  | .pushDelivery => (0, 0)
  | .mmaKstep => (0, 0)
  | .eventItem => (0, 0)
  | .remoteTokenAccept => (0, 0)
  | .gvtReceive => (0, 0)
  | .trapDelivery => (0, 0)
  | .requestResponse => (0, 0)
  | .ownerAccess => (0, 0)
  | .packetForward => (0, 0)
  | .packetDelivery => (0, 0)
  | .endToEndTimeout => (0, 0)
  | .routingDrain => (0, 0)
  | .routingSwap => (0, 0)
  | .switchRevocation => (0, 0)
  | .pairBoundary => (0, 0)
  | .pairWaitTimeout => (0, 0)
  | .functionReset => (0, 0)
  | .moduleReset => (0, 0)
  | .bootRomVerify => (0, 0)
  | .powerEstimate => (0, 0)
  | .stretchEnd => (0, 0)
  | .ballastEnd => (0, 0)
  | .pad => (4, padWord.setWidth 128)
  | .linkDown => (0, 0)

/-- The length of an instruction in bytes, 0 for a device step (R52). -/
def Instr.length (i : Instr) : Nat := (encodeBits i).1

/-- Whether bits are those of an unassigned opcode and no others: the length they give, an opcode that its map does not
assign, zeros above them (R52, R63). -/
def isUnassigned (w : BitVec 128) : Bool :=
  let opc := (field w 2 8).toNat
  keepBytes w (lengthOf (field w 0 32)) == w &&
    match (field w 0 2).toNat with
    | 1 => (opcode64 opc w).isNone
    | 2 => (opcode96 opc w).isNone
    | 3 => (opcode128 opc w).isNone
    | _ => false

/-- Whether an instruction has words of its own: every encoded instruction, the PAD word, a word with L = 0 other than PAD,
and the bits of an unassigned opcode (R52, R53, R63). -/
def hasWords (i : Instr) : Bool :=
  match i with
  | .illegalFormat w => w.extractLsb' 0 2 == 0 && w != padWord
  | .unassignedOpcode w => isUnassigned w
  | i => i.length != 0

/-- The bytes of an instruction, first byte first (R2, R52). -/
def encode (i : Instr) : List Byte := toBytes i.length (encodeBits i).2.toNat

end Sys2Proof
end

