-- ==== Sys2Proof/Machine/Checks.lean ====
section
/-! DEFINITION. The decode checks that depend on the instruction alone (R71 step 3): operand specifiers in their places
(R35, R42, R57), types (R65), fields an entry does not use (R57, R332), wait bytes (R39), and which sequencer executes
what (R66). -/

namespace Sys2Proof

/-- FN[5], the vector class (R57). -/
def F64A.isVec (f : F64A) : Bool := f.fn.getLsbD 5

/-- FN[4:0]. -/
def F64A.fn5 (f : F64A) : Nat := (f.fn.extractLsb' 0 5).toNat

/-- A wait byte: zero for an operand that is no queue; else a count of 0 or at least o + 1 (R39). -/
def waitOk (s : BitVec 6) (w : BitVec 8) : Bool :=
  if 32 ≤ s.toNat && s.toNat < 48 then w.toNat % 32 = 0 || w.toNat / 32 + 1 ≤ w.toNat % 32 else w = 0

/-- The wait bytes of a queue-wait form (R39). -/
def F96Q.waitsOk (f : F96Q) : Bool :=
  waitOk f.base.a f.wa && waitOk f.base.b f.wb && waitOk f.base.c f.wc && waitOk f.base.d f.wd

namespace Machine

/-! ## Operand specifiers -/

/-- What an entry makes of an operand field: unused, a source, a destination, a D that is only read, an x register, an x
register or the immediate, a queue handle, a stream register, or a number below a bound. -/
inductive Role where
  | none
  | src
  | dst
  | rd
  | x
  | xImm
  | q
  | sd
  | below (n : Nat)
  deriving DecidableEq, Repr

/-- Whether a specifier may stand in a field: `vec` for a field of vector class, `imm` where the format and the entry leave
IMM16 to the operands (R35). -/
def roleOk (r : Role) (vec imm : Bool) (s : BitVec 6) : Bool :=
  let n := s.toNat
  match r with
  | .none => n = 0
  | .src => n < 56 || (n < 60 && !vec) || (n = 60 && imm)
  | .dst => n < 48
  | .rd => n < 56 || (n < 60 && !vec)
  | .x => n < 32
  | .xImm => n < 32 || (n = 60 && imm)
  | .q => 32 ≤ n && n < 48
  | .sd => 48 ≤ n && n < 56
  | .below k => n < k

/-- How many of the fields hold the immediate specifier (R35). -/
def immCount (ss : List (BitVec 6)) : Nat := (ss.filter (fun s => s.toNat == 60)).length

/-- Vector class of the fields of an F64-A instruction: none, all of them when FN[5] = 1, or fixed by the entry (R57). -/
inductive Vec where
  | never
  | may
  | must (d a b : Bool)
  deriving DecidableEq, Repr

/-- What an entry fixes of an F64-A instruction: the roles of its fields, its classes, whether IMM16 has a meaning of its own,
and the values it may take there. -/
structure ARule where
  d : Role := .none
  a : Role := .none
  b : Role := .none
  c : Role := .none
  vec : Vec := .never
  own : Bool := false
  imm : Nat → Bool := fun _ => true
  ty : Nat → Bool := fun t => t = 0
  fn : Nat → Bool := fun n => n = 0

/-- Whether an F64-A instruction keeps its entry's rule. -/
def ARule.ok (r : ARule) (f : F64A) : Bool :=
  let v := f.isVec
  let (vd, va, vb) := match r.vec with
    | .never => (false, false, false)
    | .may => (v, v, v)
    | .must d a b => (d, a, b)
  let classOk := match r.vec with
    | .never => !v
    | .may => true
    | .must _ _ _ => v
  let used := immCount [f.a, f.b, f.c]
  let natural := match r.vec with
    | .must _ _ _ => true
    | _ => false
  classOk && roleOk r.d vd false f.d &&
    roleOk r.a va (!r.own && !(natural && va)) f.a && roleOk r.b vb (!r.own && !(natural && vb)) f.b &&
    roleOk r.c vd (!r.own) f.c &&
    used ≤ 1 && (if r.own then r.imm f.imm16.toNat else (used = 1 || f.imm16 = 0)) &&
    r.ty f.ty.toNat && r.fn f.fn5

def intTy (t : Nat) : Bool := t < 8
def floatTy (t : Nat) : Bool := 8 ≤ t && t < 12
def anyTy (t : Nat) : Bool := t < 12
/-- The 32-bit and 64-bit types of R431's table. -/
def wideTy (t : Nat) : Bool := [2, 3, 6, 7, 10, 11].contains t

/-- The integer entries with two sources (R333). -/
def int2 : ARule := { d := .dst, a := .src, b := .src, vec := .may, ty := intTy }
/-- The integer entries with one source. -/
def int1 : ARule := { int2 with b := .none }
/-- The floating-point entries with two sources (R362). -/
def flt2 : ARule := { d := .dst, a := .src, b := .src, vec := .may, ty := floatTy }
def flt1 : ARule := { flt2 with b := .none }

/-- ADD and SUB: FN[4:0] = 1 saturates, in the vector class and for the four narrow types only (R83). -/
def satOk (f : F64A) : Bool :=
  int2.ok { f with fn := f.fn &&& 0x20 } &&
    (f.fn5 = 0 || (f.fn5 = 1 && f.isVec && [0, 1, 4, 5].contains f.ty.toNat))

/-- Elements of a v register of a type code, nf counting as 8 bits (R76, R368). -/
def elementCount (t : Nat) : Nat :=
  match t with
  | 0 => 128
  | 1 => 64
  | 2 => 32
  | 3 => 16
  | 4 => 128
  | 5 => 64
  | 6 => 32
  | 7 => 16
  | 8 => 64
  | 9 => 64
  | 10 => 32
  | 11 => 16
  | _ => 128

/-- FCVT (R367, R368): codes 0 to 12, `.trunc` only from floating point to an integer, and in the vector class the part h
within its range. -/
def fcvtOk (f : F64A) : Bool :=
  let src := f.fn5 % 16
  let dst := f.ty.toNat
  let trunc := f.fn5 / 16 = 1
  let es := elementCount src
  let ed := elementCount dst
  let parts := if ed < es then es / ed else ed / es
  dst < 13 && src < 13 && (!trunc || (8 ≤ src && dst < 8)) && f.c = 0 && roleOk .dst f.isVec false f.d &&
    roleOk .src f.isVec true f.a &&
    (if f.isVec then
      (if f.b = 60 then f.a ≠ 60 && f.imm16.toNat < parts else f.b = 0 && f.imm16 = 0)
     else f.b = 0 && (f.a = 60 || f.imm16 = 0))

/-- PMOV (R401). -/
def pmovOk (f : F64A) : Bool :=
  f.ty = 0 && f.b = 0 && f.c = 0 && f.fn.toNat < 4 && (f.a = 60 || f.imm16 = 0) &&
    (match f.fn.toNat with
     | 0 => roleOk (.below 8) false false f.d && roleOk .src false true f.a
     | 1 => roleOk .dst false false f.d && roleOk (.below 8) false false f.a
     | 2 => roleOk .dst false false f.d && f.a = 0
     | _ => f.d = 0 && roleOk .src false true f.a)

/-- An index that is an immediate lies below E (R329, R433). -/
def indexOk (f : F64A) : Bool := f.b ≠ 60 || f.imm16.toNat < elementCount f.ty.toNat

/-! ## Memory fields (R41) -/

def scopeOk (f : F64M) : Bool := f.sc.toNat ≤ 8 && (f.sc = 0 || f.ord ≠ 0 || f.fe = 2)

def loadOk (f : F64M) : Bool :=
  f.ty.toNat < 12 && f.ord.toNat ≤ 1 && f.fe.toNat ≤ 2 && f.fn3 = 0 && scopeOk f && roleOk .x false false f.base &&
    roleOk .dst false false f.d

def storeOk (f : F64M) : Bool :=
  f.ty.toNat < 12 && (f.ord = 0 || f.ord = 2) && f.fe.toNat ≤ 2 && f.fn3 = 0 && scopeOk f &&
    roleOk .x false false f.base && roleOk .rd false false f.d

def atomOk (f : F64M) : Bool :=
  wideTy f.ty.toNat && f.fe = 0 && f.ord.toNat ≤ 3 && scopeOk f && roleOk .x false false f.base && f.d.toNat < 32 &&
    !(floatTy f.ty.toNat && [3, 4, 5].contains f.fn3.toNat) && !(f.fn3 = 7 && f.d = 31)

def festOk (f : F64M) : Bool :=
  f.ty = 3 && f.fe = 0 && (f.ord = 0 || f.ord = 2) && f.fn3.toNat ≤ 1 && f.d = 0 && scopeOk f && roleOk .x false false f.base

def feqOk (f : F64M) : Bool :=
  f.ty = 3 && f.fe = 0 && f.ord.toNat ≤ 1 && f.fn3 = 0 && f.d.toNat < 32 && scopeOk f && roleOk .x false false f.base

/-- ACQ, REL, WAITSEQ: SC is always read, ORD and FE are zero (R205). -/
def orderOk (fns : Nat) (d : Role) (f : F64M) : Bool :=
  f.ty = 3 && f.ord = 0 && f.fe = 0 && f.sc.toNat ≤ 8 && f.fn3.toNat < fns && roleOk d false false f.d &&
    roleOk .x false false f.base

def fenceOk (f : F64M) : Bool :=
  f.ty = 0 && f.ord = 0 && f.fe = 0 && f.sc.toNat ≤ 8 && f.fn3.toNat ≤ 2 && f.d = 0 && f.base = 0 && f.off22 = 0

def tlbinvOk (f : F64M) : Bool :=
  f.ty = 3 && f.ord = 0 && f.fe = 0 && [2, 4, 5].contains f.sc.toNat && f.fn3.toNat ≤ 2 && f.d.toNat < 32 &&
    f.base.toNat < 32 && (f.fn3 = 0 || (f.base = 0 && f.off22 = 0))

def probeOk (f : F64M) : Bool :=
  f.ty = 3 && f.ord = 0 && f.fe = 0 && f.sc = 0 && f.fn3.toNat ≤ 1 && f.d.toNat < 32 && f.base.toNat < 32

/-! ## The other formats -/

/-- B (R341). -/
def branchOk (f : F64B) : Bool :=
  match f.cc.toNat with
  | 6 => f.a = 0 && f.b = 0
  | 7 => f.a.toNat < 8 && f.b = 0
  | 8 => f.a.toNat < 8 && f.b = 0
  | n => n ≤ 5 && f.a.toNat < 32 && f.b.toNat < 32

def callOk (f : F64B) : Bool := f.cc = 6 && f.a = 0 && f.b = 0
def brqOk (f : F64B) : Bool := (f.cc = 7 || f.cc = 8) && f.a = 0 && f.b = 0

/-- F64-I (R58). -/
def intImmOk (f : F64I) : Bool := intTy f.ty.toNat && roleOk .dst false false f.d && roleOk .src false false f.a
def cmpImmOk (f : F64I) : Bool := intTy f.ty.toNat && f.d.toNat / 8 ≤ 5 && roleOk .src false false f.a
def movImmOk (f : F64I) : Bool := intTy f.ty.toNat && roleOk .dst false false f.d && f.a = 0
def jumpOk (f : F64I) : Bool := f.ty = 0 && f.d = 0 && f.a.toNat < 32

/-- LI (R387). -/
def liOk (f : F96I) : Bool := (f.ty = 3 || f.ty = 11) && f.zero1 = 0 && f.zero2 = 0 && f.d.toNat < 48

def nop64Ok (f : F64A) : Bool :=
  f.d = 0 && f.a = 0 && f.b = 0 && f.c = 0 && f.ty = 0 && f.fn = 0 && f.imm16 = 0
def nop96Ok (f : F96Q) : Bool := nop64Ok f.base && f.wa = 0 && f.wb = 0 && f.wc = 0 && f.wd = 0
def nop128Ok (f : F128C) : Bool :=
  f.d = 0 && f.a = 0 && f.b = 0 && f.c = 0 && f.sub8 = 0 && f.flags18 = 0 && f.imm64 = 0

def noTids (f : F96E) : Bool := f.tida = 0 && f.tidb = 0 && f.tidc = 0 && f.zero = 0
def xRegs (ss : List (BitVec 6)) : Bool := ss.all (fun s => s.toNat < 32)

/-- MMA (R216, R391). -/
def mmaOk (f : F96E) : Bool :=
  f.d = 0 && f.c = 0 && f.tidc = 0 && f.zero = 0 && (f.aux32.extractLsb' 17 15) = 0 &&
    (if f.aux32.getLsbD 16 then f.a = 0 && f.b = 0
     else xRegs [f.a, f.b] && (f.aux32.extractLsb' 6 10) = 0)

/-- COPY (R353). -/
def copyOk (f : F96E) : Bool :=
  let mode := (f.aux32.extractLsb' 30 2).toNat
  let es := (f.aux32.extractLsb' 28 2).toNat
  let dkind := (f.aux32.extractLsb' 26 2).toNat
  let slot := (f.aux32.extractLsb' 20 5).toNat
  let count := (f.aux32.extractLsb' 0 20).toNat
  noTids f && xRegs [f.d, f.a, f.b, f.c] && mode ≠ 3 && dkind ≠ 3 && (mode ≠ 0 || (es = 0 && count = 0)) &&
    (mode ≠ 1 || (es ≤ 1 && count ≠ 0 && count % 4 = 0)) && (mode ≠ 2 || count ≠ 0) && (dkind ≠ 0 || slot = 0) &&
    (dkind = 2 || !f.aux32.getLsbD 25) && (dkind ≠ 2 || slot < 8)

def getOk (f : F96E) : Bool := noTids f && xRegs [f.d, f.a, f.b, f.c] && f.aux32 = 0

/-- PUSH (R404), but for the bounds on its register values. -/
def pushOk (f : F96E) : Bool :=
  let kind := (f.aux32.extractLsb' 30 2).toNat
  noTids f && xRegs [f.d, f.a, f.b, f.c] && (f.aux32.extractLsb' 0 13) = 0 &&
    (kind ≠ 0 || (f.aux32.extractLsb' 25 5) = 0) && (kind ≠ 2 || !f.aux32.getLsbD 28)

def chappOk (f : F96E) : Bool :=
  noTids f && xRegs [f.d, f.a] && f.b = 0 && f.c = 0 && (f.aux32.extractLsb' 1 31) = 0

def launchOk (f : F128C) : Bool :=
  f.d.toNat < 48 && f.a.toNat < 32 && f.b = 0 && f.c = 0 && f.sub8 = 0 && f.flags18 = 0 && f.imm64 = 0

/-- COLL (R263). -/
def collOk (f : F128C) : Bool :=
  let kind := f.sub8.toNat % 4
  let fn := f.sub8.toNat / 4 % 4
  xRegs [f.d, f.a, f.b, f.c] && [2, 3, 6, 7, 9, 10, 11].contains (f.sub8.toNat / 16) && fn ≠ 3 && (kind < 2 || fn = 0) &&
    (f.flags18.extractLsb' 13 5) = 0 && (f.imm64.extractLsb' 20 44) = 0 && (f.imm64.extractLsb' 0 3) = 0

/-- PUTS (R405). -/
def putsOk (f : F128C) : Bool :=
  xRegs [f.d, f.a, f.b, f.c] && f.flags18 = 0 &&
    (if f.sub8 = 0 then f.imm64 = 0 else (f.imm64.extractLsb' 0 3) = 0)

def tdefOk (f : F128C) : Bool := f.d = 0 && f.b = 0 && f.c = 0 && f.flags18 = 0 && f.imm64 = 0 && f.a.toNat < 32
def tdupOk (f : F128C) : Bool :=
  f.d = 0 && f.a = 0 && f.b = 0 && f.c = 0 && (f.flags18.extractLsb' 8 10) = 0 && f.imm64 = 0

/-- TLBW (R189, R425). -/
def tlbwOk (f : F128C) : Bool :=
  xRegs [f.d, f.a, f.b, f.c] && f.sub8.toNat < 4 && (f.sub8 = 3 || f.c = 0) && (f.flags18.extractLsb' 4 14) = 0 &&
    (f.imm64.extractLsb' 16 48) = 0

def evdefOk (f : F128C) : Bool :=
  xRegs [f.d, f.a, f.b] && f.c = 0 && f.sub8 = 0 && f.flags18 = 0 && f.imm64 = 0
def evdepOk (f : F128C) : Bool := f.d = 0 && xRegs [f.a, f.b, f.c] && f.sub8 = 0 && f.flags18 = 0

/-! ## The rules by constructor -/

/-- The F64-A entries, which a queue-wait form shares with its 64-bit form (R64). -/
inductive AOp where
  | mul
  | mulh
  | div
  | rem
  | and
  | or
  | xor
  | shl
  | shr
  | sra
  | rot
  | min
  | max
  | clz
  | popc
  | mov
  | add
  | sub
  | bfx
  | bfi
  | cmp
  | sel
  | lea
  | gaddr
  | fadd
  | fsub
  | fmul
  | fdiv
  | fmin
  | fmax
  | fsqrt
  | fexp2
  | flog2
  | fma
  | fcmp
  | fsgn
  | fcvt
  | frnd
  | vbcast
  | vred
  | vshuf
  | vcomp
  | viota
  | vgath
  | vscat
  | vld
  | vst
  | vext
  | vins
  | plog
  | pmov
  deriving DecidableEq, Repr

/-- The rule of an entry that has a queue-wait form. -/
def entryOk (op : AOp) (f : F64A) : Bool :=
  match op with
  | .mul => int2.ok f
  | .mulh => int2.ok f
  | .div => int2.ok f
  | .rem => int2.ok f
  | .and => int2.ok f
  | .or => int2.ok f
  | .xor => int2.ok f
  | .shl => int2.ok f
  | .shr => int2.ok f
  | .sra => int2.ok f
  | .rot => int2.ok f
  | .min => int2.ok f
  | .max => int2.ok f
  | .clz => int1.ok f
  | .popc => int1.ok f
  | .mov => int1.ok f
  | .add => satOk f
  | .sub => satOk f
  | .bfx => ARule.ok { d := .dst, a := .src, b := .src, ty := fun t => t = 3 || t = 7 } f
  | .bfi => ARule.ok { d := .dst, a := .src, b := .src, c := .src, ty := fun t => t = 3 || t = 7 } f
  | .cmp => ARule.ok { d := .below 8, a := .src, b := .src, ty := intTy, fn := fun n => n ≤ 5 } f
  | .sel => ARule.ok { int2 with fn := fun n => n < 8 } f
  | .lea => ARule.ok { d := .dst, a := .src, b := .src, c := .src, fn := fun n => n < 8 } f
  | .gaddr => ARule.ok { d := .dst, a := .src, b := .src, c := .src } f
  | .fadd => flt2.ok f
  | .fsub => flt2.ok f
  | .fmul => flt2.ok f
  | .fdiv => flt2.ok f
  | .fmin => flt2.ok f
  | .fmax => flt2.ok f
  | .fsqrt => flt1.ok f
  | .fexp2 => flt1.ok f
  | .flog2 => flt1.ok f
  | .fma => ARule.ok { flt2 with c := .src } f
  | .fcmp => ARule.ok { d := .below 8, a := .src, b := .src, ty := floatTy, fn := fun n => n < 8 } f
  | .fsgn => (if f.fn5 < 2 then ARule.ok { flt1 with fn := fun n => n < 2 } f else ARule.ok { flt2 with fn := fun n => n < 4 } f)
  | .fcvt => fcvtOk f
  | .frnd => ARule.ok { flt1 with fn := fun n => n ≤ 4 } f
  | .vbcast => (f.b = 60 && indexOk f && ARule.ok { d := .dst, a := .src, b := .src, vec := .must true true false, ty := anyTy } f)
  | .vred => ARule.ok { d := .dst, a := .src, vec := .must true true false, ty := wideTy, fn := fun n => n < 7 } f && (f.fn5 < 3 || f.ty.toNat < 8)
  | .vshuf => ARule.ok { d := .dst, a := .src, b := .src, vec := .must true true true, ty := anyTy } f
  | .vcomp => ARule.ok { d := .dst, a := .src, b := .src, vec := .must true true true, ty := wideTy } f
  | .viota => ARule.ok { d := .dst, a := .src, b := .src, vec := .must true false false, ty := intTy } f
  | .vgath => ARule.ok { d := .dst, a := .src, b := .src, vec := .must true false true, ty := wideTy } f
  | .vscat => ARule.ok { d := .rd, a := .src, b := .src, vec := .must true false true, ty := wideTy } f
  | .vld => ARule.ok { d := .dst, a := .src, b := .src, vec := .must true false false, ty := anyTy } f
  | .vst => ARule.ok { d := .rd, a := .src, b := .src, vec := .must true false false, ty := anyTy } f
  | .vext => (indexOk f && ARule.ok { d := .dst, a := .src, b := .src, vec := .must false true false, ty := anyTy } f)
  | .vins => (indexOk f && ARule.ok { d := .dst, a := .src, b := .src, vec := .must true false false, ty := anyTy } f)
  | .plog => (ARule.ok { d := .below 8, a := .below 8, b := .below 8, fn := fun n => n < 4 } f && (f.fn5 ≠ 3 || f.b = 0))
  | .pmov => pmovOk f

/-- The decode checks of an instruction's fields; a device step has none. -/
def fieldsOk : Instr → Bool
  | .nop f => nop64Ok f
  | .nop96 f => nop96Ok f
  | .nop128 f => nop128Ok f
  | .add f => entryOk .add f
  | .addImm f => intImmOk f
  | .addQw f => entryOk .add f.base
  | .sub f => entryOk .sub f
  | .subQw f => entryOk .sub f.base
  | .mul f => entryOk .mul f
  | .mulQw f => entryOk .mul f.base
  | .mulh f => entryOk .mulh f
  | .mulhQw f => entryOk .mulh f.base
  | .div f => entryOk .div f
  | .divQw f => entryOk .div f.base
  | .rem f => entryOk .rem f
  | .remQw f => entryOk .rem f.base
  | .and f => entryOk .and f
  | .andImm f => intImmOk f
  | .andQw f => entryOk .and f.base
  | .or f => entryOk .or f
  | .orImm f => intImmOk f
  | .orQw f => entryOk .or f.base
  | .xor f => entryOk .xor f
  | .xorImm f => intImmOk f
  | .xorQw f => entryOk .xor f.base
  | .shl f => entryOk .shl f
  | .shlImm f => intImmOk f
  | .shlQw f => entryOk .shl f.base
  | .shr f => entryOk .shr f
  | .shrImm f => intImmOk f
  | .shrQw f => entryOk .shr f.base
  | .sra f => entryOk .sra f
  | .sraImm f => intImmOk f
  | .sraQw f => entryOk .sra f.base
  | .rot f => entryOk .rot f
  | .rotQw f => entryOk .rot f.base
  | .min f => entryOk .min f
  | .minQw f => entryOk .min f.base
  | .max f => entryOk .max f
  | .maxQw f => entryOk .max f.base
  | .clz f => entryOk .clz f
  | .clzQw f => entryOk .clz f.base
  | .popc f => entryOk .popc f
  | .popcQw f => entryOk .popc f.base
  | .bfx f => entryOk .bfx f
  | .bfxQw f => entryOk .bfx f.base
  | .bfi f => entryOk .bfi f
  | .bfiQw f => entryOk .bfi f.base
  | .cmp f => entryOk .cmp f
  | .cmpImm f => cmpImmOk f
  | .cmpQw f => entryOk .cmp f.base
  | .sel f => entryOk .sel f
  | .selQw f => entryOk .sel f.base
  | .mov f => entryOk .mov f
  | .movImm f => movImmOk f
  | .movQw f => entryOk .mov f.base
  | .lea f => entryOk .lea f
  | .leaQw f => entryOk .lea f.base
  | .gaddr f => entryOk .gaddr f
  | .gaddrQw f => entryOk .gaddr f.base
  | .fadd f => entryOk .fadd f
  | .faddQw f => entryOk .fadd f.base
  | .fsub f => entryOk .fsub f
  | .fsubQw f => entryOk .fsub f.base
  | .fmul f => entryOk .fmul f
  | .fmulQw f => entryOk .fmul f.base
  | .fma f => entryOk .fma f
  | .fmaQw f => entryOk .fma f.base
  | .fdiv f => entryOk .fdiv f
  | .fdivQw f => entryOk .fdiv f.base
  | .fsqrt f => entryOk .fsqrt f
  | .fsqrtQw f => entryOk .fsqrt f.base
  | .fmin f => entryOk .fmin f
  | .fminQw f => entryOk .fmin f.base
  | .fmax f => entryOk .fmax f
  | .fmaxQw f => entryOk .fmax f.base
  | .fcmp f => entryOk .fcmp f
  | .fcmpQw f => entryOk .fcmp f.base
  | .fsgn f => entryOk .fsgn f
  | .fsgnQw f => entryOk .fsgn f.base
  | .fcvt f => entryOk .fcvt f
  | .fcvtQw f => entryOk .fcvt f.base
  | .frnd f => entryOk .frnd f
  | .frndQw f => entryOk .frnd f.base
  | .fexp2 f => entryOk .fexp2 f
  | .fexp2Qw f => entryOk .fexp2 f.base
  | .flog2 f => entryOk .flog2 f
  | .flog2Qw f => entryOk .flog2 f.base
  | .vbcast f => entryOk .vbcast f
  | .vbcastQw f => entryOk .vbcast f.base
  | .vred f => entryOk .vred f
  | .vredQw f => entryOk .vred f.base
  | .vshuf f => entryOk .vshuf f
  | .vshufQw f => entryOk .vshuf f.base
  | .vcomp f => entryOk .vcomp f
  | .vcompQw f => entryOk .vcomp f.base
  | .viota f => entryOk .viota f
  | .viotaQw f => entryOk .viota f.base
  | .vgath f => entryOk .vgath f
  | .vgathQw f => entryOk .vgath f.base
  | .vscat f => entryOk .vscat f
  | .vscatQw f => entryOk .vscat f.base
  | .vld f => entryOk .vld f
  | .vldQw f => entryOk .vld f.base
  | .vst f => entryOk .vst f
  | .vstQw f => entryOk .vst f.base
  | .vext f => entryOk .vext f
  | .vextQw f => entryOk .vext f.base
  | .vins f => entryOk .vins f
  | .vinsQw f => entryOk .vins f.base
  | .plog f => entryOk .plog f
  | .plogQw f => entryOk .plog f.base
  | .pmov f => entryOk .pmov f
  | .pmovQw f => entryOk .pmov f.base
  | .ld f => loadOk f
  | .st f => storeOk f
  | .fest f => festOk f
  | .feq f => feqOk f
  | .atom f => atomOk f
  | .acq f => orderOk 2 .x f
  | .rel f => orderOk 2 .rd f
  | .fence f => fenceOk f
  | .waitseq f => orderOk 1 .x f
  | .bind f => ARule.ok { d := .x, a := .x, b := .xImm, c := .x } f
  | .unbind f => ARule.ok { d := .x, a := .x } f
  | .barinit f => ARule.ok { a := .x, own := true, imm := fun n => n < 32 } f
  | .bararv f => ARule.ok { own := true, imm := fun n => n < 32 } f
  | .barwait f => ARule.ok { d := .dst, own := true, imm := fun n => n < 32 } f
  | .bardef f => ARule.ok { own := true, imm := fun n => n < 32 } f
  | .qbind f => ARule.ok { d := .q, a := .x, b := .xImm } f
  | .qadv f => ARule.ok { a := .q, b := .xImm } f
  | .qpub f => ARule.ok { a := .q, b := .xImm } f
  | .qavail f => (f.d ≠ f.a && ARule.ok { d := .dst, a := .q, fn := fun n => n < 2 } f)
  | .acton f => ARule.ok { own := true, imm := fun n => n < 32 } f
  | .actoff f => ARule.ok { own := true, imm := fun n => n < 32 } f
  | .fend f => ARule.ok {} f
  | .spawn f => ARule.ok { d := .x, a := .x, b := .x } f
  | .migr f => ARule.ok { a := .x, b := .x } f
  | .nestcfg f => ARule.ok { a := .x, own := true, imm := fun n => n < 4 } f
  | .nestgo f => ARule.ok { own := true, imm := fun n => n < 64 } f
  | .alignh f => ARule.ok { own := true, imm := fun n => n < 256 } f
  | .b f => branchOk f
  | .call f => callOk f
  | .brq f => brqOk f
  | .j f => jumpOk f
  | .jr f => ARule.ok { d := .x, a := .x } f
  | .ret f => ARule.ok {} f
  | .bopush f => ARule.ok { a := .below 8 } f
  | .omclaim f => ARule.ok { d := .x, own := true, imm := fun n => n ≤ 32 } f
  | .omrel f => ARule.ok { own := true, imm := fun n => n < 32 } f
  | .accz f => ARule.ok { own := true, imm := fun n => n < 8 } f
  | .accrd f => ARule.ok { a := .x, own := true, imm := fun n => n < 2048 && (n < 1024 || n / 4 % 256 = 0) } f
  | .accwr f => ARule.ok { a := .x, own := true, imm := fun n => n < 8 } f
  | .mprog f => ARule.ok { d := .dst, own := true, imm := fun n => n < 2 } f
  | .semwait f => ARule.ok { own := true, imm := fun n => n < 8 } f
  | .semsig f => ARule.ok { own := true, imm := fun n => n < 8 } f
  | .tfmt f => ARule.ok { d := .x, a := .x } f
  | .tqry f => ARule.ok { d := .dst, own := true, imm := fun n => n < 2048 } f
  | .chseq f => ARule.ok { d := .x, b := .x, own := true, imm := fun n => n < 2 } f
  | .chtail f => ARule.ok { own := true, imm := fun n => n < 2 } f
  | .strbind f => ARule.ok { a := .sd, b := .xImm, ty := anyTy } f
  | .mcpoll f => ARule.ok {} f
  | .tlook f => ARule.ok { d := .dst, a := .x } f
  | .tins f => ARule.ok { d := .dst, a := .x, b := .src } f
  | .tevict f => ARule.ok { d := .dst, a := .src } f
  | .tlbinv f => tlbinvOk f
  | .probe f => probeOk f
  | .evqld f => ARule.ok { d := .x, a := .x, b := .src, ty := fun t => t = 11, fn := fun n => n < 2 } f
  | .evslope f => ARule.ok { d := .x, a := .x, b := .src, c := .src, ty := fun t => t = 11 } f
  | .evrun f => ARule.ok { d := .x, a := .x, b := .src, c := .src, ty := fun t => t = 11 } f
  | .evgvt f => ARule.ok { d := .x, ty := fun t => t = 11 } f
  | .evstat f => ARule.ok { d := .x, own := true, imm := fun n => n ≤ 10 } f
  | .pair f => ARule.ok { d := .x, a := .x } f
  | .unpair f => ARule.ok { d := .x, a := .x } f
  | .fpck f => ARule.ok {} f
  | .errq f => ARule.ok { d := .dst, own := true, imm := fun n => n ≤ 13 } f
  | .trap f => ARule.ok { own := true, imm := fun n => n < 65536 } f
  | .eret f => ARule.ok { own := true, imm := fun n => n < 3 } f
  | .csrr f => ARule.ok { d := .dst, own := true, imm := fun n => n < 4096 } f
  | .csrw f => ARule.ok { a := .src, own := true, imm := fun n => n < 4096 } f
  | .wfe f => ARule.ok { d := .x, own := true, imm := fun n => n < 65536 } f
  | .tsc f => ARule.ok { d := .x } f
  | .cyc f => ARule.ok { d := .x } f
  | .halt f => ARule.ok {} f
  | .li f => liOk f
  | .mma f => mmaOk f
  | .copy f => copyOk f
  | .get f => getOk f
  | .push f => pushOk f
  | .chapp f => chappOk f
  | .launch f => launchOk f
  | .coll f => collOk f
  | .puts f => putsOk f
  | .tdef f => tdefOk f
  | .tdup f => tdupOk f
  | .tlbw f => tlbwOk f
  | .evdef f => evdefOk f
  | .evdep f => evdepOk f
  | .evsamp f => evdefOk f
  | .launchQueueKick _ _ => true
  | .launchRecordCheck _ => true
  | .dependencePoll _ => true
  | .gangPlacement _ _ => true
  | .recordBlocking _ => true
  | .reexecution _ _ => true
  | .actorSelection _ => true
  | .reelClaim _ _ => true
  | .alignhTimeout _ => true
  | .deferredArrival _ _ => true
  | .commandStart _ _ => true
  | .commandCompletion _ _ _ => true
  | .putsSignal _ _ _ => true
  | .switchCombine _ _ _ _ => true
  | .gvtReduction _ _ => true
  | .linkCrcGroup _ _ _ => true
  | .linkRetrain _ _ _ => true
  | .switchAttestation _ _ _ _ => true
  | .rectangleReset _ _ => true
  | .bar2Access _ _ _ _ => true
  | .feataccWrite _ _ _ => true
  | .pfaultClear _ _ => true
  | .crectWrite _ _ _ => true
  | .layoutEntryWrite _ _ _ => true
  | .registerWrite _ _ _ => true
  | .recoveryImage _ => true
  | .spdmRequest _ _ => true
  | .monitorRefresh _ _ => true
  | .droopTrip _ _ => true
  | .wfeTimeout _ => true
  | .illegalFormat _ => true
  | .unassignedOpcode _ => true
  | .fetchTranslationFault _ _ => true
  | .firmwareStartComplete _ => true
  | .deviceIdentifierAssign _ => true
  | .rendezvousCommit => true
  | .rendezvousRead => true
  | .startTick => true
  | .rendezvousRecheck => true
  | .gangCompletion => true
  | .preempt => true
  | .preemptResume => true
  | .watchdogExpiry => true
  | .gondolaArrival => true
  | .ringReturn => true
  | .mcGondolaArrival => true
  | .mcRequestCompletion => true
  | .pushDelivery => true
  | .mmaKstep => true
  | .eventItem => true
  | .remoteTokenAccept => true
  | .gvtReceive => true
  | .trapDelivery => true
  | .requestResponse => true
  | .ownerAccess => true
  | .packetForward => true
  | .packetDelivery => true
  | .endToEndTimeout => true
  | .routingDrain => true
  | .routingSwap => true
  | .switchRevocation => true
  | .pairBoundary => true
  | .pairWaitTimeout => true
  | .functionReset => true
  | .moduleReset => true
  | .bootRomVerify => true
  | .powerEstimate => true
  | .stretchEnd => true
  | .ballastEnd => true
  | .pad => true
  | .linkDown => true

/-- All four kinds. -/
def every : List Kind := [.a, .x, .m, .s]

/-- The sequencers that execute an instruction (R66); a device step belongs to none. -/
def sequencers : Instr → List Kind
  | .nop _ => every
  | .nop96 _ => every
  | .nop128 _ => every
  | .add _ => every
  | .addImm _ => every
  | .addQw _ => every
  | .sub _ => every
  | .subQw _ => every
  | .mul _ => every
  | .mulQw _ => every
  | .mulh _ => every
  | .mulhQw _ => every
  | .div _ => every
  | .divQw _ => every
  | .rem _ => every
  | .remQw _ => every
  | .and _ => every
  | .andImm _ => every
  | .andQw _ => every
  | .or _ => every
  | .orImm _ => every
  | .orQw _ => every
  | .xor _ => every
  | .xorImm _ => every
  | .xorQw _ => every
  | .shl _ => every
  | .shlImm _ => every
  | .shlQw _ => every
  | .shr _ => every
  | .shrImm _ => every
  | .shrQw _ => every
  | .sra _ => every
  | .sraImm _ => every
  | .sraQw _ => every
  | .rot _ => every
  | .rotQw _ => every
  | .min _ => every
  | .minQw _ => every
  | .max _ => every
  | .maxQw _ => every
  | .clz _ => every
  | .clzQw _ => every
  | .popc _ => every
  | .popcQw _ => every
  | .bfx _ => every
  | .bfxQw _ => every
  | .bfi _ => every
  | .bfiQw _ => every
  | .cmp _ => every
  | .cmpImm _ => every
  | .cmpQw _ => every
  | .sel _ => every
  | .selQw _ => every
  | .mov _ => every
  | .movImm _ => every
  | .movQw _ => every
  | .lea _ => every
  | .leaQw _ => every
  | .gaddr _ => every
  | .gaddrQw _ => every
  | .fadd _ => [.x, .m, .s]
  | .faddQw _ => [.x, .m, .s]
  | .fsub _ => [.x, .m, .s]
  | .fsubQw _ => [.x, .m, .s]
  | .fmul _ => [.x, .m, .s]
  | .fmulQw _ => [.x, .m, .s]
  | .fma _ => [.x, .m, .s]
  | .fmaQw _ => [.x, .m, .s]
  | .fdiv _ => [.x, .m, .s]
  | .fdivQw _ => [.x, .m, .s]
  | .fsqrt _ => [.x, .m, .s]
  | .fsqrtQw _ => [.x, .m, .s]
  | .fmin _ => [.x, .m, .s]
  | .fminQw _ => [.x, .m, .s]
  | .fmax _ => [.x, .m, .s]
  | .fmaxQw _ => [.x, .m, .s]
  | .fcmp _ => [.x, .m, .s]
  | .fcmpQw _ => [.x, .m, .s]
  | .fsgn _ => [.x, .m, .s]
  | .fsgnQw _ => [.x, .m, .s]
  | .fcvt _ => [.x, .m, .s]
  | .fcvtQw _ => [.x, .m, .s]
  | .frnd _ => [.x, .m, .s]
  | .frndQw _ => [.x, .m, .s]
  | .fexp2 _ => [.x, .m, .s]
  | .fexp2Qw _ => [.x, .m, .s]
  | .flog2 _ => [.x, .m, .s]
  | .flog2Qw _ => [.x, .m, .s]
  | .vbcast _ => [.x, .m]
  | .vbcastQw _ => [.x, .m]
  | .vred _ => [.x, .m]
  | .vredQw _ => [.x, .m]
  | .vshuf _ => [.x, .m]
  | .vshufQw _ => [.x, .m]
  | .vcomp _ => [.x, .m]
  | .vcompQw _ => [.x, .m]
  | .viota _ => [.x, .m]
  | .viotaQw _ => [.x, .m]
  | .vgath _ => [.x, .m]
  | .vgathQw _ => [.x, .m]
  | .vscat _ => [.x, .m]
  | .vscatQw _ => [.x, .m]
  | .vld _ => [.x, .m]
  | .vldQw _ => [.x, .m]
  | .vst _ => [.x, .m]
  | .vstQw _ => [.x, .m]
  | .vext _ => [.x, .m]
  | .vextQw _ => [.x, .m]
  | .vins _ => [.x, .m]
  | .vinsQw _ => [.x, .m]
  | .plog _ => every
  | .plogQw _ => every
  | .pmov _ => every
  | .pmovQw _ => every
  | .ld _ => [.a, .m, .s]
  | .st _ => [.a, .m, .s]
  | .fest _ => [.a, .m, .s]
  | .feq _ => [.a, .m, .s]
  | .atom _ => [.a, .m, .s]
  | .acq _ => every
  | .rel _ => every
  | .fence _ => every
  | .waitseq _ => every
  | .bind _ => [.a, .m, .s]
  | .unbind _ => [.a, .m, .s]
  | .barinit _ => [.a]
  | .bararv _ => [.a, .x]
  | .barwait _ => [.a, .x]
  | .bardef _ => [.a]
  | .qbind _ => [.a, .x, .m]
  | .qadv _ => [.a, .x, .m]
  | .qpub _ => [.a, .x, .m]
  | .qavail _ => [.a, .x, .m]
  | .acton _ => [.a, .x, .m]
  | .actoff _ => [.a, .x, .m]
  | .fend _ => [.a, .x, .m]
  | .spawn _ => [.a, .m]
  | .migr _ => [.a, .m]
  | .nestcfg _ => [.a, .x, .m]
  | .nestgo _ => [.a, .x, .m]
  | .alignh _ => [.a, .x]
  | .b _ => every
  | .call _ => every
  | .brq _ => [.a, .x]
  | .j _ => every
  | .jr _ => every
  | .ret _ => every
  | .bopush _ => [.a, .x]
  | .omclaim _ => [.a]
  | .omrel _ => [.a]
  | .accz _ => [.x]
  | .accrd _ => [.x]
  | .accwr _ => [.x]
  | .mprog _ => [.x]
  | .semwait _ => [.a, .x]
  | .semsig _ => [.a, .x]
  | .tfmt _ => [.x]
  | .tqry _ => [.a, .x]
  | .chseq _ => [.a, .x]
  | .chtail _ => [.a]
  | .strbind _ => [.a, .x]
  | .mcpoll _ => [.m]
  | .tlook _ => [.a]
  | .tins _ => [.a]
  | .tevict _ => [.a]
  | .tlbinv _ => [.s]
  | .probe _ => [.a, .m, .s]
  | .evqld _ => [.x]
  | .evslope _ => [.x]
  | .evrun _ => [.a, .x]
  | .evgvt _ => [.a, .x]
  | .evstat _ => [.a, .x]
  | .pair _ => [.s]
  | .unpair _ => [.s]
  | .fpck _ => [.a, .x]
  | .errq _ => every
  | .trap _ => every
  | .eret _ => [.s]
  | .csrr _ => every
  | .csrw _ => every
  | .wfe _ => every
  | .tsc _ => every
  | .cyc _ => every
  | .halt _ => [.s]
  | .li _ => every
  | .mma _ => [.x]
  | .copy _ => [.a]
  | .get _ => [.a]
  | .push _ => [.m]
  | .chapp _ => [.a]
  | .launch _ => [.a]
  | .coll _ => [.a]
  | .puts _ => [.a]
  | .tdef _ => [.a, .x]
  | .tdup _ => [.a, .x]
  | .tlbw _ => [.s]
  | .evdef _ => [.a, .x]
  | .evdep _ => [.a, .x]
  | .evsamp _ => [.a, .x]
  | .launchQueueKick _ _ => []
  | .launchRecordCheck _ => []
  | .dependencePoll _ => []
  | .gangPlacement _ _ => []
  | .recordBlocking _ => []
  | .reexecution _ _ => []
  | .actorSelection _ => []
  | .reelClaim _ _ => []
  | .alignhTimeout _ => []
  | .deferredArrival _ _ => []
  | .commandStart _ _ => []
  | .commandCompletion _ _ _ => []
  | .putsSignal _ _ _ => []
  | .switchCombine _ _ _ _ => []
  | .gvtReduction _ _ => []
  | .linkCrcGroup _ _ _ => []
  | .linkRetrain _ _ _ => []
  | .switchAttestation _ _ _ _ => []
  | .rectangleReset _ _ => []
  | .bar2Access _ _ _ _ => []
  | .feataccWrite _ _ _ => []
  | .pfaultClear _ _ => []
  | .crectWrite _ _ _ => []
  | .layoutEntryWrite _ _ _ => []
  | .registerWrite _ _ _ => []
  | .recoveryImage _ => []
  | .spdmRequest _ _ => []
  | .monitorRefresh _ _ => []
  | .droopTrip _ _ => []
  | .wfeTimeout _ => []
  | .illegalFormat _ => []
  | .unassignedOpcode _ => []
  | .fetchTranslationFault _ _ => []
  | .firmwareStartComplete _ => []
  | .deviceIdentifierAssign _ => []
  | .rendezvousCommit => []
  | .rendezvousRead => []
  | .startTick => []
  | .rendezvousRecheck => []
  | .gangCompletion => []
  | .preempt => []
  | .preemptResume => []
  | .watchdogExpiry => []
  | .gondolaArrival => []
  | .ringReturn => []
  | .mcGondolaArrival => []
  | .mcRequestCompletion => []
  | .pushDelivery => []
  | .mmaKstep => []
  | .eventItem => []
  | .remoteTokenAccept => []
  | .gvtReceive => []
  | .trapDelivery => []
  | .requestResponse => []
  | .ownerAccess => []
  | .packetForward => []
  | .packetDelivery => []
  | .endToEndTimeout => []
  | .routingDrain => []
  | .routingSwap => []
  | .switchRevocation => []
  | .pairBoundary => []
  | .pairWaitTimeout => []
  | .functionReset => []
  | .moduleReset => []
  | .bootRomVerify => []
  | .powerEstimate => []
  | .stretchEnd => []
  | .ballastEnd => []
  | .pad => []
  | .linkDown => []

/-- The F64-A word of an instruction that has one, with its vector class and nf rules: FN[5] is 0 on an A-seq and a service
core, and type code 12 is for FCVT on the X-seq (R57, R65, R367). -/
def classOk (k : Kind) (f : F64A) : Bool := !f.isVec || k = .x || k = .m

/-- Whether an FCVT names the narrow format. -/
def usesNf (f : F64A) : Bool := f.ty = 12 || f.fn5 % 16 = 12

/-- Whether the issuing sequencer may execute an instruction (R57, R65, R66). -/
def legalOn (k : Kind) (i : Instr) : Bool :=
  (sequencers i).contains k &&
    (match i with
     | .add f => classOk k f
     | .addQw f => classOk k f.base
     | .sub f => classOk k f
     | .subQw f => classOk k f.base
     | .mul f => classOk k f
     | .mulQw f => classOk k f.base
     | .mulh f => classOk k f
     | .mulhQw f => classOk k f.base
     | .div f => classOk k f
     | .divQw f => classOk k f.base
     | .rem f => classOk k f
     | .remQw f => classOk k f.base
     | .and f => classOk k f
     | .andQw f => classOk k f.base
     | .or f => classOk k f
     | .orQw f => classOk k f.base
     | .xor f => classOk k f
     | .xorQw f => classOk k f.base
     | .shl f => classOk k f
     | .shlQw f => classOk k f.base
     | .shr f => classOk k f
     | .shrQw f => classOk k f.base
     | .sra f => classOk k f
     | .sraQw f => classOk k f.base
     | .rot f => classOk k f
     | .rotQw f => classOk k f.base
     | .min f => classOk k f
     | .minQw f => classOk k f.base
     | .max f => classOk k f
     | .maxQw f => classOk k f.base
     | .clz f => classOk k f
     | .clzQw f => classOk k f.base
     | .popc f => classOk k f
     | .popcQw f => classOk k f.base
     | .bfx f => classOk k f
     | .bfxQw f => classOk k f.base
     | .bfi f => classOk k f
     | .bfiQw f => classOk k f.base
     | .cmp f => classOk k f
     | .cmpQw f => classOk k f.base
     | .sel f => classOk k f
     | .selQw f => classOk k f.base
     | .mov f => classOk k f
     | .movQw f => classOk k f.base
     | .lea f => classOk k f
     | .leaQw f => classOk k f.base
     | .gaddr f => classOk k f
     | .gaddrQw f => classOk k f.base
     | .fadd f => classOk k f
     | .faddQw f => classOk k f.base
     | .fsub f => classOk k f
     | .fsubQw f => classOk k f.base
     | .fmul f => classOk k f
     | .fmulQw f => classOk k f.base
     | .fma f => classOk k f
     | .fmaQw f => classOk k f.base
     | .fdiv f => classOk k f
     | .fdivQw f => classOk k f.base
     | .fsqrt f => classOk k f
     | .fsqrtQw f => classOk k f.base
     | .fmin f => classOk k f
     | .fminQw f => classOk k f.base
     | .fmax f => classOk k f
     | .fmaxQw f => classOk k f.base
     | .fcmp f => classOk k f
     | .fcmpQw f => classOk k f.base
     | .fsgn f => classOk k f
     | .fsgnQw f => classOk k f.base
     | .fcvt f => classOk k f && (!usesNf f || k = .x)
     | .fcvtQw f => classOk k f.base && (!usesNf f.base || k = .x)
     | .frnd f => classOk k f
     | .frndQw f => classOk k f.base
     | .fexp2 f => classOk k f
     | .fexp2Qw f => classOk k f.base
     | .flog2 f => classOk k f
     | .flog2Qw f => classOk k f.base
     | .vbcast f => classOk k f
     | .vbcastQw f => classOk k f.base
     | .vred f => classOk k f
     | .vredQw f => classOk k f.base
     | .vshuf f => classOk k f
     | .vshufQw f => classOk k f.base
     | .vcomp f => classOk k f
     | .vcompQw f => classOk k f.base
     | .viota f => classOk k f
     | .viotaQw f => classOk k f.base
     | .vgath f => classOk k f
     | .vgathQw f => classOk k f.base
     | .vscat f => classOk k f
     | .vscatQw f => classOk k f.base
     | .vld f => classOk k f
     | .vldQw f => classOk k f.base
     | .vst f => classOk k f
     | .vstQw f => classOk k f.base
     | .vext f => classOk k f
     | .vextQw f => classOk k f.base
     | .vins f => classOk k f
     | .vinsQw f => classOk k f.base
     | .plog f => classOk k f
     | .plogQw f => classOk k f.base
     | .pmov f => classOk k f
     | .pmovQw f => classOk k f.base
     | _ => true)

/-- The F64-A word of an instruction that has a queue-wait form or is one. -/
def wordA : Instr → Option F64A
  | .add f => some f
  | .addQw f => some f.base
  | .sub f => some f
  | .subQw f => some f.base
  | .mul f => some f
  | .mulQw f => some f.base
  | .mulh f => some f
  | .mulhQw f => some f.base
  | .div f => some f
  | .divQw f => some f.base
  | .rem f => some f
  | .remQw f => some f.base
  | .and f => some f
  | .andQw f => some f.base
  | .or f => some f
  | .orQw f => some f.base
  | .xor f => some f
  | .xorQw f => some f.base
  | .shl f => some f
  | .shlQw f => some f.base
  | .shr f => some f
  | .shrQw f => some f.base
  | .sra f => some f
  | .sraQw f => some f.base
  | .rot f => some f
  | .rotQw f => some f.base
  | .min f => some f
  | .minQw f => some f.base
  | .max f => some f
  | .maxQw f => some f.base
  | .clz f => some f
  | .clzQw f => some f.base
  | .popc f => some f
  | .popcQw f => some f.base
  | .bfx f => some f
  | .bfxQw f => some f.base
  | .bfi f => some f
  | .bfiQw f => some f.base
  | .cmp f => some f
  | .cmpQw f => some f.base
  | .sel f => some f
  | .selQw f => some f.base
  | .mov f => some f
  | .movQw f => some f.base
  | .lea f => some f
  | .leaQw f => some f.base
  | .gaddr f => some f
  | .gaddrQw f => some f.base
  | .fadd f => some f
  | .faddQw f => some f.base
  | .fsub f => some f
  | .fsubQw f => some f.base
  | .fmul f => some f
  | .fmulQw f => some f.base
  | .fma f => some f
  | .fmaQw f => some f.base
  | .fdiv f => some f
  | .fdivQw f => some f.base
  | .fsqrt f => some f
  | .fsqrtQw f => some f.base
  | .fmin f => some f
  | .fminQw f => some f.base
  | .fmax f => some f
  | .fmaxQw f => some f.base
  | .fcmp f => some f
  | .fcmpQw f => some f.base
  | .fsgn f => some f
  | .fsgnQw f => some f.base
  | .fcvt f => some f
  | .fcvtQw f => some f.base
  | .frnd f => some f
  | .frndQw f => some f.base
  | .fexp2 f => some f
  | .fexp2Qw f => some f.base
  | .flog2 f => some f
  | .flog2Qw f => some f.base
  | .vbcast f => some f
  | .vbcastQw f => some f.base
  | .vred f => some f
  | .vredQw f => some f.base
  | .vshuf f => some f
  | .vshufQw f => some f.base
  | .vcomp f => some f
  | .vcompQw f => some f.base
  | .viota f => some f
  | .viotaQw f => some f.base
  | .vgath f => some f
  | .vgathQw f => some f.base
  | .vscat f => some f
  | .vscatQw f => some f.base
  | .vld f => some f
  | .vldQw f => some f.base
  | .vst f => some f
  | .vstQw f => some f.base
  | .vext f => some f
  | .vextQw f => some f.base
  | .vins f => some f
  | .vinsQw f => some f.base
  | .plog f => some f
  | .plogQw f => some f.base
  | .pmov f => some f
  | .pmovQw f => some f.base
  | _ => none

/-- The lanes of a vector-class instruction for the step source (R298): 16 of 64 bits, else 32. -/
def vectorLanes (i : Instr) : Option Nat :=
  match wordA i with
  | some f => if f.isVec then some (if [3, 7, 11].contains f.ty.toNat then 16 else 32) else none
  | none => none

/-- The wait bytes of a queue-wait instruction, which R39 names and the model tests as a decode check, whatever the predicate
(R57, R332, log 25). -/
def waitBytesOk : Instr → Bool
  | .addQw f => f.waitsOk
  | .subQw f => f.waitsOk
  | .mulQw f => f.waitsOk
  | .mulhQw f => f.waitsOk
  | .divQw f => f.waitsOk
  | .remQw f => f.waitsOk
  | .andQw f => f.waitsOk
  | .orQw f => f.waitsOk
  | .xorQw f => f.waitsOk
  | .shlQw f => f.waitsOk
  | .shrQw f => f.waitsOk
  | .sraQw f => f.waitsOk
  | .rotQw f => f.waitsOk
  | .minQw f => f.waitsOk
  | .maxQw f => f.waitsOk
  | .clzQw f => f.waitsOk
  | .popcQw f => f.waitsOk
  | .bfxQw f => f.waitsOk
  | .bfiQw f => f.waitsOk
  | .cmpQw f => f.waitsOk
  | .selQw f => f.waitsOk
  | .movQw f => f.waitsOk
  | .leaQw f => f.waitsOk
  | .gaddrQw f => f.waitsOk
  | .faddQw f => f.waitsOk
  | .fsubQw f => f.waitsOk
  | .fmulQw f => f.waitsOk
  | .fmaQw f => f.waitsOk
  | .fdivQw f => f.waitsOk
  | .fsqrtQw f => f.waitsOk
  | .fminQw f => f.waitsOk
  | .fmaxQw f => f.waitsOk
  | .fcmpQw f => f.waitsOk
  | .fsgnQw f => f.waitsOk
  | .fcvtQw f => f.waitsOk
  | .frndQw f => f.waitsOk
  | .fexp2Qw f => f.waitsOk
  | .flog2Qw f => f.waitsOk
  | .vbcastQw f => f.waitsOk
  | .vredQw f => f.waitsOk
  | .vshufQw f => f.waitsOk
  | .vcompQw f => f.waitsOk
  | .viotaQw f => f.waitsOk
  | .vgathQw f => f.waitsOk
  | .vscatQw f => f.waitsOk
  | .vldQw f => f.waitsOk
  | .vstQw f => f.waitsOk
  | .vextQw f => f.waitsOk
  | .vinsQw f => f.waitsOk
  | .plogQw f => f.waitsOk
  | .pmovQw f => f.waitsOk
  | _ => true

end Machine

end Sys2Proof
end

