-- ==== Sys2Proof/Machine/Flags.lean ====
section
/-! DEFINITION. Floating-point values, one rounding with its sticky flags (R72-R81, R362, R363), and the narrow formats
(R84-R86). Arithmetic is exact on dyadic numbers and is rounded once. -/

namespace Sys2Proof.Machine

/-- The sticky flags, placed as in FPSTAT (R78). -/
abbrev Flags := BitVec 5
def flagNV : Flags := 16
def flagDZ : Flags := 8
def flagOF : Flags := 4
def flagUF : Flags := 2
def flagNX : Flags := 1

/-- The rounding modes of FPRM (R77). -/
inductive Rm where
  | rne
  | rtz
  | rup
  | rdn
  deriving DecidableEq, Repr

def Rm.ofCode : Nat → Rm
  | 0 => .rne
  | 1 => .rtz
  | 2 => .rup
  | _ => .rdn

/-- A binary interchange format: exponent and fraction bits (R72). -/
structure Fmt where
  ebits : Nat
  fbits : Nat
  deriving DecidableEq, Repr

def f64 : Fmt := ⟨11, 52⟩
def f32 : Fmt := ⟨8, 23⟩
def bf16 : Fmt := ⟨8, 7⟩
def f16 : Fmt := ⟨5, 10⟩

def Fmt.bias (f : Fmt) : Nat := 2 ^ (f.ebits - 1) - 1
def Fmt.width (f : Fmt) : Nat := 1 + f.ebits + f.fbits
/-- The exponent of the least normal value. -/
def Fmt.emin (f : Fmt) : Int := 1 - (f.bias : Int)
/-- The canonical NaN (R72). -/
def Fmt.nan (f : Fmt) : Nat := (2 ^ f.ebits - 1) * 2 ^ f.fbits + 2 ^ (f.fbits - 1)
def Fmt.inf (f : Fmt) (neg : Bool) : Nat := (if neg then 2 ^ (f.ebits + f.fbits) else 0) + (2 ^ f.ebits - 1) * 2 ^ f.fbits
def Fmt.greatest (f : Fmt) (neg : Bool) : Nat := f.inf neg - 1

/-- A floating-point value: a NaN, an infinity, or ±m·2^e. -/
inductive FVal where
  | nan (signalling : Bool)
  | inf (neg : Bool)
  | fin (neg : Bool) (m : Nat) (e : Int)
  deriving DecidableEq, Repr

/-- A result's bits and the flags it raises. -/
structure FRes where
  bits : Nat
  flags : Flags
  deriving DecidableEq, Repr

/-- The value of a bit pattern (R72, R73). -/
def Fmt.decode (f : Fmt) (bits : Nat) : FVal :=
  let neg := bits / 2 ^ (f.ebits + f.fbits) % 2 = 1
  let e := bits / 2 ^ f.fbits % 2 ^ f.ebits
  let m := bits % 2 ^ f.fbits
  if e = 2 ^ f.ebits - 1 then
    if m = 0 then .inf neg else .nan (m < 2 ^ (f.fbits - 1))
  else if e = 0 then .fin neg m (f.emin - f.fbits)
  else .fin neg (2 ^ f.fbits + m) ((e : Int) - f.bias - f.fbits)

/-- The number of bits of a number; 0 for 0. -/
def bitLength (m : Nat) : Nat := if m = 0 then 0 else Nat.log2 m + 1

/-- Whether rounding away from zero is due, for the quotient's parity and the remainder against half. -/
def roundsUp (rm : Rm) (neg odd : Bool) (rem half : Nat) : Bool :=
  match rm with
  | .rne => half < rem || (rem == half && odd)
  | .rtz => false
  | .rup => rem != 0 && !neg
  | .rdn => rem != 0 && neg

/-- `m·2^e` rounded to a multiple of `2^q`: the multiple, and whether the value changed. -/
def roundAt (rm : Rm) (neg : Bool) (m : Nat) (e q : Int) : Nat × Bool :=
  if q ≤ e then (m * 2 ^ (e - q).toNat, false)
  else
    let k := (q - e).toNat
    let hi := m / 2 ^ k
    let rem := m % 2 ^ k
    (if roundsUp rm neg (hi % 2 == 1) rem (2 ^ (k - 1)) then hi + 1 else hi, rem != 0)

/-- Whether `m·2^e < 2^b`. -/
def belowPow (m : Nat) (e b : Int) : Bool := (bitLength m : Int) + e ≤ b

/-- The value above the greatest finite one (R363). -/
def Fmt.overflow (f : Fmt) (rm : Rm) (neg : Bool) : FRes :=
  let toInf := match rm with
    | .rne => true
    | .rtz => false
    | .rup => !neg
    | .rdn => neg
  ⟨if toInf then f.inf neg else f.greatest neg, flagOF ||| flagNX⟩

/-- The bits of `hi·2^q`, a value of the format with `q` at least the exponent of its least subnormal. -/
def Fmt.encode (f : Fmt) (neg : Bool) (hi : Nat) (q : Int) : Nat :=
  let s := if neg then 2 ^ (f.ebits + f.fbits) else 0
  if hi < 2 ^ f.fbits then s + hi
  else if hi < 2 ^ (f.fbits + 1) then s + (q + f.bias + f.fbits).toNat * 2 ^ f.fbits + (hi - 2 ^ f.fbits)
  else s + (q + 1 + f.bias + f.fbits).toNat * 2 ^ f.fbits

/-- Rounds the exact nonzero value ±m·2^e once (R74, R363); tininess is judged after rounding with an unbounded exponent. -/
def Fmt.round (f : Fmt) (rm : Rm) (neg : Bool) (m : Nat) (e : Int) : FRes :=
  let free := (bitLength m : Int) + e - (f.fbits + 1)
  let q := max free (f.emin - f.fbits)
  let (hi, changed) := roundAt rm neg m e q
  let (hiFree, _) := roundAt rm neg m e free
  let tiny := belowPow hiFree free f.emin
  if !belowPow hi q (f.bias + 1) then f.overflow rm neg
  else ⟨f.encode neg hi q, (if changed then flagNX else 0) ||| (if changed && tiny then flagUF else 0)⟩

/-- Rounds a value that lies strictly between ±m·2^e and ±(m+1)·2^e. `m` has more bits than the format's precision, so a
quarter above `m` stands for it. -/
def Fmt.roundSticky (f : Fmt) (rm : Rm) (neg : Bool) (m : Nat) (e : Int) (sticky : Bool) : FRes :=
  if sticky then f.round rm neg (4 * m + 1) (e - 2) else f.round rm neg m e

/-- A zero of a sign. -/
def Fmt.zero (f : Fmt) (neg : Bool) : Nat := if neg then 2 ^ (f.ebits + f.fbits) else 0

/-- Rounds ±m·2^e, a zero keeping the sign given. -/
def Fmt.roundOrZero (f : Fmt) (rm : Rm) (neg : Bool) (m : Nat) (e : Int) : FRes :=
  if m = 0 then ⟨f.zero neg, 0⟩ else f.round rm neg m e

def FVal.isNan : FVal → Bool
  | .nan _ => true
  | _ => false

def FVal.isSignalling : FVal → Bool
  | .nan s => s
  | _ => false

def FVal.isFinite : FVal → Bool
  | .fin _ _ _ => true
  | _ => false

/-- A value's sign; a NaN has none. -/
def FVal.neg : FVal → Bool
  | .nan _ => false
  | .inf n => n
  | .fin n _ _ => n

def FVal.isZero : FVal → Bool
  | .fin _ 0 _ => true
  | _ => false

/-- The canonical NaN, with NV when an operand was signalling or the case is invalid (R73, R363). -/
def Fmt.nanRes (f : Fmt) (invalid : Bool) : FRes := ⟨f.nan, if invalid then flagNV else 0⟩

/-- The signed integer that ±m·2^e is at exponent `q ≤ e`. -/
def signedAt (neg : Bool) (m : Nat) (e q : Int) : Int :=
  let v : Int := m * 2 ^ (e - q).toNat
  if neg then -v else v

/-- The sign of an exact zero sum (R363): the common sign of two operands of one sign, else +0, −0 under RDN. -/
def zeroSign (rm : Rm) (a b : Bool) : Bool := if a = b then a else rm = .rdn

/-- The exact sum of two finite values, rounded once. -/
def Fmt.addFin (f : Fmt) (rm : Rm) (an : Bool) (am : Nat) (ae : Int) (bn : Bool) (bm : Nat) (be : Int) : FRes :=
  let q := min ae be
  let v := signedAt an am ae q + signedAt bn bm be q
  if v = 0 then ⟨f.zero (zeroSign rm an bn), 0⟩ else f.round rm (v < 0) v.natAbs q

/-- A + B (R363, R365). -/
def Fmt.addVal (f : Fmt) (rm : Rm) (a b : FVal) : FRes :=
  match a, b with
  | .nan s, b => f.nanRes (s || b.isSignalling)
  | _, .nan s => f.nanRes s
  | .inf m, .inf n => if m = n then ⟨f.inf m, 0⟩ else f.nanRes true
  | .inf m, _ => ⟨f.inf m, 0⟩
  | _, .inf n => ⟨f.inf n, 0⟩
  | .fin an am ae, .fin bn bm be => f.addFin rm an am ae bn bm be

def FVal.negate : FVal → FVal
  | .nan s => .nan s
  | .inf n => .inf !n
  | .fin n m e => .fin (!n) m e

/-- A · B (R363, R365). -/
def Fmt.mulVal (f : Fmt) (rm : Rm) (a b : FVal) : FRes :=
  match a, b with
  | .nan s, b => f.nanRes (s || b.isSignalling)
  | _, .nan s => f.nanRes s
  | .inf m, b => if b.isZero then f.nanRes true else ⟨f.inf (m != b.neg), 0⟩
  | a, .inf n => if a.isZero then f.nanRes true else ⟨f.inf (n != a.neg), 0⟩
  | .fin an am ae, .fin bn bm be => f.roundOrZero rm (an != bn) (am * bm) (ae + be)

/-- A · B + C with one rounding (R363, R373). -/
def Fmt.fmaVal (f : Fmt) (rm : Rm) (a b c : FVal) : FRes :=
  let signalling := a.isSignalling || b.isSignalling || c.isSignalling
  let zeroInf := match a, b with
    | .inf _, b => b.isZero
    | a, .inf _ => a.isZero
    | _, _ => false
  if a.isNan || b.isNan || c.isNan || zeroInf then f.nanRes (signalling || zeroInf)
  else match a, b with
    | .fin an am ae, .fin bn bm be =>
      (match c with
       | .fin cn cm ce => f.addFin rm (an != bn) (am * bm) (ae + be) cn cm ce
       | .inf n => ⟨f.inf n, 0⟩
       | .nan _ => f.nanRes false)
    | _, _ =>
      let n := a.neg != b.neg
      (match c with
       | .inf m => if m = n then ⟨f.inf n, 0⟩ else f.nanRes true
       | _ => ⟨f.inf n, 0⟩)

/-- A / B (R363, R365): the quotient is taken with two bits more than the precision, and a remainder is sticky. -/
def Fmt.divVal (f : Fmt) (rm : Rm) (a b : FVal) : FRes :=
  match a, b with
  | .nan s, b => f.nanRes (s || b.isSignalling)
  | _, .nan s => f.nanRes s
  | .inf _, .inf _ => f.nanRes true
  | .inf m, .fin n _ _ => ⟨f.inf (m != n), 0⟩
  | .fin m _ _, .inf n => ⟨f.zero (m != n), 0⟩
  | .fin an am ae, .fin bn bm be =>
    if bm = 0 then (if am = 0 then f.nanRes true else ⟨f.inf (an != bn), flagDZ⟩)
    else if am = 0 then ⟨f.zero (an != bn), 0⟩
    else
      let k := f.fbits + 4 + bitLength bm
      f.roundSticky rm (an != bn) (am * 2 ^ k / bm) (ae - be - k) (am * 2 ^ k % bm != 0)

/-- The integer square root, `bits` binary digits of it, from the top. -/
def isqrt (n : Nat) : Nat → Nat → Nat
  | 0, r => r
  | b + 1, r => if (r + 2 ^ b) * (r + 2 ^ b) ≤ n then isqrt n b (r + 2 ^ b) else isqrt n b r

/-- √A (R378). -/
def Fmt.sqrtVal (f : Fmt) (rm : Rm) (a : FVal) : FRes :=
  match a with
  | .nan s => f.nanRes s
  | .inf n => if n then f.nanRes true else ⟨f.inf false, 0⟩
  | .fin n m e =>
    if m = 0 then ⟨f.zero n, 0⟩
    else if n then f.nanRes true
    else
      let k := 2 * (f.fbits + 4) + (if (e - 2 * (f.fbits + 4)) % 2 = 0 then 0 else 1)
      let v := m * 2 ^ k
      let r := isqrt v (bitLength v / 2 + 1) 0
      f.roundSticky rm false r ((e - k) / 2) (r * r != v)

/-- How two values that are no NaN compare: less, equal, greater; −0 equals +0 (R366). -/
def compareVal (a b : FVal) : Ordering :=
  match a, b with
  | .inf m, .inf n => if m = n then .eq else if m then .lt else .gt
  | .inf m, _ => if m then .lt else .gt
  | _, .inf n => if n then .gt else .lt
  | .fin an am ae, .fin bn bm be =>
    let q := min ae be
    compare (signedAt an am ae q) (signedAt bn bm be q)
  | _, _ => .eq

/-- Whether `a` comes before `b` where −0 is below +0 (R374). -/
def beforeVal (a b : FVal) : Bool :=
  match compareVal a b with
  | .lt => true
  | .gt => false
  | .eq => a.neg && !b.neg

/-- The lesser or greater operand, taken exactly (R374). -/
def Fmt.pick (f : Fmt) (wantMax : Bool) (a b : Nat) : FRes :=
  let x := f.decode a
  let y := f.decode b
  if x.isNan || y.isNan then f.nanRes (x.isSignalling || y.isSignalling)
  else if wantMax then ⟨if beforeVal x y then b else a, 0⟩
  else ⟨if beforeVal y x then b else a, 0⟩

/-- The conditions of FCMP, by code 0 to 7, with the flags raised (R366). -/
def fcmp (cc : Nat) (x y : FVal) : Bool × Flags :=
  let u := x.isNan || y.isNan
  let o := compareVal x y
  let c := match cc with
    | 0 => !u && o == .eq
    | 1 => u || o != .eq
    | 2 => !u && o == .lt
    | 3 => !u && o != .gt
    | 4 => !u && o == .gt
    | 5 => !u && o != .lt
    | 6 => u
    | _ => !u
  let nv := u && ((2 ≤ cc && cc ≤ 5) || x.isSignalling || y.isSignalling)
  (c, if nv then flagNV else 0)

/-- A value rounded to an integral value: magnitude and whether it changed. -/
def toIntegral (rm : Rm) (neg : Bool) (m : Nat) (e : Int) : Nat × Bool := roundAt rm neg m e 0

/-- FRND (R376): no flag but NV for a signalling NaN. -/
def Fmt.rndVal (f : Fmt) (rm : Rm) (a : FVal) : FRes :=
  match a with
  | .nan s => f.nanRes s
  | .inf n => ⟨f.inf n, 0⟩
  | .fin n m e =>
    if 0 ≤ e then ⟨(f.roundOrZero rm n m e).bits, 0⟩
    else ⟨(f.roundOrZero rm n (toIntegral rm n m e).1 0).bits, 0⟩

/-- Floating point to an integer of width `w` (R81, R367). -/
def toInteger (rm : Rm) (w : Nat) (signed : Bool) (a : FVal) : FRes :=
  let lo : Int := if signed then -(2 ^ (w - 1) : Int) else 0
  let hi : Int := if signed then 2 ^ (w - 1) - 1 else 2 ^ w - 1
  let narrow := fun (v : Int) => (v % (2 ^ w : Int)).toNat
  match a with
  | .nan _ => ⟨0, flagNV⟩
  | .inf n => ⟨narrow (if n then lo else hi), flagNV⟩
  | .fin n m e =>
    let (v, changed) := toIntegral rm n m e
    let i : Int := if n then -(v : Int) else v
    if i < lo then ⟨narrow lo, flagNV⟩
    else if hi < i then ⟨narrow hi, flagNV⟩
    else ⟨narrow i, if changed then flagNX else 0⟩

/-- A value into a format: exact when representable, else rounded; a NaN becomes canonical (R367). -/
def Fmt.ofVal (f : Fmt) (rm : Rm) (a : FVal) : FRes :=
  match a with
  | .nan s => f.nanRes s
  | .inf n => ⟨f.inf n, 0⟩
  | .fin n m e => f.roundOrZero rm n m e

/-! ## Base-2 exponential and logarithm (R372), from fixed-point approximations whose error lies below every rounding
boundary of the four formats (log 7) -/

/-- Fraction bits of the approximations. -/
def approxBits : Nat := 240

/-- `2^(2^-k)` for k = 1, 2, … with `approxBits` fraction bits, `n` of them, each the square root of the one before. -/
def rootsOfTwo : Nat → Nat → List Nat
  | 0, _ => []
  | n + 1, c =>
    let r := isqrt (c * 2 ^ approxBits) (approxBits + 1) 0
    r :: rootsOfTwo n r

/-- The product of the roots that the bits of a fraction of `bits` bits select, highest bit first. -/
def expProduct (frac : Nat) : Nat → List Nat → Nat → Nat
  | _, [], acc => acc
  | 0, _, acc => acc
  | bits + 1, r :: rs, acc =>
    expProduct frac bits rs (if frac / 2 ^ bits % 2 = 1 then acc * r / 2 ^ approxBits else acc)

/-- FEXP2 of a value (R372). -/
def Fmt.exp2Val (f : Fmt) (rm : Rm) (a : FVal) : FRes :=
  match a with
  | .nan s => f.nanRes s
  | .inf n => if n then ⟨f.zero false, 0⟩ else ⟨f.inf false, 0⟩
  | .fin n m e =>
    if m = 0 then f.round rm false 1 0
    else if (bitLength m : Int) + e > 14 then
      (if n then f.roundSticky rm false (2 ^ 64) (-20000) true else f.round rm false 1 20000)
    else if (bitLength m : Int) + e < -70 then
      (if n then f.roundSticky rm false (2 ^ 100 - 1) (-100) true else f.roundSticky rm false (2 ^ 100) (-100) true)
    else
      let bits := (-e).toNat
      let v : Int := signedAt n m e (min e 0)
      let i : Int := if e < 0 then v / (2 ^ bits : Int) else v
      let frac := if e < 0 then (v % (2 ^ bits : Int)).toNat else 0
      if frac = 0 then f.round rm false 1 i
      else f.roundSticky rm false (expProduct frac bits (rootsOfTwo bits (2 ^ (approxBits + 1))) (2 ^ approxBits))
        (i - approxBits) true

/-- Bits of the base-2 logarithm of a mantissa in [1, 2) with `2·approxBits` fraction bits, by repeated squaring. -/
def logBits : Nat → Nat → Nat → Nat
  | 0, _, acc => acc
  | n + 1, x, acc =>
    let y := x * x / 2 ^ (2 * approxBits)
    if 2 ^ (2 * approxBits + 1) ≤ y then logBits n (y / 2) (2 * acc + 1) else logBits n y (2 * acc)

/-- FLOG2 of a value (R372). -/
def Fmt.log2Val (f : Fmt) (rm : Rm) (a : FVal) : FRes :=
  match a with
  | .nan s => f.nanRes s
  | .inf n => if n then f.nanRes true else ⟨f.inf false, 0⟩
  | .fin n m e =>
    if m = 0 then ⟨f.inf true, flagDZ⟩
    else if n then f.nanRes true
    else
      let len := bitLength m
      let i : Int := e + len - 1
      if m = 2 ^ (len - 1) then f.roundOrZero rm (i < 0) i.natAbs 0
      else
        let x := m * 2 ^ (2 * approxBits + 1) / 2 ^ len
        let frac := logBits approxBits x 0
        let v : Int := i * 2 ^ approxBits + frac
        if 0 ≤ v then f.roundSticky rm false v.toNat (-approxBits) true
        else f.roundSticky rm true (-v - 1).toNat (-approxBits) true

/-! ## Narrow formats (R84-R86) -/

/-- A narrow format word read as its fields. -/
structure Nf where
  sign : Bool
  ebits : Nat
  mbits : Nat
  bias : Int
  spec : Nat
  sub : Bool
  deriving DecidableEq, Repr

def Nf.ofWord (w : BitVec 32) : Nf where
  sign := w.getLsbD 0
  ebits := (w.extractLsb' 1 3).toNat
  mbits := (w.extractLsb' 4 4).toNat
  bias := (w.extractLsb' 8 8).toInt
  spec := (w.extractLsb' 16 2).toNat
  sub := w.getLsbD 18

def Nf.width (f : Nf) : Nat := (if f.sign then 1 else 0) + f.ebits + f.mbits

/-- Whether a format word is valid (R84). -/
def nfValid (w : BitVec 32) : Bool :=
  let f := Nf.ofWord w
  (w.extractLsb' 19 13) = 0 && f.spec ≠ 3 && f.mbits ≤ 8 && 1 ≤ f.width && f.width ≤ 8 &&
    (f.spec ≠ 1 || (1 ≤ f.ebits && 1 ≤ f.mbits))

/-- The value of an element (R85). -/
def Nf.decode (f : Nf) (bits : Nat) : FVal :=
  let m := bits % 2 ^ f.mbits
  let e := bits / 2 ^ f.mbits % 2 ^ f.ebits
  let neg := f.sign && bits / 2 ^ (f.mbits + f.ebits) % 2 = 1
  let top := 2 ^ f.ebits - 1
  if f.spec = 1 ∧ e = top then (if m = 0 then .inf neg else .nan (m < 2 ^ (f.mbits - 1)))
  else if f.spec = 2 ∧ e = top ∧ m = 2 ^ f.mbits - 1 then .nan false
  else if f.ebits = 0 then .fin neg m (-f.bias)
  else if e = 0 then (if f.sub then .fin neg m (1 - f.bias - f.mbits) else .fin neg 0 0)
  else .fin neg (2 ^ f.mbits + m) ((e : Int) - f.bias - f.mbits)

/-- The canonical NaN of an element (R85); +0 under SPEC 0, which has none. -/
def Nf.nan (f : Nf) : Nat :=
  match f.spec with
  | 1 => (2 ^ f.ebits - 1) * 2 ^ f.mbits + 2 ^ (f.mbits - 1)
  | 2 => 2 ^ f.width - 1
  | _ => 0

def Nf.signBit (f : Nf) (neg : Bool) : Nat := if f.sign && neg then 2 ^ (f.mbits + f.ebits) else 0

/-- The magnitude pattern of the greatest finite value. -/
def Nf.greatest (f : Nf) : Nat :=
  (((List.range (2 ^ (f.ebits + f.mbits))).reverse.find? (fun p => (f.decode p).isFinite)).getD 0)

/-- The magnitude pattern whose value is `hi·2^q`, if the format has one. -/
def Nf.pattern (f : Nf) (hi : Nat) (q : Int) : Option Nat :=
  (List.range (2 ^ (f.ebits + f.mbits))).find? (fun p =>
    (f.decode p).isFinite && compareVal (f.decode p) (.fin false hi q) == .eq)

/-- The exponent of the last place to which R86 rounds a magnitude. -/
def Nf.lastPlace (f : Nf) (m : Nat) (e : Int) : Int :=
  let emin := 1 - f.bias
  if f.ebits = 0 then -f.bias
  else if belowPow m e emin then (if f.sub then emin - f.mbits else emin)
  else (bitLength m : Int) + e - (f.mbits + 1)

/-- Whether a nonzero magnitude is tiny (R86). -/
def Nf.tiny (f : Nf) (m : Nat) (e : Int) : Bool :=
  if f.ebits = 0 then belowPow m e (-f.bias)
  else
    let free := (bitLength m : Int) + e - (f.mbits + 1)
    belowPow (roundAt .rne false m e free).1 free (1 - f.bias)

/-- A value into a narrow format, with RNE whatever FPRM holds: the rows of R86 in their order. A format of SPEC 2 with E = 0 and M = 0
has no finite value, all its patterns being NaN; a finite value takes pattern 0 with its sign bit and the flags of its rounding, since R86
names no greatest finite value there (DESIGN CHOICE, log 35). -/
def Nf.ofVal (f : Nf) (a : FVal) : FRes :=
  match a with
  | .nan s => if f.spec = 0 then ⟨0, flagNV⟩ else ⟨f.nan, if s then flagNV else 0⟩
  | .inf neg =>
    if neg && !f.sign then (if f.spec = 0 then ⟨0, flagNX⟩ else ⟨f.nan, flagNV⟩)
    else match f.spec with
      | 1 => ⟨f.signBit neg + (2 ^ f.ebits - 1) * 2 ^ f.mbits, 0⟩
      | 2 => ⟨f.nan, flagOF⟩
      | _ => ⟨f.signBit neg + f.greatest, flagOF⟩
  | .fin neg m e =>
    if m = 0 then ⟨f.signBit neg, 0⟩
    else if neg && !f.sign then (if f.spec = 0 then ⟨0, flagNX⟩ else ⟨f.nan, flagNV⟩)
    else
      let q := f.lastPlace m e
      let (hi, changed) := roundAt .rne neg m e q
      if compareVal (.fin false hi q) (f.decode f.greatest) == .gt then
        match f.spec with
        | 1 => ⟨f.signBit neg + (2 ^ f.ebits - 1) * 2 ^ f.mbits, flagOF ||| flagNX⟩
        | 2 => ⟨f.nan, flagOF ||| flagNX⟩
        | _ => ⟨f.signBit neg + f.greatest, flagOF ||| flagNX⟩
      else
        ⟨f.signBit neg + (f.pattern hi q).getD 0,
          (if changed then flagNX else 0) ||| (if changed && f.tiny m e then flagUF else 0)⟩

/-! ## Element types (R65) -/

/-- The width of an element type; 8 for nf, whose elements are packed in bytes (R367). -/
def tyWidth (ty : Nat) : Nat :=
  match ty with
  | 0 => 8
  | 1 => 16
  | 2 => 32
  | 3 => 64
  | 4 => 8
  | 5 => 16
  | 6 => 32
  | 7 => 64
  | 8 => 16
  | 9 => 16
  | 10 => 32
  | 11 => 64
  | _ => 8

/-- Whether a type is a signed integer type. -/
def tySigned (ty : Nat) : Bool := ty < 4

/-- Whether a type is one of the four standard floating-point types. -/
def tyFloat (ty : Nat) : Bool := 8 ≤ ty && ty ≤ 11

/-- The format of a floating-point type code. -/
def fmtOf (ty : Nat) : Fmt :=
  match ty with
  | 8 => f16
  | 9 => bf16
  | 10 => f32
  | _ => f64

/-- A w-bit pattern as the integer its type gives it. -/
def intOf (ty v : Nat) : Int :=
  let w := tyWidth ty
  if tySigned ty && 2 ^ (w - 1) ≤ v % 2 ^ w then (v % 2 ^ w : Int) - 2 ^ w else (v % 2 ^ w : Int)

/-- The 64-bit register form of a result of a type (R75): sign-extended for i types, zero-extended otherwise. -/
def extend (ty v : Nat) : Word :=
  let w := tyWidth ty
  if tySigned ty then (BitVec.ofNat w v).signExtend 64 else BitVec.ofNat 64 (v % 2 ^ w)

/-- An integer narrowed to width `w`, modulo 2^w (R82). -/
def narrow (w : Nat) (v : Int) : Nat := (v % (2 ^ w : Int)).toNat

end Sys2Proof.Machine
end

