-- ==== Sys2Proof/Config.lean ====
section
/-! DEFINITION. What one implementation fixes and what the spec leaves open: constants without a body, so that no proof
sees a value of them. -/

namespace Sys2Proof.Config

/-- A free byte, one for each number (log 3). -/
opaque freeByte : Nat → Byte

/-- A free word, one for each number (log 3). -/
opaque freeWord : Nat → Word

/-- A free finding of a decode beyond the code's reach or under another layout: a severity class 0 to 3, or 4 for no
error seen (R268, R273; log 3). -/
opaque freeClass : Nat → Nat

/-- SHA3-512 (R152, R294, R295; log 6). -/
opaque sha3 : List Byte → BitVec 512

/-- Whether an ML-DSA-87 signature in a firmware image verifies over the image's digest with the fused key (R294; log 6). -/
opaque imageVerifies : List Byte → BitVec 512 → Bool

/-- The hub ROM's bytes, which measurement block 1 covers (R295; log 6). -/
opaque romBytes : List Byte

/-- The security controller firmware's bytes, which measurement block 3 covers (R295; log 6). -/
opaque controllerBytes : List Byte

/-- The fused configuration and identity certificate, which measurement block 4 covers (R295; log 6). -/
opaque fusedBytes : List Byte

/-- Whether the domain, as system software configured it, holds a device (R188; log 5). -/
opaque domainHolds : Nat → Bool

/-- Whether a switch's certificate chain verifies with ML-DSA-87 against a root (R260; log 6). -/
opaque chainVerifies : List Byte → BitVec 512 → Bool

/-- Whether a switch's signed measurements verify under its certificate chain (R260; log 6). -/
opaque reportVerifies : List Byte → List Byte → Bool

/-- The measurement that a switch's report holds (R260; log 6). -/
opaque reportDigest : List Byte → BitVec 512

/-- The job key that the security controller makes, one for each number (R260; log 6). -/
opaque jobKey : Nat → BitVec 256

/-- The payload that AES-256-GCM makes of a payload under a key, a nonce and a header (R261; log 6). -/
opaque gcmSeal : BitVec 256 → BitVec 96 → List Byte → List Byte → List Byte

/-- The signature of a message with the ML-DSA-87 device identity key (R295; log 6). -/
opaque sign : List Byte → List Byte

/-- The 32-bit identifier of a flow of a job (R254, R261; log 6). -/
opaque flowId : Nat → BitVec 32

/-- The tether port that carries packets to a device (R14, R253; log 2). -/
opaque tetherOf : Nat → Nat

/-- The physical address at which a service core reads a configuration window, by window (R252, R296; log 12). -/
opaque windowBase : Nat → Nat

/-- Which entry of a full TLB a TLBW drops (R189; log 5). -/
opaque tlbVictim : Nat → Nat

end Sys2Proof.Config
end

