-- ==== Sys2Proof/Machine/State.lean ====
section
/-! DEFINITION. The state of one module of the Sarari 9: every register, queue, table and memory the spec gives the
machine, as plain data, with its value after a module reset. INVENTORY.md lists each field with its rule. -/

namespace Sys2Proof.Machine

/-! ## Memory -/

/-- What a write that not every agent sees yet is marked with (R198, R201-R204, R209): an agent on a sequencer sees it (`seen`), or has only
read it (`read`); a releasing FENCE of an agent that sees it covers it in a scope (`fenced`); a word that an agent has written covers it in a
scope, as the object of a release (9 where any acquire pairs), or as a write after such a fence (`released`), or will cover it when a
request is performed (`promised`); an agent has read a word that another wrote after such a fence (`noticed`); a command wrote it
(`command`), or was issued by an agent that sees it (`forked`); a gondola takes it along as seen or as read (`carried`); the loading of a
gang's images has observed it (`loaded`), or the polls of a record's dependences have (`observed`). -/
inductive Mark where
  | seen (q : SeqId)
  | read (q : SeqId)
  | fenced (q : SeqId) (scope : Nat)
  | released (word : Nat) (q : SeqId) (scope : Nat) (fence : Bool)
  | noticed (q : SeqId) (by_ : SeqId) (scope : Nat)
  | promised (request : Nat)
  | command (tile engine number : Nat)
  | forked (tile engine number : Nat)
  | carried (gondola : Nat) (seen : Bool)
  | loaded (gang : Nat)
  | observed (record : Nat)
  deriving DecidableEq, Repr

/-- A write that not every agent sees yet (R198, R203): its number, its aligned word, the eight bytes that the word held before it, the
virtual addresses of a word of external memory, and its marks. Memory itself holds what the last write left. -/
structure Unseen where
  id : Nat
  word : Nat
  old : List Byte
  addresses : List Nat
  marks : List Mark
  deriving DecidableEq, Repr

/-- The wait of a sequencer's ACQ `.ge` or WAITSEQ at its word's home: the word's key, the least value, and whether the word has held
it, or an error, since the wait began (R439). -/
structure Watch where
  seq : SeqId
  key : Nat
  least : Nat
  met : Bool
  deriving DecidableEq, Repr

/-- All stored bytes of the module and of what it reaches: external memory, scratchpads, operand memory and accumulators,
each at a key of its own space (`Ops.lean`), with the errors that stand in them.
`cells` is the canonical list: keys strictly rise and no listed byte is 0, which is what an unlisted key reads as.
`poison` lists poisoned units (R272, R275), `flips` the stored bits that differ from the code word last encoded (R273),
`layouts` the layout-table entry under which an aligned word of external memory was last encoded (R268), for words of another
layout than 0, `areas` the key ranges in which the device has stored pre-empted parts in its own layout (R147), `unseen` the
writes that not every agent sees yet, each word's in its coherence order (R198, R203), and `watches` the waits for a word's value. -/
structure Mem where
  cells : List Host.Cell
  poison : List Nat
  flips : List (Nat × Nat)
  layouts : Assoc (BitVec 32)
  areas : List (Nat × Nat)
  unseen : List Unseen
  watches : List Watch
  deriving DecidableEq, Repr

/-- Memory with nothing stored, no error, layout 0 everywhere, and every write seen by all. -/
def Mem.reset : Mem := ⟨[], [], [], [], [], [], []⟩

/-! ## A sequencer -/

/-- What a queue handle is bound to: a queue at a base in a tile's scratchpad, or a memory core's request queue (R106,
R107, R169). `tile` is a tile of the domain: device place times 2,048 plus tile identifier. -/
inductive QRef where
  | tile (tile : Nat) (base : Nat)
  | request (core : Nat)
  deriving DecidableEq, Repr

/-- A stream data register: its FIFO of bytes with their poison marks, and the binding of STRBIND (R163). -/
structure Stream where
  fifo : List (Byte × Bool)
  bound : Bool
  ty : BitVec 4
  left : Nat
  deriving DecidableEq, Repr

/-- A nest descriptor as NESTCFG loads it (R112). -/
structure Nest where
  e0 : Nat
  e1 : Nat
  e2 : Nat
  e3 : Nat
  counter : Word
  parts : Nat
  divisor : Nat
  chunk : Nat
  deriving DecidableEq, Repr

/-- A nest slot: the launch that has configured it, the descriptor, the actor bound to it, whether it is armed, the private chunk
[lo, hi), and since when a claim is outstanding, if one is (R113, R114, R395). -/
structure NestSlot where
  gang : Nat
  nest : Option Nest
  actor : Option Nat
  armed : Bool
  lo : Nat
  hi : Nat
  claiming : Option Nat
  deriving DecidableEq, Repr

/-- An entry of an actor table (R100), with its aging count and whether every selection since it last fired found it
ready (R103). Inputs and outputs pair a handle with a count. -/
structure Actor where
  present : Bool
  enabled : Bool
  reelBound : Bool
  entry : Word
  prio : Nat
  inputs : List (Nat × Nat)
  outputs : List (Nat × Nat)
  nest : Word
  spillBase : Nat
  spillSize : Nat
  age : Nat
  deriving DecidableEq, Repr

/-- The firing that holds a program counter (R95): its number, gang, whether it is a gondola, the actor-table index, and
the engine commands it began, as pairs of engine and command number (R127). Gang 0 is the firmware. -/
structure Firing where
  number : Nat
  gang : Nat
  gondola : Bool
  actor : Nat
  begun : List (Nat × Nat)
  deriving DecidableEq, Repr

/-- What an instruction at a boundary waits for (R95, R155). `word` is a full/empty word, `memory` an ACQ or WAITSEQ,
`room` a ring, arrival queue or overflow area, `limit` a chain, pool or barrier-context limit, `chain` a command of a chain. -/
inductive Why where
  | queue
  | word
  | sem
  | barrier
  | branch
  | pending
  | outstanding
  | room
  | limit
  | chain
  | memory
  | wfe
  | align
  | miss
  | engine
  | matrix
  | pair
  deriving DecidableEq, Repr

/-- A wait in progress: why, since what time, and, for a full/empty access that the bank unit has performed for the
waiter, the value it obtained with its poison mark (R158). -/
structure Wait where
  why : Why
  since : Nat
  grant : Option (Word × Bool)
  deriving DecidableEq, Repr

/-- The four waiting full/empty accesses of R41. -/
inductive FeOp where
  | wf
  | wfe
  | we
  | wef
  deriving DecidableEq, Repr

/-- Bytes to write at a key in one write, under the layout-table entry of their page, with their poison marks (R268, R272). -/
structure Piece where
  key : Nat
  entry : BitVec 32
  bytes : List (Byte × Bool)
  deriving DecidableEq, Repr

/-- Bytes to read at a key under the layout-table entry of their page. -/
structure Reach where
  key : Nat
  entry : BitVec 32
  len : Nat
  deriving DecidableEq, Repr

/-- Where a packet is (R250, R252, R255): still at its issuer, at a router, on a tether with so many of its beats acknowledged, past
the tether at the peer module, or discarded. -/
inductive Hop where
  | issuer
  | router (at_ : Nat)
  | tether (port acked : Nat)
  | across
  | lost
  deriving DecidableEq, Repr

/-- A packet's way: the router at which it starts, where it is, its virtual channel, since when it is asked for, since when it waits for an acknowledgement, its
time-outs in a row, how many resent copies of it are in flight, and the tether by which it comes from a peer, if it does (R250, R253,
R255, R256). -/
structure Way where
  origin : Nat
  hop : Hop
  vc : BitVec 2
  since : Nat
  sentAt : Nat
  timeouts : Nat
  copies : Nat
  inbound : Option Nat
  deriving DecidableEq, Repr

/-- The way of a packet that starts at a router. -/
def Way.start (origin time : Nat) : Way := ⟨origin, .issuer, 0, time, time, 0, 0, none⟩

/-- What a request asks of its home (R114, R160, R179, R384, R416, R439): a load into a register or slot, the parts of a vector load by
their places in the register, stores, an ATOM, a full/empty state to set or read, a REL `.add`, a record read by EVQLD, a full/empty load
or store, the wait of ACQ `.ge` or WAITSEQ for a value, the move of a queue's counter (R407), the claim of a nest's slot (R114), PUSH's
source bytes that other units own, by their place in the block (R170), and for an engine's command the fetch of bytes of its destination
from their source, and their landing (R176, R177), and a request on its way into a memory core's queue (R169). An ATOM and a REL `.add` carry the address used, for TVAL (R70). -/
inductive ReqOp where
  | load (r : Reach) (ty : BitVec 4) (d : BitVec 6)
  | vload (rs : List (Nat × Reach)) (d : BitVec 6)
  | store (ps : List Piece)
  | atom (r : Reach) (ty : BitVec 4) (fn : Nat) (operand : Word) (compare : Word) (d : BitVec 6) (address : Word)
  | setState (tile : Nat) (word : Nat) (full : Bool)
  | getState (tile : Nat) (word : Nat) (d : BitVec 6)
  | add (r : Reach) (value : Word) (address : Word)
  | record (engine : Nat) (index : Nat) (time : Word) (slope : Bool) (d : BitVec 6)
  | fe (tile : Nat) (op : FeOp) (offset width : Nat) (data : Word) (poison : Bool)
  | await (r : Reach) (least : Word)
  | move (q : QRef) (publish : Bool) (n : Nat)
  | claim (r : Reach) (slot : Nat) (n : Nest)
  | pull (rs : List (Nat × Reach)) (push : Nat)
  | fetch (start len : Nat)
  | land (start : Nat) (bytes : List (Byte × Bool))
  | enqueue (words : Vector Word 8)
  deriving DecidableEq, Repr

/-- A result that a twin expects of its primary: the number of the request among those of the sequencer, what it asks, the slot
that a load into a queue found, whether the sequencer is held for it (R279), and since when it is expected (R282). -/
structure Expect where
  number : Nat
  op : ReqOp
  slot : Option (BitVec 32)
  hold : Bool
  since : Nat
  deriving DecidableEq, Repr

/-- What a fingerprint is still to take in: bytes, or the result of a load that has not returned, by its number (R281). -/
inductive Trace where
  | bytes (bs : List Byte)
  | result (number : Nat)
  deriving DecidableEq, Repr

/-- Where a gondola in transit goes: a tile's arrival area, or a memory core's queue (R118). -/
inductive Dest where
  | tile (tile : Nat)
  | core (core : Nat)
  | away (device : Nat)
  deriving DecidableEq, Repr

/-- One sequencer: registers, program counter, tables and marks (R35, R67, R76-R80, R95-R122, R163, R179, R281). `tail` is what its
fingerprint is still to take in, `echo` what a twin has of its primary's results, `asked` counts the requests of a pair's member in
its interval, and `expects` and `told` are the results that a twin waits for and those that have come before it asked (R279).
`spawned` is where the gondola of a SPAWN that waits will go, once the SPAWN has counted it live (R415). -/
structure Seq where
  xs : Vector Word 32
  xPoison : BitVec 32
  xPending : BitVec 32
  vs : Vector VReg 32
  vPoison : Vector (BitVec 32) 32
  vPending : BitVec 32
  ps : BitVec 8
  ks : Vector Word 4
  pc : Word
  firing : Option Firing
  returns : List Word
  cspill : Word
  csplim : BitVec 40
  fprm : BitVec 2
  fpstat : BitVec 5
  sds : Vector Stream 8
  handles : Vector (Option QRef) 16
  nests : Vector NestSlot 4
  actors : Vector Actor 16
  arrivalAge : Nat
  lastFired : Vector Nat 4
  latch : BitVec 8
  deadline : Option Nat
  wait : Option Wait
  hold : Option Nat
  suspended : Bool
  lastIssue : Option Nat
  cycleBases : Assoc Nat
  cycleStop : Option Nat
  retired : Nat
  print : BitVec 64
  tail : List Trace
  echo : List Word
  asked : Nat
  expects : List Expect
  told : List (Nat × BitVec 1024 × BitVec 32)
  spawned : Option Dest
  deriving DecidableEq, Repr

def Stream.reset : Stream := ⟨[], false, 0, 0⟩
def NestSlot.reset : NestSlot := ⟨0, none, none, false, 0, 0, none⟩
def Actor.absent : Actor := ⟨false, false, false, 0, 0, [], [], 0, 0, 0, 0⟩

/-- A sequencer after reset: zero, empty and unbound, the fingerprint at its initial value (R281). -/
def Seq.reset : Seq where
  xs := Vector.replicate 32 0
  xPoison := 0
  xPending := 0
  vs := Vector.replicate 32 0
  vPoison := Vector.replicate 32 0
  vPending := 0
  ps := 1
  ks := Vector.replicate 4 0
  pc := 0
  firing := none
  returns := []
  cspill := 0
  csplim := 0
  fprm := 0
  fpstat := 0
  sds := Vector.replicate 8 Stream.reset
  handles := Vector.replicate 16 none
  nests := Vector.replicate 4 NestSlot.reset
  actors := Vector.replicate 16 Actor.absent
  arrivalAge := 0
  lastFired := Vector.replicate 4 16
  latch := 0
  deadline := none
  wait := none
  hold := none
  suspended := false
  lastIssue := none
  cycleBases := []
  cycleStop := none
  retired := 0
  print := BitVec.allOnes 64
  tail := []
  echo := []
  asked := 0
  expects := []
  told := []
  spawned := none

/-! ## A tile -/

/-- A queue's geometry (log2 of slot size and of slot count), its counters (R106), and whether an uncorrectable error stands in a
counter (R275). -/
structure Queue where
  lz : Nat
  ls : Nat
  p : BitVec 32
  c : BitVec 32
  poison : Bool
  deriving DecidableEq, Repr

/-- The smallest queue, empty. -/
def Queue.reset : Queue := ⟨3, 1, 0, 0, false⟩

/-- A full/empty access that waits at a bank unit: who, which, the byte offset and width, a store's data and poison mark
(R158), whether a pair's hold buffer released it, so that no instruction waits for it (R280), the request that brought it from another
unit, if one did (R179), and the scope of one that is a release or an acquire, with FE = 2 or by its ORD (R199). -/
structure FeWaiter where
  seq : SeqId
  op : FeOp
  offset : Nat
  width : Nat
  data : Word
  poison : Bool
  released : Bool
  request : Option Nat
  scope : Option Nat
  deriving DecidableEq, Repr

/-- A gondola as it travels: its number and launch, the carried program counter, x1-x7 with their poison marks, and whether
its packet has still to be read back from the ring (R116, R276, R313). -/
structure Gondola where
  number : Nat
  gang : Nat
  pc : Word
  regs : Vector Word 7
  poison : BitVec 7
  unread : Bool
  deriving DecidableEq, Repr

/-- A tensor table entry, its eight 8-byte words (R214). -/
abbrev Tensor := Vector Word 8

/-- The matrix modes of R210. -/
inductive MmaMode where
  | four
  | eight
  | sixteen
  | fp32
  | fp64
  deriving DecidableEq, Repr

/-- An MMA of the matrix queue: its operands as issued, its step count and progress counter P (R217, R218), the split
channels with the B rows copied for them where they are wider than a row of the split-row area (R92), how many checksum mismatches an
upset of the array will show in its next k-steps (R220), whether a fetch fault stops it, and the fault that a pair has still to report
(R218). -/
structure Mma where
  gang : Nat
  mode : MmaMode
  slotForm : Bool
  tida : Nat
  tidb : Nat
  ea : Tensor
  eb : Tensor
  a0 : Nat
  b0 : Nat
  aslot : Nat
  bslot : Nat
  acc : Nat
  sig : Option Nat
  steps : Nat
  p : Nat
  channels : List Nat
  split : List (List Nat)
  upsets : Nat
  stopped : Bool
  fault : Option (Word × Bool)
  deriving DecidableEq, Repr

/-- The wait of a chain command (R172). -/
inductive CmdWait where
  | none
  | sem (n : Nat)
  | full (addr : Word)
  | atLeast (addr : Word) (value : Word)
  deriving DecidableEq, Repr

/-- One translated stretch of a command's range: the virtual base and limit and the leaf word taken at issue (R175). -/
structure Span where
  base : Nat
  limit : Nat
  leaf : Word
  deriving DecidableEq, Repr

/-- What an engine command does, with its operands; COLL with its descriptor's offset, tag and participants as device and
launch-local index in rank order (R172, R174, R176, R177, R263). -/
inductive CmdOp where
  | copy (dst src len aux : Word)
  | get (dst src len : Word)
  | puts (dst src len counter : Word) (decrement : Byte)
  | coll (dst src : Word) (count : Nat) (kind fn ty root : Nat) (endpoint : Bool) (desc : Nat) (tag : BitVec 32)
    (ranks : List (Nat × Nat))
  deriving DecidableEq, Repr

/-- A command's place in its life (R172). -/
inductive CmdState where
  | appended
  | published
  | running
  | complete
  deriving DecidableEq, Repr

/-- A command held by an engine: number, operation, wait, the record it came from, the firing and gang that appended it,
the translations taken at issue, the destination bytes moved or requested so far, the words past them that are written already
(R209), the requests not yet returned with their completion token (R169), whether all bytes have landed, whether the signal of a PUTS has been applied,
the poison count, and the time it was published. -/
structure Cmd where
  number : Nat
  op : CmdOp
  wait : CmdWait
  record : Option Nat
  firing : Nat
  gang : Nat
  state : CmdState
  spans : List Span
  sent : Nat
  early : List Nat
  awaiting : Nat
  token : Word
  landed : Bool
  signalled : Bool
  poison : Nat
  since : Nat
  deriving DecidableEq, Repr

/-- An engine: the number the next command takes, the commands appended above CS, the completion sequence CS, and the
scratchpad offset of the record last appended (R171, R173). -/
structure Engine where
  next : Nat
  cmds : List Cmd
  cs : Nat
  last : Option Nat
  deriving DecidableEq, Repr

/-- A tile's part in a bridled pair (R279). -/
inductive Twin where
  | alone
  | primary
  | twin
  deriving DecidableEq, Repr

/-- One tile (R16): the gang it holds, both sequencers, and the state they share. Its scratchpad, operand memory, split-row
area and accumulators are bytes of `Mem`. `full` lists the scratchpad words that are full, `kstep` is the time since which the
current k-step of the running MMA lasts (R155), and `staged` the bytes of job memory that a pair's primary has fetched for its twin's
k-step (R215). `ring` lists the gondolas that the overflow ring holds, oldest first, `ringNo` is the
ring's number in the partition's pool, and `ringPut` counts the packets written to it (R120). -/
structure Tile where
  gang : Nat
  index : Nat
  twin : Twin
  a : Seq
  x : Seq
  full : List Nat
  waiters : List FeWaiter
  queues : Assoc Queue
  toX : List Bool
  toA : List Bool
  tags : Assoc (BitVec 44)
  claims : BitVec 32
  accTag : BitVec 4
  tensors : Assoc Tensor
  attached : List (Nat × Nat × List Nat)
  matrix : List Mma
  lastSteps : Nat
  kstep : Nat
  staged : List (List Byte)
  sems : Vector Byte 8
  fmt : BitVec 32
  copy : Engine
  coll : Engine
  arrivals : List Gondola
  ring : List Gondola
  ringNo : Nat
  ringPut : Nat
  arrcap : BitVec 7
  quarantined : Bool
  deriving DecidableEq, Repr

def Engine.reset : Engine := ⟨1, [], 0, none⟩

/-- A tile after reset: no gang, everything empty, zero and unclaimed (R140, R211). -/
def Tile.reset : Tile where
  gang := 0
  index := 0
  twin := .alone
  a := Seq.reset
  x := Seq.reset
  full := []
  waiters := []
  queues := []
  toX := []
  toA := []
  tags := []
  claims := 0
  accTag := 0
  tensors := []
  attached := []
  matrix := []
  lastSteps := 0
  kstep := 0
  staged := []
  sems := Vector.replicate 8 0
  fmt := 0
  copy := Engine.reset
  coll := Engine.reset
  arrivals := []
  ring := []
  ringNo := 0
  ringPut := 0
  arrcap := 64
  quarantined := false

/-! ## A cluster -/

/-- The three accesses a page permits or not (R185). -/
inductive Access where
  | read
  | write
  | fetch
  deriving DecidableEq, Repr

/-- A TLB entry (R187): partition, size code of R189, virtual base, limit, and R185 bits [61:0]. -/
structure TlbEntry where
  part : Nat
  size : BitVec 2
  base : Nat
  limit : Nat
  leaf : BitVec 62
  deriving DecidableEq, Repr

/-- A pending miss at a TLB (R188), with its stale mark, and the addresses whose entries TLBINV has dropped since: an entry that covers one
of them would have been dropped (R190). -/
structure Miss where
  part : Nat
  va : Nat
  access : Access
  stale : Bool
  cleared : List Nat
  deriving DecidableEq, Repr

structure Tlb where
  entries : List TlbEntry
  misses : List Miss
  deriving DecidableEq, Repr

/-- What a trap stops until ERET (R71, R114, R218, R357). -/
inductive Origin where
  | instruction (seq : SeqId)
  | matrix (tile : Nat)
  | reel (seq : SeqId) (slot : Nat)
  | device (seq : SeqId)
  | none
  deriving DecidableEq, Repr

/-- A trap: unit, sequencer kind, cause, EPC and TVAL as the service core takes them (R69, R70, R357), the gang it
charges, the partition, what it stops, and the number of the memory miss it reports, if it is one. -/
structure Trap where
  unit : BitVec 16
  kind : BitVec 2
  code : Byte
  epc : Word
  tval : Word
  gang : Nat
  part : Nat
  origin : Origin
  miss : Option Access
  deriving DecidableEq, Repr

/-- A wake of a variable that has not settled: its time, and its original time when it came late (R235, R241). -/
structure Wake where
  time : Word
  late : Option Word
  deriving DecidableEq, Repr

/-- A variable record: eight words (R225) with their poison marks (R249), tprev (R237) and the unsettled wakes, oldest first. -/
structure EvRec where
  w : Vector Word 8
  poison : BitVec 8
  tprev : Word
  wakes : List Wake
  deriving DecidableEq, Repr

/-- A window (R240): H, T, and the completion word's key and layout-table entry, if there is one. -/
structure Window where
  h : Word
  t : Word
  word : Option (Nat × BitVec 32)
  deriving DecidableEq, Repr

/-- An armed sample (R243-R245): buffer address, ts, the H of the window at capture, and the capture mark. -/
structure Sample where
  buffer : Word
  ts : Word
  h : Word
  captured : Bool
  deriving DecidableEq, Repr

/-- A token in an engine's token queue (R231): the woken variable and its time. -/
structure Token where
  index : Nat
  time : Word
  deriving DecidableEq, Repr

/-- A wake still to make for an item (R230, R231): the woken variable's reference, whether it is the event's own variable,
the original time of a late token, and whether PEND is set and the wake counted, so that only its token is still to be written. -/
structure ToWake where
  ref : BitVec 29
  self : Bool
  late : Option Word
  pending : Bool
  deriving DecidableEq, Repr

/-- An item being processed (R230): its time, the wakes still to make in order, those made that have not settled, and since
when it is in hand. -/
structure Item where
  time : Word
  todo : List ToWake
  unsettled : Nat
  since : Nat
  deriving DecidableEq, Repr

/-- What an instruction asks of an event engine: EVDEF of an image, EVDEP with its list base, EVRUN, EVSAMP, EVSLOPE. -/
inductive EvCmd where
  | define (index : Nat) (image : Vector Word 8)
  | depend (index : Nat) (first count : Nat) (base : Word)
  | run (w : Window)
  | sample (buffer ts : Word)
  | slope (index : Nat) (s1 s2 : Word)
  deriving DecidableEq, Repr

/-- The event engine of a cluster (R223-R249). `opening` and `arming` tell that a bridled pair has asked for the window or the sample,
which leaves it at its next boundary (R280). -/
structure EvEngine where
  gang : Nat
  recs : Assoc EvRec
  lvt : Word
  gvt : Word
  window : Option Window
  listBase : Word
  tokens : List Token
  item : Option Item
  sample : Option Sample
  incoming : Option Word
  opening : Bool
  arming : Bool
  events : BitVec 64
  wakes : BitVec 64
  sent : BitVec 64
  received : BitVec 64
  lateTokens : BitVec 64
  lateness : Word
  clamps : BitVec 64
  dropped : BitVec 64
  deriving DecidableEq, Repr

def EvEngine.reset : EvEngine where
  gang := 0
  recs := []
  lvt := 0
  gvt := 0
  window := none
  listBase := 0
  tokens := []
  item := none
  sample := none
  incoming := none
  opening := false
  arming := false
  events := 0
  wakes := 0
  sent := 0
  received := 0
  lateTokens := 0
  lateness := 0
  clamps := 0
  dropped := 0

/-- The phase of the droop response, with the cycle of the cluster clock in which it began (R299). -/
inductive Droop where
  | none
  | stretch (start : Nat)
  | ballast (start : Nat)
  deriving DecidableEq, Repr

/-- One cluster (R15): the service core with its CSRs and trap queue, the TLB, the event engine, the droop detector, and
the cluster clock, given as an edge count at a time from which it runs at one pace. `stepTrip` is the cycle in which the step source
has tripped and the trip is not yet taken (R298), and `cut` the start of the ballast that a stretch has ended, which lasts to the end of
the trip's cycle (R299). -/
structure Cluster where
  svc : Seq
  causeUnit : BitVec 16
  causeKind : BitVec 2
  causeCode : Byte
  epc : Word
  tval : Word
  tvec : Word
  traps : List Trap
  inHand : Option Trap
  partid : BitVec 4
  tlb : Tlb
  ev : EvEngine
  evtmin : Vector Word 8
  drpth : BitVec 24
  trips : BitVec 32
  tripSource : Bool
  lastTrip : Option Nat
  droop : Droop
  clockTime : Nat
  clockEdges : Nat
  vectorCycles : List Nat
  stepTrip : Option Nat
  cut : Option Nat
  pairs : BitVec 2
  deriving DecidableEq, Repr

/-- A cluster after reset (R69, R182, R238, R284, R298, R300); its service core waits for a trap (log 12). -/
def Cluster.reset : Cluster where
  svc := { Seq.reset with suspended := true }
  causeUnit := 0xFFFF
  causeKind := 0
  causeCode := 0
  epc := 0
  tval := 0
  tvec := 0
  traps := []
  inHand := none
  partid := 0
  tlb := ⟨[], []⟩
  ev := EvEngine.reset
  evtmin := Vector.replicate 8 0
  drpth := 0x04182D
  trips := 0
  tripSource := false
  lastTrip := none
  droop := .none
  clockTime := 0
  clockEdges := 0
  vectorCycles := []
  stepTrip := none
  cut := none
  pairs := 3

/-! ## A memory core -/

/-- A slot of a request queue, its eight words (R169). -/
abbrev Request8 := Vector Word 8

/-- One memory core (R18, R20): its sequencer, arrival queue (R167), request queue q15 with a poison mark for each of its words and its counters, the request its
firing has taken and not completed, with the poisoned words delivered for it (R169), and its TLB (R187). -/
structure MCore where
  m : Seq
  arrivals : List Gondola
  slots : Vector Request8 64
  slotMarks : BitVec 512
  p : BitVec 32
  c : BitVec 32
  taken : Option Request8
  takenPoison : Nat
  returning : List (Request8 × Nat)
  tlb : Tlb
  deriving DecidableEq, Repr

def MCore.reset : MCore where
  m := Seq.reset
  arrivals := []
  slots := Vector.replicate 64 (Vector.replicate 8 0)
  slotMarks := 0
  p := 0
  c := 0
  taken := none
  takenPoison := 0
  returning := []
  tlb := ⟨[], []⟩

/-! ## Bridled pairs -/

/-- A gang launch record, its 24 words (R130). -/
abbrev LaunchRecord := Vector Word 24

/-- An undo-log entry: scratchpad word, its old bytes, full/empty bit and poison mark (R280). -/
structure Undo where
  word : Nat
  old : BitVec 64
  full : Bool
  poison : Bool
  deriving DecidableEq, Repr

/-- A gondola in transit with its packet's way, and whether it has been parked (R149). -/
structure Transit where
  gondola : Gondola
  dest : Dest
  parked : Bool
  way : Way
  deriving DecidableEq, Repr

/-- What the launch unit knows of the record at a queue head or in the pool: whether its checks are done, since what time
it has been eligible, whether it blocks, its depth and parent, and the limits it takes from its parent (R132, R138, R139, R143,
R145). -/
structure RecState where
  words : LaunchRecord
  checked : Bool
  eligible : Option Nat
  blocking : Bool
  depth : Nat
  parent : Nat
  livelim : BitVec 16
  lpool : BitVec 13
  ldepth : BitVec 5
  deriving DecidableEq, Repr

/-- A deferred arrival of BARDEF (R127): the tile, the barrier name, and the commands it waits for. -/
structure Deferred where
  gang : Nat
  tile : Nat
  name : Nat
  cmds : List (Nat × Nat)
  deriving DecidableEq, Repr

/-- What a pair asks of a barrier of its die and gang: BARINIT with its members, an arrival, or a deferred arrival. -/
inductive BarAct where
  | init (name : Nat) (members : List Nat)
  | arrive (name : Nat)
  | defer (d : Deferred)
  deriving DecidableEq, Repr

/-- What leaves a bridled pair only when a boundary agrees (R280): the writes of one instruction, a read-modify-write of REL `.add`, a full/empty
store or FEST, a move of a queue's producer or consumer counter, a gondola with SPAWN's D (R313), the publication of an engine's commands up to a
number, a child's record or its refusal, what is asked of an event engine, and what is asked of a barrier. -/
inductive Held where
  | write (ps : List Piece)
  | add (key : Nat) (entry : BitVec 32) (value : Word) (address : Word)
  | fe (tile : Nat) (w : FeWaiter)
  | state (tile : Nat) (word : Nat) (full : Bool)
  | move (r : QRef) (publish : Bool) (n : Nat)
  | gondola (x : Transit) (d : BitVec 6)
  | publish (engine : Nat) (upTo : Nat)
  | launch (r : RecState)
  | refused (words : LaunchRecord) (part status : Nat)
  | event (cluster gang : Nat) (c : EvCmd)
  | barrier (gang : Nat) (c : BarAct)
  deriving DecidableEq, Repr

/-- A bridled pair, kept under its primary tile (R279-R283): both undo logs, the bytes with their poison marks and the word states
that agents outside have written in the interval, by offset and word (R282), the hold buffer, the checkpoint of both
tiles with their operand memory and accumulators, the retired counts at which a boundary is to be taken, rollbacks, and
whether the interval has already disagreed, whether the pair stops at its next boundary to be pre-empted, and whether an
uncorrectable error stands in a log or the checkpoint (R283). -/
structure Pair where
  gang : Nat
  undoPrimary : List Undo
  undoTwin : List Undo
  outside : Assoc (Byte × Bool)
  outsideFull : Assoc Bool
  held : List Held
  primary : Tile
  twin : Tile
  stored : List Host.Cell
  boundary : Option (Nat × Nat)
  since : Nat
  rollbacks : Nat
  disagreed : Bool
  freezing : Bool
  broken : Bool
  deriving DecidableEq, Repr

def Pair.reset : Pair where
  gang := 0
  undoPrimary := []
  undoTwin := []
  outside := []
  outsideFull := []
  held := []
  primary := Tile.reset
  twin := Tile.reset
  stored := []
  boundary := none
  since := 0
  rollbacks := 0
  disagreed := false
  freezing := false
  broken := false

/-! ## Gangs and the launch unit -/

/-- A launch queue (R136, R291). -/
structure LaunchQueue where
  base : Word
  en : Bool
  log2n : BitVec 4
  head : BitVec 32
  tail : BitVec 32
  prio : BitVec 3
  owner : BitVec 4
  record : Option RecState
  deriving DecidableEq, Repr

def LaunchQueue.reset : LaunchQueue := ⟨0, false, 0, 0, 0, 0, 0, none⟩

/-- A gang part's place in its life: placed and waiting for its start tick, running, about to be pre-empted while its event
engines finish their items, pre-empted, or ended and waiting for its children (R142, R144, R146, R318). -/
inductive Phase where
  | placed
  | running
  | stopping
  | preempted
  | waiting
  deriving DecidableEq, Repr

/-- What pre-emption saves (R147, R149): each tile with its bytes, the pairs, the event engines, the memory-core gondolas parked with the
core each came from, the times at which the sequencers stopped and at which the save was over, whether all is saved, and whether an uncorrectable error stands
in the save area (R150). -/
structure Saved where
  tiles : List (Nat × Tile)
  cells : List Host.Cell
  pairs : List (Nat × Pair)
  engines : List (Nat × EvEngine)
  parked : List (Nat × Gondola)
  time : Nat
  savedAt : Nat
  complete : Bool
  broken : Bool
  deriving DecidableEq, Repr

/-- A binding of a region to a sync object (R200): base, length and object. -/
structure Binding where
  base : Word
  length : Nat
  object : Word
  deriving DecidableEq, Repr

/-- One gang part on this module (R94, R130-R155, R445). `tiles` are the primaries in launch-local order, `groups` lists
each entry's launch-local indices. `added` tells whether the part was placed in time, `go` and `abort` what it has read of the
rendezvous word and not yet used (R142). `livelim0`, `lpool0` and `ldepth0` are the limits with which the launch starts (R145). `gvt` is the last global virtual time (R239). The counts are those of the completion
record (R133, R287). `met` tells whether a
restartable part has met an error of S3 or worse that has not ended it yet (R153), `consumed` is the TVAL of the last poison
consumed for it (R70, R276), `killing` is the status and cause with which the part ends, `final` whether no re-execution follows (R153). -/
structure Gang where
  record : LaunchRecord
  part : Nat
  tiles : List Nat
  bridled : Bool
  groups : List (List Nat)
  depth : Nat
  parent : Nat
  fromQueue : Bool
  phase : Phase
  added : Bool
  go : Bool
  abort : Bool
  start : Nat
  live : Nat
  livelim : BitVec 16
  lpool : BitVec 13
  ldepth : BitVec 5
  livelim0 : BitVec 16
  lpool0 : BitVec 13
  ldepth0 : BitVec 5
  bindings : List Binding
  period : Nat
  gvt : Word
  rings : List Nat
  digests : List (BitVec 512)
  poison : Nat
  s1 : Nat
  rollbacks : Nat
  reexecutions : Nat
  clamps : Nat
  worst : Nat
  quarantined : Nat
  units : List (BitVec 16)
  lastFault : Word
  killing : Option (Nat × Nat)
  met : Bool
  consumed : Option Word
  final : Bool
  saved : Option Saved
  deriving DecidableEq, Repr

/-- A barrier context of a die (R125-R127): its gang and name, members, phase, the tiles that have arrived, the phase of each
tile's last arrival since the barrier was initialised, and the sequencers that wait and that BARINIT has released. -/
structure Barrier where
  die : Nat
  gang : Nat
  name : Nat
  members : List Nat
  phase : Nat
  arrived : List Nat
  last : Assoc Nat
  waiting : List SeqId
  released : List SeqId
  deriving DecidableEq, Repr

/-- A pushed block in transit (R170): its number, the memory core that sent it, the destination kind and place, and the bytes with
their poison marks, the 64-byte rows of a slot that it has written already (R213), how many of its source requests have not returned, its
packet's way, and for a block of a copy the tile, engine and number of the command with the tile-side address (R169). -/
structure Pushed where
  id : Nat
  core : Nat
  firing : Nat
  gang : Nat
  kind : BitVec 2
  tile : Nat
  offset : Nat
  slot : Nat
  seqX : Bool
  bytes : List (Byte × Bool)
  rows : List Nat
  pending : Nat
  way : Way
  cmd : Option (Nat × Nat × Nat × Word)
  deriving DecidableEq, Repr

/-- A wake token between engines that is not accepted yet (R231, R241): its number, its launch, the sending engine, the receiving
engine, and its packet's way. An engine is 512 times its device's place plus its cluster. -/
structure Sent where
  id : Nat
  gang : Nat
  sender : Nat
  engine : Nat
  token : Token
  way : Way
  deriving DecidableEq, Repr

/-- A device's value on its way to a switch or another device (R250, R254, R265): whether the device proposes in-network, the value,
the bytes of it that have crossed the tether, and the way of its present packet. -/
structure Sending where
  inNetwork : Bool
  values : List Word
  done : Nat
  way : Way
  deriving DecidableEq, Repr

/-- A matched collective (R263-R265): its number, its tag and descriptor contents, with the participants in rank order as device and
launch-local index; the operation; the participants of this module whose command has started, each with its tile, command
number and whether it proposes in-network; the values of each device's stage in the order of their arrival at the tree's
switch, with whether that device proposes in-network; once settled, the mode and the result; and this device's own value while it is on
its way. -/
structure Collective where
  id : Nat
  gang : Nat
  tag : BitVec 32
  ranks : List (Nat × Nat)
  kind : Nat
  fn : Nat
  ty : Nat
  count : Nat
  root : Nat
  started : List (Nat × Nat × Nat × Bool)
  values : List (Nat × Bool × List Word)
  settled : Option (Bool × List Word)
  sending : Option Sending
  deriving DecidableEq, Repr

/-- A multicast packet on this module: the result of a collective on its way to some of its participants' tiles, with the packet's
way (R259, R264, R265). A branch keeps the number of the packet it comes from. -/
structure Multicast where
  id : Nat
  gang : Nat
  collective : Nat
  targets : List Nat
  way : Way
  deriving DecidableEq, Repr

/-- A completion that is still to be reported (R135): its partition, its record, the completion record's bytes, and whether the record
came from a queue. -/
structure PendingReport where
  part : Nat
  record : LaunchRecord
  bytes : List Byte
  fromQueue : Bool
  deriving DecidableEq, Repr

/-- The launch unit and the objects of launches (R120, R125, R130-R155, R170, R231, R263). `undelivered` are traps raised
and not yet in a service core's queue (R357). -/
structure Launch where
  queues : Assoc LaunchQueue
  pool : Assoc RecState
  gangs : Assoc Gang
  turn : Nat
  barriers : List Barrier
  deferred : List Deferred
  transit : List Transit
  pushes : List Pushed
  tokens : List Sent
  collectives : List Collective
  multicasts : List Multicast
  undelivered : List Trap
  reports : List PendingReport
  deriving DecidableEq, Repr

def Launch.reset : Launch := ⟨[], [], [], 0, [], [], [], [], [], [], [], [], []⟩

/-! ## Partitions -/

/-- A switch of a job's reduction tree: its place in the trust table, the devices whose values come to it, and the switches, by place,
whose results come to it (R262, R265). -/
structure Branch where
  slot : Nat
  devices : List Nat
  below : List Nat
  deriving DecidableEq, Repr

/-- An access of a device unit whose miss the serving firmware has let stand: the sequencer whose TLB it uses, the gang, the address
and the access (R186, R188). -/
structure Refused where
  seq : SeqId
  gang : Nat
  va : Nat
  access : Access
  deriving DecidableEq, Repr

/-- One partition and its function (R182, R269, R286, R290-R292, R120, R260). `key` is its job's key, `measured` the job's accepted
measurement list, `tree` the reduction tree of its job with the top switch first (R260, R262), `ringsTaken` lists the rings of the pool that placed tiles hold (R120), and `refused` the device
units' accesses that conclude not mapped when they are repeated (R188). -/
structure Part where
  atbase : Word
  atcfg : BitVec 8
  errcnt : Vector Word 8
  layouts : Vector (BitVec 32) 16
  featacc0 : Word
  featacc1 : Word
  written0 : Bool
  written1 : Bool
  pfault : BitVec 3
  wdog : BitVec 32
  allow : BitVec 512
  ringbase : BitVec 48
  ringsize : BitVec 16
  ringsTaken : List Nat
  key : Option (BitVec 256)
  measured : List (BitVec 512)
  tree : List Branch
  msix0 : Bool
  msix1 : Bool
  msixTime : Option Nat
  refused : List Refused
  deriving DecidableEq, Repr

/-- Rings of a partition's pool that are taken (R120). -/
def Part.ringsUsed (p : Part) : Nat := p.ringsTaken.length

/-- Partition `p` after reset: the whole device is in partition 0's allowance (R291). -/
def Part.reset (p : Nat) : Part where
  atbase := 0
  atcfg := 0
  errcnt := Vector.replicate 8 0
  layouts := Vector.replicate 16 0
  featacc0 := 0
  featacc1 := 0
  written0 := false
  written1 := false
  pfault := 0
  wdog := 10000
  allow := if p = 0 then BitVec.allOnes 512 else 0
  ringbase := 0
  ringsize := 0
  ringsTaken := []
  key := none
  measured := []
  tree := []
  msix0 := false
  msix1 := false
  msixTime := none
  refused := []

/-! ## The fabric -/

/-- How far a request has come (R165, R179, R208, R256): sent, delivered to its home as the `arrival`-th packet of the module,
waiting there for a word's state or value (R158, R384), or performed there, with its answer on the way back: a value of up to 128
bytes with the poison marks of its 32-bit lanes, or the mark 2 for a home that consumed poison. -/
inductive ReqStage where
  | sent
  | delivered (arrival : Nat)
  | waiting
  | answered (value : BitVec 1024) (poison : BitVec 32)
  deriving DecidableEq, Repr

/-- What a request's access is to the order of memory (R199, R201, R205, R207): a release in a scope, an acquire, and a full acquire,
that of WAITSEQ or, with `order`, of a full fence. -/
structure Sync where
  release : Option Nat
  acquire : Option Nat
  full : Option Nat
  order : Bool
  deriving DecidableEq, Repr

/-- A plain access. -/
def Sync.none : Sync := ⟨Option.none, Option.none, Option.none, false⟩

/-- A request: issuing sequencer, or the tile's engine with the command's number (R176, R177), firing, gang, partition, operation, the
home (a tile of the domain, or 2^20 plus a memory core, by device), flow with extended sequence number (R261), how far it has come, the
way of its packet or of its answer's, the queue slot's counter that a load into a queue found (R179), whether the firing left with
MIGR, so that its data is discarded (R118), for a pair's primary the number of the request among those of its sequencer with how
many entries of the hold buffer its read takes in (R279, R280), what its access is to the order of memory (R199), and the number of the
first request of its instruction, whose requests to several owners count as one (R166, R434), and the service cores whose TLBINV has
dropped an entry that it used (R190). -/
structure Request where
  id : Nat
  seq : SeqId
  engine : Option (Nat × Nat)
  firing : Nat
  gang : Nat
  part : Nat
  op : ReqOp
  home : Nat
  ordered : Bool
  flow : Nat
  number : Nat
  stage : ReqStage
  way : Way
  slot : Option (BitVec 32)
  void : Bool
  echo : Option (Nat × Nat)
  sync : Sync := Sync.none
  whole : Nat := 0
  dropped : List Nat := []
  deriving DecidableEq, Repr

/-- A response kept for duplicates (R256). -/
structure Cached where
  home : Nat
  flow : Nat
  number : Nat
  value : BitVec 1024
  poison : BitVec 32
  deriving DecidableEq, Repr

/-- The state of a tether link (R258). -/
inductive LinkState where
  | retraining
  | up
  | down
  | failed
  deriving DecidableEq, Repr

/-- A tether link: its state, the retrainings in a row that have differed, the groups replayed, and what the last retraining has
given it: its width in lanes, the physical lanes of logical lanes 0 to 3, and the speed code (R255, R258). -/
structure Link where
  state : LinkState
  differing : Nat
  replays : Nat
  width : Byte
  lanes : BitVec 32
  speed : Byte
  deriving DecidableEq, Repr

def Link.reset : Link := ⟨.retraining, 0, 0, 0, 0, 0⟩

/-- A trust-table entry (R262). -/
structure Trust where
  digest : Word
  number : BitVec 16
  state : Byte
  deriving DecidableEq, Repr

/-- The steps of drain and swap (R252). -/
inductive Drain where
  | idle
  | stopped
  deriving DecidableEq, Repr

/-- What a peer module's part of a gang holds, as the domain tells it (R445): partition and rendezvous word of the launch,
the tile of the domain, its launch-local index and its groups, the status and cause that ended the part, if it was killed, and
whether the part meets the condition of R104 on its module. -/
structure PeerTile where
  part : Nat
  rendezvous : Word
  tile : Nat
  index : Nat
  groups : List Nat
  killed : Option (Nat × Nat)
  idle : Bool
  deriving DecidableEq, Repr

/-- A binding that a peer module's part of a launch has made, as the domain tells it (R200). -/
structure PeerBinding where
  part : Nat
  rendezvous : Word
  binding : Binding
  deriving DecidableEq, Repr

/-- The fabric, the links and the security controller (R250-R262, R277, R278). A router's table entry stands at
router·4096 + destination·16 + partition; `minimalActive` and `minimalShadow` tell, by partition, whether the entries that a
table does not list are the firmware's minimal routes or entries with V = 0. `rects` holds CRECT registers and `rectState` each rectangle's kill state, at
die·16 + n. `roots` are the roots that system software has installed for attestation (R260). -/
structure Fabric where
  active : Assoc (BitVec 16)
  shadow : Assoc (BitVec 16)
  minimalActive : BitVec 16
  minimalShadow : BitVec 16
  drain : Vector Drain 16
  requests : List Request
  flows : Assoc Nat
  delivered : List (Nat × Nat)
  cache : List Cached
  timeout : BitVec 10
  links : Vector Link 18
  trust : Assoc Trust
  failedAttestations : Nat
  roots : List (BitVec 512)
  rects : Assoc (BitVec 16)
  rectState : Assoc Nat
  peers : List PeerTile
  peerBindings : List PeerBinding
  deriving DecidableEq, Repr

/-- CRECT0 of each compute die covers the whole die; the others are undefined (R277). -/
def resetRects : Assoc (BitVec 16) := [(0, 0x8307), (16, 0x8307), (32, 0x8307), (48, 0x8307)]

/-- The fabric after reset (R250, R257, R258, R262, R277). -/
def Fabric.reset : Fabric where
  active := []
  shadow := []
  minimalActive := 0
  minimalShadow := 0
  drain := Vector.replicate 16 .idle
  requests := []
  flows := []
  delivered := []
  cache := []
  timeout := 50
  links := Vector.replicate 18 Link.reset
  trust := []
  failedAttestations := 0
  roots := []
  rects := resetRects
  rectState := []
  peers := []
  peerBindings := []

/-! ## The host interface -/

/-- DEVSTATE, DEVID and whether it has been assigned (R30), monitors, power cap, the routers under thermal ballast, the hub's last power estimate in W, boot images and measurements (R290, R294-R297). `lastRead` is the data that the
last BAR2 read returned, `spdm` the digest that the last measurement request returned and `signature` its signature, by function. -/
structure HostPort where
  devstate : BitVec 3
  devid : BitVec 8
  assigned : Bool
  temp : Assoc (BitVec 16)
  peak : Assoc (BitVec 16)
  volt : Assoc (BitVec 16)
  proc : Assoc (BitVec 16)
  pwrcap : BitVec 12
  hot : List Nat
  estimate : Nat
  overPower : Bool
  stopped : Bool
  flash : List Byte
  recovery : List Byte
  measured : Vector (BitVec 512) 4
  spdm : Assoc (BitVec 512)
  signature : Assoc (List Byte)
  lastRead : List Byte
  deriving DecidableEq, Repr

def HostPort.reset : HostPort where
  devstate := 0
  devid := 0
  assigned := false
  temp := []
  peak := []
  volt := []
  proc := []
  pwrcap := 3200
  hot := []
  estimate := 0
  overPower := false
  stopped := false
  flash := []
  recovery := []
  measured := Vector.replicate 4 0
  spdm := []
  signature := []
  lastRead := []

/-! ## The module -/

/-- What system software of the domain brings about on this module: the roots of attestation and a job's accepted measurements (R260),
a job's reduction tree (R262), and what the parts of a launch on other modules hold and have bound (R200, R445). -/
inductive Domain where
  | roots (l : List (BitVec 512))
  | accepted (part : Nat) (l : List (BitVec 512))
  | tree (part : Nat) (l : List Branch)
  | peers (l : List PeerTile)
  | bindings (l : List PeerBinding)
  deriving DecidableEq, Repr

/-- A turn that the outside world, or the chosen interleaving, gives: an instruction of a sequencer, a device step with
the subject it concerns, the passing of time, what system software of the domain brings about, firmware serving the trap a service core has in hand or the request a
memory core has taken, or what agents see of each other's writes: the words of later plain accesses that take their slack, and a write
that an agent comes to see (R198, R203). -/
inductive Turn where
  | run (seq : SeqId)
  | event (i : Instr) (subject : Nat)
  | pass (time : Nat)
  | firmware (cluster : Nat)
  | loader (core : Nat)
  | domain (d : Domain)
  | slack (words : BitVec 64)
  | settle (write : Nat) (q : SeqId)
  deriving DecidableEq, Repr

/-- The state of one module. The first eight fields are the model's own: the turns given from outside, the sequencer whose
instruction is executed next, the subject of the device step in hand, the place of the built-in round robin, the time in
units of 1/17 ns, the counter that numbers free values, the counter that numbers gangs, firings and requests, and which words of a plain
access, by their place in it, take the slack that R203 leaves: a read the oldest value it may return, a write that no other agent sees
it yet (log 42). -/
structure State where
  agenda : List Turn
  focus : SeqId
  subject : Nat
  cursor : Nat
  time : Nat
  free : Nat
  next : Nat
  slack : BitVec 64
  mem : Mem
  tiles : Assoc Tile
  clusters : Assoc Cluster
  mcores : Assoc MCore
  pairs : Assoc Pair
  launch : Launch
  parts : Vector Part 16
  fabric : Fabric
  host : HostPort
  deriving DecidableEq, Repr

/-- The module right after a module reset. -/
def State.reset : State where
  agenda := []
  focus := .s 0
  subject := 0
  cursor := 0
  time := 0
  free := 0
  next := 1
  slack := 0
  mem := Mem.reset
  tiles := []
  clusters := []
  mcores := []
  pairs := []
  launch := Launch.reset
  parts := Vector.ofFn (fun p : Fin 16 => Part.reset p.val)
  fabric := Fabric.reset
  host := HostPort.reset

/-- What stops the machine. -/
inductive Fault where
  /-- An access to a physical address past the installed capacity (R17, R20): raised by every access to external memory.
  Safe: the model stops where the spec gives no effect. -/
  | absentMemory
  deriving DecidableEq, Repr

/-- Why a step has no meaning. -/
inductive Refusal where
  /-- An instruction without a meaning: raised by its arm of `exec`. Safe: the model stops. -/
  | notModelled (mnemonic : String)
  deriving DecidableEq, Repr

end Sys2Proof.Machine
end

