-- ==== Sys2Proof/Machine/Access.lean ====
section
/-! DEFINITION. Reading and updating one unit of the state: each getter with the update that goes with it, the numbering of
units (R27, R28), and the clocks (R5, R24, R299, R302). -/

namespace Sys2Proof.Machine

/-! ## Numbering -/

/-- The cluster of a tile (R27). -/
def clusterOf (tile : Nat) : Nat := tile / 4

/-- The die of a tile (R27). -/
def dieOf (tile : Nat) : Nat := tile / 512

/-- The router of a tile (R27). -/
def routerOf (tile : Nat) : Nat :=
  let q := tile % 512 / 16
  dieOf tile * 40 + (q / 8 + 1) * 8 + q % 8

/-- The router of a memory core: the slice router of its slice, or the hub router of its CXL port (R14, R19, R27). -/
def routerOfCore (core : Nat) : Nat :=
  if core < 256 then
    let slice := core / 4
    slice / 16 * 40 + slice % 16 / 2
  else
    match (core - 256) / 4 with
    | 0 => 160
    | 1 => 162
    | 2 => 165
    | _ => 167

/-- The unit identifier of a sequencer's unit (R28). -/
def unitOf : SeqId → BitVec 16
  | .a t => BitVec.ofNat 16 t
  | .x t => BitVec.ofNat 16 t
  | .m c => 0x3000#16 + BitVec.ofNat 16 c
  | .s c => 0x1000#16 + BitVec.ofNat 16 c

/-- The service core that serves a memory core's TLB (R187). -/
def serverOfCore (core : Nat) : Nat :=
  if core < 256 then core / 4 * 8 else (core - 256) / 4 * 8 + 4

/-- The service core that takes a sequencer's traps (R187, R357). -/
def serverOf : SeqId → Nat
  | .a t => clusterOf t
  | .x t => clusterOf t
  | .m c => serverOfCore c
  | .s c => c

/-- STATUS.KIND of a sequencer (R68). -/
def kindCode (q : SeqId) : BitVec 2 :=
  match q.kind with
  | .a => 0
  | .x => 1
  | .m => 2
  | .s => 3

/-! ## Units of the state -/

namespace State

def tile (s : State) (t : Nat) : Tile := s.tiles.get Tile.reset t
def modTile (s : State) (t : Nat) (f : Tile → Tile) : State := { s with tiles := s.tiles.set t (f (s.tile t)) }

def cluster (s : State) (c : Nat) : Cluster := s.clusters.get Cluster.reset c
def modCluster (s : State) (c : Nat) (f : Cluster → Cluster) : State :=
  { s with clusters := s.clusters.set c (f (s.cluster c)) }

def mcore (s : State) (c : Nat) : MCore := s.mcores.get MCore.reset c
def modMCore (s : State) (c : Nat) (f : MCore → MCore) : State := { s with mcores := s.mcores.set c (f (s.mcore c)) }

def pair (s : State) (t : Nat) : Pair := s.pairs.get Pair.reset t
def modPair (s : State) (t : Nat) (f : Pair → Pair) : State := { s with pairs := s.pairs.set t (f (s.pair t)) }

/-- The registers and marks of a sequencer. -/
def seq (s : State) : SeqId → Seq
  | .a t => (s.tile t).a
  | .x t => (s.tile t).x
  | .m c => (s.mcore c).m
  | .s c => (s.cluster c).svc

def modSeq (s : State) (q : SeqId) (f : Seq → Seq) : State :=
  match q with
  | .a t => s.modTile t (fun u => { u with a := f u.a })
  | .x t => s.modTile t (fun u => { u with x := f u.x })
  | .m c => s.modMCore c (fun u => { u with m := f u.m })
  | .s c => s.modCluster c (fun u => { u with svc := f u.svc })

/-- A partition's registers; partitions are numbered modulo 16 (R22). -/
def part (s : State) (p : Nat) : Part := s.parts[p % 16]'(Nat.mod_lt p (by decide))
def modPart (s : State) (p : Nat) (f : Part → Part) : State :=
  { s with parts := s.parts.set (p % 16) (f (s.part p)) (Nat.mod_lt p (by decide)) }

def gang? (s : State) (g : Nat) : Option Gang := (s.launch.gangs.find? (fun e => e.1 == g)).map (·.2)
def modLaunch (s : State) (f : Launch → Launch) : State := { s with launch := f s.launch }
def modGang (s : State) (g : Nat) (f : Gang → Gang) : State :=
  s.modLaunch (fun l => { l with gangs := l.gangs.map (fun e => if e.1 = g then (e.1, f e.2) else e) })
def modFabric (s : State) (f : Fabric → Fabric) : State := { s with fabric := f s.fabric }
def modHost (s : State) (f : HostPort → HostPort) : State := { s with host := f s.host }
def modMem (s : State) (f : Mem → Mem) : State := { s with mem := f s.mem }

def queue (s : State) (n : Nat) : LaunchQueue := s.launch.queues.get LaunchQueue.reset n
def modQueue (s : State) (n : Nat) (f : LaunchQueue → LaunchQueue) : State :=
  s.modLaunch (fun l => { l with queues := l.queues.set n (f (s.queue n)) })

/-- The engine of a tile: 0 the copy engine, 1 the collective engine (R171). -/
def engine (s : State) (t e : Nat) : Engine := if e = 0 then (s.tile t).copy else (s.tile t).coll
def modEngine (s : State) (t e : Nat) (f : Engine → Engine) : State :=
  s.modTile t (fun u => if e = 0 then { u with copy := f u.copy } else { u with coll := f u.coll })

def modEvent (s : State) (c : Nat) (f : EvEngine → EvEngine) : State :=
  s.modCluster c (fun u => { u with ev := f u.ev })

/-- Takes the next number for a gang, a firing or a request. -/
def fresh (s : State) : Nat × State := (s.next, { s with next := s.next + 1 })

/-- The tile of a tile sequencer; no other sequencer has one. -/
def tileOf : SeqId → Option Nat
  | .a t => some t
  | .x t => some t
  | .m _ => none
  | .s _ => none

/-- The gang whose firing a sequencer runs, or that its tile holds; 0 for none and for firmware. -/
def gangOf (s : State) (q : SeqId) : Nat :=
  match (s.seq q).firing with
  | some f => f.gang
  | none => match tileOf q with
    | some t => (s.tile t).gang
    | none => 0

/-- PARTID of a sequencer (R98): the partition of its launch; for a service core its own register, which names the
partition of the trap in hand (R182). -/
def partOf (s : State) (q : SeqId) : Nat :=
  match q with
  | .s c => (s.cluster c).partid.toNat
  | q => match s.gang? (s.gangOf q) with
    | some g => g.part
    | none => 0

/-- The firing number of a sequencer, 0 when none holds it. -/
def firingOf (s : State) (q : SeqId) : Nat := ((s.seq q).firing.map (·.number)).getD 0

/-- Whether a tile is a member of a bridled pair, and the pair's primary (R279). -/
def paired (s : State) (t : Nat) : Bool := (s.tile t).twin != .alone
def primaryOf (s : State) (t : Nat) : Nat := if (s.tile t).twin = .twin then t - 1 else t
def partnerOf (s : State) (t : Nat) : Nat := if (s.tile t).twin = .twin then t - 1 else t + 1

/-! ## Clocks -/

/-- Units of 1/17 ns in a tick, a cycle and a stretched cycle (R5, R24, R299). -/
def tickUnits : Nat := 17
def cycleUnits : Nat := 10
def stretchUnits : Nat := 20

/-- The time base, in ticks (R24). -/
def ticks (s : State) : Nat := s.time / tickUnits

/-- The number of cluster-clock edges at time `t`: ten units each, but twenty through the six cycles of a stretch that began
at the edge from which the clock is counted (R299). -/
def edgesAt (u : Cluster) (t : Nat) : Nat :=
  if t < u.clockTime then u.clockEdges - (u.clockTime - t + cycleUnits - 1) / cycleUnits
  else match u.droop with
    | .stretch _ =>
      if t < u.clockTime + 6 * stretchUnits then u.clockEdges + (t - u.clockTime) / stretchUnits
      else u.clockEdges + 6 + (t - u.clockTime - 6 * stretchUnits) / cycleUnits
    | _ => u.clockEdges + (t - u.clockTime) / cycleUnits

/-- The time at which edge `e` of the cluster clock falls; the edges before the one from which it is counted are ten units apart,
since only a stretch makes them longer and the clock is counted anew where one begins and where it ends. -/
def timeOfEdge (u : Cluster) (e : Nat) : Nat :=
  if e < u.clockEdges then u.clockTime - (u.clockEdges - e) * cycleUnits
  else match u.droop with
    | .stretch _ =>
      if e < u.clockEdges + 6 then u.clockTime + (e - u.clockEdges) * stretchUnits
      else u.clockTime + 6 * stretchUnits + (e - u.clockEdges - 6) * cycleUnits
    | _ => u.clockTime + (e - u.clockEdges) * cycleUnits

/-- The cycle a sequencer is in: its cluster's for a tile sequencer and a service core, ten units each for a memory core,
which a droop does not slow (R299). -/
def cycleOf (s : State) (q : SeqId) : Nat :=
  match q with
  | .m _ => s.time / cycleUnits
  | q => edgesAt (s.cluster (serverOf q)) s.time

/-- Whether the routers' temperature or the power cap holds a cluster under ballast (R297). -/
def forcedBallast (s : State) (c : Nat) : Bool :=
  s.host.overPower || s.host.hot.contains (routerOf (c * 4))

/-- Whether the ballast that began in cycle `b` keeps issue out of a cycle: from its beginning every second one is left out (R299). -/
def heldOut (b e : Nat) : Bool := b ≤ e && e < b + 64 && (e - b) % 2 = 1

/-- Whether the cluster's tile sequencers may issue in a cycle: neither a ballast of the droop response nor one that is forced keeps them
out (R297, R299). -/
def mayIssue (s : State) (c : Nat) (e : Nat) : Bool :=
  let free := !(s.forcedBallast c && e % 2 = 1)
  match (s.cluster c).droop with
  | .ballast b => if e < b + 64 then !heldOut b e else free
  | .stretch b =>
    if b + 6 ≤ e ∧ e < b + 70 then !heldOut (b + 6) e
    else match (s.cluster c).cut with
      | some k => if e < b then !heldOut k e else free
      | none => free
  | .none => free

/-- The first cycle from `e` on in which the cluster's tile sequencers may issue (R297, R299). -/
def issueCycle (s : State) (c : Nat) (e : Nat) : Nat :=
  if s.mayIssue c e then e else if s.mayIssue c (e + 1) then e + 1 else e + 2

/-- The time at which a sequencer's next instruction issues: no earlier than now, in a cycle after that of its last
instruction (R303), in a ballast cycle that lets its kind issue (R299). -/
def issueTime (s : State) (q : SeqId) : Nat :=
  let now := s.cycleOf q
  let first := match (s.seq q).lastIssue with
    | some e => if now ≤ e then e + 1 else now
    | none => now
  match q with
  | .m _ => if first = now then s.time else first * cycleUnits
  | .s c => if first = now then s.time else timeOfEdge (s.cluster c) first
  | q =>
    let e := s.issueCycle (serverOf q) first
    if e = now then s.time else timeOfEdge (s.cluster (serverOf q)) e

end State

/-! ## The droop detector (R298-R300) -/

/-- The cluster clock counted from edge `e`, which has fallen or comes next. -/
def rebase (e : Nat) (u : Cluster) : Cluster := { u with clockTime := State.timeOfEdge u e, clockEdges := e }

/-- Whether a cycle lies in the six of a stretch, or in those of the ballast after it. -/
def stretchedAt (u : Cluster) (cycle : Nat) : Bool :=
  match u.droop with
  | .stretch b => b ≤ cycle && cycle < b + 6
  | _ => false
def ballastAt (u : Cluster) (cycle : Nat) : Bool :=
  match u.droop with
  | .stretch b => (b + 6 ≤ cycle && cycle < b + 70) || (cycle < b && (match u.cut with
    | some k => k ≤ cycle && cycle < k + 64
    | none => false))
  | .ballast b => b ≤ cycle && cycle < b + 64
  | .none => false

/-- A trip in cycle `n`: counted, and unless a stretch runs, a stretch begins in the next cycle; a ballast lasts to the end of `n`. -/
def trip (n : Nat) (analog : Bool) (u : Cluster) : Cluster :=
  let u := { u with trips := if u.trips = BitVec.allOnes 32 then u.trips else u.trips + 1, tripSource := !analog, lastTrip := some n }
  if stretchedAt u n then u
  else { (rebase (n + 1) u) with
    droop := .stretch (n + 1)
    cut := match u.droop with
      | .ballast b => some b
      | .stretch b => some (b + 6)
      | .none => none }

/-- A source trips in cycle `n`: together with an earlier trip of the cycle it is one trip, whose source is the analog one if
that is among them. -/
def tripIn (n : Nat) (analog : Bool) (u : Cluster) : Cluster :=
  let u := if analog then u else { u with stepTrip := none }
  if u.lastTrip = some n then { u with tripSource := u.tripSource && !analog } else trip n analog u

/-- A step of an earlier cycle than `cycle` has tripped: nothing of a later cycle comes before it. -/
def settleTrip (cycle : Nat) (u : Cluster) : Cluster :=
  match u.stepTrip with
  | some n => if n < cycle then tripIn n false u else u
  | none => u

end Sys2Proof.Machine
end

