-- ==== Sys2Proof/Machine/Memory.lean ====
section
/-! DEFINITION. The stored bytes: the key of every byte by space (R31, R157, R164, R185, R211, R221), the canonical list, the
marks of poison (R272, R275), and the decoding of scratchpad words and external lines with its severities (R268-R275). -/

namespace Sys2Proof.Machine

/-! ## Keys -/

/-- The spaces of a module's bytes. -/
def spaceHbm : Nat := 0
def spaceTier : Nat := 1
def spaceScratch : Nat := 2
def spaceSlots : Nat := 3
def spaceSplit : Nat := 4
def spaceAcc : Nat := 5

/-- The key of a byte: the place of its module (0 for this module, d + 1 for peer d), its space, its offset there. -/
def keyOf (place space offset : Nat) : Nat := place * 2 ^ 53 + space * 2 ^ 50 + offset

/-- Scratchpad byte `off` of a tile of the domain (R157). -/
def scratchKey (gtile off : Nat) : Nat := keyOf (gtile / 2048) spaceScratch (gtile % 2048 * 2 ^ 20 + off)

/-- Byte `off` of an operand-memory slot (R164, R211). -/
def slotKey (tile slot off : Nat) : Nat := keyOf 0 spaceSlots (tile * 2 ^ 18 + slot * 2 ^ 13 + off)

/-- Byte `off` of a row of the split-row area (R16). -/
def splitKey (tile row off : Nat) : Nat := keyOf 0 spaceSplit (tile * 2 ^ 12 + row * 64 + off)

/-- Byte `off` of an accumulator's raw layout (R221). -/
def accKey (tile acc off : Nat) : Nat := keyOf 0 spaceAcc (tile * 2 ^ 16 + acc * 2 ^ 14 + off)

/-- The space of a key. -/
def spaceOf (key : Nat) : Nat := key / 2 ^ 50 % 8

/-- The tile of the domain that a scratchpad key names. -/
def tileOfKey (key : Nat) : Nat := key / 2 ^ 53 * 2048 + key % 2 ^ 50 / 2 ^ 20

/-- Whether a key lies in external memory. -/
def isExternal (key : Nat) : Bool := spaceOf key ≤ 1

/-- The owning memory core of an external byte (R165). -/
def ownerOf (key : Nat) : Nat :=
  let off := key % 2 ^ 50
  if spaceOf key = spaceHbm then off / 2 ^ 14 % 256
  else 256 + off / 2 ^ 48 * 4 + off / 2 ^ 14 % 4

/-- Whether an external byte lies within the installed capacity: 640 GB of HBM (R17), and behind each CXL port 1,024 GB, the most that R20
allows, since the spec does not say how much is attached (DESIGN CHOICE, log 4). -/
def installed (key : Nat) : Bool :=
  let off := key % 2 ^ 50
  if spaceOf key = spaceHbm then off < 640 * 2 ^ 30 else off % 2 ^ 48 < 1024 * 2 ^ 30

/-! ## Bytes -/

namespace Mem

/-- The byte at a key; an unlisted key reads 0 (log 11). -/
def byte (m : Mem) (k : Nat) : Byte := Assoc.get 0 m.cells k

/-- Keeps the canonical form: a zero byte is not listed. -/
def setCell (cells : List Host.Cell) (k : Nat) (b : Byte) : List Host.Cell :=
  if b = 0 then Assoc.erase cells k else Assoc.set cells k b

def setByte (m : Mem) (k : Nat) (b : Byte) : Mem := { m with cells := setCell m.cells k b }

/-- `n` bytes from a key upward. -/
def bytes (m : Mem) (k : Nat) : Nat → List Byte
  | 0 => []
  | n + 1 => m.byte k :: m.bytes (k + 1) n

/-- Writes a list of bytes from a key upward. -/
def setBytes (m : Mem) (k : Nat) : List Byte → Mem
  | [] => m
  | b :: bs => (m.setByte k b).setBytes (k + 1) bs

/-- Clears every byte with a key in [lo, hi). -/
def clear (m : Mem) (lo hi : Nat) : Mem :=
  { m with
    cells := m.cells.filter (fun e => !(lo ≤ e.1 && e.1 < hi))
    poison := m.poison.filter (fun u => !(lo ≤ u / 2 && u / 2 < hi))
    flips := m.flips.filter (fun e => !(lo ≤ e.1 && e.1 < hi))
    unseen := m.unseen.filter (fun e => !(lo < 8 * e.word + 8 && 8 * e.word < hi)) }

/-- Whether the list of bytes is canonical: rising keys, no byte 0. -/
def sortedCells : List Host.Cell → Bool
  | [] => true
  | [e] => e.2 != 0
  | e :: f :: m => e.1 < f.1 && e.2 != 0 && sortedCells (f :: m)

def wf (m : Mem) : Bool := sortedCells m.cells

end Mem

/-! ## Poisoned units: `2·key` for the aligned 8-byte word at a key, `2·(key + i) + 1` for codeword i of the line at a key -/

def wordUnit (key : Nat) : Nat := 2 * (key / 8 * 8)
def codeUnit (line i : Nat) : Nat := 2 * (line + i) + 1

namespace Mem

def isPoisoned (m : Mem) (u : Nat) : Bool := m.poison.contains u
def addPoison (m : Mem) (u : Nat) : Mem := { m with poison := insertNat m.poison u }
def dropPoison (m : Mem) (u : Nat) : Mem := { m with poison := m.poison.filter (· != u) }
def flipsAt (m : Mem) (key : Nat) : List Nat := (m.flips.filter (fun e => e.1 == key)).map (·.2)
def dropFlips (m : Mem) (key : Nat) : Mem := { m with flips := m.flips.filter (fun e => e.1 != key) }

end Mem

/-! ## Numeric layouts (R269, R270) -/

/-- A layout-table entry read as its fields. -/
structure Layout where
  width : Nat
  high : Nat
  short : Bool
  parity : Bool
  deriving DecidableEq, Repr

/-- The fields of an entry; none for an entry with V = 0, which means layout 0 (R269). -/
def Layout.ofEntry (e : BitVec 32) : Option Layout :=
  if e.getLsbD 31 then
    some ⟨(e.extractLsb' 0 7).toNat, (e.extractLsb' 8 8).toNat, e.getLsbD 17, e.getLsbD 16⟩
  else none

namespace Layout

def elements (l : Layout) : Nat := 512 / l.width
def highBits (l : Layout) : Nat := l.elements * l.high
def lowBits (l : Layout) : Nat := 512 - l.highBits

/-- The data lengths of the codewords, in gathered order (R270). -/
def codewords (l : Layout) : List Nat :=
  if l.short then List.replicate ((l.highBits + 63) / 64) 64
  else
    let r := l.highBits % 128
    List.replicate (l.highBits / 128) 128 ++ (if r = 0 then [] else if r ≤ 64 then [64] else [128])

/-- Check bits of a codeword: 15 over 64 data bits, 17 over 128 (R270). -/
def checkBits (n : Nat) : Nat := if n = 64 then 15 else 17

def codeChecks (l : Layout) : Nat := (l.codewords.map checkBits).sum
def parityBits (l : Layout) : Nat := if l.parity then (l.lowBits + 63) / 64 else 0

/-- Whether the entry keeps the budget of R270 and the ranges of R269. -/
def valid (l : Layout) : Bool :=
  [4, 8, 16, 32, 64].contains l.width && 1 ≤ l.high && l.high ≤ l.width && l.codeChecks + l.parityBits ≤ 64

/-- The place of data bit `b` of a line in the gathered high bits, if it is a high bit: each element's bits from the top. -/
def highPlace (l : Layout) (b : Nat) : Option Nat :=
  let e := b / l.width
  let down := l.width - 1 - b % l.width
  if down < l.high then some (e * l.high + down) else none

/-- The place of data bit `b` in the gathered low bits, if it is a low bit. -/
def lowPlace (l : Layout) (b : Nat) : Option Nat :=
  let e := b / l.width
  let down := l.width - 1 - b % l.width
  if down < l.high then none else some (e * (l.width - l.high) + (down - l.high))

/-- The codeword that gathered high bit `h` lies in. -/
def codewordOf (l : Layout) (h : Nat) : Nat := if l.short then h / 64 else h / 128

/-- The codeword, or the parity group counted from 64 on, that stored bit `b` of a line belongs to: bits 0 to 511 are data,
512 to 575 the check field (R270). -/
def groupOf (l : Layout) (b : Nat) : Option Nat :=
  if b < 512 then
    match l.highPlace b with
    | some h => some (l.codewordOf h)
    | none => if l.parity then (l.lowPlace b).map (fun p => 64 + p / 64) else none
  else
    let c := b - 512
    if c < l.codeChecks then
      some (((List.range l.codewords.length).filter (fun i =>
        ((l.codewords.take (i + 1)).map checkBits).sum ≤ c)).length)
    else if c < l.codeChecks + l.parityBits then some (64 + (c - l.codeChecks))
    else none

/-- The elements with a high bit in codeword `i` (R272). -/
def elementsOf (l : Layout) (i : Nat) : List Nat :=
  (List.range l.elements).filter (fun e =>
    l.codewordOf (e * l.high) ≤ i && i ≤ l.codewordOf (e * l.high + l.high - 1))

/-- The elements with a low bit in parity group `g` (R273). -/
def elementsOfGroup (l : Layout) (g : Nat) : List Nat :=
  let n := l.width - l.high
  (List.range l.elements).filter (fun e => n ≠ 0 && e * n / 64 ≤ g && g ≤ (e * n + n - 1) / 64)

/-- The bytes of a line that hold a bit of element `e`. -/
def elementBytes (l : Layout) (e : Nat) : List Nat :=
  (List.range 64).filter (fun b => e * l.width < 8 * b + 8 && 8 * b < e * l.width + l.width)

end Layout

/-! ## Decoding -/

/-- What a decode finds: bytes, the poison mark of each byte, the severity classes of R273 (0, 1, 3), and the memory with
corrections and drops written back (R273, R325). `free` counts the free values used. -/
structure Decoded where
  bytes : List Byte
  poison : List Bool
  classes : List Nat
  mem : Mem
  free : Nat
  deriving DecidableEq, Repr

/-- Free bytes from number `n` on. -/
def freeBytes (n : Nat) : Nat → List Byte
  | 0 => []
  | k + 1 => Config.freeByte n :: freeBytes (n + 1) k

/-- A flipped bit shows in the data. -/
def Mem.flipBit (m : Mem) (base b : Nat) : Mem := m.setByte (base + b / 8) (m.byte (base + b / 8) ^^^ (1#8 <<< (b % 8)))

/-- Data bits that are flipped stand as they are stored from now on; `width` data bits belong to the key. -/
def Mem.showFlips (m : Mem) (base width : Nat) : Mem :=
  (((m.flipsAt base).filter (· < width)).foldl (fun m b => m.flipBit base b) m).dropFlips base

/-- The finding of a decode whose outcome the spec leaves open (R268, R273): 0 corrected, 1 uncorrectable, 2 no error seen. -/
def openFinding (free : Nat) : Nat :=
  match Config.freeClass free with
  | 0 => 0
  | 3 => 1
  | _ => 2

/-- A word whose pattern is beyond the code, as the decode takes it (R273): corrected into free data and written back, poison,
or delivered as it is stored. -/
def decodeOpenWord (m : Mem) (free k : Nat) : Decoded :=
  match openFinding free with
  | 0 =>
    let bs := freeBytes (free + 1) 8
    ⟨bs, List.replicate 8 false, [0], (m.setBytes k bs).dropFlips k, free + 9⟩
  | 1 => ⟨m.bytes k 8, List.replicate 8 true, [3], m, free + 1⟩
  | _ => ⟨(m.showFlips k 64).bytes k 8, List.replicate 8 false, [], m.showFlips k 64, free + 1⟩

/-- Decodes the SEC-DED word at an aligned key: one flipped bit is corrected and written back, two make the word poison, and
the outcome for more is open; a poison pattern stored earlier counts no class again (R273, R275, log 43). -/
def decodeWord (m : Mem) (free key : Nat) : Decoded :=
  let k := key / 8 * 8
  if m.isPoisoned (wordUnit k) then ⟨m.bytes k 8, List.replicate 8 true, [], m, free⟩
  else match (m.flipsAt k).length with
    | 0 => ⟨m.bytes k 8, List.replicate 8 false, [], m, free⟩
    | 1 => ⟨m.bytes k 8, List.replicate 8 false, [0], m.dropFlips k, free⟩
    | 2 => ⟨m.bytes k 8, List.replicate 8 true, [3], m, free⟩
    | _ => decodeOpenWord m free k

/-- The layout-table entries under which the eight words of a line were last encoded. -/
def Mem.tags (m : Mem) (line : Nat) : List (BitVec 32) := (List.range 8).map (fun i => m.layouts.get 0 (line + 8 * i))

/-- The words of a line are encoded under an entry from now on. -/
def Mem.setTags (m : Mem) (line : Nat) (e : BitVec 32) : Mem :=
  { m with layouts := (List.range 8).foldl (fun (l : Assoc (BitVec 32)) i =>
      if e = 0 then Assoc.erase l (line + 8 * i) else l.set (line + 8 * i) e) m.layouts }

/-- Whether every word of a line was encoded under an entry. -/
def Mem.encodedAs (m : Mem) (line : Nat) (e : BitVec 32) : Bool := m.layouts.isEmpty && e == 0 || (m.tags line).all (· == e)

/-- The stored bits of a line, shown as they are: under one layout its flips stand at the line, else at its words. -/
def Mem.showLine (m : Mem) (line : Nat) : Mem :=
  if m.layouts.get 0 line ≠ 0 && m.encodedAs line (m.layouts.get 0 line) then m.showFlips line 512
  else (List.range 8).foldl (fun m i => m.showFlips (line + 8 * i) 64) m

/-- Decodes an aligned word of external memory under layout 0: one whose check bits were formed under another layout has an
open outcome (R268). -/
def decodeTagged (m : Mem) (free key : Nat) : Decoded :=
  let k := key / 8 * 8
  if m.layouts.isEmpty || m.layouts.get 0 k = 0 then decodeWord m free k
  else
    let d := decodeOpenWord (m.showLine (k / 64 * 64)) free k
    if d.classes = [0] then { d with mem := { d.mem with layouts := Assoc.erase d.mem.layouts k } } else d

/-- Zeroes the low field of an element of a line (R273). -/
def zeroLow (m : Mem) (l : Layout) (line e : Nat) : Mem :=
  let low := l.width - l.high
  ((List.range l.width).filter (· < low)).foldl
    (fun m i =>
      let b := e * l.width + i
      m.setByte (line + b / 8) (m.byte (line + b / 8) &&& ~~~(1#8 <<< (b % 8)))) m

/-- The bytes that hold a bit of an element of codeword `i` (R272). -/
def Layout.codewordBytes (l : Layout) (i : Nat) : List Nat := ((l.elementsOf i).map l.elementBytes).flatten

/-- The flips of codeword `i` of a line. -/
def codeFlips (m : Mem) (l : Layout) (line i : Nat) : List Nat := (m.flipsAt line).filter (fun b => l.groupOf b == some i)

/-- Codeword `i` of a line carries no flip any more. -/
def dropCode (m : Mem) (l : Layout) (line i : Nat) : Mem :=
  { m with flips := m.flips.filter (fun e => !(e.1 == line && l.groupOf e.2 == some i)) }

/-- Decodes the codewords of a line under a valid layout: up to two flipped bits of a codeword are corrected, three make its
elements poison, and the outcome for more is open (R273). The bytes are those of the memory that remains. -/
def decodeCodewords (l : Layout) (line : Nat) : List Nat → Decoded → Decoded
  | [], d => d
  | i :: is, d =>
    let mark := fun (p : List Bool) => (List.range 64).zipWith (fun b q => q || (l.codewordBytes i).contains b) p
    let d' :=
      if d.mem.isPoisoned (codeUnit line i) then { d with poison := mark d.poison }
      else match (codeFlips d.mem l line i).length with
        | 0 => d
        | 1 => { d with classes := d.classes ++ [0], mem := dropCode d.mem l line i }
        | 2 => { d with classes := d.classes ++ [0], mem := dropCode d.mem l line i }
        | 3 => { d with classes := d.classes ++ [3], poison := mark d.poison }
        | _ => match openFinding d.free with
          | 0 =>
            let m := (l.codewordBytes i).foldl (fun (m : Mem) b => m.setByte (line + b) (Config.freeByte (d.free + 1 + b))) d.mem
            { d with classes := d.classes ++ [0], mem := dropCode m l line i, free := d.free + 65 }
          | 1 => { d with classes := d.classes ++ [3], poison := mark d.poison, free := d.free + 1 }
          | _ =>
            let m := ((codeFlips d.mem l line i).filter (· < 512)).foldl (fun m b => m.flipBit line b) d.mem
            { d with mem := dropCode m l line i, free := d.free + 1 }
    decodeCodewords l line is d'

/-- The parity groups of a line with a mismatch: an odd number of their bits are flipped (R273). -/
def brokenGroups (l : Layout) (flips : List Nat) : List Nat :=
  (List.range l.parityBits).filter (fun g => (flips.filter (fun b => l.groupOf b == some (64 + g))).length % 2 = 1)

/-- Whether a stored bit of a line lies in a codeword. -/
def inCodeword (l : Layout) (b : Nat) : Bool :=
  match l.groupOf b with
  | some g => g < 64
  | none => false

/-- The low bits of a line as the decode takes them: those flipped stand as stored, since no code tells, and a parity mismatch
zeroes the low field of every element with a bit in its group (R273). -/
def settleLow (m : Mem) (l : Layout) (line : Nat) : Mem :=
  let flips := m.flipsAt line
  let low := flips.filter (fun b => !inCodeword l b)
  if low.isEmpty then m
  else
    let shown := (low.filter (· < 512)).foldl (fun m b => m.flipBit line b) m
    let zeroed := ((brokenGroups l flips).map l.elementsOfGroup).flatten.foldl (fun m e => zeroLow m l line e) shown
    { zeroed with flips := zeroed.flips.filter (fun e => e.1 != line || inCodeword l e.2) }

/-- The line is written back with fresh check bits: a codeword that cannot be corrected is encoded as poison (R272, R325). -/
def writeBack (l : Layout) (line : Nat) (m : Mem) : Mem :=
  ((List.range l.codewords.length).foldl (fun m i =>
    if (codeFlips m l line i).isEmpty then m else m.addPoison (codeUnit line i)) m).dropFlips line

/-- Decodes a line under a valid layout; a correction or a dropped low field writes it back (R273, R325). -/
def decodeLine (m : Mem) (free : Nat) (l : Layout) (line : Nat) : Decoded :=
  let broken := brokenGroups l (m.flipsAt line)
  let start : Decoded := ⟨[], List.replicate 64 false, broken.map (fun _ => 1), settleLow m l line, free⟩
  let d := decodeCodewords l line (List.range l.codewords.length) start
  { d with
    bytes := d.mem.bytes line 64
    mem := if d.classes.any (· ≤ 1) then writeBack l line d.mem else d.mem }

/-- A line encoded under an entry has no poisoned unit. -/
def dropUnits (m : Mem) (line : Nat) : Mem := { m with poison := m.poison.filter (fun u => !(2 * line ≤ u && u < 2 * line + 128)) }

/-- The check bits of a codeword, or of 64 plus a parity group. -/
def Layout.checkPlaces (l : Layout) (g : Nat) : List Nat := ((List.range 64).map (512 + ·)).filter (fun b => l.groupOf b == some g)

/-- A line whose check bits were not formed under the layout it is read under, as its decode meets it (R268; log 3): every codeword holds
a pattern beyond its code, with the data as they are stored, and which parity groups differ is open. -/
def mismatched (m : Mem) (free : Nat) (l : Layout) (e : BitVec 32) (line : Nat) : Mem :=
  let shown := m.showLine line
  let groups := (List.range l.parityBits).filter (fun g => (Config.freeByte (free + g)).getLsbD 0)
  let wrong := (List.range l.codewords.length).flatMap (fun i => (l.checkPlaces i).take 4) ++ groups.flatMap (fun g => (l.checkPlaces (64 + g)).take 1)
  { (dropUnits shown line).setTags line e with flips := shown.flips.filter (fun x => x.1 != line) ++ wrong.map (fun b => (line, b)) }

/-- Decodes such a line: each codeword and each parity group has its own finding; a read that corrects nothing changes nothing. -/
def decodeMismatch (m : Mem) (free : Nat) (l : Layout) (e : BitVec 32) (line : Nat) : Decoded :=
  let d := decodeLine (mismatched m free l e line) (free + 64) l line
  if d.classes.any (· ≤ 1) then d else { d with mem := m.showLine line }

/-- Decodes an external line under layout 0: eight SEC-DED words (R268). -/
def decodeWords (m : Mem) (free line : Nat) : Nat → Decoded
  | 0 => ⟨[], [], [], m, free⟩
  | n + 1 =>
    let d := decodeTagged m free line
    let r := decodeWords d.mem d.free (line + 8) n
    ⟨d.bytes ++ r.bytes, d.poison ++ r.poison, d.classes ++ r.classes, r.mem, r.free⟩

/-- The layout-table entry that governs an access: an entry with V = 0 means layout 0 (R269). -/
def normalEntry (e : BitVec 32) : BitVec 32 := if e.getLsbD 31 then e else 0

/-! ## Save areas (R147) -/

/-- Whether a line lies in a save area that the device has written in its own layout. -/
def Mem.inArea (m : Mem) (line : Nat) : Bool := m.areas.any (fun r => r.1 ≤ line && line < r.2)

/-- The areas without a line. -/
def carve (line : Nat) : List (Nat × Nat) → List (Nat × Nat)
  | [] => []
  | (lo, hi) :: l =>
    (if lo ≤ line ∧ line < hi then [(lo, line), (line + 64, hi)].filter (fun r => r.1 < r.2) else [(lo, hi)]) ++ carve line l

/-- A line of a save area holds what the device stored there: free bytes (log 24). -/
def openArea (m : Mem) (free line : Nat) : Mem × Nat :=
  if m.inArea line then
    ((dropUnits ({ m with areas := carve line m.areas }.setBytes line (freeBytes free 64)) line).setTags line 0, free + 64)
  else (m, free)

/-- Decodes the external line at a key under a layout-table entry (R268-R273). -/
def decodeExternal (m : Mem) (free : Nat) (entry : BitVec 32) (line : Nat) : Decoded :=
  let (m, free) := openArea m free line
  let e := normalEntry entry
  match Layout.ofEntry e with
  | none => decodeWords m free line 8
  | some l => if m.encodedAs line e then decodeLine m free l line else decodeMismatch m free l e line

/-- Reads `n` bytes from a key upward, unit by unit of at most `fuel` lines or words: words in a scratchpad, lines in
external memory, bare bytes elsewhere. -/
def readUnits (entry : BitVec 32) : Nat → Mem → Nat → Nat → Nat → Decoded
  | 0, m, free, _, _ => ⟨[], [], [], m, free⟩
  | fuel + 1, m, free, key, n =>
    if n = 0 then ⟨[], [], [], m, free⟩
    else
      let unit := if isExternal key then 64 else 8
      let base := key / unit * unit
      let take := min n (base + unit - key)
      let d :=
        if isExternal key then decodeExternal m free entry base
        else decodeWord m free base
      let r := readUnits entry fuel d.mem d.free (key + take) (n - take)
      ⟨(d.bytes.drop (key - base)).take take ++ r.bytes, (d.poison.drop (key - base)).take take ++ r.poison,
        d.classes ++ r.classes, r.mem, r.free⟩

/-- Reads `n` bytes at a key, decoding them under a layout-table entry. -/
def readDecoded (m : Mem) (free : Nat) (entry : BitVec 32) (key n : Nat) : Decoded :=
  readUnits entry (n / 8 + 2) m free key n

/-! ## Writing -/

/-- Bytes with their poison marks, as one write supplies them. -/
abbrev Marked := List (Byte × Bool)

def Marked.bytes (b : Marked) : List Byte := b.map (·.1)
def Marked.poisoned (b : Marked) : Bool := b.any (·.2)

/-- Bytes with one poison mark. -/
def marked (bytes : List Byte) (poison : Bool) : Marked := bytes.map (fun b => (b, poison))

/-- The poison of a word after a write of some of its bytes: a write of the whole word sets it to the data's, any other
leaves a poisoned word poisoned (R157, R272, R275). -/
def writeWordPart (m : Mem) (key : Nat) (bytes : Marked) : Mem :=
  let k := key / 8 * 8
  let m' := m.setBytes key bytes.bytes
  if bytes.length = 8 ∧ key = k then
    let clean := (m'.dropFlips k).dropPoison (wordUnit k)
    if bytes.poisoned then clean.addPoison (wordUnit k) else clean
  else if bytes.poisoned || m.isPoisoned (wordUnit k) || 2 ≤ (m.flipsAt k).length then (m'.dropFlips k).addPoison (wordUnit k)
  else m'.dropFlips k

/-- A codeword of a line after a write of bytes from offset `lo` of the line on: poisoned if any of its data is, clean if the
write supplies every one of its elements, otherwise as it was (R272). -/
def writeCodeword (l : Layout) (line lo : Nat) (bytes : Marked) (bad : Bool) (m : Mem) (i : Nat) : Mem :=
  let own := l.codewordBytes i
  if own.any (fun b => lo ≤ b && ((bytes[b - lo]?.map (·.2)).getD false)) then m.addPoison (codeUnit line i)
  else if own.all (fun b => lo ≤ b && b - lo < bytes.length) then m.dropPoison (codeUnit line i)
  else if bad then m.addPoison (codeUnit line i)
  else m

/-- A word of an external line that a write under layout 0 supplies in part or whole. -/
def writeLineWord (key : Nat) (bytes : Marked) (line : Nat) (m : Mem) (w : Nat) : Mem :=
  let lo := max key (line + 8 * w)
  let hi := min (key + bytes.length) (line + 8 * w + 8)
  if lo < hi then
    let m' := writeWordPart m lo ((bytes.drop (lo - key)).take (hi - lo))
    { m' with layouts := Assoc.erase m'.layouts (line + 8 * w) }
  else m

/-- Writes part of an external line under a layout-table entry: under layout 0 word by word; under another the line, whose
other bytes have been corrected, is merged and encoded again (R268, R272). -/
def writeLinePart (m : Mem) (entry : BitVec 32) (key : Nat) (bytes : Marked) : Mem :=
  let e := normalEntry entry
  let line := key / 64 * 64
  match Layout.ofEntry e with
  | none => (List.range 8).foldl (writeLineWord key bytes line) (if m.encodedAs line 0 then m else m.showLine line)
  | some l =>
    let bad := fun i => !(codeFlips m l line i).isEmpty
    let kept := if m.encodedAs line e then m else dropUnits m line
    let m' := (((kept.setBytes key bytes.bytes).dropFlips line).setTags line e)
    (List.range l.codewords.length).foldl (fun m' i => writeCodeword l line (key - line) bytes (bad i) m' i) m'

/-- Writes bytes from a key upward, unit by unit. -/
def writeUnits (entry : BitVec 32) : Nat → Mem → Nat → Marked → Mem
  | 0, m, _, _ => m
  | fuel + 1, m, key, bytes =>
    if bytes.isEmpty then m
    else
      let unit := if isExternal key then 64 else 8
      let take := min bytes.length (key / unit * unit + unit - key)
      let m' :=
        if isExternal key then writeLinePart m entry key (bytes.take take)
        else writeWordPart m key (bytes.take take)
      writeUnits entry fuel m' (key + take) (bytes.drop take)

/-- The aligned words that `n` bytes at a key touch. -/
def wordsOf (key n : Nat) : List Nat := (List.range ((key + n + 7) / 8 - key / 8)).map (key / 8 + ·)

/-- A release of one of some words covers a write no more, since the word is written anew (R201). -/
def Unseen.unrelease (words : List Nat) (e : Unseen) : Unseen :=
  { e with marks := e.marks.filter (fun k => match k with
    | .released w _ _ _ => !words.contains w
    | _ => true) }

/-- Words are written and every agent sees the new value: earlier writes of them are past (R198), and so are their releases (R201). -/
def Mem.pass (m : Mem) (words : List Nat) : Mem :=
  { m with unseen := (m.unseen.filter (fun e => !words.contains e.word)).map (·.unrelease words) }

/-- Waits at some words that have just been written: one whose value has come, or whose word is poison, is met (R439). -/
def Mem.notice (m : Mem) (words : List Nat) : Mem :=
  { m with watches := m.watches.map (fun w => { w with met := w.met ||
      (words.contains (w.key / 8) && (m.isPoisoned (wordUnit w.key) || w.least ≤ ofBytes (m.bytes w.key 8))) }) }

/-- Writes bytes with their marks at a key under a layout-table entry, as one write that every agent sees. -/
def writeMarked (m : Mem) (entry : BitVec 32) (key : Nat) (bytes : Marked) : Mem :=
  ((writeUnits entry (bytes.length / 8 + 2) m key bytes).pass (wordsOf key bytes.length)).notice (wordsOf key bytes.length)

/-- Writes bytes at a key under a layout-table entry, all with one poison mark. -/
def writeDecoded (m : Mem) (entry : BitVec 32) (key : Nat) (bytes : List Byte) (poison : Bool) : Mem :=
  writeMarked m entry key (marked bytes poison)

/-! ## The read that goes before a partial write (R272) -/

/-- A unit that a write supplies only in part is read and corrected first. What cannot be corrected stays as it is, and the
write makes it poison; under a layout that the line is not encoded in, it is encoded anew as the decode took it. -/
def correctUnit (m : Mem) (free : Nat) (entry : BitVec 32) (base : Nat) : Decoded :=
  if !isExternal base then decodeWord m free base
  else match Layout.ofEntry (normalEntry entry) with
    | none =>
      let d := decodeTagged m free base
      if d.poison.any id then { d with mem := { ((d.mem.dropFlips base).addPoison (wordUnit base)) with layouts := Assoc.erase d.mem.layouts base } }
      else d
    | some l =>
      if m.encodedAs base (normalEntry entry) then decodeLine m free l base
      else
        let d := decodeLine (mismatched m free l (normalEntry entry) base) (free + 64) l base
        { d with mem := writeBack l base d.mem }

/-- Bytes of the unit that a write under an entry reads and corrects when it supplies only a part. -/
def unitBytes (entry : BitVec 32) (key : Nat) : Nat :=
  if isExternal key && (Layout.ofEntry (normalEntry entry)).isSome then 64 else 8

/-- The reads that go before a write of `n` bytes: its first and last unit, where it supplies only a part of them, and the
lines of a save area. -/
def correctUnits (entry : BitVec 32) : Nat → Mem → Nat → Nat → Nat → Decoded
  | 0, m, free, _, _ => ⟨[], [], [], m, free⟩
  | fuel + 1, m, free, key, n =>
    if n = 0 then ⟨[], [], [], m, free⟩
    else
      let unit := unitBytes entry key
      let base := key / unit * unit
      let take := min n (base + unit - key)
      let (m, free) := if isExternal key then openArea m free (key / 64 * 64) else (m, free)
      let d : Decoded := if take = unit then ⟨[], [], [], m, free⟩ else correctUnit m free entry base
      let r := correctUnits entry fuel d.mem d.free (key + take) (n - take)
      ⟨[], [], d.classes ++ r.classes, r.mem, r.free⟩

/-- The findings of the reads that go before a write, with the memory that they leave. -/
def correctPart (m : Mem) (free : Nat) (entry : BitVec 32) (key n : Nat) : Decoded :=
  correctUnits entry (n / 8 + 2) m free key n

end Sys2Proof.Machine
end

