-- ==== Sys2Proof/Machine/Ops.lean ====
section
/-! DEFINITION. The shared operations: how an instruction ends, address checks and translation (R156, R188), registers with
their poison and pending marks (R35, R179, R276), queues (R106), severities and the end of gangs (R273, R278), taking a
trap and returning from one (R357, R358). -/

namespace Sys2Proof.Machine

/-! ## How an instruction ends -/

/-- Why an instruction does not complete: a trap with its TVAL, and the access if it is a TLB miss; a trap that leaves a
change behind; poison consumed; a wait at the instruction boundary, with what the wait leaves registered; a fault of the
model. -/
inductive Stop where
  | trap (code : Byte) (tval : Word) (miss : Option Access)
  | after (code : Byte) (tval : Word) (change : State → State)
  | poison (tval : Word)
  | wait (why : Why) (register : State → State)
  | fault (r : Fault)

/-- A computation of an instruction over the state. -/
abbrev Exec := EStateM Stop State

/-- Where the instruction leaves the program counter: after itself, at a target, or nowhere, since the firing has ended. -/
inductive Flow where
  | fall
  | jump (target : Word)
  | ended
  deriving DecidableEq, Repr

def trap {α : Type} (code : Byte) (tval : Word) : Exec α := throw (.trap code tval none)
def consumed {α : Type} (tval : Word) : Exec α := throw (.poison tval)
def waitFor {α : Type} (why : Why) : Exec α := throw (.wait why id)

/-- Raises a cause when a check fails. -/
def check (ok : Bool) (code : Byte) (tval : Word) : Exec Unit := if ok then pure () else trap code tval

/-- Stalls until a condition holds (R8). -/
def waitUntil (ok : Bool) (why : Why) : Exec Unit := if ok then pure () else waitFor why

def me : Exec SeqId := do return (← get).focus
def mySeq : Exec Seq := do let s ← get; return s.seq s.focus
def modMe (f : Seq → Seq) : Exec Unit := modify (fun s => s.modSeq s.focus f)

/-- The tile of the issuing tile sequencer. -/
def myTileNo : Exec Nat := do return (State.tileOf (← get).focus).getD 0
def myTile : Exec Tile := do let s ← get; return s.tile ((State.tileOf s.focus).getD 0)
def modMyTile (f : Tile → Tile) : Exec Unit := modify (fun s => s.modTile ((State.tileOf s.focus).getD 0) f)
def myGangNo : Exec Nat := do let s ← get; return s.gangOf s.focus
def myPart : Exec Nat := do let s ← get; return s.partOf s.focus

/-! ## Severities, quarantine and the end of gangs -/

/-- Adds `n` to a partition's error counter, saturating (R286). -/
def countError (s : State) (p i n : Nat) : State :=
  s.modPart p (fun u =>
    let v : Word := BitVec.ofNat 64 (min ((u.errcnt.getD i 0).toNat + n) (2 ^ 64 - 1))
    { u with errcnt := u.errcnt.setIfInBounds i v })

/-- The counter of a severity class: S0 to ERRCNT0, S1 to ERRCNT1, S3 to S5 to ERRCNT2 to ERRCNT4 (R273). -/
def counterOf (cls : Nat) : Nat := if cls ≤ 1 then cls else cls - 1

/-- The greater of two severities, 0xFF standing for none seen (R133). -/
def worse (a b : Nat) : Nat := if a = 0xFF then b else max a b

/-- Whether a gang is restartable: flag 0 of its record (R130, R153). -/
def isRestartable (u : Gang) : Bool := (u.record[0]).getLsbD 16

/-- Counts one finding of a decode for the partition and the gang of the access (R273, R287). An error of S3 or worse is to end
a restartable gang (R153). -/
def noteClass (p g : Nat) (s : State) (cls : Nat) : State :=
  if cls = 2 then s
  else
    let s' := countError s p (counterOf cls) 1
    s'.modGang g (fun u =>
      { u with
        worst := worse u.worst cls
        s1 := if cls = 1 then min (u.s1 + 1) (2 ^ 32 - 1) else u.s1
        met := u.met || (isRestartable u && 3 ≤ cls) })

/-- Whether a gang's end by this event is followed by re-execution (R153): a restartable gang, re-executed less than twice,
met by an error of S3 or worse or a quarantine. -/
def mayReexecute (u : Gang) : Bool := isRestartable u && u.reexecutions < 2

/-- A tile in the state of a reset, but for its quarantine (R278, R444). -/
def resetTile (u : Tile) : Tile := { Tile.reset with quarantined := u.quarantined }

/-- A sequencer stops: no firing and nothing that it waits for; its registers and tables stay as they are. -/
def stopSeq (q : Seq) : Seq :=
  { q with
    xPending := 0
    vPending := 0
    firing := none
    deadline := none
    wait := none
    hold := none
    suspended := false
    echo := []
    spawned := none
    nests := q.nests.map (fun x => { x with claiming := none }) }

/-- A tile stops and is freed: no firing, no gang; its engines and its matrix unit hold nothing. What else it holds stays until
the next launch or the reset of its rectangle (R140, R278). -/
def stopTile (u : Tile) : Tile :=
  { u with
    gang := 0
    index := 0
    twin := .alone
    a := stopSeq u.a
    x := stopSeq u.x
    waiters := []
    matrix := []
    copy := { u.copy with cmds := [] }
    coll := { u.coll with cmds := [] }
    arrivals := []
    ring := [] }

/-- A pending miss that a trap reports is pending no more, at the TLB of its access (R188, R189). -/
def forget (t : Trap) (b : Tlb) : Tlb :=
  match t.miss with
  | some acc => match b.misses.findIdx? (fun m => m.part == t.part && m.va == t.tval.toNat && m.access == acc) with
    | some i => { b with misses := b.misses.eraseIdx i }
    | none => b
  | none => b

/-- The sequencer through whose TLB the access of a trap goes. -/
def trapSeq (t : Trap) : Option SeqId :=
  match t.origin with
  | .instruction q => some q
  | .matrix tile => some (.x tile)
  | .reel q _ => some q
  | .device q => some q
  | .none => none

/-- The TLB a sequencer's accesses use (R187): a memory core's own or its cluster's. -/
def tlbOf (s : State) (q : SeqId) : Tlb :=
  match q with
  | .m c => (s.mcore c).tlb
  | q => (s.cluster (serverOf q)).tlb

def modTlb (q : SeqId) (f : Tlb → Tlb) (s : State) : State :=
  match q with
  | .m c => s.modMCore c (fun u => { u with tlb := f u.tlb })
  | q => s.modCluster (serverOf q) (fun u => { u with tlb := f u.tlb })

/-- The miss of a trap that has been answered, or goes with its gang, is forgotten. -/
def forgetMiss (t : Trap) (s : State) : State :=
  match t.miss, trapSeq t with
  | some _, some q => modTlb q (forget t) s
  | _, _ => s

/-- Traps that are queued or not yet delivered. -/
def waitingTraps (s : State) : List Trap := s.launch.undelivered ++ (s.clusters.map (fun e => e.2.traps)).flatten

/-- The service cores' queues and the undelivered traps without those that `gone` names; their misses go with them. -/
def withdrawTraps (gone : Trap → Bool) (s : State) : State :=
  let s := ((waitingTraps s).filter gone).foldl (fun s t => forgetMiss t s) s
  let keep := fun (t : Trap) => !gone t
  { s with
    clusters := s.clusters.map (fun e => (e.1, { e.2 with traps := e.2.traps.filter keep }))
    launch := { s.launch with undelivered := s.launch.undelivered.filter keep } }

/-- The service cores' queues and the undelivered traps without those of a gang. -/
def dropTraps (g : Nat) (s : State) : State := withdrawTraps (fun t => t.gang == g) s

/-- The primary tiles of a gang part with their twins (R279). -/
def allTiles (u : Gang) : List Nat := if u.bridled then (u.tiles.map (fun t => [t, t + 1])).flatten else u.tiles

/-- Removes a gang's gondolas, in firings, in arrival queues and in transit (R149), and its requests, blocks, tokens,
barriers and deferred arrivals. -/
def removeLive (g : Nat) (s : State) : State :=
  let keep := fun (x : Gondola) => x.gang != g
  let free := fun (q : Seq) => match q.firing with
    | some f => if f.gang = g then { q with firing := none, wait := none, hold := none, suspended := false } else q
    | none => q
  { s with
    tiles := s.tiles.map (fun e => (e.1, { e.2 with
      arrivals := e.2.arrivals.filter keep
      ring := e.2.ring.filter keep
      waiters := e.2.waiters.filter (fun w => s.gangOf w.seq != g) }))
    mcores := s.mcores.map (fun e => (e.1, { e.2 with m := free e.2.m, arrivals := e.2.arrivals.filter keep }))
    launch := { s.launch with
      transit := s.launch.transit.filter (fun x => keep x.gondola)
      pushes := s.launch.pushes.filter (fun x => x.gang != g)
      barriers := s.launch.barriers.filter (fun x => x.gang != g)
      deferred := s.launch.deferred.filter (fun x => x.gang != g)
      tokens := s.launch.tokens.filter (fun x => x.gang != g)
      collectives := s.launch.collectives.filter (fun x => x.gang != g)
      multicasts := s.launch.multicasts.filter (fun x => x.gang != g) }
    fabric := { s.fabric with requests := s.fabric.requests.filter (fun x => x.gang != g) }
    mem := { s.mem with watches := s.mem.watches.filter (fun w => s.gangOf w.seq != g) } }

/-- The event engines that serve a gang become free (R223). -/
def freeEngines (g : Nat) (s : State) : State :=
  { s with clusters := s.clusters.map (fun e => if e.2.ev.gang = g then (e.1, { e.2 with ev := EvEngine.reset }) else e) }

/-! ### Writes that not every agent sees yet (R198, R203) -/

/-- Whether an agent sees a write: it is the agent's own, or an edge has brought it (R203). -/
def Unseen.seenBy (q : SeqId) (e : Unseen) : Bool := e.marks.contains (.seen q)

/-- Changes the unseen writes; with none there is nothing to do. -/
def State.modUnseen (s : State) (f : List Unseen → List Unseen) : State :=
  if s.mem.unseen.isEmpty then s else s.modMem (fun m => { m with unseen := f m.unseen })

/-- The unseen writes without those that a test holds for and those before them of the same word: every agent sees them now. -/
def shed (p : Unseen → Bool) : List Unseen → List Unseen
  | [] => []
  | e :: l => if p e || l.any (fun x => x.word == e.word && p x) then shed p l else e :: shed p l

/-- Every agent sees now what a sequencer's agent sees. -/
def spread (q : SeqId) (s : State) : State := s.modUnseen (shed (·.seenBy q))

/-- Every agent sees now what the agents and commands of a gang see (R135). -/
def spreadGang (g : Nat) (s : State) : State :=
  s.modUnseen (shed (fun e => e.marks.any (fun k => match k with
    | .seen q => s.gangOf q == g
    | .command t _ _ => (s.tile t).gang == g
    | _ => false)))

/-- Frees what a gang holds on the module: tiles, pairs, gondolas, engines, traps (R149, R278). -/
def releaseGang (g : Nat) (s : State) : State :=
  match s.gang? g with
  | none => s
  | some u =>
    let s := spreadGang g s
    let s := (allTiles u).foldl (fun s t => if (s.tile t).gang = g then s.modTile t stopTile else s) s
    let s := { s with pairs := s.pairs.filter (fun e => e.2.gang != g) }
    dropTraps g (freeEngines g (removeLive g s))

/-- A gang ends with a status and a cause, which its completion will report (R134, R273, R278, R282, R358): its tiles stop
and are freed at once. A gang already ending keeps its first reason. Its running children end with status 5, its
pool entries are cancelled with status 5 (R144). -/
def endGang (g status cause : Nat) (s : State) : State :=
  match s.gang? g with
  | none => s
  | some u =>
    if u.killing.isSome then s
    else
      let s := (releaseGang g s).modGang g (fun u => { u with killing := some (status, cause), live := 0, phase := .waiting, saved := none })
      let s := s.modLaunch (fun l =>
        { l with gangs := l.gangs.map (fun e =>
            if e.2.parent = g ∧ e.2.killing.isNone then (e.1, { e.2 with killing := some (5, 0), live := 0, phase := .waiting, saved := none }) else e) })
      (s.launch.gangs.filter (fun e => e.2.parent == g)).foldl (fun s e => releaseGang e.1 s) s

/-- Poison kills a rectangle: it is fenced, and every gang with a tile inside ends with status 2, cause 0x11 (R278). The
rectangle of a die is the one whose register covers the tile's router. -/
def covers (rect : BitVec 16) (row col : Nat) : Bool :=
  rect.getLsbD 15 && (rect.extractLsb' 9 3).toNat ≤ row && row ≤ (rect.extractLsb' 6 3).toNat &&
    (rect.extractLsb' 3 3).toNat ≤ col && col ≤ (rect.extractLsb' 0 3).toNat

/-- The rectangle, as die·16 + n, that holds a tile. -/
def rectOf (s : State) (tile : Nat) : Nat :=
  let r := routerOf tile % 40
  let d := dieOf tile
  d * 16 + (((List.range 16).find? (fun n => covers (s.fabric.rects.get 0 (d * 16 + n)) (r / 8) (r % 8))).getD 0)

/-- Whether a tile of this module lies in a fenced rectangle (R278). -/
def fenced (s : State) (gtile : Nat) : Bool := gtile < 2048 && s.fabric.rectState.get 0 (rectOf s gtile) != 0

/-- Whether a key is a scratchpad byte behind a fence. -/
def fencedKey (s : State) (key : Nat) : Bool := spaceOf key == spaceScratch && fenced s (tileOfKey key)

/-- A write dropped at a fence is counted in ERRCNT7 (R278). -/
def dropWrite (p : Nat) (s : State) : State := countError s p 7 1

/-- The partition of a gang. -/
def partOfGang (s : State) (g : Nat) : Nat := ((s.gang? g).map (·.part)).getD 0

/-- Poison in place of data that nothing delivers. -/
def poisonBytes (n : Nat) : Exec Marked := do
  let s ← get
  set { s with free := s.free + n }
  return marked (freeBytes s.free n) true

/-- Kill states of a rectangle (R278): 0 free, 1 fenced and killing, 2 resetting. -/
def killRect (rect : Nat) (s : State) : State :=
  let s := s.modFabric (fun f => { f with rectState := f.rectState.set rect 1 })
  let inside := s.launch.gangs.filter (fun e => (allTiles e.2).any (fun t => rectOf s t == rect))
  inside.foldl (fun s e => endGang e.1 2 0x11 s) s

/-- Every tile's rectangle of a gang is killed (R278). -/
def killRectsOf (g : Nat) (s : State) : State :=
  match s.gang? g with
  | none => s
  | some u => (u.tiles.map (rectOf s)).foldl (fun s r => killRect r s) s

/-- Raises MSI-X vector 0 when a PFAULT bit goes from 0 to 1 (R290). -/
def setPfault (s : State) (p : Nat) (bits : BitVec 3) : State :=
  s.modPart p (fun u => { u with pfault := u.pfault ||| bits, msix0 := u.msix0 || ((u.pfault ||| bits) != u.pfault) })

/-- A partition fault (R273): counted, its launch queues disabled, its gangs on the module end with status 2, cause 0x11. -/
def partitionFault (p : Nat) (s : State) : State :=
  let s := setPfault (countError s p 4 1) p 3
  let s := s.modLaunch (fun l => { l with queues := l.queues.map (fun e =>
    if e.2.owner.toNat = p then (e.1, { e.2 with en := false }) else e) })
  (s.launch.gangs.filter (fun e => e.2.part == p)).foldl
    (fun s e => (endGang e.1 2 0x11 s).modGang e.1 (fun u => { u with worst := worse u.worst 5 })) s

/-! ## Stored bytes as the sequencers and engines meet them -/

/-- The state after a decode: corrections stand in memory, and the findings are counted for a partition and a gang (R273). -/
def afterFindings (p g : Nat) (d : Decoded) (s : State) : State :=
  d.classes.foldl (noteClass p g) { s with mem := d.mem, free := d.free }

/-- What a decode of a structure of the device finds: an uncorrectable word is of class S5, which its partition fault counts, and of no
other (R273). -/
def Decoded.structural (d : Decoded) : Decoded := { d with classes := d.classes.filter (· != 3) }

/-- Reads bytes with their poison marks, counting what the decode finds for a partition and a gang (R165, R273). -/
def fetchBytes (p g : Nat) (entry : BitVec 32) (key n : Nat) : Exec (List Byte × List Bool) := do
  let s ← get
  if isExternal key && !installed key then throw (.fault .absentMemory)
  let d := readDecoded s.mem s.free entry key n
  set (afterFindings p g d s)
  return (d.bytes, d.poison)

/-- Reads bytes of a structure of the device: a launch record, image, descriptor or queue ring (R273). -/
def fetchStructure (p g : Nat) (entry : BitVec 32) (key n : Nat) : Exec (List Byte × List Bool) := do
  let s ← get
  if isExternal key && !installed key then throw (.fault .absentMemory)
  let d := readDecoded s.mem s.free entry key n
  set (afterFindings p g d.structural s)
  return (d.bytes, d.poison)

/-- Writes bytes with their marks as one write; a unit of which it supplies only a part is read and corrected first, which is
counted (R165, R272, R273). -/
def writeBytes (p g : Nat) (entry : BitVec 32) (key : Nat) (bytes : Marked) (s : State) : State :=
  (afterFindings p g (correctPart s.mem s.free entry key bytes.length) s).modMem (fun m => writeMarked m entry key bytes)

/-- Writes bytes with their marks (R165, R272). -/
def storeMarked (p g : Nat) (entry : BitVec 32) (key : Nat) (bytes : Marked) : Exec Unit := do
  if isExternal key && !installed key then throw (.fault .absentMemory)
  modify (writeBytes p g entry key bytes)

/-- Writes bytes with one poison mark. -/
def storeBytes (p g : Nat) (entry : BitVec 32) (key : Nat) (bytes : List Byte) (poison : Bool) : Exec Unit :=
  storeMarked p g entry key (marked bytes poison)

/-- Reads a word of up to 8 bytes as a number, with its poison mark. -/
def fetchWord (p g : Nat) (entry : BitVec 32) (key n : Nat) : Exec (Nat × Bool) := do
  let (bs, ps) ← fetchBytes p g entry key n
  return (ofBytes bs, ps.any id)

/-! ## The range B-tree (R183-R185) -/

/-- Bytes at a physical address of this module's HBM, under layout 0, with whether any is poison. -/
def physWord (m : Mem) (pa n : Nat) : Nat × Bool :=
  let d := readDecoded m 0 0 (keyOf 0 spaceHbm pa) n
  (ofBytes d.bytes, d.poison.any id)

/-- A leaf a walk ends at: the span it maps, its size code (R189), the leaf word, and the physical address of the word. -/
structure Leaf where
  base : Nat
  limit : Nat
  size : BitVec 2
  word : Word
  place : Nat
  deriving DecidableEq, Repr

/-- A walk's answer: a leaf, nothing mapped, or an uncorrectable word in the structures (R186). -/
inductive Walked where
  | leaf (l : Leaf)
  | nothing
  | broken
  deriving DecidableEq, Repr

def leafValid (w : Word) : Bool := w.getLsbD 0
def leafIs (w : Word) : Bool := w.getLsbD 1
def frameOf (w : Word) : Nat := (w.extractLsb' 14 34).toNat * 2 ^ 14
def resOf (w : Word) : Nat := (w.extractLsb' 12 2).toNat

/-- A walk's answer with the physical addresses of the words it has read. -/
abbrev Path := Walked × List Nat

/-- The radix walk below a range whose descriptor has LEAF = 0 (R184). -/
def walkRadix (m : Mem) (base off table : Nat) (read : List Nat) : Nat → Path
  | 0 => (.nothing, read)
  | level + 1 =>
    let shift := 14 + 11 * level
    let place := table + off / 2 ^ shift % 2048 * 8
    let (e, bad) := physWord m place 8
    let w : Word := BitVec.ofNat 64 e
    let read := read ++ [place]
    if bad then (.broken, read)
    else if !leafValid w then (.nothing, read)
    else if leafIs w then
      (.leaf ⟨base + off / 2 ^ shift * 2 ^ shift, base + (off / 2 ^ shift + 1) * 2 ^ shift, BitVec.ofNat 2 level, w, place⟩, read)
    else walkRadix m base off (frameOf w) read level

/-- The entries of a node: its key count, kind, and whether the node is readable (R183). -/
def walkNode (m : Mem) (va : Nat) (read : List Nat) : Nat → Nat → Path
  | 0, _ => (.nothing, read)
  | depth + 1, node =>
    let (head, bad) := physWord m node 4
    let n := head % 65536
    let kind := head / 65536 % 256
    let entry := fun i => (physWord m (node + 16 + 24 * i) 8, physWord m (node + 24 + 24 * i) 8, physWord m (node + 32 + 24 * i) 8)
    let hit := (List.range (min n 31)).find? (fun i => let e := entry i; e.1.1 ≤ va && va < e.2.1.1)
    let read := read ++ node :: (List.range (3 * min n 31)).map (fun i => node + 16 + 8 * i)
    if bad || (List.range (min n 31)).any (fun i => let e := entry i; e.1.2 || e.2.1.2 || e.2.2.2) then (.broken, read)
    else match hit with
      | some i =>
        let e := entry i
        let w : Word := BitVec.ofNat 64 e.2.2.1
        if !leafValid w then (.nothing, read)
        else if leafIs w then (.leaf ⟨e.1.1, e.2.1.1, 3, w, node + 32 + 24 * i⟩, read)
        else walkRadix m e.1.1 (va - e.1.1) (frameOf w) read 3
      | none =>
        if kind = 1 then (.nothing, read)
        else
          let below := ((List.range (min n 31)).filter (fun i => (entry i).2.1.1 ≤ va)).length
          let place := node + 760 + 8 * below
          let (child, bad') := physWord m place 8
          if bad' then (.broken, read ++ [place]) else walkNode m va (read ++ [place]) depth child

/-- The walk of the shipped firmware for a partition's address, with the words it reads (R185). Only FMT 0 has a walk (R182). -/
def walkPath (s : State) (p va : Nat) : Path :=
  let u := s.part p
  if !u.atcfg.getLsbD 0 || (u.atcfg.extractLsb' 1 3) != 0 then (.nothing, [])
  else walkNode s.mem va [] (u.atcfg.extractLsb' 4 4).toNat ((u.atbase.extractLsb' 10 38).toNat * 1024)

def walk (s : State) (p va : Nat) : Walked := (walkPath s p va).1

/-- What the decodes of a walk find is counted, and corrections are written back (R165, R273). -/
def noteWalk (p g va : Nat) (s : State) : State :=
  (walkPath s p va).2.foldl (fun s pa =>
    let d := readDecoded s.mem 0 0 (keyOf 0 spaceHbm pa) 8
    afterFindings p g { d.structural with free := s.free } s) s

/-! ## Places -/

/-- The key of an external byte through a leaf: local HBM, a CXL port, or a peer's HBM (R184, R185). `off` counts from the
leaf's virtual base. -/
def leafKey (devid : Nat) (leaf : Word) (off : Nat) : Nat :=
  let pa := frameOf leaf + off
  match resOf leaf with
  | 1 => keyOf 0 spaceTier ((leaf.extractLsb' 54 2).toNat * 2 ^ 48 + pa)
  | 2 =>
    let d := (leaf.extractLsb' 54 8).toNat
    keyOf (if d = devid then 0 else d + 1) spaceHbm pa
  | _ => keyOf 0 spaceHbm pa

/-- The layout-table entry of a leaf's layout code in a partition (R269). -/
def leafEntry (s : State) (p : Nat) (leaf : Word) : BitVec 32 :=
  (s.part p).layouts.getD (leaf.extractLsb' 8 4).toNat 0

/-- Where an address leads once its checks are passed: scratchpad byte `off` of a tile of the domain, or an external byte
with its leaf. -/
inductive Place where
  | scratch (gtile off : Nat)
  | ext (key : Nat) (leaf : Word)
  deriving DecidableEq, Repr

/-- A place's key. -/
def Place.key : Place → Nat
  | .scratch t o => scratchKey t o
  | .ext k _ => k

/-! ## Address checks (R156) -/

def formOf (a : Word) : Nat := (a.extractLsb' 62 2).toNat
def deviceOf (a : Word) : Nat := (a.extractLsb' 54 8).toNat
def tileField (a : Word) : Nat := (a.extractLsb' 43 11).toNat
def offsetOf (a : Word) : Nat := (a.extractLsb' 0 20).toNat

/-- Step 1 of R156. -/
def formOk (a : Word) : Bool :=
  match formOf a with
  | 0 => deviceOf a = 0
  | 1 => (a.extractLsb' 20 23) = 0
  | _ => false

/-- Step 2 of R156 for an access of `n` bytes: the cause, if it fails. -/
def rangeCause (a : Word) (n : Nat) : Option Byte :=
  if formOf a = 0 then (if a.toNat + n > 2 ^ 54 then some 0x05 else none)
  else if offsetOf a + n > 2 ^ 20 then some 0x04 else none

/-- The place of a device in keys: 0 for this module (R31). -/
def placeOfDevice (s : State) (d : Nat) : Nat := if d = s.host.devid.toNat then 0 else d + 1

/-- The tile of the domain that a scratchpad-form address names (R31). -/
def gtileOf (s : State) (a : Word) : Nat := placeOfDevice s (deviceOf a) * 2048 + tileField a

/-- The rendezvous word that names a launch across modules; 0 for a launch of one part (R142, R445). -/
def rendezvousOf (u : Gang) : Word :=
  if (u.record[0]).getLsbD 20 then u.record[11] else 0

/-- The tiles of the domain that belong to a gang's launch, with the groups that hold each (R96, R445). -/
def launchTiles (s : State) (u : Gang) : List (Nat × List Nat) :=
  (List.range u.tiles.length).map (fun i =>
      (u.tiles.getD i 0, (List.range u.groups.length).filter (fun g => (u.groups.getD g []).contains i))) ++
    (s.fabric.peers.filter (fun p => p.part == u.part && p.rendezvous == rendezvousOf u && rendezvousOf u != 0)).map
      (fun p => (p.tile, p.groups))

/-- The groups of a launch that hold a tile of the domain; a twin is in its primary's groups (R97, R279). -/
def groupsOf (s : State) (u : Gang) (gtile : Nat) : Option (List Nat) :=
  let t := if gtile < 2048 then s.primaryOf gtile else gtile
  ((launchTiles s u).find? (fun e => e.1 == t)).map (·.2)

/-- Whether a sequencer may reach a tile of the domain: its own, one of a common group, and from a memory core any tile of
the launch (R99, R156 step 4, R166). Firmware is not bound by launches (R169). -/
def mayReach (s : State) (q : SeqId) (gtile : Nat) : Bool :=
  match s.gang? (s.gangOf q) with
  | none => (State.tileOf q).isNone || State.tileOf q == some gtile
  | some u =>
    match State.tileOf q with
    | some t =>
      gtile = t || gtile = s.primaryOf t ||
        (match groupsOf s u t, groupsOf s u gtile with
         | some a, some b => a.any b.contains
         | _, _ => false)
    | none => (groupsOf s u gtile).isSome

/-- The address of a byte of a tile of the domain (R31, R164). -/
def scratchAddress (s : State) (gtile off : Nat) : Word :=
  let device := if gtile < 2048 then s.host.devid.toNat else gtile / 2048 - 1
  BitVec.ofNat 64 (2 ^ 62 + device * 2 ^ 54 + gtile % 2048 * 2 ^ 43 + off)

/-- The tile whose scratchpad a tile address reaches: a twin's address of its primary is its own (R279). -/
def mirrored (s : State) (q : SeqId) (gtile : Nat) : Nat :=
  match State.tileOf q with
  | some t => if (s.tile t).twin = .twin ∧ gtile = t - 1 then t else gtile
  | none => gtile

/-! ## Translation (R188) -/

/-- The entry of a partition that covers an address. -/
def Tlb.find (t : Tlb) (p va : Nat) : Option TlbEntry :=
  t.entries.find? (fun e => e.part == p && e.base ≤ va && va < e.limit)

/-- Whether a leaf permits an access (R185). -/
def permits (leaf : BitVec 62) : Access → Bool
  | .read => leaf.getLsbD 2
  | .write => leaf.getLsbD 3
  | .fetch => leaf.getLsbD 4

/-- What a lookup finds (R188). -/
inductive Lookup where
  | hit (e : TlbEntry)
  | miss
  | denied
  deriving DecidableEq, Repr

/-- Looks an address up in a TLB, whatever ATCFG.EN holds (R182, R188, log 43). -/
def lookup (t : Tlb) (p va : Nat) (acc : Access) : Lookup :=
  match t.find p va with
  | none => .miss
  | some e =>
    if !permits e.leaf acc then .denied
    else if acc = .write ∧ !e.leaf.getLsbD 6 then .miss
    else .hit e

/-- Translates an address of form 0b00 for the issuing sequencer, raising not mapped with its miss, or permission (R188). -/
def translate (a : Word) (acc : Access) : Exec TlbEntry := do
  let s ← get
  match lookup (tlbOf s s.focus) (s.partOf s.focus) a.toNat acc with
  | .hit e => return e
  | .miss => throw (.trap 0x07 a (some acc))
  | .denied => trap 0x08 a

/-- The place of an address through a TLB entry. -/
def entryPlace (s : State) (e : TlbEntry) (va : Nat) : Place :=
  let leaf := e.leaf.setWidth 64
  .ext (leafKey s.host.devid.toNat leaf (va - e.base)) leaf

/-- Whether a partition's function has accepted a feature of FEATACC0 (R292). -/
def accepted (s : State) (p bit : Nat) : Bool := (s.part p).featacc0.getLsbD bit

/-! ## The shipped firmware's walk (R186, R188-R190) -/

/-- Whether the domain holds a device: the module itself, and once system software has assigned its identifier those that it configured
(R30, R188; log 2). -/
def domainHolds (s : State) (d : Nat) : Bool := d = s.host.devid.toNat || (s.host.assigned && Config.domainHolds d)

/-- Whether the shipped firmware would install the leaf of a walk (R188, R189). -/
def installable (s : State) (p : Nat) (l : Leaf) : Bool :=
  let span := match l.size.toNat with
    | 0 => 2 ^ 14
    | 1 => 2 ^ 25
    | 2 => 2 ^ 36
    | _ => 2 ^ 14
  leafValid l.word && leafIs l.word && resOf l.word ≠ 3 && (l.word.extractLsb' 48 6) == 0 &&
    l.base % span = 0 && frameOf l.word % span = 0 && l.limit % 2 ^ 14 = 0 && l.base < l.limit &&
    (resOf l.word ≠ 1 || accepted s p 5) &&
    (resOf l.word ≠ 2 || (accepted s p 6 && domainHolds s (l.word.extractLsb' 54 8).toNat))

/-- Entries of a TLB (R187). -/
def tlbLength : SeqId → Nat
  | .m _ => 256
  | _ => 1024

/-- Installs an entry after dropping those of the partition that overlap it; a full TLB drops one of any partition, which the
device chooses (R189; log 5). -/
def install (q : SeqId) (e : TlbEntry) (s : State) : State :=
  let kept := (tlbOf s q).entries.filter (fun o => !(o.part == e.part && o.base < e.limit && e.base < o.limit))
  let room := if kept.length < tlbLength q then kept else kept.eraseIdx (Config.tlbVictim s.free % kept.length)
  modTlb q (fun t => { t with entries := room ++ [e] }) { s with free := s.free + 1 }

/-- Whether a miss that a span covers is stale: TLBINV would have dropped its entry (R190). -/
def Miss.isStale (m : Miss) (lo hi : Nat) : Bool := m.stale || m.cleared.any (fun a => decide (lo ≤ a) && decide (a < hi))

/-- The pending misses of a partition in a span. -/
def missesIn (t : Tlb) (p lo hi : Nat) : List Miss := t.misses.filter (fun m => m.part == p && lo ≤ m.va && m.va < hi)

/-- A and D as firmware sets them for an access that a leaf permits (R186, R188). -/
def markedLeaf (w : Word) (acc : Access) : Word :=
  if permits (w.setWidth 62) acc then w ||| (if acc = .write then 0x60#64 else 0x20#64) else w

/-- Firmware sets A and D of a leaf in the structure (R186). -/
def markLeaf (p g : Nat) (l : Leaf) (acc : Access) (s : State) : State :=
  writeBytes p g 0 (keyOf 0 spaceHbm l.place) (marked (toBytes 8 (markedLeaf l.word acc).toNat) false) s

/-- The entry that firmware installs for a leaf. -/
def entryOf (p : Nat) (l : Leaf) (acc : Access) : TlbEntry := ⟨p, l.size, l.base, l.limit, (markedLeaf l.word acc).setWidth 62⟩

/-- What a device unit's access of form 0b00 comes to: an entry; none that it may use; or a miss that the serving service core has yet
to answer. -/
inductive Looked where
  | found (e : TlbEntry)
  | absent
  | pends
  deriving DecidableEq, Repr

/-- Whether a handler of system software's own serves a sequencer's misses (R443). -/
def ownHandler (s : State) (q : SeqId) : Bool := (s.cluster (serverOf q)).tvec ≠ 0

/-- A device unit's access of form 0b00 through the TLB of a sequencer's unit, for a partition and a gang (R186, R188). A miss is
delivered to the serving service core and pends; the shipped firmware answers it at once (log 13). An uncorrectable error of the
structures is a partition fault. -/
def deviceEntry (q : SeqId) (p g va : Nat) (acc : Access) (s : State) : Looked × State :=
  match lookup (tlbOf s q) p va acc with
  | .hit e => (.found e, s)
  | .denied => (.absent, s)
  | .miss =>
    if (s.part p).refused.contains ⟨q, g, va, acc⟩ then (.absent, s)
    else if ownHandler s q then (.pends, s)
    else
      let s' := noteWalk p g va s
      match walk s p va with
      | .leaf l =>
        if installable s p l then
          (if permits (entryOf p l acc).leaf acc then .found (entryOf p l acc) else .absent, install q (entryOf p l acc) (markLeaf p g l acc s'))
        else (.absent, s')
      | .nothing => (.absent, s')
      | .broken => (.absent, partitionFault p s')

/-- A device unit has taken the refusal of its access (R188). -/
def takeRefusal (q : SeqId) (p g va : Nat) (acc : Access) (s : State) : State :=
  if (s.part p).refused.isEmpty then s else s.modPart p (fun u => { u with refused := u.refused.filter (· != ⟨q, g, va, acc⟩) })

/-- Whether a scratchpad-form address names another device while feature 6 is not accepted (R292). -/
def shutOut (s : State) (q : SeqId) (a : Word) : Bool :=
  formOf a = 1 && deviceOf a ≠ s.host.devid.toNat && !accepted s (s.partOf q) 6

/-- Steps 1 to 4 of R156 for `n` bytes that must be aligned to `align`. -/
def checkAddress (a : Word) (n align : Nat) : Exec Unit := do
  let s ← get
  check (formOk a && !shutOut s s.focus a) 0x04 a
  match rangeCause a n with
  | some c => trap c a
  | none => pure ()
  check (a.toNat % align = 0) 0x0A a
  if formOf a = 1 then check (mayReach s s.focus (gtileOf s a)) 0x0B a

/-- All five steps of R156: the place of an access that lies in one page. -/
def resolve (a : Word) (n align : Nat) (acc : Access) : Exec Place := do
  checkAddress a n align
  let s ← get
  if formOf a = 1 then return .scratch (mirrored s s.focus (gtileOf s a)) (offsetOf a)
  else
    let e ← translate a acc
    return entryPlace s e a.toNat

/-! ## Taking a trap (R70, R71, R283, R357) -/

/-- Sets bits of a sequencer's wake latch (R440). -/
def latch (q : SeqId) (bits : BitVec 8) (s : State) : State := s.modSeq q (fun u => { u with latch := u.latch ||| bits })

/-- Sets bits of both wake latches of a tile (R440). -/
def latchTile (t : Nat) (bits : BitVec 8) (s : State) : State := latch (.x t) bits (latch (.a t) bits s)

/-- Whether a trap is kept for a service core until it can take it. -/
def Trap.server (t : Trap) : Nat :=
  match t.origin with
  | .instruction q => serverOf q
  | .matrix tile => clusterOf tile
  | .reel q _ => serverOf q
  | .device q => serverOf q
  | .none => (t.unit.extractLsb' 0 12).toNat

/-- A service core takes the oldest queued trap, or waits as at WFE when none is queued (R357). -/
def takeTrap (c : Nat) (s : State) : State :=
  s.modCluster c (fun u =>
    match u.traps with
    | [] => { u with inHand := none, svc := { u.svc with suspended := true, wait := none } }
    | t :: rest =>
      { u with
        traps := rest
        inHand := some t
        causeUnit := t.unit
        causeKind := t.kind
        causeCode := t.code
        epc := t.epc
        tval := t.tval
        partid := BitVec.ofNat 4 t.part
        svc := { u.svc with pc := u.tvec, suspended := false, wait := none } })

/-- The other member's sequencer of the same kind (R279). -/
def partnerSeq (s : State) : SeqId → SeqId
  | .a t => .a (s.partnerOf t)
  | .x t => .x (s.partnerOf t)
  | q => q

/-- Whether a firing is a gondola's. -/
def isGondola (u : Seq) : Bool := (u.firing.map (·.gondola)).getD false

/-- A sequencer's part in a bridled pair; a gondola's firing is not paired (R279, R328). -/
def memberOf (s : State) (q : SeqId) : Twin :=
  match State.tileOf q with
  | some t => if isGondola (s.seq q) then .alone else (s.tile t).twin
  | none => .alone

/-- Whether a sequencer is the twin's of a bridled pair. -/
def isTwin (s : State) (q : SeqId) : Bool := memberOf s q == .twin

/-- Whether a sequencer's tile is a member of a bridled pair, whatever its firing. -/
def tilePaired (s : State) (q : SeqId) : Bool :=
  match State.tileOf q with
  | some t => s.paired t
  | none => false

/-- Whether a sequencer is a member's of a bridled pair. -/
def isPaired (s : State) (q : SeqId) : Bool := memberOf s q != .alone

/-- A miss of a partition becomes pending at a TLB (R188). -/
def addMiss (q : SeqId) (p va : Nat) (acc : Access) (s : State) : State :=
  modTlb q (fun t => { t with misses := t.misses ++ [⟨p, va, acc, false, []⟩] }) s

/-- Gives a trap to the service core that takes it; it waits undelivered until the trap queue has room (R357). -/
def postTrap (t : Trap) (s : State) : State := s.modLaunch (fun l => { l with undelivered := l.undelivered ++ [t] })

/-- A device unit's miss is delivered to the serving service core, unless it waits there already (R188). The access is no
instruction's: its EPC is 0 (log 13). -/
def missDevice (q : SeqId) (p g va : Nat) (acc : Access) (s : State) : State :=
  let t : Trap := ⟨unitOf q, kindCode q, 0x07, 0, BitVec.ofNat 64 va, g, p, .device q, some acc⟩
  if (waitingTraps s).contains t || (s.cluster (serverOf q)).inHand = some t then s else postTrap t (addMiss q p va acc s)

/-- A device unit waits for the service core that serves its miss; the access is made again later (R188). -/
def waitMiss {α : Type} (q : SeqId) (p g va : Nat) (acc : Access) : Exec α := throw (.wait .miss (missDevice q p g va acc))

/-- The gang that a trap charges: the trapped unit's, or for a memory core's loader firing the gang of the copy whose request
it has taken (R169). -/
def chargedGang (s : State) (t : Trap) : Nat :=
  match t.origin with
  | .instruction (.m c) =>
    match t.gang, (s.mcore c).taken with
    | 0, some r => (s.tile (r[0].extractLsb' 16 16).toNat).gang
    | g, _ => g
  | _ => t.gang

/-- A firing of no gang ends, and with it the request it has taken. -/
def dropFiring (q : SeqId) (s : State) : State :=
  let s := s.modSeq q (fun u => { u with firing := none, wait := none, hold := none, suspended := false })
  match q with
  | .m c => s.modMCore c (fun u => { u with taken := none, takenPoison := 0 })
  | _ => s

/-! ## Code bytes, and a firing that continues (R168, R283, R358) -/

/-- The key and leaf of a code byte: a service core fetches at the physical address, every other sequencer through its TLB;
else whether the page denies the fetch (log 12). -/
def codePlace (s : State) (q : SeqId) (pc : Word) : Except Bool (Nat × Word) :=
  match q with
  | .s _ => .ok (keyOf 0 spaceHbm (pc.toNat % 2 ^ 48), 0)
  | q => match lookup (tlbOf s q) (s.partOf q) pc.toNat .fetch with
    | .hit e =>
      let leaf := e.leaf.setWidth 64
      .ok (leafKey s.host.devid.toNat leaf (pc.toNat - e.base), leaf)
    | .miss => .error false
    | .denied => .error true

/-- Decodes `n` code bytes at an address, if it can be fetched: a code object that was written meanwhile gives its new bytes
(R168, log 43). -/
def codeBytes (s : State) (q : SeqId) (pc : Word) (n : Nat) : Except Bool Decoded :=
  match codePlace s q pc with
  | .ok (key, leaf) => .ok (readDecoded s.mem s.free (leafEntry s (s.partOf q) leaf) key n)
  | .error denied => .error denied

/-- The first word of the instruction at an address, if it can be fetched. -/
def codeWord (s : State) (q : SeqId) (pc : Word) : Option (BitVec 32) :=
  match codeBytes s q pc 4 with
  | .ok d => some (BitVec.ofNat 32 (ofBytes d.bytes))
  | .error _ => none

/-- Length(word) of R358: by the L field, 4 bytes when L = 0. -/
def wordLength (w : BitVec 32) : Nat :=
  match (w.extractLsb' 0 2).toNat with
  | 1 => 8
  | 2 => 12
  | 3 => 16
  | _ => 4

/-- Whether a pair's twin is at least at the instruction at which its primary is suspended (R283). -/
def twinStopped (s : State) (q : SeqId) : Bool :=
  !(isPaired s q && !isTwin s q && (s.seq q).suspended) || (s.seq q).retired ≤ (s.seq (partnerSeq s q)).retired

/-- A suspended firing continues at an address; the members of a pair continue together at one instruction (R283, R358). -/
def resumeFiring (q : SeqId) (pc : Word) (s : State) : State :=
  let go := fun (u : Seq) => { u with pc := pc, suspended := false, wait := none }
  if (s.seq q).suspended then
    let together := isPaired s q && !isTwin s q && (s.seq (partnerSeq s q)).retired == (s.seq q).retired
    let s := s.modSeq q go
    if together then s.modSeq (partnerSeq s q) go else s
  else s

/-- Whether a trap is the miss of a PROBE, which never raises a cause (R192). -/
def isProbeMiss (s : State) (t : Trap) : Bool :=
  t.miss.isSome && t.miss != some .fetch &&
    (match t.origin with
     | .instruction q => (codeWord s q t.epc).any (fun w => (w.extractLsb' 0 10) == 0x305#10)
     | _ => false)

/-- The answer of a PROBE whose access would fault (R192). -/
def probeFault (cause : Byte) : Word := 0x8000_0000_0000_0000#64 ||| cause.setWidth 64

/-- What a trap that stands does to what it stops: a firing of no gang ends (R134, R169); a PROBE's answer is that the access
would fault with 0x07 (R192, R403); a device unit's access concludes not mapped (R188). Every other gang that it charges ends with
status 10 and a cause byte, and the unit stands in its completion record (R358). -/
def standTrap (t : Trap) (g code : Nat) (s : State) : State :=
  match t.origin with
  | .device q => s.modPart t.part (fun u => { u with refused := u.refused ++ [⟨q, t.gang, t.tval.toNat, t.miss.getD .read⟩] })
  | origin =>
    if isProbeMiss s t then
      match origin with
      | .instruction q => (resumeFiring q t.epc s).modSeq q (fun u => { u with wait := some ⟨.memory, s.time, some (probeFault 0x07, false)⟩ })
      | _ => s
    else
      let s := match s.gang? t.gang, origin with
        | none, .instruction q => dropFiring q s
        | _, _ => s
      match s.gang? g with
      | some _ => endGang g 10 code (s.modGang g (fun u => { u with units := u.units ++ [t.unit] }))
      | none => s

/-- The service core's trap in hand stands (R358). -/
def stand (c : Nat) (code : Nat) (s : State) : State :=
  match (s.cluster c).inHand with
  | none => s
  | some t => standTrap t (chargedGang s t) code (forgetMiss t (s.modCluster c (fun u => { u with inHand := none })))

/-- An execution cause of a service core's own instruction (R357): the trap in hand stands with that cause, and the core
takes the next trap or waits; with none in hand the instruction at `pc` has no effect, the error is counted, and the core
goes on at `after`. -/
def serviceCause (c : Nat) (code : Byte) (after : Word) (s : State) : State :=
  match (s.cluster c).inHand with
  | some _ => takeTrap c (stand c code.toNat s)
  | none => (countError s (s.partOf (.s c)) 4 1).modCluster c (fun u => { u with svc := { u.svc with pc := after, wait := none } })

/-- Poison consumed by a service core (R273, R357): a partition fault of the partition that PARTID names; the trap in hand
goes with it, and the core takes the next trap or waits. -/
def servicePoison (c : Nat) (s : State) : State :=
  let s := match (s.cluster c).inHand with
    | some t => forgetMiss t s
    | none => s
  takeTrap c ((partitionFault (s.partOf (.s c)) s).modCluster c (fun u => { u with inHand := none }))

/-- Raises a trap of a tile's or a memory core's instruction: the firing is suspended at the instruction, and the trap goes
to the serving service core with EPC the instruction's address (R71, R357). A twin is suspended without a trap of its own, and
where its fetch misses before its primary has passed the instruction it waits, since its primary's fetch is the one that traps (R283;
log 8). -/
def raiseTrap (q : SeqId) (code : Byte) (tval : Word) (miss : Option Access) (after : Word) (s : State) : State :=
  match q with
  | .s c => serviceCause c code after s
  | q =>
    let u := s.seq q
    if isTwin s q then
      if miss = some .fetch && (s.seq (partnerSeq s q)).retired ≤ u.retired then s.modSeq q (fun u => { u with wait := some ⟨.pair, ((u.wait.map (·.since)).getD s.time), none⟩ })
      else s.modSeq q (fun u => { u with suspended := true, wait := none })
    else
      let s := s.modSeq q (fun u => { u with suspended := true, wait := none })
      let t : Trap := ⟨unitOf q, kindCode q, code, u.pc, tval, s.gangOf q, s.partOf q, .instruction q, miss⟩
      let s := match miss with
        | some acc => addMiss q (s.partOf q) tval.toNat acc s
        | none => s
      postTrap t s

/-- The TVAL of poison consumed by a sequencer stands with its gang (R70, R276). -/
def noteConsumed (q : SeqId) (tval : Word) (s : State) : State := s.modGang (s.gangOf q) (fun u => { u with consumed := some tval })

/-- What the reads of an instruction that does not complete have found stands: corrections, drops and their counts (R273, R325).
Its reads come before its other effects, which it does not have. `t` is the state before it, `t'` the one its reads left. -/
def keepFindings (t t' : State) : State :=
  { t with mem := t'.mem, free := t'.free, parts := t'.parts, launch := { t.launch with gangs := t'.launch.gangs } }

/-- Poison consumed (R276, R278, R357): on a tile it kills the rectangle; a memory core's firing ends and the rectangles of
its gang's tiles are killed; a service core raises S5. -/
def consumePoison (q : SeqId) (s : State) : State :=
  match q with
  | .s c => servicePoison c s
  | .m c =>
    let g := s.gangOf (.m c)
    killRectsOf g (dropFiring (.m c) s)
  | .a t => killRect (rectOf s t) s
  | .x t => killRect (rectOf s t) s

/-! ## The return from a trap (R358) -/

/-- Resume of R358, with the skip of mode 1: past the instruction whose cause is in hand when that instruction raised it. -/
def resume (c : Nat) (skip : Bool) (s : State) : State :=
  let u := s.cluster c
  match u.inHand with
  | none => s
  | some t =>
    let s := forgetMiss t (s.modCluster c (fun u => { u with inHand := none }))
    match t.origin with
    | .instruction q =>
      let pc := match codeWord s q u.epc with
        | some w => if skip && t.miss != some .fetch then u.epc + BitVec.ofNat 64 (wordLength w) else u.epc
        | none => u.epc
      resumeFiring q pc s
    | .matrix tile =>
      let go := fun (t : Nat) (s : State) => s.modTile t (fun v =>
        if v.matrix.any (·.stopped) then
          { v with
            matrix := v.matrix.map (fun m => { m with stopped := false, fault := none })
            x := if v.x.firing.isSome && !v.x.suspended then { v.x with pc := u.epc } else v.x }
        else v)
      if s.paired tile then go (s.partnerOf tile) (go tile s) else go tile s
    | .reel _ _ => s
    | .device _ => s
    | .none => s

end Sys2Proof.Machine
end

