-- ==== Sys2Proof/Machine/Window.lean ====
section
/-! DEFINITION. The routers with their ports, and the configuration windows through which firmware's service cores read and write the
registers of routers and memory cores (R13, R14, R27, R250-R252, R257, R269, R277, R296). -/

namespace Sys2Proof.Machine

/-! ## Routers and ports (R13, R14, R27, R251) -/

/-- Whether a number names a router. -/
def isRouter (r : Nat) : Bool := r < 168

/-- What stands at a hub router beside its links (R14). -/
inductive Attachment where
  | tether (port : Nat)
  | cxl (port : Nat)
  | hostInterface
  | launchUnit
  | securityController
  | timeBase
  deriving DecidableEq, Repr

/-- The local attachments of the hub router of a column, in the order of R14. -/
def attachmentsOf (col : Nat) : List Attachment :=
  match col with
  | 0 => [.tether 0, .tether 1, .cxl 0]
  | 1 => [.tether 2, .tether 3, .hostInterface]
  | 2 => [.tether 4, .tether 5, .cxl 1]
  | 3 => [.tether 6, .tether 7, .tether 16, .launchUnit]
  | 4 => [.tether 8, .tether 9, .tether 17, .securityController]
  | 5 => [.tether 10, .tether 11, .cxl 2]
  | 6 => [.tether 12, .tether 13, .timeBase]
  | 7 => [.tether 14, .tether 15, .cxl 3]
  | _ => []

/-- What a port leads to: another router, a cluster of a compute router, a slice of a slice router, or an attachment of a hub
router. -/
inductive Behind where
  | router (n : Nat)
  | cluster (n : Nat)
  | slice (n : Nat)
  | attached (a : Attachment)
  deriving DecidableEq, Repr

/-- The `i`-th of the `n` positions other than `here`, in ascending order. -/
def peerAt (n here i : Nat) : Option Nat := ((List.range n).filter (· != here))[i]?

/-- What stands behind a port of a router on a compute die: row peers, column peers, the same place on the other dies, then the
clusters of a compute router, or the slices of a slice router and its hub router. -/
def diePort (r p : Nat) : Option Behind :=
  let die := r / 40
  let row := r % 40 / 8
  let col := r % 8
  if p < 7 then (peerAt 8 col p).map (fun c => .router (die * 40 + row * 8 + c))
  else if p < 11 then (peerAt 5 row (p - 7)).map (fun q => .router (die * 40 + q * 8 + col))
  else if p < 14 then (peerAt 4 die (p - 11)).map (fun d => .router (d * 40 + row * 8 + col))
  else if row ≠ 0 then (if p < 18 then some (.cluster (p - 14)) else none)
  else if p < 16 then some (.slice (p - 14))
  else if p = 16 then some (.router (160 + col))
  else none

/-- What stands behind a port of a hub router. -/
def hubPort (r p : Nat) : Option Behind :=
  let col := r - 160
  if p < 4 then some (.router (p * 40 + col))
  else if p < 11 then (peerAt 8 col (p - 4)).map (fun c => .router (160 + c))
  else (attachmentsOf col)[p - 11]?.map .attached

def portTarget (r p : Nat) : Option Behind := if r < 160 then diePort r p else hubPort r p

/-- The next router on the firmware's minimal route: the row, then the column, then the die; a hub router is reached through
the slice router of its column (R252). -/
def minimalNext (r d : Nat) : Nat :=
  let rowOf := fun (x : Nat) => x % 40 / 8
  let colOf := fun (x : Nat) => if x < 160 then x % 8 else x - 160
  if r < 160 then
    let die := r / 40
    if colOf r ≠ colOf d then die * 40 + rowOf r * 8 + colOf d
    else if 160 ≤ d then (if rowOf r = 0 then d else die * 40 + colOf r)
    else if rowOf r ≠ rowOf d then die * 40 + rowOf d * 8 + colOf r
    else d
  else if colOf r ≠ colOf d then 160 + colOf d
  else if 160 ≤ d then d
  else d / 40 * 40 + colOf r

/-- The key of a table entry. -/
def routeKey (router dest part : Nat) : Nat := router * 4096 + dest * 16 + part

/-- The port by which the firmware's minimal route leaves a router. -/
def minimalPort (r d : Nat) : Nat := ((List.range 18).find? (fun p => portTarget r p == some (.router (minimalNext r d)))).getD 0

/-- An entry of a routing table as it reads: the table's own, or the one that firmware has written for its minimal routes (R250, R252). -/
def entryBits (table : Assoc (BitVec 16)) (minimal : BitVec 16) (router dest part : Nat) : BitVec 16 :=
  match table.find? (fun e => e.1 == routeKey router dest part) with
  | some e => e.2
  | none => if minimal.getLsbD part && router ≠ dest then 0x8000#16 ||| BitVec.ofNat 16 (minimalPort router dest) else 0

/-! ## The registers of the windows -/

/-- An entry of a router's shadow table (R250, R252). -/
def shadowFields (v : Word) : BitVec 16 := v.extractLsb' 0 16 &&& 0x981F#16

/-- An entry of a shadow table is written (R250, R252). -/
def writeShadow (router dest part : Nat) (v : Word) (s : State) : State :=
  if router < 168 ∧ dest < 168 ∧ part < 16 then
    s.modFabric (fun u => { u with shadow := u.shadow.set (routeKey router dest part) (shadowFields v) })
  else s

/-- TMO is written: 1 to 1,000 (R257; log 31). -/
def writeTimeout (v : Word) (s : State) : State :=
  let n := (v.extractLsb' 0 10).toNat
  if 1 ≤ n ∧ n ≤ 1000 then s.modFabric (fun u => { u with timeout := v.extractLsb' 0 10 }) else s

/-- The fields of a rectangle register. -/
def rectFields (value : Word) : BitVec 16 := value.extractLsb' 0 16 &&& 0x8FFF#16

/-- Whether a defined rectangle keeps its ranges. -/
def rectOk (r : BitVec 16) : Bool :=
  !r.getLsbD 15 || (1 ≤ (r.extractLsb' 9 3).toNat && (r.extractLsb' 9 3).toNat ≤ (r.extractLsb' 6 3).toNat &&
    (r.extractLsb' 6 3).toNat ≤ 4 && (r.extractLsb' 3 3).toNat ≤ (r.extractLsb' 0 3).toNat)

/-- Whether every compute router of a die lies in exactly one valid rectangle of a table. -/
def rectsCover (rects : Assoc (BitVec 16)) (die : Nat) : Bool :=
  (List.range 32).all (fun i =>
    ((List.range 16).filter (fun n => covers (rects.get 0 (die * 16 + n)) (i / 8 + 1) (i % 8))).length = 1)

/-- The tiles in a rectangle of a die. -/
def tilesIn (s : State) (die rect : Nat) : List Nat :=
  ((List.range 512).map (fun i => die * 512 + i)).filter (fun t =>
    covers (s.fabric.rects.get 0 (die * 16 + rect)) (routerOf t % 40 / 8) (routerOf t % 40 % 8))

/-- Whether a tile of a rectangle holds a gang. -/
def rectBusy (s : State) (die rect : Nat) : Bool := (tilesIn s die rect).any (fun t => (s.tile t).gang ≠ 0)

/-- A rectangle register is written (R277): ignored when a compute router would not lie in exactly one valid rectangle, or when the
rectangle holds a tile of a gang. -/
def writeRect (die rect : Nat) (value : Word) (s : State) : State :=
  let v := rectFields value
  let after := s.fabric.rects.set (die * 16 + rect) v
  if 4 ≤ die || 16 ≤ rect || !rectOk v || !rectsCover after die || rectBusy s die rect then s
  else s.modFabric (fun u => { u with rects := after })

/-- The fields of a layout-table entry. -/
def layoutFields (v : BitVec 32) : BitVec 32 := v &&& 0x8003FF7F#32

/-- A layout-table entry is written (R269): entry 0 stays 0, and a valid entry keeps the budget of R270. -/
def writeLayout (p code : Nat) (value : BitVec 32) (s : State) : State :=
  let v := layoutFields value
  let ok := match Layout.ofEntry v with
    | some l => l.valid
    | none => true
  if 16 ≤ p || code = 0 || 16 ≤ code || !ok then s
  else s.modPart p (fun u => { u with layouts := u.layouts.setIfInBounds code v })

/-- Word `i` of the monitor block, and PWRCAP after it (R296, R297). -/
def monitorWord (h : HostPort) (i : Nat) : Word :=
  if i < 168 then (h.peak.get 0 i ++ h.temp.get 0 i).setWidth 64
  else if 0x100 ≤ i && i < 0x300 then (h.volt.get 0 (i - 0x100)).setWidth 64
  else if 0x300 ≤ i && i < 0x500 then (h.proc.get 0 (i - 0x300)).setWidth 64
  else if i = 0x500 then h.pwrcap.setWidth 64
  else 0

/-! ## The windows -/

/-- A register in a configuration window. Offsets that the spec does not give are the model's (log 12). -/
inductive WindowReg where
  | monitor (word : Nat)
  | rect (die n : Nat)
  | active (router dest part : Nat)
  | shadow (router dest part : Nat)
  | timeout
  | layout (part code : Nat)
  deriving DecidableEq, Repr

/-- The place of a key among the windows: 0 the monitor block's, 1 to 168 the routers', 169 the memory cores'; and its offset. -/
def windowAt (key : Nat) : Option (Nat × Nat) :=
  (List.range 170).findSome? (fun w =>
    let base := keyOf 0 spaceHbm (Config.windowBase w)
    if base ≤ key && key < base + 2 ^ 14 then some (w, key - base) else none)

/-- The registers that a window holds from an offset on, with the offset at which each begins and its width in bytes. -/
def registerAt (w o : Nat) : Option (WindowReg × Nat × Nat) :=
  let table := fun (base : Nat) => (o - base) / 2
  if w = 0 then (if o < 0x2808 then some (.monitor (o / 8), o / 8 * 8, 8) else none)
  else if w = 169 then (if o < 0x400 then some (.layout (o / 64) (o % 64 / 4), o / 4 * 4, 4) else none)
  else
    let r := w - 1
    if 0x800 ≤ o && o < 0x880 && r < 160 && r % 40 = 0 then some (.rect (r / 40) ((o - 0x800) / 8), o / 8 * 8, 8)
    else if 0x1000 ≤ o && o < 0x2500 then some (.active r (table 0x1000 / 16) (table 0x1000 % 16), o / 2 * 2, 2)
    else if 0x2500 ≤ o && o < 0x3A00 then some (.shadow r (table 0x2500 / 16) (table 0x2500 % 16), o / 2 * 2, 2)
    else if 0x3A00 ≤ o && o < 0x3A08 && r = 161 then some (.timeout, 0x3A00, 8)
    else none

/-- What a register reads as. -/
def WindowReg.value (s : State) : WindowReg → Nat
  | .monitor i => (monitorWord s.host i).toNat
  | .rect d n => (s.fabric.rects.get 0 (d * 16 + n)).toNat
  | .active r d p => (entryBits s.fabric.active s.fabric.minimalActive r d p).toNat
  | .shadow r d p => (entryBits s.fabric.shadow s.fabric.minimalShadow r d p).toNat
  | .timeout => s.fabric.timeout.toNat
  | .layout p n => ((s.part p).layouts.getD n 0).toNat

/-- A store to a register; the monitors and the active tables are read only, and so is PWRCAP here (R252, R296, R297). -/
def WindowReg.write (v : Nat) (s : State) : WindowReg → State
  | .monitor _ => s
  | .active _ _ _ => s
  | .rect d n => writeRect d n (BitVec.ofNat 64 v) s
  | .shadow r d p => writeShadow r d p (BitVec.ofNat 64 v) s
  | .timeout => writeTimeout (BitVec.ofNat 64 v) s
  | .layout p n => writeLayout p n (BitVec.ofNat 32 v) s

/-- Bytes that a service core reads through a configuration window, a strongly ordered page at a physical address that the spec does not
give (R252, R296; log 12); a byte of no register reads zero. -/
def windowBytes (s : State) (key n : Nat) : Option Marked :=
  (windowAt key).map (fun e => marked ((List.range n).map (fun i => match registerAt e.1 (e.2 + i) with
    | some (r, o, _) => BitVec.ofNat 8 (r.value s / 256 ^ (e.2 + i - o))
    | none => 0)) false)

/-- A service core's store to a configuration window: every register that it supplies whole is written. -/
def windowStore (key : Nat) (bytes : List Byte) (s : State) : Option State :=
  (windowAt key).map (fun e => (List.range bytes.length).foldl (fun s i => match registerAt e.1 (e.2 + i) with
    | some (r, o, n) => if o = e.2 + i && i + n ≤ bytes.length then r.write (ofBytes ((bytes.drop i).take n)) s else s
    | none => s) s)

/-- Whether a place may lie in a configuration window: a service core's access to a strongly ordered page. -/
def inWindow (q : SeqId) : Place → Bool
  | .ext _ leaf => leaf.getLsbD 7 && q.kind == .s
  | .scratch .. => false

end Sys2Proof.Machine
end

