-- ==== Sys2Proof/Machine/View.lean ====
section
/-! DEFINITION. What agents see of each other's writes (R196-R204, R209): the scopes, the writes that not every agent sees yet, and
how releases, acquires, fences, forks and joins make an agent see them. The memory itself holds what the last write of each word left;
a plain read may return an older value as long as no write visible to it follows that value (R203). -/

namespace Sys2Proof.Machine

/-! ## Scopes (R197) -/

/-- The die of a sequencer's unit, the hub die being 4 (R27). -/
def dieOfSeq : SeqId → Nat
  | .a t => dieOf t
  | .x t => dieOf t
  | .m c => if c < 256 then serverOfCore c / 128 else 4
  | .s c => c / 128

/-- Whether two gangs are one launch, or parent and child (R197). -/
def sameJob (s : State) (g h : Nat) : Bool :=
  g == h || ((s.gang? g).map (·.parent)).getD 0 == h || ((s.gang? h).map (·.parent)).getD 0 == g

/-- Whether two tiles share a group of a launch. -/
def groupShared (s : State) (g t t' : Nat) : Bool :=
  match s.gang? g with
  | some u =>
    (match groupsOf s u t, groupsOf s u t' with
     | some a, some b => a.any b.contains
     | _, _ => false)
  | none => false

/-- Whether an agent on `b` lies in a scope of an agent on `a` (R197). -/
def inScope (s : State) (a : SeqId) (scope : Nat) (b : SeqId) : Bool :=
  a == b ||
    (match scope, State.tileOf a with
     | 1, some t => State.tileOf b == some t
     | 2, some t => b == .s (clusterOf t) || (State.tileOf b).map clusterOf == some (clusterOf t)
     | 3, some t => (State.tileOf b).any (groupShared s (s.gangOf a) t)
     | 4, _ => dieOfSeq a == dieOfSeq b
     | 6, _ => sameJob s (s.gangOf a) (s.gangOf b)
     | n, _ => n == 5 || 7 ≤ n)

/-- Whether a release of `a` and an acquire of `b` pair: each lies in the other's scope (R201). Scope 9 asks nothing. -/
def pairs (s : State) (a : SeqId) (release : Nat) (b : SeqId) (acquire : Nat) : Bool :=
  release == 9 || (inScope s a release b && inScope s b acquire a)

/-! ## Marks -/

/-- A write with one more mark. -/
def Unseen.mark (k : Mark) (e : Unseen) : Unseen := if e.marks.contains k then e else { e with marks := e.marks ++ [k] }

/-- Whether a read of the agent's may not go back before a write: it sees the write, or has read it (R198, R203). -/
def Unseen.known (q : SeqId) (e : Unseen) : Bool := e.seenBy q || e.marks.contains (.read q)

/-- Marks the unseen writes that a test holds for. -/
def markUnseen (k : Mark) (p : Unseen → Bool) (s : State) : State :=
  s.modUnseen (fun l => l.map (fun e => if p e then e.mark k else e))

/-! ## Reads and writes (R198, R203) -/

/-- Marked bytes at a key with a held write's bytes over them. -/
def layBytes (key : Nat) (bytes : Marked) (at_ : Nat) (new : Marked) : Marked :=
  (List.range bytes.length).map (fun i =>
    if at_ ≤ key + i ∧ key + i < at_ + new.length then new.getD (key + i - at_) (0, false) else bytes.getD i (0, false))

/-- The agent for whom the marks of a sequencer stand: a twin's are its primary's (R279). -/
def leadSeq (s : State) (q : SeqId) : SeqId := if isTwin s q then partnerSeq s q else q

/-- The word under which the writes to a word are listed: a twin's scratchpad takes the writes of its primary's (R279). -/
def leadWord (s : State) (w : Nat) : Nat :=
  if spaceOf (8 * w) = spaceScratch ∧ tileOfKey (8 * w) < 2048 ∧ (s.tile (tileOfKey (8 * w))).twin = .twin then w - 2 ^ 17 else w

/-- Whether the place of a key is performed by a sequencer's own memory core, in its program order (R198). -/
def ownPiece (q : SeqId) (key : Nat) : Bool :=
  match q with
  | .m c => isExternal key && key / 2 ^ 53 == 0 && ownerOf key == c
  | _ => false

/-- Whether a plain read of a sequencer's agent at a key may take its slack: a service core's do not (log 42), nor a memory core's of
its own pieces (R198). -/
def readsLate (q : SeqId) (key : Nat) : Bool := q.kind != .s && !ownPiece q key

/-- Whether a plain write may: a pair's members' stay in their scratchpads until they leave together (R280). -/
def writesLate (s : State) (q : SeqId) (key : Nat) : Bool := readsLate q key && memberOf s q == .alone

/-- The oldest write of a word that a reader need not see, if there is one: a read may return what the word held before it. `known` tells
the writes before which the reader may not go back. -/
def Mem.oldest (m : Mem) (known : Unseen → Bool) (w : Nat) : Option Unseen :=
  ((m.unseen.filter (·.word == w)).reverse.takeWhile (fun e => !known e)).getLast?

/-- The writes before which a plain read of `n` bytes goes back, each with the word that is read: in each word that takes its slack, the
oldest that it may. -/
def staleTo (s : State) (known : Unseen → Bool) (key n : Nat) : List Unseen :=
  (wordsOf key n).zipIdx.filterMap (fun e =>
    if s.slack.getLsbD e.2 then (s.mem.oldest known (leadWord s e.1)).map (fun x => { x with word := e.1 }) else none)

/-- Bytes that memory holds at a key, as they were before some writes. -/
def before (old : List Unseen) (key : Nat) (bs : Marked) : Marked :=
  old.foldl (fun bs e => layBytes key bs (8 * e.word) (marked e.old false)) bs

/-- The writes before which a plain read of a sequencer's agent goes back. -/
def stale (s : State) (q : SeqId) (key n : Nat) : List Unseen :=
  if readsLate q key then staleTo s (Unseen.known (leadSeq s q)) key n else []

/-- More marks on a write, none twice. -/
def Unseen.markAll (ks : List Mark) (e : Unseen) : Unseen := ks.foldl (fun e k => e.mark k) e

/-- An agent has read the last write of some words: it reads no older one (R198), and a later acquiring fence of its takes what the
fences before those writes cover (R202). -/
def reads (q : SeqId) (words : List Nat) (s : State) : State :=
  let q := leadSeq s q
  let words := words.map (leadWord s)
  s.modUnseen (fun l => l.map (fun e =>
    let e := if words.contains e.word then e.mark (.read q) else e
    e.markAll (e.marks.filterMap (fun k => match k with
      | .released w a r true => if words.contains w then some (.noticed q a r) else none
      | _ => none))))

/-- An agent has written some words: they take along what its releasing fences cover (R202). -/
def wrote (q : SeqId) (words : List Nat) (s : State) : State :=
  let q := leadSeq s q
  let words := words.map (leadWord s)
  s.modUnseen (fun l => l.map (fun e =>
    e.markAll (words.flatMap (fun w => e.marks.filterMap (fun k => match k with
      | .fenced a r => if a = q then some (.released w q r true) else none
      | _ => none)))))

/-- What a plain read of an agent returns where memory holds `bs` (R203). -/
def view (q : SeqId) (key : Nat) (bs : Marked) : Exec Marked := do
  let s ← get
  let old := stale s q key bs.length
  set (reads q ((wordsOf key bs.length).filter (fun w => !old.any (·.word == w))) s)
  return before old key bs

/-- A read of an agent that returns what memory holds. -/
def viewNewest (q : SeqId) (key n : Nat) : Exec Unit := modify (reads q (wordsOf key n))

/-- The virtual addresses at which a sequencer's TLB holds a byte of external memory. -/
def virtualsOf (s : State) (q : SeqId) (key : Nat) : List Nat :=
  (tlbOf s q).entries.filterMap (fun e =>
    let first := leafKey s.host.devid.toNat (e.leaf.setWidth 64) 0
    if e.part = s.partOf q ∧ first ≤ key ∧ key < first + (e.limit - e.base) then some (e.base + (key - first)) else none)

/-- Whether a word can be written with slack: it stands without an error, under layout 0, outside a twin and a fence, and the
addresses at which a binding would name it are known (log 42). -/
def canHide (s : State) (w : Nat) (addresses : List Nat) : Bool :=
  !s.mem.isPoisoned (wordUnit (8 * w)) && (s.mem.flipsAt (8 * w)).isEmpty && s.mem.layouts.isEmpty && s.mem.areas.isEmpty &&
    (if spaceOf (8 * w) = spaceScratch then
       !fencedKey s (8 * w) && !(tileOfKey (8 * w) < 2048 && (s.tile (tileOfKey (8 * w))).twin == .twin)
     else isExternal (8 * w) && !addresses.isEmpty)

/-- A write of `n` bytes that turned `s` into `t`: in the words that take their slack, only those whom `marks` names see it. -/
def hide (s : State) (addresses : Nat → List Nat) (marks : List Mark) (key n : Nat) (t : State) : State :=
  if s.slack = 0 then t
  else
    let ws := ((wordsOf key n).zipIdx.filter (fun e => s.slack.getLsbD e.2 && canHide s e.1 (addresses e.1))).map (·.1)
    let kept := s.mem.unseen.filter (fun e => ws.contains e.word)
    let new := ws.zipIdx.map (fun e => (⟨t.next + e.2, e.1, s.mem.bytes (8 * e.1) 8, addresses e.1, marks⟩ : Unseen))
    { t with next := t.next + ws.length, mem := { t.mem with unseen := t.mem.unseen ++ kept ++ new } }

/-- A plain write of a sequencer's agent. -/
def hidePlain (s : State) (q : SeqId) (key n : Nat) (t : State) : State :=
  if writesLate s q key then hide s (fun w => virtualsOf s q (8 * w)) [.seen q] key n t else t

/-! ## Releases, acquires and fences (R199-R204) -/

/-- The binding table of a sequencer's launch: what its parts on this module and on peers have bound (R200). -/
def bindingTable (s : State) (u : Gang) : List Binding :=
  u.bindings ++ (s.fabric.peerBindings.filter (fun b => b.part == u.part && b.rendezvous == rendezvousOf u && rendezvousOf u != 0)).map
    (·.binding)

/-- Whether a binding's region and [a, a + len) share a byte. -/
def Binding.meets (b : Binding) (a len : Nat) : Bool := b.base.toNat < a + len && a < b.base.toNat + b.length

/-- Whether a binding's object is the word at a key, by the addresses at which the sequencer knows the word. -/
def Binding.isAt (s : State) (q : SeqId) (key : Nat) (b : Binding) : Bool :=
  if formOf b.object = 1 then scratchKey (gtileOf s b.object) (offsetOf b.object) == key
  else isExternal key && ((virtualsOf s q key).isEmpty || (virtualsOf s q key).contains b.object.toNat)

/-- Whether a binding's region holds the word of a write. -/
def Binding.covers (s : State) (e : Unseen) (b : Binding) : Bool :=
  if formOf b.base = 1 then
    let first := scratchKey (gtileOf s b.base) (offsetOf b.base)
    first ≤ 8 * e.word && 8 * e.word < first + b.length
  else e.addresses.any (fun v => b.meets v 8)

/-- Whether a release on the word at a key covers a write: a region that holds it is bound to the word (R202). -/
def bound (s : State) (q : SeqId) (g key : Nat) (e : Unseen) : Bool :=
  match s.gang? g with
  | some u => (bindingTable s u).any (fun b => b.isAt s q (key / 8 * 8) && b.covers s e)
  | none => false

/-- A release of an agent on the word at a key is performed: it covers the writes that the agent sees in the regions bound to the word
now (R201, R202). -/
def released (q : SeqId) (scope key : Nat) (s : State) : State :=
  let a := leadSeq s q
  markUnseen (.released (leadWord s (key / 8)) a scope false) (fun e => e.seenBy a && bound s a (s.gangOf q) (8 * leadWord s (key / 8)) e) s

/-- A read-modify-write of a word turned `s` into `t`: an acquire that reads its result still pairs with the releases before, and so does
a fence after the read (R201, R202). -/
def keepReleases (s : State) (key : Nat) (t : State) : State :=
  t.modUnseen (fun l => l.map (fun e =>
    e.markAll (((s.mem.unseen.filter (·.id == e.id)).map (fun x => x.marks.filter (fun k => match k with
      | .released w _ _ _ => w == leadWord s (key / 8)
      | _ => false))).flatten)))

/-- An agent sees what the releases of an object cover with which its acquire pairs. -/
def seesReleased (q : SeqId) (scope object : Nat) (s : State) : State :=
  markUnseen (.seen q) (fun e => e.marks.any (fun k => match k with
    | .released w a r false => w == object && pairs s a r q scope
    | _ => false)) s

/-- An acquire of an agent that reads the word at a key: the agent sees what the releases that it pairs with cover (R201, R203). -/
def acquired (q : SeqId) (scope key : Nat) (s : State) : State := seesReleased (leadSeq s q) scope (leadWord s (key / 8)) s

/-! ### Objects that are no words of memory -/

/-- The number of an object that is no word of memory, past every word's number: its kind and what names it. -/
def objectOf (kind : Nat) (names : List Nat) : Nat := 2 ^ 64 * (1 + kind + 8 * names.foldl (fun n x => n * 2 ^ 64 + x) 0)

/-- The order of the full fences (R204), a semaphore of a tile (R222), a phase of a barrier with the arrivals that have come (R126,
R342), those that a tile has deferred (R127), and the start of a gang's children (R144). -/
def fullObject : Nat := objectOf 0 []
def semObject (t n : Nat) : Nat := objectOf 1 [t, n]
def phaseObject (die gang name phase : Nat) : Nat := objectOf 2 [gang, die, name, phase]
def deferredObject (gang tile name : Nat) : Nat := objectOf 3 [gang, tile, name]
def launchObject (gang : Nat) : Nat := objectOf 4 [gang]

/-- A full release on an object: it covers every write that the agent sees (R202). -/
def releasesOn (object : Nat) (q : SeqId) (scope : Nat) (s : State) : State :=
  let q := leadSeq s q
  markUnseen (.released object q scope false) (·.seenBy q) s

/-- A full acquire on an object. -/
def acquiresOn (object : Nat) (q : SeqId) (scope : Nat) (s : State) : State := seesReleased (leadSeq s q) scope object s

/-! ### Fences -/

/-- A releasing fence of an agent: what it writes later takes along every write that the agent sees (R202). -/
def fenceRelease (q : SeqId) (scope : Nat) (s : State) : State :=
  let q := leadSeq s q
  markUnseen (.fenced q scope) (·.seenBy q) s

/-- An acquiring fence of an agent: it sees what came with the words that it has read, where the scopes of both fences fit (R202). -/
def fenceAcquire (q : SeqId) (scope : Nat) (s : State) : State :=
  let q := leadSeq s q
  markUnseen (.seen q) (fun e => e.marks.any (fun k => match k with
    | .noticed b a r => b == q && pairs s a r q scope
    | _ => false)) s

/-- The place of a full fence among the full fences: it sees what those before it saw, and those after it see what it sees (R204). -/
def fenceOrder (q : SeqId) (scope : Nat) (s : State) : State := releasesOn fullObject q scope (acquiresOn fullObject q scope s)

/-! ## Commands (R209) -/

/-- The fork of a command: it sees every write that its issuer sees. -/
def forked (t e n : Nat) (q : SeqId) (s : State) : State := markUnseen (.forked t e n) (·.seenBy q) s

/-- Whether a write is a command's, or one that the command's issuer saw. -/
def Unseen.ofCommands (p : Nat → Nat → Nat → Bool) (e : Unseen) : Bool :=
  e.marks.any (fun k => match k with
    | .command t e n => p t e n
    | .forked t e n => p t e n
    | _ => false)

/-- What a command reads where memory holds `bs`: it sees its own writes and those of its fork (R196, R203, R209). -/
def commandView (t e n key : Nat) (bs : Marked) (s : State) : Marked :=
  before (staleTo s (·.ofCommands (fun t' e' n' => t' == t && e' == e && n' == n)) key bs.length) key bs

/-- A satisfied wait of a command is an acquire at GRP scope of the object that it waits on (R172). -/
def commandAcquires (t e n object : Nat) (s : State) : State :=
  markUnseen (.forked t e n) (fun x => x.marks.any (fun k => match k with
    | .released w a r false => w == object && pairs s a r (.a t) 3
    | _ => false)) s

/-- The join of the commands of an engine up to a number: the agent sees their writes. -/
def commandJoined (t e n : Nat) (q : SeqId) (s : State) : State :=
  markUnseen (.seen (leadSeq s q)) (·.ofCommands (fun t' e' n' => t' == t && e' == e && n' ≤ n)) s

/-- The join that a WAITSEQ makes: the agent sees the writes of every command that has completed (log 42). -/
def commandsJoined (q : SeqId) (s : State) : State :=
  markUnseen (.seen (leadSeq s q)) (·.ofCommands (fun t e n => n ≤ (s.engine t e).cs)) s

/-- A deferred arrival takes note of what it is to cover: the agent's accesses before it, and what its bound commands have written and
will write (R127, R342). -/
def defers (gang t name : Nat) (cmds : List (Nat × Nat)) (q : SeqId) (s : State) : State :=
  let q := leadSeq s q
  markUnseen (.released (deferredObject gang t name) (.a t) 4 false)
    (fun e => e.seenBy q || e.ofCommands (fun t' e' n' => t' == t && cmds.contains (e', n'))) s

/-- The deferred arrival is performed: its release covers what it took note of and what its commands wrote since. -/
def defersDone (gang t name phase : Nat) (cmds : List (Nat × Nat)) (s : State) : State :=
  markUnseen (.released (phaseObject (dieOf t) gang name phase) (.a t) 4 false)
    (fun e => e.marks.contains (.released (deferredObject gang t name) (.a t) 4 false) ||
      e.ofCommands (fun t' e' n' => t' == t && cmds.contains (e', n'))) s

/-- A command's access to a strongly ordered page is a full fence at SYS before it and after it: every agent sees what the command sees
(R207; log 2). -/
def commandFence (t e n : Nat) (s : State) : State :=
  (markUnseen (.forked t e n) (fun x => x.marks.any (fun k => match k with
    | .released w a r false => w == fullObject && pairs s a r (.a t) 8
    | _ => false)) s).modUnseen (shed (·.ofCommands (fun t' e' n' => t' == t && e' == e && n' == n)))

/-- A command's signal on the counter at a key is performed: an acquire that reads its result sees the command's data (R177, R202). -/
def signalled (t e n key : Nat) (s : State) : State :=
  markUnseen (.released (leadWord s (key / 8)) (.a t) 9 false) (fun x => x.marks.contains (.command t e n)) s

/-! ## Gondolas and gangs (R118, R144, R312, R317) -/

/-- A gondola leaves with what its sequencer's agent sees; one for a peer device leaves it seen by all. -/
def embark (number : Nat) (q : SeqId) (d : Dest) (s : State) : State :=
  match d with
  | .away _ => spread q s
  | _ => markUnseen (.carried number true) (·.seenBy q) (markUnseen (.carried number false) (fun e => !e.seenBy q && e.known q) s)

/-- The firing of a gondola starts: it sees and has read what the gondola brings. -/
def disembark (number : Nat) (q : SeqId) (s : State) : State :=
  markUnseen (.seen q) (·.marks.contains (.carried number true)) (markUnseen (.read q) (·.marks.contains (.carried number false)) s)

/-- The loading of a gang's images observes some words. -/
def loads (g : Nat) (words : List Nat) (s : State) : State := markUnseen (.loaded g) (fun e => words.contains e.word) s

/-- The polls of a record's dependences have observed some words: an acquire that takes what the releases of those words and the fences
before those writes cover, where their scope holds the launch unit (R143, R144). -/
def observes (record : Nat) (words : List Nat) (s : State) : State :=
  markUnseen (.observed record) (fun e => e.marks.any (fun k => match k with
    | .released w _ r _ => words.contains w && 5 ≤ r && r != 6
    | _ => false)) s

/-- A record is placed as a gang: what its polls have observed comes before the gang's start (R144). -/
def observedBy (record g : Nat) (s : State) : State :=
  s.modUnseen (fun l => l.map (fun e =>
    if e.marks.contains (.observed record) then
      ({ e with marks := e.marks.filter (· != .observed record) } : Unseen).mark (.loaded g)
    else e))

/-- The start of a gang on a tile is a full acquire: its sequencers see what the parent saw at its LAUNCH, and what the polls of its
dependences and the loading of its images have observed (R144, R317). -/
def startsOn (g parent t : Nat) (s : State) : State :=
  [SeqId.a t, .x t].foldl (fun s q =>
    markUnseen (.seen q) (fun e => e.marks.any (fun k => match k with
      | .loaded h => h == g
      | .released w _ _ false => w == launchObject parent
      | _ => false)) s) s

/-- The agent's writes to some words are seen by all: a counter that moves releases the slots it passes on (R109). -/
def passOn (q : SeqId) (words : List Nat) (s : State) : State :=
  s.modUnseen (shed (fun e => e.seenBy q && words.contains e.word))

/-- What a gang's sequencers have read is kept while it is pre-empted: every agent sees it (R147, R198). -/
def keepReads (g : Nat) (s : State) : State :=
  s.modUnseen (shed (fun e => e.marks.any (fun k => match k with
    | .read q => s.gangOf q == g
    | _ => false)))

/-! ## The order of an access (R199, R205) -/

/-- A request that releases is on its way: it will cover what its agent sees now. -/
def promise (id : Nat) (q : SeqId) (s : State) : State := markUnseen (.promised id) (·.seenBy q) s

/-- What a request's access is to the order of memory is noted with it. -/
def noteSync (id : Nat) (y : Sync) (s : State) : State :=
  if y = Sync.none then s
  else s.modFabric (fun u => { u with requests := u.requests.map (fun r => if r.id = id then { r with sync := y } else r) })

/-- A request's release on the word at a key is performed (R201, R202). -/
def fulfil (r : Request) (key : Nat) (s : State) : State :=
  match r.sync.release with
  | some scope =>
    let kept := fun (e : Unseen) => { e with marks := e.marks.filter (· != .promised r.id) }
    s.modUnseen (fun l => l.map (fun e =>
      if e.marks.contains (.promised r.id) then
        (if bound s r.seq r.gang (8 * leadWord s (key / 8)) e then (kept e).mark (.released (leadWord s (key / 8)) r.seq scope false)
          else kept e)
      else e))
  | none => s

/-- A request that was to release makes no release after all. -/
def forgo (id : Nat) (s : State) : State :=
  s.modUnseen (fun l => l.map (fun e => { e with marks := e.marks.filter (· != .promised id) }))

/-- The acquire of an access on the word at a key (R201, R205). -/
def acquire (q : SeqId) (y : Sync) (key : Nat) (s : State) : State :=
  let s := match y.acquire with
    | some scope => acquired q scope key s
    | none => s
  match y.full with
  | some scope => fenceAcquire q scope (if y.order then fenceOrder q scope s else s)
  | none => s

end Sys2Proof.Machine
end

