-- ==== Sys2Proof/Machine/Operands.lean ====
section
/-! DEFINITION. Operands: every form an operand specifier names (R35, R36, R39, R40, R163), scalar and vector, as source and
as destination, with waits, poison and pending marks, and what a bridled pair takes in and echoes (R279-R281). -/

namespace Sys2Proof.Machine

/-! ## Bridled pairs: fingerprints and echoed results -/

/-- One byte into CRC-64 with polynomial 0x42F0_E1EB_A9EA_3693, most significant bit first (R281). -/
def crcByte (crc : BitVec 64) (b : Byte) : BitVec 64 :=
  (List.range 8).foldl
    (fun c _ => if c.getLsbD 63 then (c <<< 1) ^^^ 0x42F0E1EBA9EA3693#64 else c <<< 1) (crc ^^^ (b.setWidth 64 <<< 56))

def crcBytes (crc : BitVec 64) (bs : List Byte) : BitVec 64 := bs.foldl crcByte crc

/-- Whether the issuing sequencer is a member's of a pair, and which. -/
def myTwin : Exec Twin := do
  let s ← get
  return memberOf s s.focus

/-- A fingerprint takes in what it can: the results that have come, up to the first that is pending. -/
def foldTail (crc : BitVec 64) : List Trace → BitVec 64 × List Trace
  | .bytes bs :: l => foldTail (crcBytes crc bs) l
  | l => (crc, l)

/-- Bytes, or a result still to come, taken into a fingerprint in the order of the instructions (R281). -/
def Seq.takes (q : Seq) (x : Trace) : Seq :=
  let (crc, l) := foldTail q.print (q.tail ++ [x])
  { q with print := crc, tail := l }

/-- A result has come: what it writes stands in its place (R281). -/
def Seq.takesResult (q : Seq) (number : Nat) (bs : List Byte) : Seq :=
  let (crc, l) := foldTail q.print (q.tail.map (fun x => if x = .result number then .bytes bs else x))
  { q with print := crc, tail := l }

/-- A member's sequencer takes bytes into its fingerprint (R281). -/
def takeIn (bs : List Byte) : Exec Unit := do
  if (← myTwin) != .alone then modMe (fun q => q.takes (.bytes bs))

/-- A result that only the primary obtains (R279): the primary obtains it and leaves it for its twin, the twin takes it and
waits while it has not come. -/
def echoed (act : Exec (List Word)) : Exec (List Word) := do
  let s ← get
  match ← myTwin with
  | .alone => act
  | .primary =>
    let r ← act
    let twin := match s.focus with
      | .a t => SeqId.a (t + 1)
      | .x t => SeqId.x (t + 1)
      | q => q
    modify (fun s => s.modSeq twin (fun q =>
      { q with echo := q.echo ++ (BitVec.ofNat 64 r.length :: r) }))
    return r
  | .twin =>
    match (s.seq s.focus).echo with
    | [] => waitFor .pair
    | n :: rest =>
      modMe (fun q => { q with echo := rest.drop n.toNat })
      return rest.take n.toNat

/-- One echoed word. -/
def echoed1 (act : Exec Word) : Exec Word := do
  let r ← echoed (do return [← act])
  return r.headD 0

/-- An action that only the primary, or a tile of no pair, performs (R279). -/
def unlessTwin (act : Exec Unit) : Exec Unit := do if (← myTwin) != .twin then act

/-! ## Bridled pairs: boundaries and what is held back (R280, R282) -/

/-- Asks for a boundary of a pair at the larger of the members' retired counts of each kind, unless one is asked for. -/
def askBoundary (primary : Nat) (s : State) : State :=
  s.modPair primary (fun p =>
    if p.boundary.isSome then p
    else
      { p with
        since := s.time
        boundary := some (max (s.tile primary).a.retired (s.tile (primary + 1)).a.retired,
          max (s.tile primary).x.retired (s.tile (primary + 1)).x.retired) })

/-- The entries of the hold buffer and of an undo log at which a boundary is asked for, so that 64 more instructions of each
sequencer find room in 256 and 4,096 entries; what one instruction stores is one entry of the hold buffer (R280, R282; log 15). -/
def heldLimit : Nat := 128
def undoLimit : Nat := 1984

/-- What a pair holds back: the primary's goes to the hold buffer, the twin's is dropped (R279, R280). -/
def holdBack (h : Held) : Exec Unit := do
  let s ← get
  match State.tileOf s.focus, ← myTwin with
  | some t, .primary =>
    let s' := s.modPair t (fun p => { p with held := p.held ++ [h] })
    set (if heldLimit ≤ (s'.pair t).held.length then askBoundary t s' else s')
  | _, _ => pure ()

/-- The marked bytes of whole words with what a held entry does to them: a write or a full/empty store lays its bytes over, a REL
`.add` adds to its word (R280). -/
def layHeld (key : Nat) (bytes : Marked) : Held → Marked
  | .write ps => ps.foldl (fun bytes p => layBytes key bytes p.key p.bytes) bytes
  | .fe t w => layBytes key bytes (scratchKey t w.offset) (marked (toBytes w.width w.data.toNat) w.poison)
  | .add k _ v _ =>
    if key ≤ k ∧ k + 8 ≤ key + bytes.length then
      let old : Marked := (bytes.drop (k - key)).take 8
      layBytes key bytes k (marked (toBytes 8 (ofBytes old.bytes + v.toNat)) old.poisoned)
    else bytes
  | _ => bytes

/-- A read of `n` bytes at a key from the words that hold them, with what the hold buffer keeps over them. -/
def overlay (held : List Held) (key n : Nat) (words : Marked) : Marked :=
  ((held.foldl (layHeld (key / 8 * 8)) words).drop (key % 8)).take n

/-! ## Requests in flight (R179, R198) -/

/-- The words that a request touches. -/
def ReqOp.words : ReqOp → List Nat
  | .load r _ _ => wordsOf r.key r.len
  | .vload rs _ => (rs.map (fun e => wordsOf e.2.key e.2.len)).flatten
  | .store ps => (ps.map (fun p => wordsOf p.key p.bytes.length)).flatten
  | .atom r _ _ _ _ _ _ => wordsOf r.key r.len
  | .setState t w _ => wordsOf (scratchKey t (8 * w)) 8
  | .getState t w _ => wordsOf (scratchKey t (8 * w)) 8
  | .add r _ _ => wordsOf r.key r.len
  | .record .. => []
  | .fe t _ off n _ _ => wordsOf (scratchKey t off) n
  | .await r _ => wordsOf r.key r.len
  | .move .. => []
  | .claim r _ _ => wordsOf r.key r.len
  | .pull rs _ => (rs.map (fun e => wordsOf e.2.key e.2.len)).flatten
  | .fetch .. => []
  | .land .. => []
  | .enqueue _ => []

/-- Whether a request writes. -/
def ReqOp.writes : ReqOp → Bool
  | .store _ => true
  | .atom .. => true
  | .setState .. => true
  | .add .. => true
  | .fe _ op _ _ _ _ => op != .wf
  | .move .. => true
  | .claim .. => true
  | _ => false

/-- Whether a request is a sequencer's own, not an engine's of its tile. -/
def Request.isOf (r : Request) (q : SeqId) : Bool := r.seq == q && r.engine.isNone

/-- Whether a request of the agent that has not been performed touches one of some words. -/
def inFlight (s : State) (q : SeqId) (words : List Nat) : Bool :=
  s.fabric.requests.any (fun r => r.isOf q && r.op.words.any words.contains)

/-- Whether blocks that a memory core's firing has pushed toward a tile are not yet delivered (R170). -/
def pushesToward (s : State) (q : SeqId) (gtile : Nat) : Bool :=
  match q with
  | .m c => s.launch.pushes.any (fun b => b.core == c && b.firing == s.firingOf q && b.tile == gtile)
  | _ => false

/-! ## Scratchpad bytes -/

/-- The undo-log entries of the words of [off, off + n) that a log does not hold yet (R280). -/
def undoEntries (s : State) (tile off n : Nat) (log : List Undo) : List Undo :=
  ((List.range ((off + n + 7) / 8 - off / 8)).map (fun i => off / 8 + i)).filterMap (fun w =>
    if log.any (fun u => u.word == w) then none
    else
      let key := scratchKey tile (8 * w)
      some ⟨w, BitVec.ofNat 64 (ofBytes (s.mem.bytes key 8)), (s.tile tile).full.contains w,
        s.mem.isPoisoned (wordUnit key)⟩)

/-- Asks for a boundary when a member's undo log is near its end. -/
def undoFull (primary : Nat) (s : State) : State :=
  if undoLimit ≤ max (s.pair primary).undoPrimary.length (s.pair primary).undoTwin.length then askBoundary primary s else s

/-- A member logs the words of its own scratchpad before it first writes them in an interval (R280). -/
def logUndo (tile off n : Nat) (s : State) : State :=
  match (s.tile tile).twin with
  | .alone => s
  | .primary =>
    undoFull tile (s.modPair tile (fun p => { p with undoPrimary := p.undoPrimary ++ undoEntries s tile off n p.undoPrimary }))
  | .twin =>
    undoFull (tile - 1) (s.modPair (tile - 1) (fun p => { p with undoTwin := p.undoTwin ++ undoEntries s tile off n p.undoTwin }))

/-- Whether a sequencer is a member of the pair that a tile belongs to. -/
def inPair (s : State) (q : SeqId) (tile : Nat) : Bool :=
  match State.tileOf q with
  | some t => isPaired s q && s.primaryOf t == s.primaryOf tile
  | none => false

/-- A pair keeps what an agent outside writes in an interval, since a word that both write holds either value after a rollback
(R282). -/
def noteOutside (primary off : Nat) (bytes : Marked) (s : State) : State :=
  s.modPair primary (fun p =>
    { p with outside := (bytes.zipIdx off).foldl (fun m b => Assoc.set m b.2 b.1) p.outside })

/-- Writes scratchpad bytes for a partition and a gang: a member logs its own writes, and a write from outside a pair to the
primary's scratchpad reaches both members' (R279, R280). -/
def writeScratch (inside : Bool) (p g gtile off : Nat) (bytes : Marked) (s : State) : State :=
  let put := fun (t : Nat) (s : State) => writeBytes p g 0 (scratchKey t off) bytes s
  if gtile < 2048 ∧ (s.tile gtile).twin ≠ .alone then
    if inside then
      -- what agents outside have written to the twin's words is past there (R279)
      let words := (wordsOf (scratchKey (gtile - 1) off) bytes.length)
      let s := if (s.tile gtile).twin = .twin then s.modUnseen (fun l => l.filter (fun e => !words.contains e.word)) else s
      put gtile (logUndo gtile off bytes.length s)
    else if (s.tile gtile).twin = .primary then put (gtile + 1) (put gtile (noteOutside gtile off bytes s))
    else put gtile s
  else put gtile s

/-- Writes bytes at a place for the issuing sequencer. -/
def putBytes (p : Place) (bytes : Marked) : Exec Unit := do
  let s ← get
  let q := s.focus
  match p with
  | .scratch t off => set (writeScratch (inPair s q t) (s.partOf q) (s.gangOf q) t off bytes s)
  | .ext key leaf => match if inWindow q p then windowStore key bytes.bytes s else none with
    | some s' => set s'
    | none => storeMarked (s.partOf q) (s.gangOf q) (leafEntry s (s.partOf q) leaf) key bytes

/-- The bytes at a place as memory holds them, for the issuing sequencer, with each byte's poison mark. -/
def heldAt (p : Place) (n : Nat) : Exec Marked := do
  let s ← get
  match if inWindow s.focus p then windowBytes s p.key n else none with
  | some bs => return bs
  | none =>
    let (bs, ps) ← match p with
      | .scratch t off => fetchBytes (s.partOf s.focus) (s.gangOf s.focus) 0 (scratchKey t off) n
      | .ext key leaf => fetchBytes (s.partOf s.focus) (s.gangOf s.focus) (leafEntry s (s.partOf s.focus) leaf) key n
    return bs.zip ps

/-- Reads the last written bytes at a place for the issuing sequencer. -/
def getBytes (p : Place) (n : Nat) : Exec Marked := do
  let bs ← heldAt p n
  viewNewest (← get).focus p.key n
  return bs

/-- Reads bytes at a place for the issuing sequencer as a plain read may return them (R203). -/
def plainBytes (p : Place) (n : Nat) : Exec Marked := do view (← get).focus p.key (← heldAt p n)

/-! ## Registers -/

/-- A sequencer's register x[n]; x0 reads zero (R35). -/
def Seq.x (q : Seq) (n : Nat) : Word := if n = 0 then 0 else q.xs.getD n 0
def Seq.setX (q : Seq) (n : Nat) (v : Word) (poison : Bool) : Seq :=
  if n = 0 then q
  else
    let m : BitVec 32 := 1#32 <<< n
    { q with xs := q.xs.setIfInBounds n v, xPoison := if poison then q.xPoison ||| m else q.xPoison &&& ~~~m }

def Seq.v (q : Seq) (n : Nat) : VReg := q.vs.getD n 0
def Seq.setV (q : Seq) (n : Nat) (v : VReg) (poison : BitVec 32) : Seq :=
  { q with vs := q.vs.setIfInBounds n v, vPoison := q.vPoison.setIfInBounds n poison }

/-- A predicate; p0 reads 1 (R37, R401). -/
def Seq.p (q : Seq) (n : Nat) : Bool := n == 0 || q.ps.getLsbD n
def Seq.setP (q : Seq) (n : Nat) (v : Bool) : Seq :=
  if n = 0 then q
  else
    let m : BitVec 8 := 1#8 <<< n
    { q with ps := if v then q.ps ||| m else q.ps &&& ~~~m }

/-- Marks or clears the pending mark of x[n] (R179). -/
def Seq.setPending (q : Seq) (n : Nat) (v : Bool) : Seq :=
  if n = 0 then q
  else
    let m : BitVec 32 := 1#32 <<< n
    { q with xPending := if v then q.xPending ||| m else q.xPending &&& ~~~m }

/-- x[n] with its poison mark; a pending register stalls (R179). -/
def getX (n : Nat) : Exec (Word × Bool) := do
  let q ← mySeq
  waitUntil (!q.xPending.getLsbD n || n == 0) .pending
  return (q.x n, n != 0 && q.xPoison.getLsbD n)

/-- x[n], consumed: poison raises 0x11 (R276). -/
def useX (n : Nat) : Exec Word := do
  let (v, poison) ← getX n
  if poison then consumed 0
  return v

/-- Writes x[n]; a pending register stalls, x0 discards (R35, R179). -/
def putX (n : Nat) (v : Word) (poison : Bool) : Exec Unit := do
  if n = 0 then return
  let q ← mySeq
  waitUntil (!q.xPending.getLsbD n) .pending
  modMe (fun q => q.setX n v poison)
  takeIn (BitVec.ofNat 8 n :: toBytes 8 v.toNat)

/-- v[n] with its lanes' poison marks. -/
def getV (n : Nat) : Exec (VReg × BitVec 32) := do
  let q ← mySeq
  waitUntil (!q.vPending.getLsbD n) .pending
  return (q.v n, q.vPoison.getD n 0)

def putV (n : Nat) (v : VReg) (poison : BitVec 32) : Exec Unit := do
  let q ← mySeq
  waitUntil (!q.vPending.getLsbD n) .pending
  modMe (fun q => q.setV n v poison)
  takeIn (BitVec.ofNat 8 (0x80 + n) :: toBytes 128 v.toNat)

/-- Writes p[n]; a write to p0 is discarded (R351, R366). -/
def putP (n : Nat) (v : Bool) : Exec Unit := do
  if n = 0 then return
  modMe (fun q => q.setP n v)
  takeIn (BitVec.ofNat 8 (0xC0 + n) :: toBytes 8 (if v then 1 else 0))

/-- Whether a tile's scratchpad lies outside the pair of the issuing member (R279). -/
def outsideTile (tile : Nat) : Exec Bool := do
  let s ← get
  return (← myTwin) != .alone && !inPair s s.focus tile

/-- Writes scratchpad bytes for the issuing sequencer, after its own requests in flight to those words; a pair holds back
a write outside it (R198, R280). -/
def putScratch (tile off : Nat) (bytes : Marked) : Exec Unit := do
  let s ← get
  let q := s.focus
  let key := scratchKey tile off
  waitUntil (!inFlight s q (wordsOf key bytes.length) && !pushesToward s q tile) .outstanding
  if ← outsideTile tile then holdBack (.write [⟨key, 0, bytes⟩])
  else if State.tileOf q != some tile && fenced s tile then set (dropWrite (s.partOf q) s)
  else modify (fun s => writeScratch (inPair s q tile) (s.partOf q) (s.gangOf q) tile off bytes (wrote q (wordsOf key bytes.length) s))

/-- Bytes that another unit reads for a partition and a gang: poison behind a fence (R278). -/
def fetchMarked (p g : Nat) (entry : BitVec 32) (key n : Nat) : Exec Marked := do
  if fencedKey (← get) key then poisonBytes n
  else
    let (bs, ps) ← fetchBytes p g entry key n
    return bs.zip ps

/-- The whole words that hold `n` bytes at a key. -/
def fetchWords (p g : Nat) (entry : BitVec 32) (key n : Nat) : Exec Marked :=
  fetchMarked p g entry (key / 8 * 8) ((key + n + 7) / 8 * 8 - key / 8 * 8)

/-- Reads scratchpad bytes for the issuing sequencer; outside a pair the twin takes what the primary read, held writes
included (R198, R279, R280). -/
def takeScratch (tile off n : Nat) : Exec Marked := do
  let s ← get
  let q := s.focus
  let key := scratchKey tile off
  waitUntil (!inFlight s q (wordsOf key n) && !pushesToward s q tile) .outstanding
  if ← outsideTile tile then
    let r ← echoed (do
      let words ← fetchWords (s.partOf q) (s.gangOf q) 0 key n
      let bs := overlay (s.pair ((State.tileOf q).getD 0)).held key n words
      return bs.map (fun e => (e.1.setWidth 64) + (if e.2 then 256 else 0)))
    return r.map (fun w => (w.setWidth 8, w.getLsbD 8))
  else
    viewNewest q key n
    if State.tileOf q = some tile then
      let (bs, ps) ← fetchBytes (s.partOf q) (s.gangOf q) 0 key n
      return bs.zip ps
    else fetchMarked (s.partOf q) (s.gangOf q) 0 key n

/-! ## Queues (R106-R109, R169) -/

/-- The queue a handle is bound to: q15 of a memory core its request queue (R169), for a twin its own copy of its primary's
(R279); 0x0E when unbound (R128). -/
def boundQueue (spec : Nat) : Exec QRef := do
  let s ← get
  let bound : Option QRef := match s.focus with
    | .m c => if spec = 47 then some (.request c) else (s.seq s.focus).handles.getD (spec - 32) none
    | q => (s.seq q).handles.getD (spec - 32) none
  match bound with
  | none => trap 0x0E (BitVec.ofNat 64 spec)
  | some (.tile t base) => return .tile (mirrored s s.focus t) base
  | some r => return r

/-- A queue's geometry and counters. -/
def queueAt (s : State) : QRef → Queue
  | .tile t base => (s.tile t).queues.get Queue.reset base
  | .request c => ⟨6, 6, (s.mcore c).p, (s.mcore c).c, false⟩

/-- A queue whose producer or consumer counter has moved by `n`. -/
def Queue.moved (q : Queue) (publish : Bool) (n : Nat) : Queue :=
  if publish then { q with p := q.p + BitVec.ofNat 32 n } else { q with c := q.c + BitVec.ofNat 32 n }

/-- A queue as the issuing sequencer sees it: with its own moves that are still on their way (R407), and for a pair's primary those
that its hold buffer keeps (R280). -/
def seenQueue (s : State) (r : QRef) : Queue :=
  let sent := s.fabric.requests.foldl (fun (q : Queue) x =>
    match x.op, x.stage with
    | _, .answered .. => q
    | .move r' publish n, _ => if x.isOf s.focus ∧ r' = r then q.moved publish n else q
    | _, _ => q) (queueAt s r)
  match State.tileOf s.focus, isPaired s s.focus with
  | some t, true => (s.pair (s.primaryOf t)).held.foldl (fun q h =>
      match h with
      | .move r' publish n => if r' = r then q.moved publish n else q
      | _ => q) sent
  | _, _ => sent

/-- A queue whose counter word is poison is consumed by what waits on it or moves it (R275, R407). -/
def useQueue (r : QRef) : Exec Queue := do
  let q := seenQueue (← get) r
  if q.poison then consumed 0
  return q

def setQueueAt (r : QRef) (q : Queue) (s : State) : State :=
  match r with
  | .tile t base => s.modTile t (fun u => { u with queues := u.queues.set base q })
  | .request c => s.modMCore c (fun u => { u with p := q.p, c := q.c })

def Queue.slots (q : Queue) : Nat := 2 ^ q.ls
def Queue.size (q : Queue) : Nat := 2 ^ q.lz
def Queue.filled (q : Queue) : Nat := (q.p - q.c).toNat
def Queue.free (q : Queue) : Nat := q.slots - q.filled
/-- The offset from the base of the slot at a counter + o (R106). -/
def Queue.slotOffset (q : Queue) (counter : BitVec 32) (o : Nat) : Nat := (counter.toNat + o) % q.slots * q.size

/-- The offset o and count c of a wait byte: a count of 0 stands for o + 1 (R39). -/
def waitOf (w : BitVec 8) : Nat × Nat :=
  let o := w.toNat / 32
  let c := w.toNat % 32
  (o, if c = 0 then o + 1 else c)

/-- The marked bytes of a request queue's slot. -/
def slotBytes (u : MCore) (i : Nat) : Marked :=
  ((u.slots.getD i (Vector.replicate 8 0)).toList.zipIdx.map (fun e =>
    marked (toBytes 8 e.1.toNat) (u.slotMarks.getLsbD (8 * i + e.2)))).flatten

/-- A request queue with the bytes of a slot replaced; a word is poison when any of its bytes is. -/
def setSlotBytes (i : Nat) (new : Marked) (u : MCore) : MCore :=
  let words : Vector Word 8 := Vector.ofFn (fun k : Fin 8 => BitVec.ofNat 64 (ofBytes (Marked.bytes ((new.drop (8 * k.val)).take 8))))
  { u with
    slots := u.slots.setIfInBounds i words
    slotMarks := (List.range 8).foldl (fun (m : BitVec 512) k =>
      if Marked.poisoned ((new.drop (8 * k)).take 8) then m ||| (1#512 <<< (8 * i + k)) else m &&& ~~~(1#512 <<< (8 * i + k))) u.slotMarks }

/-- Bytes of a slot with their poison marks and the address they stand at. A request queue's slots lie in the memory core's
own store and have no address (R169). -/
def readSlot (r : QRef) (counter : BitVec 32) (o n : Nat) : Exec (Marked × Word) := do
  let s ← get
  let q := seenQueue s r
  let off := q.slotOffset counter o
  match r with
  | .tile t base =>
    let bs ← takeScratch t (base + off) n
    let dev := if t < 2048 then s.host.devid.toNat else t / 2048 - 1
    return (bs, BitVec.ofNat 64 (2 ^ 62 + dev * 2 ^ 54 + t % 2048 * 2 ^ 43 + base + off))
  | .request c => return ((slotBytes (s.mcore c) (off / 64)).take n, 0)

/-- Writes bytes of a slot from its byte `at_` on. -/
def writeSlotAt (r : QRef) (counter : BitVec 32) (o at_ : Nat) (bytes : Marked) : Exec Unit := do
  let s ← get
  let q := seenQueue s r
  let off := q.slotOffset counter o
  match r with
  | .tile t base => putScratch t (base + off + at_) bytes
  | .request c =>
    set (s.modMCore c (fun u =>
      let old := slotBytes u (off / 64)
      setSlotBytes (off / 64) (old.take at_ ++ bytes ++ old.drop (at_ + bytes.length)) u))

/-- Writes bytes at the start of a slot. -/
def writeSlot (r : QRef) (counter : BitVec 32) (o : Nat) (bytes : Marked) : Exec Unit := writeSlotAt r counter o 0 bytes

/-- An operand that may name a queue: its specifier, wait byte, whether it is the destination, and its class. -/
structure QOperand where
  spec : Nat
  wait : BitVec 8
  isDest : Bool
  vector : Bool
  deriving DecidableEq, Repr

/-- Whether the twin of a pair leaves a queue's wait to its primary, whose result it will take (R279). -/
def echoedQueue : QRef → Exec Bool
  | .tile t _ => do return (← myTwin) == .twin && (← outsideTile t)
  | .request _ => pure false

/-- The checks and waits of an instruction's queue operands (R39, R40): every handle bound, vector slots of at least 128
bytes, then every wait. -/
def queueWaits (ops : List QOperand) : Exec Unit := do
  let qs := ops.filter (fun o => 32 ≤ o.spec && o.spec < 48)
  for o in qs do
    let r ← boundQueue o.spec
    let s ← get
    check (!o.vector || 128 ≤ (queueAt s r).size) 0x01 0
  for o in qs do
    let r ← boundQueue o.spec
    let q ← useQueue r
    let (_, c) := waitOf o.wait
    let left ← echoedQueue r
    waitUntil (left || (if o.isDest then c ≤ q.free else c ≤ q.filled)) .queue

/-! ## Immediates (R36) -/

/-- IMM16 at a type: an integer sign-extended, a bf16 pattern widened to f32 or f64, or the pattern itself. -/
def immediate (ty : Nat) (imm : BitVec 16) : Nat :=
  match ty with
  | 8 => imm.toNat
  | 9 => imm.toNat
  | 10 => imm.toNat * 2 ^ 16
  | 11 => match bf16.decode imm.toNat with
    | .nan _ => imm.toNat / 2 ^ 15 * 2 ^ 63 + 0x7FF * 2 ^ 52 + imm.toNat % 2 ^ 7 * 2 ^ 45
    | .inf n => f64.inf n
    | .fin n m e => (f64.roundOrZero .rne n m e).bits
  | _ => (imm.signExtend 64).toNat

/-! ## Stream data registers (R163) -/

/-- Takes `n` bytes of a bound stream, `k` elements of its COUNT, which unbinds it when none is left; the wait for
elements is a queue wait (R163, log 34). -/
def takeStream (sd n k : Nat) : Exec (List (Byte × Bool)) := do
  let q ← mySeq
  let d := q.sds.getD sd Stream.reset
  check d.bound 0x15 0
  waitUntil (n ≤ d.fifo.length) .queue
  let left := d.left - k
  modMe (fun q => { q with sds := q.sds.setIfInBounds sd { d with fifo := d.fifo.drop n, left := left, bound := left != 0 } })
  return d.fifo.take n

/-! ## Scalar sources -/

/-- A scalar source's 64 bits, its poison mark, and the address of the word when it comes straight from memory. -/
structure Src where
  val : Word
  poison : Bool
  addr : Word
  deriving DecidableEq, Repr

/-- The scalar source a specifier names: bytes [7:0] of a queue slot, of which the instruction takes its type's width
(R35, R40, R163). -/
def source (ty spec : Nat) (imm : BitVec 16) (wait : BitVec 8) : Exec Src := do
  if spec < 32 then
    let (v, p) ← getX spec
    return ⟨v, p, 0⟩
  else if spec < 48 then
    let r ← boundQueue spec
    let s ← get
    let (bs, a) ← readSlot r (seenQueue s r).c (waitOf wait).1 8
    return ⟨BitVec.ofNat 64 (ofBytes bs.bytes), bs.poisoned, a⟩
  else if spec < 56 then
    let q ← mySeq
    let sty := (q.sds.getD (spec - 48) Stream.reset).ty.toNat
    let bs ← takeStream (spec - 48) (tyWidth sty / 8) 1
    return ⟨extend sty (ofBytes (bs.map (·.1))), bs.any (·.2), 0⟩
  else if spec < 60 then
    let q ← mySeq
    return ⟨q.ks.getD (spec - 56) 0, false, 0⟩
  else return ⟨BitVec.ofNat 64 (immediate ty imm), false, 0⟩

/-- A consumed scalar source: poison raises 0x11 (R276). -/
def useSource (ty spec : Nat) (imm : BitVec 16) (wait : BitVec 8) : Exec Word := do
  let v ← source ty spec imm wait
  if v.poison then consumed v.addr
  return v.val

/-! ## Scalar destinations -/

/-- Writes the 64-bit register form of a result to an x register or to bytes [7:0] of a queue slot (R40, R75). -/
def putDest (spec : Nat) (wait : BitVec 8) (v : Word) (poison : Bool) : Exec Unit := do
  if spec < 32 then putX spec v poison
  else
    let r ← boundQueue spec
    let s ← get
    writeSlot r (seenQueue s r).p (waitOf wait).1 (marked (toBytes 8 v.toNat) poison)
    takeIn (BitVec.ofNat 8 spec :: toBytes 8 v.toNat)

/-! ## Vector operands (R76) -/

/-- The number of elements of a width in a v register. -/
def elementsAt (w : Nat) : Nat := 1024 / w

/-- Element `j` of width `w`. -/
def element (v : VReg) (w j : Nat) : Nat := (v.extractLsb' (w * j) w).toNat

/-- A register packed from its elements, from bit 0 upward. -/
def packElements (w : Nat) (es : List Nat) : VReg :=
  BitVec.ofNat 1024 (es.foldr (fun e acc => e % 2 ^ w + 2 ^ w * acc) 0)

/-- The register with every element equal to `e`. -/
def splat (w e : Nat) : VReg := packElements w (List.replicate (elementsAt w) e)

/-- The 32-bit lanes that element `j` of width `w` touches (R276). -/
def laneMask (w j : Nat) : BitVec 32 :=
  if w = 64 then 3#32 <<< (2 * j) else 1#32 <<< (w * j / 32)

/-- Lane marks from one poison mark for each of 128 bytes. -/
def lanesOf (ps : List Bool) : BitVec 32 :=
  (List.range 32).foldl (fun m i => if ((ps.drop (4 * i)).take 4).any id then m ||| (1#32 <<< i) else m) 0

/-- A vector source: the register's bits, its lanes' poison marks, and the address it stands at in memory. -/
structure VSrc where
  val : VReg
  poison : BitVec 32
  addr : Word
  deriving DecidableEq, Repr

/-- The vector source a specifier names (R35, R36, R40, R163). A vector read of a stream takes 1,024 bits also where fewer elements of its
count remain; the count then reaches 0, since R163 does not say what becomes of the rest (DESIGN CHOICE, log 35). -/
def vsource (ty spec : Nat) (imm : BitVec 16) (wait : BitVec 8) : Exec VSrc := do
  let w := tyWidth ty
  if spec < 32 then
    let (v, p) ← getV spec
    return ⟨v, p, 0⟩
  else if spec < 48 then
    let r ← boundQueue spec
    let s ← get
    let (bs, a) ← readSlot r (seenQueue s r).c (waitOf wait).1 128
    return ⟨BitVec.ofNat 1024 (ofBytes bs.bytes), lanesOf (bs.map (·.2)), a⟩
  else if spec < 56 then
    let q ← mySeq
    let sty := (q.sds.getD (spec - 48) Stream.reset).ty.toNat
    let bs ← takeStream (spec - 48) 128 (elementsAt (tyWidth sty))
    return ⟨BitVec.ofNat 1024 (ofBytes (bs.map (·.1))), lanesOf (bs.map (·.2)), 0⟩
  else return ⟨splat w (immediate ty imm), 0, 0⟩

/-- The address of the first poisoned 8-byte word of a vector from memory, 0 for one from a register. -/
def VSrc.tval (v : VSrc) : Word :=
  if v.addr = 0 then 0
  else match (List.range 32).find? (fun i => v.poison.getLsbD i) with
    | some i => v.addr + BitVec.ofNat 64 (i / 2 * 8)
    | none => 0

/-- A consumed vector source. -/
def useVSource (ty spec : Nat) (imm : BitVec 16) (wait : BitVec 8) : Exec VReg := do
  let v ← vsource ty spec imm wait
  if v.poison != 0 then consumed v.tval
  return v.val

/-- The bytes of a vector, each with its lane's mark. -/
def laneBytes (v : VReg) (poison : BitVec 32) : Marked := (toBytes 128 v.toNat).zipIdx.map (fun e => (e.1, poison.getLsbD (e.2 / 4)))

/-- Writes a vector result to a v register or to bytes [127:0] of a queue slot (R40). Poison in a slot falls on the 8-byte
words of the marked lanes. -/
def putVDest (spec : Nat) (wait : BitVec 8) (v : VReg) (poison : BitVec 32) : Exec Unit := do
  if spec < 32 then putV spec v poison
  else
    let r ← boundQueue spec
    let s ← get
    let q := seenQueue s r
    let n := match r with
      | .tile _ _ => 128
      | .request _ => 64
    writeSlot r q.p (waitOf wait).1 ((laneBytes v poison).take n)
    takeIn (BitVec.ofNat 8 spec :: toBytes 128 v.toNat)

/-! ## The operands of an F64-A or F96-Q instruction -/

/-- An F64-A instruction as a queue-wait form whose wait bytes are all zero, `.0:1` (R39). -/
def plain (f : F64A) : F96Q := ⟨f, 0, 0, 0, 0⟩

/-- The queue operands among D and the first `n` of A, B and C, with the class of each. -/
def operands (n : Nat) (f : F96Q) (dSource vd va vb vc : Bool) : List QOperand :=
  [⟨f.base.a.toNat, f.wa, false, va⟩, ⟨f.base.b.toNat, f.wb, false, vb⟩, ⟨f.base.c.toNat, f.wc, false, vc⟩].take n ++
    [⟨f.base.d.toNat, f.wd, !dSource, vd⟩]

/-- The consumed scalar sources A, B and C of which an instruction has the first `n`; the others read 0. -/
def useABC (n ty : Nat) (f : F96Q) : Exec (Word × Word × Word) := do
  let i := f.base.imm16
  let a ← useSource ty f.base.a.toNat i f.wa
  let b ← if 2 ≤ n then useSource ty f.base.b.toNat i f.wb else pure 0
  let c ← if 3 ≤ n then useSource ty f.base.c.toNat i f.wc else pure 0
  return (a, b, c)

/-- The consumed vector sources A, B and C of which an instruction has the first `n`. -/
def useVABC (n ty : Nat) (f : F96Q) : Exec (VReg × VReg × VReg) := do
  let i := f.base.imm16
  let a ← useVSource ty f.base.a.toNat i f.wa
  let b ← if 2 ≤ n then useVSource ty f.base.b.toNat i f.wb else pure 0
  let c ← if 3 ≤ n then useVSource ty f.base.c.toNat i f.wc else pure 0
  return (a, b, c)

/-- D of an instruction that keeps part of it, read as a source: a v register, or the slot it writes (R368, R433). -/
def oldVDest (f : F96Q) : Exec VSrc := do
  let d := f.base.d.toNat
  if d < 32 then
    let (v, p) ← getV d
    return ⟨v, p, 0⟩
  else
    let r ← boundQueue d
    let s ← get
    let (bs, a) ← readSlot r (seenQueue s r).p (waitOf f.wd).1 128
    return ⟨BitVec.ofNat 1024 (ofBytes bs.bytes), lanesOf (bs.map (·.2)), a⟩

/-- The register whose element `j` is `g j`. -/
def buildElements (w : Nat) (g : Nat → Nat) : VReg := packElements w ((List.range (elementsAt w)).map g)

/-! ## Sticky flags (R79) -/

/-- ORs flags into FPSTAT of the issuing sequencer. -/
def raiseFlags (f : Flags) : Exec Unit := modMe (fun q => { q with fpstat := q.fpstat ||| f })

/-- The rounding mode of the issuing sequencer (R77). -/
def myRm : Exec Rm := do return Rm.ofCode (← mySeq).fprm.toNat

end Sys2Proof.Machine
end

