-- ==== Sys2Proof/Machine/Issue.lean ====
section
/-! DEFINITION. Issuing an instruction: the decode checks and the predicate (R38, R71), the boundary at which it waits (R95),
and what its end does to the program counter, the trap or the containment (R276, R357). -/

namespace Sys2Proof.Machine

/-- The feature an instruction needs (R292). -/
def featureOf : Instr → Option Nat
  | .pair _ => some 0
  | .unpair _ => some 0
  | .fpck _ => some 0
  | .launch _ => some 2
  | .evqld _ => some 3
  | .evslope _ => some 3
  | .evrun _ => some 3
  | .evgvt _ => some 3
  | .evstat _ => some 3
  | .evdef _ => some 3
  | .evdep _ => some 3
  | .evsamp _ => some 3
  | _ => none

def featureOk (s : State) (q : SeqId) (i : Instr) : Bool :=
  match featureOf i with
  | some bit => accepted s (s.partOf q) bit
  | none => true

/-- The decode checks of an instruction on the sequencer that holds it (R71 step 3), those of its wait bytes among them (R39, R57; log
25). -/
def decodeOk (s : State) (q : SeqId) (i : Instr) : Bool := fieldsOk i && waitBytesOk i && legalOn q.kind i && featureOk s q i

/-- Whether an instruction's predicate holds (R37). -/
def predHolds (u : Seq) (pred : BitVec 3) (pneg : BitVec 1) : Bool := u.p pred.toNat != (pneg == 1)

/-- Bits [63:0] of an instruction, the TVAL of illegal instruction (R70). -/
def lowBits (i : Instr) : Word := (encodeBits i).2.setWidth 64

/-- The retired count at which a requested boundary stops a member's sequencer, by kind (R282). -/
def boundaryCount (s : State) (q : SeqId) : Option Nat :=
  match q with
  | .a t => (s.pair (s.primaryOf t)).boundary.map (·.1)
  | .x t => (s.pair (s.primaryOf t)).boundary.map (·.2)
  | _ => none

/-- Whether a pair has taken the boundary at which it is pre-empted (R283). -/
def frozen (s : State) (q : SeqId) : Bool :=
  match State.tileOf q with
  | some t => (s.pair (s.primaryOf t)).freezing && (s.pair (s.primaryOf t)).boundary.isNone
  | none => false

/-- A member's sequencer stops at the boundary counts and 64 instructions ahead of its partner (R282); a twin stops at the
instruction at which its primary is suspended (R283). -/
def pairStalled (s : State) (q : SeqId) : Bool :=
  isPaired s q &&
    ((match boundaryCount s q with
      | some n => n ≤ (s.seq q).retired
      | none => false) ||
     frozen s q || (s.seq (partnerSeq s q)).retired + 64 ≤ (s.seq q).retired ||
     (isTwin s q && (s.seq (partnerSeq s q)).suspended && (s.seq (partnerSeq s q)).retired ≤ (s.seq q).retired))

/-- A step that tripped in an earlier cycle than a sequencer's next issue has tripped before it (R298, R299). -/
def settleBefore (s : State) (q : SeqId) : State :=
  match q with
  | .m _ => s
  | q =>
    let c := serverOf q
    if (s.cluster c).stepTrip.isSome then s.modCluster c (settleTrip ({ s with time := s.issueTime q }.cycleOf q)) else s

/-- The state in which a sequencer's next instruction issues: the time has come to its cycle (R303), which is the sequencer's
cycle 0 of the gang if it has none yet (R302). -/
def atIssue (s : State) (q : SeqId) : State :=
  let s := settleBefore s q
  let s := { s with time := s.issueTime q }
  let c := s.cycleOf q
  let g := s.gangOf q
  s.modSeq q (fun u =>
    { u with
      lastIssue := some c
      cycleBases := if u.cycleBases.any (fun e => e.1 == g) then u.cycleBases else u.cycleBases.set g c })

/-- Counts a vector-class issue of a cluster and finds whether the step source trips (R298). -/
def noteVector (lanes cycle : Nat) (u : Cluster) : Cluster :=
  let window := (u.drpth.extractLsb' 16 8).toNat * 16
  let step := (u.drpth.extractLsb' 8 8).toNat
  let before := u.vectorCycles.filter (fun c => c < cycle)
  let quiet := before.all (fun c => c + window < cycle)
  { u with
    vectorCycles := cycle :: before.take 1
    stepTrip := if u.stepTrip.isNone && window ≠ 0 && step ≠ 0 && step ≤ lanes && quiet then some cycle else u.stepTrip }

/-- The droop detector sees a tile's vector-class instruction issue (R298). -/
def noteLanes (q : SeqId) (i : Instr) (s : State) : State :=
  match q, vectorLanes i with
  | .x t, some lanes => s.modCluster (clusterOf t) (noteVector lanes (s.cycleOf q))
  | _, _ => s

/-- Instructions of an interval, FPIVAL.IVAL (R284). -/
def intervalLength : Nat := 4096

/-- An instruction is over: it no longer waits, and a pair's member counts it as retired, which asks for a boundary at the
interval's end (R281, R282). `member` tells whether the instruction's firing is paired. -/
def retire (member : Bool) (q : SeqId) (s : State) : State :=
  let ended := fun (n : Nat) (u : Seq) => { u with wait := none, deadline := none, retired := u.retired + n }
  match State.tileOf q with
  | some t =>
    if member then
      let s := s.modSeq q (ended 1)
      if intervalLength ≤ (s.seq q).retired then askBoundary (s.primaryOf t) s else s
    else s.modSeq q (ended 0)
  | none => s.modSeq q (ended 0)

def setPc (q : SeqId) (pc : Word) (s : State) : State := s.modSeq q (fun u => { u with pc := pc })

/-- The state after an instruction that completes. -/
def complete (member : Bool) (q : SeqId) (i : Instr) (after : Word) (f : Flow) (s : State) : State :=
  let s := retire member q (noteLanes q i s)
  match f with
  | .fall => setPc q after s
  | .jump target => setPc q target s
  | .ended => s

/-- Whether a wait has brought the instruction a value, which it keeps until it completes (R158, R385). -/
def Wait.served (w : Wait) : Bool := w.grant.isSome && (w.why == .word || w.why == .memory)

/-- The state of a sequencer that waits at the boundary before an instruction (R95): as before it, with the wait noted. -/
def recordWait (q : SeqId) (why : Why) (s : State) : State :=
  s.modSeq q (fun u =>
    match u.wait with
    | some w => if w.why = why || w.served then u else { u with wait := some ⟨why, s.time, none⟩ }
    | none => { u with wait := some ⟨why, s.time, none⟩ })

/-- The address after the instruction at a sequencer's program counter (R52). -/
def nextPc (s : State) (q : SeqId) (i : Instr) : Word := (s.seq q).pc + BitVec.ofNat 64 i.length

/-- Runs one instruction of the sequencer in focus: decode checks, predicate, then its body. -/
def issue (i : Instr) (pred : BitVec 3) (pneg : BitVec 1) (body : Exec Flow) (s : State) : Host.Outcome State Fault Refusal :=
  let q := s.focus
  let after := nextPc s q i
  let t := atIssue s q
  if pairStalled s q then .next (recordWait q .pair s)
  else if !decodeOk s q i then .next (raiseTrap q 0x01 (lowBits i) none after t)
  else if !predHolds (s.seq q) pred pneg then .next (setPc q after (retire (isPaired s q) q t))
  else match body.run t with
    | .ok f t' => .next (complete (isPaired s q) q i after f t')
    | .error (.trap code tval miss) t' => .next (raiseTrap q code (if code = 0x01 then lowBits i else tval) miss after (keepFindings t t'))
    | .error (.after code tval change) t' => .next (raiseTrap q code tval none after (change (keepFindings t t')))
    | .error (.poison tval) t' => .next (consumePoison q (noteConsumed q tval (keepFindings t t')))
    | .error (.wait why register) _ => .next (register (recordWait q why s))
    | .error (.fault r) _ => .fault r

/-- Issue of each format's instruction. -/
def issueA (i : Instr) (f : F64A) (body : Exec Flow) : State → Host.Outcome State Fault Refusal := issue i f.pred f.pneg body
def issueQ (i : Instr) (f : F96Q) (body : Exec Flow) : State → Host.Outcome State Fault Refusal :=
  issue i f.base.pred f.base.pneg body
def issueM (i : Instr) (f : F64M) (body : Exec Flow) : State → Host.Outcome State Fault Refusal := issue i f.pred f.pneg body
def issueB (i : Instr) (f : F64B) (body : Exec Flow) : State → Host.Outcome State Fault Refusal := issue i f.pred f.pneg body
def issueI (i : Instr) (f : F64I) (body : Exec Flow) : State → Host.Outcome State Fault Refusal := issue i f.pred f.pneg body
def issueE (i : Instr) (f : F96E) (body : Exec Flow) : State → Host.Outcome State Fault Refusal := issue i f.pred f.pneg body
def issueL (i : Instr) (f : F96I) (body : Exec Flow) : State → Host.Outcome State Fault Refusal := issue i f.pred f.pneg body
def issueC (i : Instr) (f : F128C) (body : Exec Flow) : State → Host.Outcome State Fault Refusal := issue i f.pred f.pneg body

end Sys2Proof.Machine
end

