-- ==== Sys2Proof/Machine/Remote.lean ====
section
/-! DEFINITION. Accesses that leave the issuing unit: requests and their count (R179), releases (R201), full/empty words and
their waiters (R158), the departure of gondolas (R118, R120, R193), and what a bridled pair holds back (R280). -/

namespace Sys2Proof.Machine

/-! ## Where an access is performed -/

/-- Whether the issuing unit performs an access itself: a tile on its own scratchpad, a memory core on a piece it owns; a
service core performs its accesses through the owners at once (log 12). -/
def isOwn (q : SeqId) : Place → Bool
  | .scratch g _ => match q with
    | .a t => g == t
    | .x t => g == t
    | .m _ => false
    | .s _ => true
  | .ext key _ => match q with
    | .m c => key / 2 ^ 53 == 0 && ownerOf key == c
    | .s _ => true
    | _ => false

/-- The home of a place: its device's place in keys times 2^22, plus the tile, or 2^20 plus the owning memory core. -/
def homeOf : Place → Nat
  | .scratch g _ => g / 2048 * 2 ^ 22 + g % 2048
  | .ext key _ => key / 2 ^ 53 * 2 ^ 22 + 2 ^ 20 + ownerOf (key % 2 ^ 53)

/-- The hub router at which a tether port stands (R14). -/
def routerOfTether (port : Nat) : Nat := if port < 16 then 160 + port / 2 else 163 + (port - 16)

/-- The tether port that carries packets to a device (log 2). -/
def tetherTo (device : Nat) : Nat := Config.tetherOf device % 18

/-- The router of a home on this module; a peer's home is reached through the router of its tether. -/
def routerOfHome (home : Nat) : Nat :=
  if home / 2 ^ 22 ≠ 0 then routerOfTether (tetherTo (home / 2 ^ 22 - 1))
  else if home % 2 ^ 22 < 2 ^ 20 then routerOf (home % 2 ^ 20) else routerOfCore (home % 2 ^ 20)

/-- The router at which a sequencer's packets start (R14, R27). -/
def routerOfSeq : SeqId → Nat
  | .a t => routerOf t
  | .x t => routerOf t
  | .m c => routerOfCore c
  | .s c => routerOf (c * 4)

def reach (s : State) (q : SeqId) (p : Place) (n : Nat) : Reach :=
  match p with
  | .scratch .. => ⟨p.key, 0, n⟩
  | .ext key leaf => ⟨key, leafEntry s (s.partOf q) leaf, n⟩

def piece (s : State) (q : SeqId) (p : Place) (bytes : Marked) : Piece := ⟨p.key, (reach s q p 0).entry, bytes⟩

/-! ## Outstanding requests (R179) -/

/-- Whether a request is the first in a list of those of its instruction. -/
def leads (l : List Request) (r : Request) : Bool := ((l.find? (fun x => x.whole == r.whole)).map (·.id)) == some r.id

/-- OUTSTD.COUNT of a sequencer: the requests of one instruction to several owners count as one (R179, R434). -/
def outstanding (s : State) (q : SeqId) : Nat :=
  let own := s.fabric.requests.filter (fun r => r.isOf q)
  (own.filter (leads own)).length

/-- Whether two requests touch a word that one of them writes. -/
def ReqOp.conflicts (a b : ReqOp) : Bool := (a.writes || b.writes) && a.words.any (fun w => b.words.contains w)

/-- Whether every earlier access of the issuing agent has been acknowledged: no request and no pushed block (R201). What a pair holds
back leaves it in order (R280). -/
def allAcknowledged (s : State) (q : SeqId) : Bool :=
  outstanding s q = 0 &&
    (match q with
     | .m c => !(s.launch.pushes.any (fun b => b.core == c && b.firing == s.firingOf q))
     | _ => true)

/-- Waits until every earlier access of the agent is acknowledged (R201, R370). -/
def awaitAcks : Exec Unit := do
  let s ← get
  waitUntil (allAcknowledged s s.focus) .outstanding

/-- Waits until the pair holds nothing back, for which it asks for a boundary (R280, R282; log 15). -/
def settleHeld : Exec Unit := do
  let s ← get
  match State.tileOf s.focus, isPaired s s.focus with
  | some t, true =>
    if (s.pair (s.primaryOf t)).held.isEmpty then pure () else throw (.wait .outstanding (fun s => askBoundary (s.primaryOf t) s))
  | _, _ => pure ()

/-- A full release: every earlier access of the agent is acknowledged, and every agent sees what it sees (R202; log 42). -/
def release : Exec Unit := do
  awaitAcks
  settleHeld
  modify (fun s => spread s.focus s)

/-- Waits until the boundary asked for has resolved; its resolution grants the waiting instruction. -/
def awaitBoundary (t : Nat) : Exec Unit := do
  match (← mySeq).wait with
  | some ⟨.pair, _, some _⟩ => pure ()
  | _ => throw (.wait .pair (fun s => askBoundary (s.primaryOf t) s))

/-- Closes the interval before the instruction has its effect (R280, R375). -/
def closeBefore : Exec Unit := do
  let s ← get
  match State.tileOf s.focus, isPaired s s.focus with
  | some t, true => awaitBoundary t
  | _, _ => pure ()

/-- The release of an access in a scope. In a pair it covers all that the member sees; one outside the pair is held behind what the pair
holds already (R280), and one that agents of other tiles see at once waits until that has left (log 15). -/
def releaseAt (outside : Bool) (scope : Nat) : Exec Unit := do
  awaitAcks
  if !outside && 1 < scope then settleHeld
  let s ← get
  if isPaired s s.focus then set (spread s.focus s)

/-- A command leaves when the agent's earlier accesses are acknowledged; a pair's held writes leave before the command does (R209, R280;
log 2). -/
def forkWait : Exec Unit := awaitAcks

/-- The fork edge of an operation that another unit carries out (R209). -/
def forkEdge : Exec Unit := do
  forkWait
  modify (fun s => spread s.focus s)

/-- A flow of R208: one ordered and one unordered between each agent and each destination. -/
def flowOf (q : SeqId) (home : Nat) (ordered : Bool) : Nat :=
  (((unitOf q).toNat * 4 + (kindCode q).toNat) * 2 ^ 32 + home) * 2 + (if ordered then 1 else 0)

/-- A new request of a sequencer or of an engine joins those of the module, on the flow of its agent and home (R208, R261). An
engine's flows are those of its tile's unit, apart from its sequencers'. -/
def addRequest (q : SeqId) (engine : Option (Nat × Nat)) (firing gang part : Nat) (op : ReqOp) (home : Nat) (ordered : Bool)
    (slot : Option (BitVec 32)) (echo : Option (Nat × Nat)) (s : State) (whole : Option Nat := none) : State :=
  let flow := flowOf q home ordered * 4 + (match engine with
    | some e => if e.1 < 2 then e.1 + 1 else 0
    | none => 0)
  let number := s.fabric.flows.get 0 flow
  let r : Request :=
    { id := s.next
      seq := q
      engine := engine
      firing := firing
      gang := gang
      part := part
      op := op
      home := home
      ordered := ordered
      flow := flow
      number := number
      stage := .sent
      way := Way.start (routerOfSeq q) s.time
      slot := slot
      void := false
      echo := echo
      whole := whole.getD s.next }
  { s with
    next := s.next + 1
    fabric := { s.fabric with requests := s.fabric.requests ++ [r], flows := s.fabric.flows.set flow (number + 1) } }

/-- Sends a request, at most 64 being outstanding (R179, R208). `hold` keeps the sequencer until the response, `echo` is what a
pair's primary notes with it, `whole` the first request of the instruction, if it is not the first. -/
def send (op : ReqOp) (p : Place) (ordered hold : Bool) (slot : Option (BitVec 32)) (echo : Option (Nat × Nat))
    (whole : Option Nat := none) : Exec Unit := do
  let s ← get
  let q := s.focus
  waitUntil (whole.isSome || outstanding s q < 64) .outstanding
  let id := s.next
  set (addRequest q none (s.firingOf q) (s.gangOf q) (s.partOf q) op (homeOf p) ordered slot echo s whole)
  if hold then modMe (fun u => { u with hold := some (whole.getD id) })

/-- Sends a request whose access orders memory; its release covers what its agent sees now (R199, R201). -/
def sendSync (y : Sync) (op : ReqOp) (p : Place) (ordered hold : Bool) (whole : Option Nat := none) : Exec Unit := do
  let s ← get
  send op p ordered hold none none whole
  modify (noteSync s.next y)
  if y.release.isSome then modify (promise s.next s.focus)

/-- A synchronous access waits for the agent's own requests and pushed blocks that touch its words (R170, R198). -/
def ownOrder (p : Place) (n : Nat) : Exec Unit := do
  let s ← get
  waitUntil (!inFlight s s.focus (wordsOf p.key n)) .outstanding
  match p with
  | .scratch g _ => waitUntil (!pushesToward s s.focus g) .outstanding
  | .ext .. => pure ()

/-! ## Results of requests (R179, R279, R281) -/

/-- A request's answer: its value and its lanes' poison marks. -/
abbrev Answer := BitVec 1024 × BitVec 32

def answerOf (bs : Marked) : Answer := (BitVec.ofNat 1024 (ofBytes bs.bytes), lanesOf (bs.map (·.2)))

/-- The mark of a home that consumed poison for the issuer. -/
def consumedMark : Answer := (0, 2)

/-- A register's write as a fingerprint takes it in (R281). -/
def regBytes (spec : Nat) (bs : List Byte) : List Byte := if spec = 0 then [] else BitVec.ofNat 8 spec :: bs

/-- A scalar result into its register, which is no longer pending. -/
def respondX (q : SeqId) (d : Nat) (v : Word) (poison : Bool) (s : State) : State :=
  s.modSeq q (fun u => (u.setPending d false).setX d v poison)

/-- The bytes of a register with those of some parts taken from an image. -/
def mergeParts (rs : List (Nat × Reach)) (image old : Marked) : Marked :=
  old.zipIdx.map (fun b => if rs.any (fun e => e.1 ≤ b.2 && b.2 < e.1 + e.2.len) then image.getD b.2 (0, false) else b.1)

/-- Parts of a vector result into their register, whose lanes keep the marks of the other parts. -/
def respondV (q : SeqId) (d : Nat) (rs : List (Nat × Reach)) (image : Marked) (s : State) : State :=
  let u := s.seq q
  let new := answerOf (mergeParts rs image (laneBytes (u.v d) 0))
  s.modSeq q (fun u => u.setV d new.1 (u.vPoison.getD d 0 ||| lanesOf (image.map (·.2))))

/-- A vector register whose parts have all come is no longer pending. -/
def settleV (q : SeqId) (d : Nat) (s : State) : State :=
  let asks := fun (op : ReqOp) => match op with
    | .vload _ d' => d'.toNat == d
    | _ => false
  if s.fabric.requests.any (fun r => r.isOf q && asks r.op) || (s.seq q).expects.any (fun e => asks e.op) then s
  else s.modSeq q (fun u => { u with vPending := u.vPending &&& ~~~(1#32 <<< d) })

/-- A result into the queue slot that the load found, from its byte `at_` on. -/
def respondSlot (slot : Option (BitVec 32)) (d at_ : Nat) (bytes : Marked) : Exec Unit := do
  let q ← boundQueue d
  writeSlotAt q (slot.getD 0) 0 at_ bytes

/-- What a response does to the sequencer in focus, and what its fingerprint takes in. -/
def respond (op : ReqOp) (slot : Option (BitVec 32)) (a : Answer) : Exec (List Byte) := do
  let q ← me
  let low : Word := a.1.setWidth 64
  let bad := a.2 != 0
  let scalar := fun (d : Nat) (v : Word) => do
    modify (respondX q d v bad)
    return regBytes d (toBytes 8 v.toNat)
  match op with
  | .load _ ty d =>
    let w := extend ty.toNat low.toNat
    if d.toNat < 32 then scalar d.toNat w
    else
      respondSlot slot d.toNat 0 (marked (toBytes 8 w.toNat) bad)
      return BitVec.ofNat 8 d.toNat :: toBytes 8 w.toNat
  | .vload rs d =>
    let image := laneBytes a.1 a.2
    let parts : Marked := (rs.map (fun e => (image.drop e.1).take e.2.len)).flatten
    if d.toNat < 32 then
      modify (respondV q d.toNat rs image)
      modify (settleV q d.toNat)
      return BitVec.ofNat 8 (0x80 + d.toNat) :: parts.bytes
    else
      for e in rs do respondSlot slot d.toNat e.1 ((image.drop e.1).take e.2.len)
      return BitVec.ofNat 8 d.toNat :: parts.bytes
  | .atom _ ty _ _ _ d _ => scalar d.toNat (extend ty.toNat low.toNat)
  | .getState _ _ d => scalar d.toNat low
  | .record _ _ _ _ d => scalar d.toNat low
  | .fe .. =>
    modMe (fun u => { u with wait := u.wait.map (fun w => if w.why = .word then { w with grant := some (low, bad) } else w) })
    return []
  | .await _ _ =>
    modMe (fun u => { u with wait := u.wait.map (fun w => if w.why = .memory then { w with grant := some (low, bad) } else w) })
    return []
  | .store _ => return []
  | .add _ _ _ => return []
  | .setState _ _ _ => return []
  | .move _ _ _ => return []
  | .claim _ _ _ => return []
  | .enqueue _ => return []
  | .pull _ _ => return []
  | .fetch _ _ => return []
  | .land _ _ => return []

/-- The result of a member's request of a number: written, and taken into the fingerprint in its place. -/
def respondNumbered (k : Nat) (op : ReqOp) (slot : Option (BitVec 32)) (a : Answer) : Exec Unit := do
  let bs ← respond op slot a
  modMe (fun u => u.takesResult k bs)

/-- The register that a request will write is pending (R179). -/
def markPending (op : ReqOp) : Exec Unit :=
  match op with
  | .load _ _ d => if d.toNat < 32 then modMe (fun q => q.setPending d.toNat true) else pure ()
  | .vload _ d => if d.toNat < 32 then modMe (fun q => { q with vPending := q.vPending ||| (1#32 <<< d.toNat) }) else pure ()
  | .atom _ _ _ _ _ d _ => modMe (fun q => q.setPending d.toNat true)
  | .getState _ _ d => modMe (fun q => q.setPending d.toNat true)
  | .record _ _ _ _ d => modMe (fun q => q.setPending d.toNat true)
  | _ => pure ()

/-- Asks another unit for a result. In a pair the primary sends the request, and the twin takes what the primary's request of
the same number has brought, or expects it with its register pending (R279). -/
def ask (op : ReqOp) (p : Place) (ordered hold : Bool) (slot : Option (BitVec 32)) (whole : Option Nat := none) : Exec Unit := do
  let s ← get
  let u := s.seq s.focus
  match memberOf s s.focus with
  | .alone =>
    send op p ordered hold slot none whole
    markPending op
  | .primary =>
    send op p ordered hold slot (some (u.asked, (s.pair ((State.tileOf s.focus).getD 0)).held.length)) whole
    modMe (fun q => { q.takes (.result u.asked) with asked := u.asked + 1 })
    markPending op
  | .twin =>
    modMe (fun q => { q.takes (.result u.asked) with asked := u.asked + 1 })
    match u.told.find? (fun e => e.1 == u.asked) with
    | some e =>
      modMe (fun q => { q with told := q.told.filter (fun x => x.1 != u.asked) })
      respondNumbered u.asked op slot e.2
    | none =>
      modMe (fun q => { q with
        expects := q.expects ++ [⟨u.asked, op, slot, hold, s.time⟩]
        hold := if hold then some 0 else q.hold })
      markPending op

/-- Asks with an access that orders memory (R199). -/
def askSync (y : Sync) (op : ReqOp) (p : Place) (ordered hold : Bool) (slot : Option (BitVec 32)) (whole : Option Nat := none) :
    Exec Unit := do
  let s ← get
  ask op p ordered hold slot whole
  modify (noteSync s.next y)
  if y.release.isSome && !isTwin s s.focus then modify (promise s.next s.focus)

/-- Asks several homes for the parts of one instruction's access, which count as one request (R166, R434). -/
def askAll (y : Sync) (hold : Bool) (slot : Option (BitVec 32)) (l : List (ReqOp × Place)) : Exec Unit := do
  let first := (← get).next
  for x in l.zipIdx do askSync y x.1.1 x.1.2 false hold slot (if x.2 = 0 then none else some first)

/-- A result reaches the twin's sequencer in focus: what it expects, or what it will ask for. -/
def tell (k : Nat) (a : Answer) : Exec Unit := do
  let u ← mySeq
  match u.expects.find? (fun e => e.number == k) with
  | some e =>
    modMe (fun q => { q with
      expects := q.expects.filter (fun x => x.number != k)
      hold := if e.hold && !q.expects.any (fun x => x.number != k && x.hold) then none else q.hold })
    respondNumbered k e.op e.slot a
  | none => modMe (fun q => { q with told := q.told ++ [(k, a)] })

/-- Whether a member's sequencer has every result that it has asked for. -/
def allTold (s : State) (q : SeqId) : Bool := outstanding s q = 0 && (s.seq q).expects.isEmpty

/-- An access to a strongly ordered page acts as FENCE `.full` on both sides (R207). -/
def strong : Place → Bool
  | .scratch .. => false
  | .ext _ leaf => leaf.getLsbD 7

/-- The first half of FENCE `.full` in a scope, which releases (R202, R370). -/
def fenceFirst (scope : Nat) : Exec Unit := do
  releaseAt false scope
  modify (fun s => fenceRelease s.focus scope s)

/-- FENCE `.full` in a scope: both halves, in its place among the full fences (R202, R204, R370). -/
def fenceFull (scope : Nat) : Exec Unit := do
  fenceFirst scope
  modify (fun s => fenceAcquire s.focus scope (fenceOrder s.focus scope s))

/-- An access to a strongly ordered page is a full fence at SYS (R207). -/
def strongFence : Exec Unit := fenceFull 8

/-- What an access is to the order of memory at a place: one to a strongly ordered page is a full fence at SYS (R207). -/
def Sync.at_ (y : Sync) (p : Place) : Sync := if strong p then { y with full := some 8, order := true } else y

/-- The order of an access that the issuing unit has performed on the word at a place (R201, R205). -/
def syncOwn (y : Sync) (p : Place) : Exec Unit := do
  let q ← me
  match y.release with
  | some scope => modify (released q scope p.key)
  | none => pure ()
  modify (acquire q y p.key)

/-- What the issuing sequencer has written takes along what its fences cover (R202). -/
def noteWrite (p : Place) (n : Nat) : Exec Unit := modify (fun s => wrote s.focus (wordsOf p.key n) s)

/-- A plain write of the issuing sequencer's: other agents need not see it yet, unless its page is strongly ordered (R203, R207). -/
def putPlain (p : Place) (bytes : Marked) : Exec Unit := do
  let s ← get
  putBytes p bytes
  if !strong p then modify (hidePlain s s.focus p.key bytes.length)
  noteWrite p bytes.length

/-- Whether a gang's sequencers run: its part is started and not pre-empted, killed or complete. Gang 0 is the firmware. -/
def gangRuns (s : State) (g : Nat) : Bool :=
  g == 0 || (match s.gang? g with
    | some u => (u.phase == .running || u.phase == .stopping) && u.killing.isNone
    | none => false)

/-! ## Full/empty words (R158) -/

def isFull (s : State) (gtile w : Nat) : Bool := (s.tile gtile).full.contains w

/-- The tiles at which a full/empty change takes place: both members of a pair when it comes from outside (R279). -/
def stateTiles (s : State) (inside : Bool) (gtile : Nat) : List Nat :=
  if gtile < 2048 ∧ !inside ∧ (s.tile gtile).twin = .primary then [gtile, gtile + 1] else [gtile]

/-- A change of a tile that an agent outside makes: at a pair it reaches both members, and what a rollback restores (R279,
R282). -/
def outsideChange (t : Nat) (f : Tile → Tile) (s : State) : State :=
  if (s.tile t).twin = .primary then
    ((s.modTile t f).modTile (t + 1) f).modPair t (fun p => { p with primary := f p.primary, twin := f p.twin })
  else s.modTile t f

/-- Sets the state of a word; a member logs a change to its own (R280). A word that changes its state wakes the tile's sequencers (R440). -/
def setFull (inside : Bool) (gtile w : Nat) (v : Bool) (s : State) : State :=
  let s :=
    if gtile < 2048 ∧ inside then logUndo gtile (8 * w) 8 s
    else if gtile < 2048 ∧ (s.tile gtile).twin = .primary then
      s.modPair gtile (fun p => { p with outsideFull := Assoc.set p.outsideFull w v })
    else s
  (stateTiles s inside gtile).foldl (fun s t =>
    let s' := s.modTile t (fun u => { u with full := if v then insertNat u.full w else u.full.filter (· != w) })
    if isFull s t w = v then s' else latchTile t 2 s') s

/-- Requests that run exactly once (R256), the moves of queues' counters and the requests of engines among them (log 41). -/
def ReqOp.once : ReqOp → Bool
  | .atom .. => true
  | .setState .. => true
  | .add .. => true
  | .fe _ op _ _ _ _ => op != .wf
  | .move .. => true
  | .enqueue _ => true
  | _ => false

/-- A way that begins at a home: at its router, or past the tether that comes from a peer's (R250, R255). -/
def Way.fromHome (w : Way) (home : Nat) : Way :=
  let away := home / 2 ^ 22 ≠ 0
  { w with
    origin := routerOfHome home
    hop := if away then .across else .router (routerOfHome home)
    inbound := if away then some (tetherTo (home / 2 ^ 22 - 1)) else none }

/-- A request whose answer is on its way back from its home (R179, R250). -/
def Request.answer (r : Request) (v : BitVec 1024) (poison : BitVec 32) : Request :=
  { r with stage := .answered v poison, way := r.way.fromHome r.home }

/-- A request is performed; the response of one that runs exactly once is kept for its duplicates (R256). -/
def answerRequest (id : Nat) (v : BitVec 1024) (poison : BitVec 32) (s : State) : State :=
  s.modFabric (fun u =>
    { u with
      requests := u.requests.map (fun r => if r.id = id then r.answer v poison else r)
      cache := u.cache ++ (u.requests.filter (fun r => r.id == id && r.op.once)).map (fun r => ⟨r.home, r.flow, r.number, v, poison⟩) })

/-- What a waiting access has come to: its request's answer (R179), or the grant that its instruction waits for (R158). -/
def grantWaiter (x : FeWaiter) (v : Word) (poison : Bool) (s : State) : State :=
  match x.request with
  | some id => answerRequest id (v.setWidth 1024) (if poison then 2 else 0) s
  | none =>
    if x.released then if poison then consumePoison x.seq s else s
    else s.modSeq x.seq (fun u => { u with wait := u.wait.map (fun w => { w with grant := some (v, poison) }) })

/-- The bank unit performs a waiting access: a load's value goes to the waiting instruction, a store writes; one whose word is
poison consumes it and has no other effect (R158, R275). The answer tells whether the access took place. -/
def performWaiter (gtile : Nat) (x : FeWaiter) (s : State) : Bool × State :=
  let p := s.partOf x.seq
  let g := s.gangOf x.seq
  let s := s.modTile gtile (fun u => { u with waiters := u.waiters.filter (· != x) })
  let d := readDecoded s.mem s.free 0 (scratchKey gtile (x.offset / 8 * 8)) 8
  let s := afterFindings p g d s
  let key := scratchKey gtile x.offset
  if d.poison.any id then
    (false, grantWaiter x 0 true (if x.released && x.request.isNone then noteConsumed x.seq (scratchAddress s gtile (x.offset / 8 * 8)) s else s))
  else if x.op == .wf || x.op == .wfe then
    let s := reads x.seq (wordsOf key x.width) s
    (true, grantWaiter x (BitVec.ofNat 64 (ofBytes ((d.bytes.drop (x.offset % 8)).take x.width))) false
      (match x.scope with
       | some scope => acquired x.seq scope key s
       | none => s))
  else
    let s := wrote x.seq (wordsOf key x.width)
      (writeScratch (inPair s x.seq gtile) p g gtile x.offset (marked (toBytes x.width x.data.toNat) x.poison) s)
    (true, grantWaiter x 0 false (match x.scope with
      | some scope => released x.seq scope key s
      | none => s))

/-- Whether a word's state lets a full/empty access take place. -/
def feReady (s : State) (gtile : Nat) (x : FeWaiter) : Bool :=
  isFull s gtile (x.offset / 8) == (x.op == .wf || x.op == .wfe)

/-- WakeWaiters (R158): completes the waiting accesses that a word's state allows, in order, as long as one changes it. -/
def wakeWaiters (gtile w : Nat) : Nat → State → State
  | 0, s => s
  | fuel + 1, s =>
    let here := (s.tile gtile).waiters.filter (fun x => x.offset / 8 == w && feReady s gtile x)
    let s := (here.filter (fun x => x.op == .wf || x.op == .we)).foldl (fun s x => (performWaiter gtile x s).2) s
    match (here.filter (fun x => x.op == .wfe || x.op == .wef)).head? with
    | some x =>
      let (done, s') := performWaiter gtile x s
      wakeWaiters gtile w fuel (if done then setFull (inPair s x.seq gtile) gtile w (x.op == .wef) s' else s')
    | none => s

/-- State(word) := v, then WakeWaiters, at every tile the change reaches. -/
def changeState (inside : Bool) (gtile w : Nat) (v : Bool) (s : State) : State :=
  let s' := setFull inside gtile w v s
  (stateTiles s inside gtile).foldl (fun s t => wakeWaiters t w ((s.tile t).waiters.length + 1) s) s'

/-- A full/empty access comes to the bank unit of its word: performed at once when the word's state allows, else queued in the
order of arrival (R158). -/
def arriveWaiter (gtile : Nat) (x : FeWaiter) (s : State) : State :=
  let w := x.offset / 8
  if feReady s gtile x then
    let (done, s') := performWaiter gtile x s
    if done && (x.op == .wfe || x.op == .wef) then changeState (inPair s x.seq gtile) gtile w (x.op == .wef) s' else s'
  else s.modTile gtile (fun u => { u with waiters := u.waiters ++ [x] })

/-- Whether the word that holds a scratchpad byte is poison (R275). -/
def wordPoisoned (s : State) (gtile off : Nat) : Bool :=
  (decodeWord s.mem s.free (scratchKey gtile off)).poison.any id

/-- What the issuing sequencer's wait of a kind has been granted, if it waits so. -/
def granted (why : Why) : Exec (Option (Word × Bool)) := do
  return match (← mySeq).wait with
    | some w => if w.why = why then w.grant else none
    | none => none

/-- Whether the issuing sequencer already waits at a bank unit or a home. -/
def waits (why : Why) : Exec Bool := do
  return match (← mySeq).wait with
    | some w => w.why == why
    | none => false

/-- Requests for which a sequencer waits at its boundary. -/
def ReqOp.holdsBoundary : ReqOp → Bool
  | .fe .. => true
  | .await .. => true
  | _ => false

/-- Registers a request for which the sequencer waits at its boundary, unless it is there already. -/
def registerRequest (y : Sync) (op : ReqOp) (p : Place) (s : State) : State :=
  if s.fabric.requests.any (fun r => r.isOf s.focus && r.op.holdsBoundary) then s
  else match (send op p true false none (if memberOf s s.focus == .primary
      then some (0, (s.pair ((State.tileOf s.focus).getD 0)).held.length) else none)).run s with
    | .ok _ s' => noteSync s.next y s'
    | .error _ _ => s

/-- What a full/empty access that orders memory is in its scope: a store releases, a load acquires (R199). -/
def FeOp.sync (op : FeOp) (scope : Option Nat) : Sync :=
  if op == .wf || op == .wfe then ⟨none, scope, none, false⟩ else ⟨scope, none, none, false⟩

/-- A full/empty load or store of the issuing sequencer: the bank unit of its own tile performs it at once when the word's
state allows, and queues it otherwise; one to another tile's word is a request, for which the sequencer waits at its boundary
(R158, R179, R384, R385, R416). With FE = 2, or by its ORD, a store releases and a load acquires, in a scope (R199). -/
def feAccess (p : Place) (a : Word) (op : FeOp) (width : Nat) (data : Word) (poison : Bool) (scope : Option Nat) : Exec Word := do
  match ← granted .word with
  | some g =>
    if g.2 then consumed a
    return g.1
  | none =>
    let s ← get
    let gtile := tileOfKey p.key
    let off := offsetOf a
    let x : FeWaiter := ⟨s.focus, op, off, width, data, poison, false, none, scope⟩
    if !isOwn s.focus p then
      if !(← waits .word) then waitUntil (outstanding s s.focus < 64) .outstanding
      throw (.wait .word (registerRequest (op.sync scope) (.fe gtile op off width data poison) p))
    let (bs, ps) ← fetchBytes (s.partOf s.focus) (s.gangOf s.focus) 0 (scratchKey gtile (off / 8 * 8)) 8
    if ps.any id then consumed a
    let found ← get
    if feReady s gtile x then
      let loads := op == .wf || op == .wfe
      if loads then viewNewest s.focus p.key width
      else
        modify (writeScratch (inPair s s.focus gtile) (s.partOf s.focus) (s.gangOf s.focus) gtile off
          (marked (toBytes width data.toNat) poison))
        noteWrite p width
      match scope with
      | some scope => modify (if loads then acquired s.focus scope p.key else released s.focus scope p.key)
      | none => pure ()
      if op == .wfe || op == .wef then modify (changeState (inPair s s.focus gtile) gtile (off / 8) (op == .wef))
      return if loads then BitVec.ofNat 64 (ofBytes ((bs.drop (off % 8)).take width)) else 0
    else
      throw (.wait .word (fun s =>
        let s := keepFindings s found
        if (s.tile gtile).waiters.any (fun x => x.seq == s.focus && !x.released) then s
        else s.modTile gtile (fun u => { u with waiters := u.waiters ++ [x] })))

/-- A sequencer waits at the home of a word for a value, from now on unless it does already (R439). -/
def watch (q : SeqId) (key least : Nat) (s : State) : State :=
  if s.mem.watches.any (fun w => w.seq == q && w.key == key && w.least == least) then s
  else s.modMem (fun m => { m with watches := m.watches.filter (·.seq != q) ++ [⟨q, key, least, false⟩] })

/-- Whether the value that a sequencer waits for has come since it began to wait. -/
def valueCame (s : State) (q : SeqId) (key least : Nat) : Bool :=
  s.mem.watches.any (fun w => w.seq == q && w.key == key && w.least == least && w.met)

/-- The wait is over. -/
def unwatch (q : SeqId) (s : State) : State :=
  if s.mem.watches.isEmpty then s else s.modMem (fun m => { m with watches := m.watches.filter (·.seq != q) })

/-- What sequencers wait for at their boundaries is withdrawn: their accesses at bank units, their requests there, and their places in
the lists of barriers. The instructions will ask anew. -/
def withdrawWaits (qs : List SeqId) (s : State) : State :=
  { s with
    tiles := s.tiles.map (fun e => (e.1, { e.2 with waiters := e.2.waiters.filter (fun w => w.released || !qs.contains w.seq) }))
    launch := { s.launch with barriers := s.launch.barriers.map (fun b => { b with waiting := b.waiting.filter (fun q => !qs.contains q) }) }
    fabric := { s.fabric with requests := s.fabric.requests.filter (fun r => !(r.engine.isNone && qs.contains r.seq && r.op.holdsBoundary)) }
    mem := { s.mem with watches := s.mem.watches.filter (fun w => !qs.contains w.seq) } }

/-! ## Bridled pairs: boundaries at an instruction (R280, R282) -/

/-- The boundary that a gondola's departure from a pair's tile takes, and FPCK (R282, R285, R390), though its firing is not paired (R328). -/
def closeOnPair : Exec Unit := do
  let s ← get
  match State.tileOf s.focus, tilePaired s s.focus with
  | some t, true => awaitBoundary t
  | _, _ => pure ()

/-- The instruction that is completing closes the interval after it (R280): the boundary's counts hold it as retired. -/
def closeAfter : Exec Unit := do
  let s ← get
  match State.tileOf s.focus, isPaired s s.focus with
  | some t, true =>
    let counted := s.modSeq s.focus (fun u => { u with retired := u.retired + 1 })
    set (s.modPair (s.primaryOf t) (fun p => { p with
      boundary := ((askBoundary (s.primaryOf t) counted).pair (s.primaryOf t)).boundary
      since := s.time }))
  | _, _ => pure ()

/-- Whether an access of a pair's member leaves the pair's scratchpads. -/
def outsidePair (p : Place) : Exec Bool := do
  let s ← get
  return isPaired s s.focus && !isOwn s.focus p

/-- A read outside the pair whose data the instruction needs at once (R279, R280): the primary reads, with its held writes laid
over, and the twin takes the bytes. -/
def pairRead (p : Place) (n : Nat) : Exec Marked := do
  let r ← echoed (do
    let s ← get
    let q := s.focus
    let words ← fetchWords (s.partOf q) (s.gangOf q) (reach s q p n).entry p.key n
    let bs := overlay (s.pair ((State.tileOf q).getD 0)).held p.key n words
    return bs.map (fun e => (e.1.setWidth 64) + (if e.2 then 256 else 0)))
  return r.map (fun w => (w.setWidth 8, w.getLsbD 8))

/-! ## Gondolas that leave (R116, R118, R120, R167, R193) -/

/-- Where the gondolas of an address go: form 0b01 to a tile's A-seq, a translated page to its owner, on this module or on
the peer (R118, R193). -/
def destOf (s : State) (p : Place) : Dest :=
  match p with
  | .scratch g _ => if g < 2048 then .tile (s.primaryOf g) else .away (g / 2048 - 1)
  | .ext key _ => if key / 2 ^ 53 = 0 then .core (ownerOf key) else .away (key / 2 ^ 53 - 1)

/-- The router at which a gondola's packet arrives. -/
def routerOfDest : Dest → Nat
  | .tile t => routerOf t
  | .core c => routerOfCore c
  | .away d => routerOfTether (tetherTo d)

/-- Whether a gondola's packet has come to its destination. -/
def Transit.there (x : Transit) : Bool :=
  match x.dest with
  | .away _ => x.way.hop == .across
  | d => x.way.hop == .router (routerOfDest d)

/-- Whether a gang part is pre-empted (R146). -/
def isPreempted (s : State) (g : Nat) : Bool :=
  match s.gang? g with
  | some u => u.saved.isSome
  | none => false

/-- A tile as a gang holds it: of a pre-empted gang, as it was saved. -/
def heldTile (s : State) (g t : Nat) : Tile :=
  match (s.gang? g).bind (·.saved) with
  | some v => Assoc.get (s.tile t) v.tiles t
  | none => s.tile t

/-- Packets that an overflow ring holds (R120). -/
def ringPackets : Nat := 4096

/-- Gondolas in an area whose packets are still in the ring (R313). -/
def unreadIn (u : Tile) : Nat := (u.arrivals.filter (·.unread)).length

/-- Whether a destination has room for one more gondola of a gang besides those on their way: a tile's area or its ring of 4,096,
a memory core's queue of 64 (R119, R120, R167). -/
def roomFor (s : State) (g : Nat) (d : Dest) : Bool :=
  let coming := (s.launch.transit.filter (fun x => x.dest == d)).length
  match d with
  | .tile t =>
    let u := heldTile s g t
    (!isPreempted s g && u.ring.isEmpty && u.arrivals.length + coming < u.arrcap.toNat) ||
      u.ring.length + unreadIn u + coming < ringPackets
  | .core c => (s.mcore c).arrivals.length + coming < 64
  | .away _ => true

/-- x1-x7 as a packet of R116, with their poison marks (R276). -/
def packet (s : State) (q : SeqId) (number : Nat) (pc : Word) : Gondola :=
  let u := s.seq q
  ⟨number, s.gangOf q, pc, Vector.ofFn (fun i : Fin 7 => u.x (i.val + 1)), u.xPoison.extractLsb' 1 7, false⟩

/-- The end of a sequencer's firing: no program counter, nothing held (R95). A gondola's on a pair's tile is not paired: what it leaves
of the sequencer is what a rollback of the interval restores (R328; log 15). -/
def endFiring (q : SeqId) (s : State) : State :=
  let s' := s.modSeq q (fun u => { u with firing := none, wait := none, hold := none, spawned := none, xPending := 0, vPending := 0 })
  match q with
  | .a t =>
    if s.paired t && isGondola (s.seq q) then s'.modPair t (fun p => { p with primary := { p.primary with a := (s'.tile t).a } }) else s'
  | _ => s'

/-- Whether every earlier write and ATOM of a sequencer's firing has been acknowledged, and every block it pushed has been
delivered (R170, R390). -/
def writesAcknowledged (s : State) (q : SeqId) : Bool :=
  !(s.fabric.requests.any (fun r => r.isOf q && r.firing == s.firingOf q && !r.void && r.op.writes)) &&
    (match q with
     | .m c => !(s.launch.pushes.any (fun b => b.core == c && b.firing == s.firingOf q))
     | _ => true)

/-- Whether every PUSH, store and forwarded access of a memory core's firing has been performed (R169). -/
def requestServed (s : State) (c : Nat) : Bool :=
  outstanding s (.m c) = 0 && !(s.launch.pushes.any (fun b => b.core == c && b.firing == s.firingOf (.m c)))

/-- The request that a memory core's firing has taken becomes ready to return, with the poisoned words delivered for it. -/
def returnRequest (c : Nat) (s : State) : State :=
  s.modMCore c (fun u =>
    match u.taken with
    | some r => { u with returning := u.returning ++ [(r, u.takenPoison)], taken := none, takenPoison := 0 }
    | none => u)

/-- The end of a memory core's firing completes the request it has taken (R169). -/
def giveBack : Exec Unit := do
  let s ← get
  match s.focus with
  | .m c =>
    if (s.mcore c).taken.isSome then
      waitUntil (requestServed s c) .outstanding
      set (returnRequest c s)
  | _ => pure ()

/-- The slot of an arrival area that has freed takes the oldest gondola of the ring, still to be read back (R313). -/
def assignSlot (u : Tile) : Tile :=
  match u.ring with
  | [] => u
  | x :: rest => { u with ring := rest, arrivals := u.arrivals ++ [{ x with unread := true }] }

/-- Free slots of an arrival area take the oldest gondolas of the ring (R120). -/
def refill : Nat → Tile → Tile
  | 0, u => u
  | fuel + 1, u => if u.arrivals.length < u.arrcap.toNat then refill fuel (assignSlot u) else u

/-- The key of the `n`-th packet written to a tile's ring: 64 bytes each, in the partition's pool, by physical address (R116, R120,
R291). -/
def ringKey (s : State) (g : Nat) (u : Tile) (n : Nat) : Nat :=
  keyOf 0 spaceHbm ((s.part (partOfGang s g)).ringbase.toNat + u.ringNo * 2 ^ 18 + n % ringPackets * 64)

/-- A gondola's packet: the carried program counter, then x1-x7, with their poison marks (R116, R276). -/
def packetBytes (x : Gondola) : Marked :=
  marked (toBytes 8 x.pc.toNat) false ++
    ((List.range 7).map (fun i => marked (toBytes 8 (x.regs.toList.getD i 0).toNat) (x.poison.getLsbD i))).flatten

/-- A packet goes to a tile's ring, which the tile's home memory core writes under layout 0 (R120). -/
def writeRing (x : Gondola) (u : Tile) (s : State) : State :=
  writeBytes (partOfGang s x.gang) x.gang 0 (ringKey s x.gang u u.ringPut) (packetBytes x) s

/-- A tile whose ring holds one more gondola. -/
def intoRing (x : Gondola) (u : Tile) : Tile := { u with ring := u.ring ++ [x], ringPut := u.ringPut + 1 }

/-- A gondola is placed at a tile: into the arrival area, or into the ring when the area holds CAP gondolas or the ring holds any
(R120). A pair's primary alone receives it, since its firing is not paired (R328). -/
def landAtTile (x : Gondola) (t : Nat) (s : State) : State :=
  let u := s.tile t
  if u.ring.isEmpty && u.arrivals.length < u.arrcap.toNat then s.modTile t (fun u => { u with arrivals := u.arrivals ++ [x] })
  else (writeRing x u s).modTile t (intoRing x)

/-- A gondola joins a memory core's arrival queue and wakes the core (R167, R440). -/
def landAtCore (x : Gondola) (c : Nat) (s : State) : State :=
  latch (.m c) 64 (s.modMCore c (fun u => { u with arrivals := u.arrivals ++ [x] }))

/-- A gondola whose packet is to start at a sequencer's router. -/
def transitOf (q : SeqId) (x : Gondola) (d : Dest) (s : State) : Transit := ⟨x, d, false, Way.start (routerOfSeq q) s.time⟩

/-- Sends a gondola: one for the issuer's own tile or memory core is placed at once, any other is in transit (R305, R313). -/
def launchGondola (q : SeqId) (x : Transit) (s : State) : State :=
  let fly := s.modLaunch (fun l => { l with transit := l.transit ++ [x] })
  match q, x.dest with
  | .a t, .tile t' => if t = t' then landAtTile x.gondola t s else fly
  | .m c, .core c' => if c = c' ∧ !isPreempted s x.gondola.gang then landAtCore x.gondola c s else fly
  | _, _ => fly

/-- The data of a departing gondola's outstanding loads will be discarded (R118). -/
def voidRequests (q : SeqId) (number : Nat) (s : State) : State :=
  s.modFabric (fun u => { u with requests := u.requests.map (fun r =>
    if r.isOf q ∧ r.firing = number then { r with void := true } else r) })

/-- Ends the firing and sends its gondola, once none of x1-x7 is pending, its writes are acknowledged, and the destination
has room (R118, R193, R390). -/
def depart (pc : Word) (d : Dest) : Exec Flow := do
  let s ← get
  let q := s.focus
  let u := s.seq q
  waitUntil ((u.xPending.extractLsb' 1 7) == 0) .pending
  waitUntil (writesAcknowledged s q) .outstanding
  giveBack
  waitUntil (roomFor s (s.gangOf q) d) .room
  let number := s.firingOf q
  modify (fun s => launchGondola q (transitOf q (packet s q number pc) d s) (voidRequests q number (embark number q d s)))
  modify (endFiring q)
  return .ended

/-- The residence event of a translated access by an A-seq (R193): a gondola that qualifies migrates to the owner and repeats
the instruction there; any other firing raises 0x09. -/
def residence (a : Word) (p : Place) (qualifies : Bool) : Exec Flow := do
  let s ← get
  let u := s.seq s.focus
  if isGondola u && qualifies then
    closeOnPair
    depart u.pc (destOf s p)
  else trap 0x09 a

/-- Resolves an address for an access by any sequencer, `also` naming what else it does there: an X-seq has no form 0b00 and raises 0x09 untranslated; an A-seq's
translated access becomes a residence event; otherwise the place (R156, R193). -/
def locate (a : Word) (n align : Nat) (acc : Access) (also : List Access) (qualifies : Bool) : Exec (Place ⊕ Flow) := do
  let s ← get
  match s.focus with
  | .x _ =>
    checkAddress a n align
    if formOf a = 0 then trap 0x09 a
    return .inl (← resolve a n align acc)
  | q =>
    let p ← resolve a n align acc
    if formOf a = 0 then also.forM (fun acc => do let _ ← translate a acc)
    match q, p with
    | .a _, .ext .. => return .inr (← residence a p qualifies)
    | _, _ => return .inl p

end Sys2Proof.Machine
end

