-- ==== Sys2Proof/Machine/Actor.lean ====
section
/-! DEFINITION. Actors, firings, gondolas and the reel: ACTON, ACTOFF, FEND, SPAWN, MIGR, NESTCFG, NESTGO, ALIGNH, with the
selection of firings, the arrival of gondolas and the reel's claims (R100-R105, R112-R121, R124, R167, R313, R336-R338,
R369, R390, R395, R415). -/

namespace Sys2Proof.Machine

/-! ## ACTON, ACTOFF (R105, R336) -/

def Seq.actor (q : Seq) (n : Nat) : Actor := q.actors.getD n Actor.absent
def Seq.modActor (q : Seq) (n : Nat) (f : Actor → Actor) : Seq := { q with actors := q.actors.setIfInBounds n (f (q.actor n)) }

/-- Sets whether an actor of a sequencer is enabled. -/
def setEnabled (n : Nat) (v : Bool) (q : Seq) : Seq := q.modActor n (fun a => { a with enabled := v })

/-- IMM16[3:0] names the actor, IMM16[4] the table of the tile; a memory core has one table (R105). -/
def actBody (v : Bool) (f : F64A) : Exec Flow := do
  let n := f.imm16.toNat % 16
  let x := f.imm16.getLsbD 4
  match ← me with
  | .m _ =>
    check (!x) 0x01 0
    modMe (setEnabled n v)
  | _ => modMyTile (fun u => if x then { u with x := setEnabled n v u.x } else { u with a := setEnabled n v u.a })
  return .fall

/-- ACTON (R336). -/
def execActon (f : F64A) (s : State) : Host.Outcome State Fault Refusal := issueA (.acton f) f (actBody true f) s

/-- ACTOFF (R336). -/
def execActoff (f : F64A) (s : State) : Host.Outcome State Fault Refusal := issueA (.actoff f) f (actBody false f) s

/-! ## FEND (R369) -/

/-- The oldest command record that a firing has appended and not published, on either engine of a tile (R173, R349). -/
def unpublished (u : Tile) (f : Firing) : Option Cmd :=
  f.begun.findSome? (fun e =>
    (if e.1 = 0 then u.copy else u.coll).cmds.find? (fun c => c.number == e.2 && c.state == .appended && c.firing == f.number))

/-- One live gondola fewer on this module (R121). -/
def oneLess (g : Nat) (s : State) : State := s.modGang g (fun u => { u with live := u.live - 1 })

/-- The boundary that a pair takes when both sequencers of the tile hold no firing (R282): after the firing of a member, or at
once after a gondola's, which the counts do not hold (R328). -/
def closeWhenIdle (member : Bool) : Exec Unit := do
  let s ← get
  match State.tileOf s.focus with
  | some t =>
    let u := s.tile t
    if s.paired t && u.a.firing.isNone && u.x.firing.isNone then
      if member then closeAfter else set (askBoundary (s.primaryOf t) s)
  | none => pure ()

/-- Outstanding requests of the sequencer's firing: those that a gondola left behind at its MIGR are not its own (R118, R179). -/
def firingRequests (s : State) (q : SeqId) : List Request :=
  s.fabric.requests.filter (fun r => r.seq == q && r.firing == s.firingOf q && !r.void)

/-- FEND (R369). -/
def fendBody : Exec Flow := do
  let s ← get
  let q := s.focus
  let member := isPaired s q
  match State.tileOf q, (s.seq q).firing with
  | some t, some f =>
    match unpublished (s.tile (s.primaryOf t)) f with
    | some c => trap 0x15 (BitVec.ofNat 64 (c.record.getD 0))
    | none => pure ()
  | _, _ => pure ()
  waitUntil ((firingRequests s q).isEmpty && (s.seq q).xPending == 0 && (s.seq q).vPending == 0) .outstanding
  giveBack
  if isGondola (s.seq q) then modify (oneLess (s.gangOf q))
  modify (endFiring q)
  closeWhenIdle member
  return .ended

/-- FEND (R369). -/
def execFend (f : F64A) (s : State) : Host.Outcome State Fault Refusal := issueA (.fend f) f fendBody s

/-! ## SPAWN and MIGR (R117, R118, R390, R415) -/

/-- The place that a gondola's destination address names: a tile, by steps 1 and 4 of R156; a page that may be read, by
steps 1, 2 and 5. -/
def gondolaPlace (a : Word) : Exec Place := do
  let s ← get
  if formOf a = 1 then
    check (formOk a && !shutOut s s.focus a) 0x04 a
    check (mayReach s s.focus (gtileOf s a)) 0x0B a
    return .scratch (gtileOf s a) 0
  else
    checkAddress a 1 1
    let e ← translate a .read
    return entryPlace s e a.toNat

/-- SPAWN counts its gondola live as it passes the limit's check, and remembers where the gondola goes (R415). -/
def countSpawn (q : SeqId) (d : Dest) (s : State) : State :=
  if (s.seq q).spawned.isSome then s
  else (s.modSeq q (fun u => { u with spawned := some d })).modGang (s.gangOf q) (fun u => { u with live := u.live + 1 })

/-- A wait of SPAWN, whose gondola is counted live meanwhile. -/
def spawnWait (d : Dest) (c : Bool) (why : Why) : Exec Unit := do
  if !c then throw (.wait why (fun s => countSpawn s.focus d s))

/-- Creates a gondola: 1 when the launch's live count has reached LIVELIM, else 0 with the gondola counted live, and sent once none of
x1-x7 is pending, the issuer's earlier accesses are acknowledged, and the destination has room; a pair holds it back (R328, R415). -/
def spawnAnswer (pc : Word) (d : Dest) (reg : BitVec 6) : Exec Word := do
  let s ← get
  let q := s.focus
  let g := s.gangOf q
  let full : Bool := match s.gang? g with
    | some u => u.livelim.toNat ≤ u.live
    | none => false
  if full && (s.seq q).spawned.isNone then return 1
  spawnWait d ((((s.seq q).xPending.extractLsb' 1 7)) == 0) .pending
  spawnWait d (allAcknowledged s q) .outstanding
  spawnWait d (roomFor s g d) .room
  let (number, s) := (countSpawn q d s).fresh
  let x := transitOf q (packet s q number pc) d s
  set (s.modSeq q (fun u => { u with spawned := none }))
  if (← myTwin) == .primary then
    modify (fun s => spread q (embark number q d s))
    holdBack (.gondola x reg)
  else modify (fun s => launchGondola q x (embark number q d s))
  return 0

/-- SPAWN (R415): the gondola sees the issuer's earlier writes, which are acknowledged before it is sent (R312; log 2). In a pair D is
pending until the gondola is placed (R313, R328). -/
def spawnBody (f : F64A) : Exec Flow := do
  let pc ← useX f.a.toNat
  let dst ← useX f.b.toNat
  check (pc.toNat % 4 = 0) 0x0A pc
  let d := f.d.toNat
  waitUntil (!(← mySeq).xPending.getLsbD d || d == 0) .pending
  let r ← echoed1 (do
    match (← mySeq).spawned with
    | some to_ => spawnAnswer pc to_ f.d
    | none =>
      let p ← gondolaPlace dst
      spawnAnswer pc (destOf (← get) p) f.d)
  let s ← get
  putX d r false
  if isPaired s s.focus && r = 0 then modMe (fun q => q.setPending d true)
  closeAfter
  return .fall

/-- SPAWN (R415). -/
def execSpawn (f : F64A) (s : State) : Host.Outcome State Fault Refusal := issueA (.spawn f) f (spawnBody f) s

/-- MIGR (R390): at a pair's tile it takes a boundary first (R282). -/
def migrBody (i : Instr) (f : F64A) : Exec Flow := do
  check (isGondola (← mySeq)) 0x01 (lowBits i)
  let pc ← useX f.a.toNat
  let dst ← useX f.b.toNat
  check (pc.toNat % 4 = 0) 0x0A pc
  let p ← gondolaPlace dst
  closeOnPair
  depart pc (destOf (← get) p)

/-- MIGR (R390). -/
def execMigr (f : F64A) (s : State) : Host.Outcome State Fault Refusal := issueA (.migr f) f (migrBody (.migr f) f) s

/-! ## The reel: NESTCFG and NESTGO (R112, R113, R395) -/

/-- The places of `n` 8-byte words for an instruction that reaches memory through the owner on any sequencer: no residence event (R395).
A twin will take the words its primary reads. -/
def tablePlaces (a : Word) (n : Nat) : Exec (List (Word × Place)) :=
  (List.range n).mapM (fun i => do
    let at_ := a + BitVec.ofNat 64 (8 * i)
    if formOf a = 1 then
      let s ← get
      return (at_, Place.scratch (mirrored s s.focus (gtileOf s a)) (offsetOf at_))
    else if (← myTwin) == .twin then return (at_, Place.ext 0 0)
    else
      let e ← translate at_ .read
      return (at_, entryPlace (← get) e at_.toNat))

/-- Reads the 8-byte words at some places; a poisoned word is consumed, and a strongly ordered page takes the access after all earlier
ones (R207). A twin takes the words its primary read. -/
def readPlaces (places : List (Word × Place)) : Exec (List Word) := do
  if places.any (fun p => strong p.2) then strongFence
  places.mapM (fun p => do
    ownOrder p.2 8
    let bs ← if ← outsidePair p.2 then pairRead p.2 8 else
      (do
        let s ← get
        match p.2 with
        | .scratch g _ => if State.tileOf s.focus == some g then getBytes p.2 8 else fetchMarked (s.partOf s.focus) (s.gangOf s.focus) 0 p.2.key 8
        | .ext .. => getBytes p.2 8)
    if bs.poisoned then consumed p.1
    return BitVec.ofNat 64 (ofBytes bs.bytes))

/-- Reads `n` 8-byte words from an address on. -/
def readTable (a : Word) (n : Nat) : Exec (List Word) := do readPlaces (← tablePlaces a n)

/-- The fields of a nest descriptor's eight words (R112). -/
def nestOf (ws : List Word) : Nest :=
  let w := fun i => ws.getD i 0
  let half := fun (v : Word) (i : Nat) => (v.extractLsb' (32 * i) 32).toNat
  ⟨half (w 0) 0, half (w 0) 1, half (w 1) 0, half (w 1) 1, w 2, ((w 3).extractLsb' 0 16).toNat,
    ((w 3).extractLsb' 16 16).toNat, half (w 3) 1⟩

def Nest.total (n : Nest) : Nat := n.e0 * n.e1 * n.e2 * n.e3

/-- Whether a descriptor keeps R112. -/
def nestOk (ws : List Word) : Bool :=
  let n := nestOf ws
  1 ≤ n.e0 && 1 ≤ n.e1 && 1 ≤ n.e2 && 1 ≤ n.e3 && n.total < 2 ^ 63 && n.counter.toNat % 8 = 0 && formOk n.counter &&
    1 ≤ n.parts && n.parts ≤ 2048 && 1 ≤ n.divisor && n.divisor ≤ 256 && 1 ≤ n.chunk && (ws.drop 4).all (· == 0)

def Seq.nest (q : Seq) (i : Nat) : NestSlot := q.nests.getD i NestSlot.reset
def Seq.modNest (q : Seq) (i : Nat) (f : NestSlot → NestSlot) : Seq := { q with nests := q.nests.setIfInBounds i (f (q.nest i)) }

/-- NESTCFG (R395). -/
def nestcfgBody (i : Instr) (f : F64A) : Exec Flow := do
  let a ← useX f.a.toNat
  checkAddress a 64 1
  let places ← tablePlaces a 8
  if a.toNat % 8 ≠ 0 && formOf a = 0 && (← myTwin) != .twin then let _ ← translate (a + 63) .read
  check (a.toNat % 8 = 0) 0x0A a
  let ws ← readPlaces places
  check (nestOk ws) 0x01 (lowBits i)
  let slot := f.imm16.toNat
  let q ← mySeq
  waitUntil (q.nest slot).claiming.isNone .engine
  let s ← get
  modMe (fun q => q.modNest slot (fun n => { n with gang := s.gangOf s.focus, nest := some (nestOf ws), armed := false, lo := 0, hi := 0 }))
  return .fall

/-- NESTCFG (R395). -/
def execNestcfg (f : F64A) (s : State) : Host.Outcome State Fault Refusal := issueA (.nestcfg f) f (nestcfgBody (.nestcfg f) f) s

/-- Actor `n` is bound to slot `i` and armed with an empty chunk; it leaves any other slot, and any other actor leaves the
slot, reel-bound and disarmed (R113, R395). -/
def bindReel (now i n : Nat) (q : Seq) : Seq :=
  let others := q.nests.map (fun x => if x.actor = some n then { x with actor := none, armed := false } else x)
  let q := { q with nests := others }.modActor n (fun a => { a with reelBound := true })
  q.modNest i (fun x => { x with actor := some n, armed := true, lo := 0, hi := 0, claiming := some now })

/-- NESTGO (R395): the claim sees the issuer's earlier writes, which are acknowledged first (R209; log 2). -/
def nestgoBody (i : Instr) (f : F64A) : Exec Flow := do
  let slot := f.imm16.toNat % 4
  let n := f.imm16.toNat / 4 % 16
  let q ← mySeq
  let s ← get
  check ((q.nest slot).nest.isSome && (q.nest slot).gang == s.gangOf s.focus) 0x01 (lowBits i)
  waitUntil ((q.nest slot).claiming.isNone && !q.nests.toList.any (fun x => x.actor == some n && x.claiming.isSome)) .engine
  release
  let now := (← get).time
  modMe (bindReel now slot n)
  return .fall

/-- NESTGO (R395). -/
def execNestgo (f : F64A) (s : State) : Host.Outcome State Fault Refusal := issueA (.nestgo f) f (nestgoBody (.nestgo f) f) s

/-! ## REEL_CLAIM (R114) -/

/-- The sequencers of a unit that share its reel's state: both members of a pair. -/
def reelSeqs (s : State) (q : SeqId) : List SeqId := if tilePaired s q then [q, partnerSeq s q] else [q]

/-- Whether a trap of the reel's slot has not been answered. -/
def reelTrapped (s : State) (q : SeqId) (slot : Nat) : Bool :=
  let here := fun (t : Trap) => t.origin == .reel q slot
  s.launch.undelivered.any here ||
    s.clusters.any (fun e => e.2.traps.any here || (e.2.inHand.map here).getD false)

/-- What a claim of chunk [c, ...) takes of a nest whose counter reads `c` (R114). -/
def chunkEnd (n : Nest) (c : Nat) : Nat :=
  min n.total (c + max n.chunk ((n.total - c + n.divisor * n.parts - 1) / (n.divisor * n.parts)))

/-- The place of a claim's counter, as an access of the sequencer's unit that no residence event meets. -/
def claimPlace (n : Nest) : Exec Place := do
  let a := n.counter
  checkAddress a 8 8
  let s ← get
  if formOf a = 1 then return .scratch (mirrored s s.focus (gtileOf s a)) (offsetOf a)
  else
    let _ ← translate a .read
    return entryPlace s (← translate a .write) a.toNat

/-- What a claim is to the order of memory: ATOM `.cas.ar` at JOB (R114, R199). -/
def claimSync (p : Place) : Sync := (⟨some 6, some 6, none, false⟩ : Sync).at_ p

/-- The chunk that a claim takes of a counter that reads `c`, or none when it has passed the last index. -/
def chunkAt (n : Nest) (c : Nat) : Option (Nat × Nat) := if n.total ≤ c then none else some (c, chunkEnd n c)

/-- A claim at a counter of the sequencer's own unit. -/
def claimHere (n : Nest) (p : Place) : Exec (Option (Nat × Nat)) := do
  if strong p then modify (fun s => spread s.focus s)
  let bs ← getBytes p 8
  if bs.poisoned then consumed n.counter
  let r := chunkAt n (ofBytes bs.bytes)
  match r with
  | some (_, hi) =>
    let s ← get
    putBytes p (marked (toBytes 8 hi) false)
    modify (keepReleases s p.key)
    noteWrite p 8
    syncOwn (claimSync p) p
  | none => pure ()
  return r

/-- What a claim leaves in its slot: the chunk, or none, which disarms the actor. -/
def claimed_ (r : Option (Nat × Nat)) (x : NestSlot) : NestSlot :=
  match r with
  | some (lo, hi) => { x with lo := lo, hi := hi, claiming := none }
  | none => { x with armed := false, claiming := none }

/-- Changes a nest slot of a tile's sequencer. -/
def modTileNest (q : SeqId) (slot : Nat) (f : NestSlot → NestSlot) (u : Tile) : Tile :=
  match q with
  | .x _ => { u with x := u.x.modNest slot f }
  | _ => { u with a := u.a.modNest slot f }

/-- The chunk reaches the slot: at a pair whose counter lies outside it both members' slots, and what a rollback restores. -/
def giveChunk (own : Bool) (q : SeqId) (slot : Nat) (r : Option (Nat × Nat)) (s : State) : State :=
  match own, State.tileOf q with
  | false, some t => outsideChange t (modTileNest q slot (claimed_ r)) s
  | _, _ => s.modSeq q (fun u => u.modNest slot (claimed_ r))

/-- The request of a claim at another unit: it goes on the sequencer's ordered flow, and no OUTSTD counts it (R114, R208). -/
def sendClaim (q : SeqId) (slot : Nat) (n : Nest) (p : Place) (s : State) : State :=
  let s := if strong p then spread q s else s
  promise s.next q (noteSync s.next (claimSync p)
    (addRequest q (some (2, slot)) 0 (s.gangOf q) (s.partOf q) (.claim (reach s q p 8) slot n) (homeOf p) true none none s))

/-- Whether a claim of a slot is on its way to another unit or back. -/
def claimSent (s : State) (q : SeqId) (slot : Nat) : Bool := s.fabric.requests.any (fun r => r.seq == q && r.engine == some (2, slot))

/-- A claim: at the sequencer's own unit at once, at another by a request. -/
def claimBy (own : Bool) (q : SeqId) (slot : Nat) (n : Nest) : Exec Unit := do
  let p ← claimPlace n
  if isOwn q p then
    let r ← claimHere n p
    modify (giveChunk own q slot r)
  else modify (sendClaim q slot n p)

/-- The answer of a claim's request: the chunk that it took; poison kills (R71). -/
def answerClaim (r : Request) (slot : Nat) (n : Nest) (v : BitVec 1024) (poison : BitVec 32) (s : State) : State :=
  if poison != 0 then consumePoison r.seq (noteConsumed r.seq n.counter s)
  else giveChunk false r.seq slot (chunkAt n v.toNat) s

/-- The outcome of a claim by one sequencer; a fault becomes a trap at the actor's entry address, poison kills (R71, R114). -/
def claimOutcome (own : Bool) (q : SeqId) (slot : Nat) (n : Nest) (actor : Option Nat) (s : State) :
    Host.Outcome State Fault Refusal :=
  let here := s.focus
  let s := { s with focus := q }
  match (claimBy own q slot n).run s with
  | .ok _ s' => .next { s' with focus := here }
  | .error (.trap code tval miss) t' =>
    let s := keepFindings s t'
    let entry := (actor.map (fun i => ((s.seq q).actor i).entry)).getD 0
    let t : Trap := ⟨unitOf q, kindCode q, code, entry, tval, s.gangOf q, s.partOf q, .reel q slot, miss⟩
    let s := match miss with
      | some acc => addMiss q (s.partOf q) tval.toNat acc s
      | none => s
    .next { (postTrap t s) with focus := here }
  | .error (.poison tval) t' => .next { (consumePoison q (noteConsumed q tval (keepFindings s t'))) with focus := here }
  | .error (.fault r) _ => .fault r
  | .error _ _ => .next { s with focus := here }

/-- Whether a nest's counter lies in the scratchpad of a sequencer's own tile. -/
def ownCounter (s : State) (q : SeqId) (n : Nest) : Bool :=
  formOf n.counter == 1 && some (mirrored s q (gtileOf s n.counter)) == State.tileOf q

/-- Whether the checkpoint of a pair holds a slot's claim as outstanding, so that the claim may leave the pair. -/
def claimKept (s : State) (q : SeqId) (slot : Nat) : Bool :=
  match q with
  | .x t => ((s.pair t).primary.x.nest slot).claiming.isSome
  | .a t => ((s.pair t).primary.a.nest slot).claiming.isSome
  | _ => true

/-- REEL_CLAIM (R114): the outstanding claim of a slot, once the sequencer's earlier accesses are acknowledged. A twin's follows its primary's: each member claims from a counter in
its own scratchpad; a claim outside the pair is an ATOM, before which the interval is closed (R280; log 15). -/
def execReelClaim (seq : SeqId) (slot : Nat) (s : State) : Host.Outcome State Fault Refusal :=
  let x := (s.seq seq).nest slot
  match x.nest with
  | none => .next s
  | some n =>
    if x.claiming.isNone || claimSent s seq slot || !allAcknowledged s seq || isTwin s seq || reelTrapped s seq slot || (tilePaired s seq && isGondola (s.seq seq)) then .next s
    else if !tilePaired s seq then claimOutcome false seq slot n x.actor s
    else if ownCounter s seq n then
      let twin := partnerSeq s seq
      match claimOutcome true seq slot n x.actor s with
      | .next s' => if ((s'.seq seq).nest slot).claiming.isSome then .next s' else claimOutcome true twin slot n x.actor s'
      | r => r
    else if claimKept s seq slot then claimOutcome false seq slot n x.actor s
    else .next (askBoundary ((State.tileOf seq).getD 0) s)

/-! ## Selection (R101-R104, R119) -/

/-- The slot that an actor is bound to. -/
def slotOf (q : Seq) (n : Nat) : Option NestSlot := q.nests.toList.find? (fun x => x.actor == some n)

/-- Whether an actor is ready, but for its sequencer being free (R102). -/
def actorReady (s : State) (q : SeqId) (n : Nat) : Bool :=
  let u := s.seq q
  let a := u.actor n
  let count := fun (free : Bool) (e : Nat × Nat) =>
    match u.handles.getD e.1 none with
    | some r =>
      let r := match r with
        | .tile t base => QRef.tile (mirrored s q t) base
        | r => r
      e.2 ≤ (if free then (queueAt s r).free else (queueAt s r).filled)
    | none => false
  a.present && a.enabled && a.inputs.all (count false) && a.outputs.all (count true) &&
    (if a.reelBound then
      match slotOf u n with
      | some x => x.armed && x.claiming.isNone && x.lo < x.hi
      | none => false
     else true)

/-- The arrival queue of a sequencer: an A-seq's area, a memory core's queue (R119, R167). -/
def arrivalsOf (s : State) : SeqId → List Gondola
  | .a t => (s.tile t).arrivals
  | .m c => (s.mcore c).arrivals
  | _ => []

/-- Whether the arrival queue is an entrant: its oldest gondola can fire (R119, R313). -/
def arrivalReady (s : State) (q : SeqId) : Bool :=
  match arrivalsOf s q with
  | x :: _ => !x.unread && gangRuns s x.gang
  | [] => false

/-- Whether a fault of the matrix unit stops a sequencer: the X-seq of a tile whose MMA is stopped (R218). In a pair the one that is
behind runs on to its partner's instruction (R283). -/
def matrixStopped (s : State) : SeqId → Bool
  | .x t => (s.tile t).matrix.any (·.stopped) &&
      (!s.paired t || (s.tile (s.partnerOf t)).x.retired ≤ (s.tile t).x.retired)
  | _ => false

/-- Whether actors of a sequencer may fire at all: a tile of a running gang, or a memory core. -/
def mayFire (s : State) : SeqId → Bool
  | .a t => (s.tile t).gang != 0 && gangRuns s (s.tile t).gang
  | .x t => (s.tile t).gang != 0 && gangRuns s (s.tile t).gang
  | .m _ => true
  | .s _ => false

/-- Whether both members' sequencers stand at the start of an interval, as a gondola's firing on a pair's tile needs: what a rollback
restores of the sequencer is then what the gondola found (log 15). -/
def atStart (s : State) (q : SeqId) : Bool := !tilePaired s q || (reelSeqs s q).all (fun q => (s.seq q).retired = 0)

/-- Whether one entrant of a sequencer is ready: actors 0 to 15, at a pair at both members, and the arrival queue as 16, whose
firing is not paired (R328). -/
def entrantReady (s : State) (q : SeqId) (n : Nat) : Bool :=
  mayFire s q && !matrixStopped s q &&
    (if n = 16 then arrivalReady s q && atStart s q else (reelSeqs s q).all (fun q => actorReady s q n))

/-- Effective priority of an entrant (R103). -/
def priority (u : Seq) (n : Nat) : Nat :=
  if n = 16 then min 3 (2 + u.arrivalAge / 1024)
  else
    let a := u.actor n
    min 3 (a.prio + a.age / 1024)

/-- The entrant that fires: the highest effective priority, then round robin from the one that fired last there (R103). -/
def selected (s : State) (q : SeqId) : Option Nat :=
  let u := s.seq q
  let ready := (List.range 17).filter (entrantReady s q)
  let top := (ready.map (priority u)).foldl max 0
  let level := ready.filter (fun n => priority u n == top)
  let last := u.lastFired.getD top 16
  ((List.range 17).map (fun i => (last + 1 + i) % 17)).find? level.contains

/-- The aging counts after a selection: cleared for the entrant that fires and for those not ready, one more for the others
(R103). -/
def ageAll (s : State) (q : SeqId) (fired : Nat) (u : Seq) : Seq :=
  let age := fun (n a : Nat) => if n ≠ fired ∧ entrantReady s q n then a + 1 else 0
  { u with
    actors := Vector.ofFn (fun i : Fin 16 =>
      let a := u.actors[i]
      { a with age := age i.val a.age })
    arrivalAge := age 16 u.arrivalAge
    lastFired := u.lastFired.setIfInBounds (priority u fired) fired }

/-- The registers at the start of a firing (R101, R116); FPRM, FPSTAT, queues, slots and the latch keep their values. -/
def clearFiring (pc : Word) (f : Firing) (u : Seq) : Seq :=
  { u with
    xs := Vector.replicate 32 0
    xPoison := 0
    xPending := 0
    vs := Vector.replicate 32 0
    vPoison := Vector.replicate 32 0
    vPending := 0
    ps := 1
    ks := Vector.replicate 4 0
    pc := pc
    firing := some f
    returns := []
    cspill := 0
    csplim := 0
    deadline := none
    spawned := none
    wait := none
    hold := none
    suspended := false }

/-- The scratchpad-form address of an offset of a tile of this module. -/
def tileAddress (s : State) (t off : Nat) : Word := BitVec.ofNat 64 (2 ^ 62 + s.host.devid.toNat * 2 ^ 54 + t * 2 ^ 43 + off)

/-- CSPILL and CSPLIM of an actor's call-spill area (R101, R122). The end of an area that ends at 1 MiB does not fit LIMIT, which becomes
0 (DESIGN CHOICE, log 20). -/
def spillOf (s : State) (q : SeqId) (a : Actor) (u : Seq) : Seq :=
  match State.tileOf q with
  | some t => { u with
      cspill := tileAddress s (s.primaryOf t) a.spillBase
      csplim := BitVec.ofNat 40 (a.spillBase * 2 ^ 20 + (a.spillBase + a.spillSize) % 2 ^ 20) }
  | none => u

/-- The index L that the reel supplies, split over the extents (R114). -/
def indexOf (n : Nest) (l : Nat) : Vector Word 4 :=
  #v[BitVec.ofNat 64 (l % n.e0), BitVec.ofNat 64 (l / n.e0 % n.e1), BitVec.ofNat 64 (l / (n.e0 * n.e1) % n.e2),
    BitVec.ofNat 64 (l / (n.e0 * n.e1 * n.e2))]

/-- The reel advances the chunk of the slot bound to an actor and gives its index; an empty chunk starts a claim (R114). -/
def advanceReel (now n : Nat) (u : Seq) : Seq :=
  match (List.range 4).find? (fun i => (u.nest i).actor == some n) with
  | some i =>
    let x := u.nest i
    match x.nest with
    | some d =>
      let u := u.modNest i (fun x => { x with lo := x.lo + 1, claiming := if x.lo + 1 = x.hi then some now else none })
      { u with ks := indexOf d x.lo }
    | none => u
  | none => u

/-- Starts the firing of an actor (R101, R104): a one-shot actor disables itself. -/
def fireActor (number : Nat) (n : Nat) (q : SeqId) (s : State) : State :=
  let a := (s.seq q).actor n
  let gang := match State.tileOf q with
    | some t => (s.tile t).gang
    | none => 0
  s.modSeq q (fun u =>
    let u := spillOf s q a (clearFiring a.entry ⟨number, gang, false, n, []⟩ u)
    let u := if a.reelBound then advanceReel s.time n u else u
    if a.inputs.isEmpty && !a.reelBound then setEnabled n false u else u)

/-- Takes the oldest gondola of an arrival queue; at a tile the freed slot goes to the ring's oldest (R313). -/
def takeArrival (s : State) : SeqId → State
  | .a t => s.modTile t (fun u => assignSlot { u with arrivals := u.arrivals.drop 1 })
  | .m c => s.modMCore c (fun u => { u with arrivals := u.arrivals.drop 1 })
  | _ => s

/-- Starts the firing of a gondola, which sees what it brings (R116, R118, R312). -/
def fireGondola (q : SeqId) (s : State) : State :=
  match arrivalsOf s q with
  | x :: _ =>
    (disembark x.number q (takeArrival s q)).modSeq q (fun u =>
      let u := clearFiring x.pc ⟨x.number, x.gang, true, 16, []⟩ u
      { u with
        xs := Vector.ofFn (fun i : Fin 32 => if h : 1 ≤ i.val ∧ i.val ≤ 7 then x.regs[i.val - 1] else 0)
        xPoison := x.poison.setWidth 32 <<< 1 })
  | [] => s

/-- Whether a gondola waits at a pair's tile for the interval to end (R328; log 15). -/
def gondolaWaits (s : State) (q : SeqId) : Bool := mayFire s q && arrivalReady s q && !atStart s q

/-- ACTOR_SELECTION (R103): a free sequencer's selection; a pair's members select together, but a gondola fires at the primary
alone (R328; log 15). -/
def execActorSelection (seq : SeqId) (s : State) : Host.Outcome State Fault Refusal :=
  let qs := reelSeqs s seq
  let primary := (State.tileOf seq).getD 0
  if (tilePaired s seq && (s.tile primary).twin == .twin) || qs.any (fun q => (s.seq q).firing.isSome) then .next s
  else if gondolaWaits s seq && (s.pair primary).boundary.isNone then .next (askBoundary primary s)
  else match selected s seq with
    | none => .next s
    | some n =>
      let (number, s') := s.fresh
      let aged := qs.foldl (fun t q => t.modSeq q (ageAll s q n)) s'
      .next (if n = 16 then fireGondola seq aged else qs.foldl (fun t q => fireActor number n q t) aged)

/-! ## Arrivals of gondolas (R118-R120, R149, R167, R313) -/

/-- Takes transit entry `index` away; resent copies of its packet will be discarded, and are counted (R256, R286). -/
def dropTransit (index : Nat) (x : Transit) (s : State) : State :=
  (countError s (partOfGang s x.gondola.gang) 6 x.way.copies).modLaunch (fun l => { l with transit := l.transit.eraseIdx index })

/-- Changes what pre-emption saved of a gang. -/
def modSaved (g : Nat) (f : Saved → Saved) (s : State) : State := s.modGang g (fun u => { u with saved := u.saved.map f })

/-- A gondola for a tile of a pre-empted gang goes to the tile's ring, as the tile was saved (R120, R148). -/
def landInRing (x : Gondola) (t : Nat) (s : State) : State :=
  let s' := writeRing x (heldTile s x.gang t) s
  if (s.tile t).gang = x.gang then s'.modTile t (intoRing x)
  else modSaved x.gang (fun v => { v with tiles := v.tiles.map (fun e => if e.1 = t then (e.1, intoRing x e.2) else e) }) s'

/-- A gondola arrives at a tile; a pre-empted gang's goes to its tile's ring (R148). -/
def arriveAtTile (x : Gondola) (t : Nat) (s : State) : State :=
  if isPreempted s x.gang then landInRing x t s else landAtTile x t s

/-- GONDOLA_ARRIVAL (R119, R120): the subject numbers the gondola among those in transit, whose packet has come to its
destination; one for a peer leaves the module. -/
def execGondolaArrival (s : State) : Host.Outcome State Fault Refusal :=
  match s.launch.transit[s.subject]? with
  | none => .next s
  | some x =>
    if !x.there then .next s
    else match x.dest with
      | .tile t => .next (arriveAtTile x.gondola t (dropTransit s.subject x s))
      | .away _ => .next (dropTransit s.subject x s)
      | .core _ => .next s

/-- A gondola as its packet in the ring holds it (R116). -/
def fromPacket (x : Gondola) (bs : Marked) : Gondola :=
  let word := fun (i : Nat) => (bs.drop (8 * i)).take 8
  { x with
    pc := BitVec.ofNat 64 (ofBytes (Marked.bytes (word 0)))
    regs := Vector.ofFn (fun i : Fin 7 => BitVec.ofNat 64 (ofBytes (Marked.bytes (word (i.val + 1)))))
    poison := (List.range 7).foldl (fun (m : BitVec 7) i => if Marked.poisoned (word (i + 1)) then m ||| (1#7 <<< i) else m) 0
    unread := false }

/-- RING_RETURN (R313): the packet of the oldest gondola assigned a slot of the subject tile is read back through the tile's home
memory core. A poisoned program counter is consumed at the tile (R276). -/
def execRingReturn (s : State) : Host.Outcome State Fault Refusal :=
  let t := s.subject
  let u := s.tile t
  match u.arrivals.findIdx? (·.unread), u.arrivals.find? (·.unread) with
  | some i, some x =>
    let p := partOfGang s x.gang
    match (fetchBytes p x.gang 0 (ringKey s x.gang u (u.ringPut - u.ring.length - unreadIn u)) 64).run s with
    | .ok (bs, ps) s' =>
      if (ps.take 8).any id then .next (killRect (rectOf s t) s')
      else .next (s'.modTile t (fun u => { u with arrivals := u.arrivals.set i (fromPacket x (bs.zip ps)) }))
    | .error (.fault r) _ => .fault r
    | .error _ _ => .next s
  | _, _ => .next s

/-- Whether a gondola parked for a memory core waits for one parked before it (R149). -/
def behindParked (s : State) (index c : Nat) (parked : Bool) : Bool :=
  parked && (s.launch.transit.take index).any (fun x => x.parked && x.dest == .core c)

/-- MC_GONDOLA_ARRIVAL (R167): a gondola reaches a memory core's queue and wakes it; a pre-empted gang's is parked, and those
parked return in their order (R149). -/
def execMcGondolaArrival (s : State) : Host.Outcome State Fault Refusal :=
  match s.launch.transit[s.subject]? with
  | none => .next s
  | some x =>
    if !x.there then .next s
    else match x.dest with
      | .core c =>
        let g := x.gondola.gang
        let s' := dropTransit s.subject x s
        if isPreempted s g then .next (modSaved g (fun v => { v with parked := v.parked ++ [(c, x.gondola)] }) s')
        else if (s.mcore c).arrivals.length < 64 && !behindParked s s.subject c x.parked then .next (landAtCore x.gondola c s')
        else .next s
      | _ => .next s

/-! ## ALIGNH (R124, R338) -/

/-- The tile sequencers of a tile's cluster. -/
def clusterSeqs (t : Nat) : List SeqId :=
  ((List.range 4).map (fun i => [SeqId.a (t / 4 * 4 + i), SeqId.x (t / 4 * 4 + i)])).flatten

/-- Whether a sequencer is more than `n` fetch blocks ahead of one of its cluster that runs a firing of the same launch. -/
def isAhead (s : State) (q : SeqId) (n : Nat) : Bool :=
  match State.tileOf q with
  | some t => (clusterSeqs t).any (fun o =>
      o != q && (s.seq o).firing.isSome && s.gangOf o == s.gangOf q &&
        (s.seq o).pc.toNat / 32 + n < (s.seq q).pc.toNat / 32)
  | none => false

/-- Cycles after which ALIGNH's wait ends (R124). -/
def alignCycles : Nat := 256

/-- ALIGNH (R124). The wait is noted with the cycle in which it ends at the latest. -/
def alignhBody (f : F64A) : Exec Flow := do
  let s ← get
  let q := s.focus
  match (s.seq q).wait with
  | some ⟨.align, _, some _⟩ => return .fall
  | _ =>
    if isAhead s q f.imm16.toNat then
      throw (.wait .align (fun s => s.modSeq q (fun u =>
        { u with deadline := some (u.deadline.getD (s.cycleOf q + alignCycles)) })))
    return .fall

/-- ALIGNH (R124). -/
def execAlignh (f : F64A) (s : State) : Host.Outcome State Fault Refusal := issueA (.alignh f) f (alignhBody f) s

/-- ALIGNH_TIMEOUT (R124): the wait of a sequencer whose 256 cycles have passed is over. -/
def execAlignhTimeout (seq : SeqId) (s : State) : Host.Outcome State Fault Refusal :=
  let u := s.seq seq
  match u.wait, u.deadline with
  | some w, some d =>
    if w.why = .align ∧ d ≤ s.cycleOf seq then
      .next (s.modSeq seq (fun u => { u with wait := some { w with grant := some (0, false) } }))
    else .next s
  | _, _ => .next s

end Sys2Proof.Machine
end

