-- ==== Sys2Proof/Machine/Barrier.lean ====
section
/-! DEFINITION. The hardware barriers BARINIT, BARARV, BARWAIT, BARDEF and the deferred arrival (R125-R127, R342, R343). -/

namespace Sys2Proof.Machine

/-- Barrier contexts of a die (R125). -/
def barrierContexts : Nat := 128

/-- The context of a gang's barrier name on a die. -/
def isBarrier (die gang name : Nat) (b : Barrier) : Bool := b.die == die && b.gang == gang && b.name == name
def findBarrier (s : State) (die gang name : Nat) : Option Barrier := s.launch.barriers.find? (isBarrier die gang name)
def modBarrier (die gang name : Nat) (f : Barrier → Barrier) (s : State) : State :=
  s.modLaunch (fun l => { l with barriers := l.barriers.map (fun b => if isBarrier die gang name b then f b else b) })

/-- The members of a group that lie on a die, as primaries. -/
def groupOnDie (u : Gang) (g die : Nat) : List Nat :=
  (u.groups.getD g []).filterMap (fun i => (u.tiles[i]?).bind (fun t => if dieOf t = die then some t else none))

/-- The tile that stands for the issuer's in barriers: a pair's primary (R279). -/
def barrierTile : Exec Nat := do return State.primaryOf (← get) (← myTileNo)

/-- BARINIT on the issuer's die: the waiters are released with status 1, pending deferred arrivals are discarded, and the
barrier starts anew (R342). -/
def initBarrier (die gang name : Nat) (members : List Nat) (s : State) : State :=
  let old := findBarrier s die gang name
  let freed := (old.map (fun b => b.released ++ b.waiting)).getD []
  let new : Barrier := ⟨die, gang, name, members, 0, [], [], [], freed⟩
  s.modLaunch (fun l =>
    { l with
      barriers := l.barriers.filter (fun b => !isBarrier die gang name b) ++ [new]
      deferred := l.deferred.filter (fun d => !(d.gang == gang && d.name == name && dieOf d.tile == die)) })

/-- A tile's arrival: recorded in the current phase, which rises when every member has arrived; the members' sequencers are
woken then (R126, R342, R440). -/
def arrive (t : Nat) (b : Barrier) (s : State) : State :=
  let arrived := insertNat b.arrived t
  let last := b.last.set t b.phase
  if b.members.all arrived.contains then
    (b.members.flatMap (stateTiles s false)).foldl (fun s t => latchTile t 8 s)
      (modBarrier b.die b.gang b.name (fun b => { b with phase := b.phase + 1, arrived := [], last := last }) s)
  else modBarrier b.die b.gang b.name (fun b => { b with arrived := arrived, last := last }) s

/-- What a tile asks of a barrier of its die and gang takes place; an arrival in a phase in which the tile has arrived is
deferred to the next. -/
def applyBarrier (t gang : Nat) (c : BarAct) (s : State) : State :=
  match c with
  | .init name members => initBarrier (dieOf t) gang name members s
  | .arrive name =>
    match findBarrier s (dieOf t) gang name with
    | some b =>
      if b.arrived.contains t then s.modLaunch (fun l => { l with deferred := l.deferred ++ [⟨gang, t, name, []⟩] })
      else arrive t b s
    | none => s
  | .defer d => s.modLaunch (fun l => { l with deferred := l.deferred ++ [d] })

/-- The barrier that an act concerns. -/
def BarAct.name : BarAct → Nat
  | .init n _ => n
  | .arrive n => n
  | .defer d => d.name

/-- Whether a pair holds back an act on a barrier, behind which later accesses to it wait (R280; log 15). -/
def barrierHeld (s : State) (t name : Nat) : Bool :=
  (s.pair t).held.any (fun h =>
    match h with
    | .barrier _ c => c.name == name
    | _ => false)

/-- An act on a barrier: at once, or held back by a pair until its boundary agrees (R280; log 15). -/
def askBarrier (t gang : Nat) (c : BarAct) : Exec Unit := do
  if (← myTwin) == .alone then modify (applyBarrier t gang c) else holdBack (.barrier gang c)

/-- Contexts of a die that are in use: those of a gang whose state is saved are in its save area (R147). -/
def contextsUsed (s : State) (die : Nat) : Nat :=
  (s.launch.barriers.filter (fun b => b.die == die &&
    !(((s.gang? b.gang).bind (·.saved)).map (·.complete)).getD false)).length

/-- BARINIT (R342). -/
def barinitBody (f : F64A) : Exec Flow := do
  let g := (← useX f.a.toNat).toNat
  let name := f.imm16.toNat
  let t ← barrierTile
  let s ← get
  let gang := s.gangOf s.focus
  match s.gang? gang with
  | none => trap 0x0B 0
  | some u =>
    check (g < u.groups.length && ((groupsOf s u t).getD []).contains g) 0x0B 0
    unlessTwin (do
      let s ← get
      waitUntil (!barrierHeld s t name) .barrier
      waitUntil ((findBarrier s (dieOf t) gang name).isSome || contextsUsed s (dieOf t) < barrierContexts) .limit
      askBarrier t gang (.init name (groupOnDie u g (dieOf t))))
    return .fall

/-- BARINIT (R342). -/
def execBarinit (f : F64A) (s : State) : Host.Outcome State Fault Refusal := issueA (.barinit f) f (barinitBody f) s

/-- The issuing tile's barrier of a name; 0x0B when it is not initialised or the tile is no member (R342). -/
def myBarrier (name : Nat) : Exec Barrier := do
  let t ← barrierTile
  let s ← get
  waitUntil (!barrierHeld s t name) .barrier
  match findBarrier s (dieOf t) (s.gangOf s.focus) name with
  | some b =>
    check (b.members.contains t) 0x0B 0
    return b
  | none => trap 0x0B 0

/-- The release at DIE scope of an arrival in the current phase of a barrier (R342). -/
def releaseDie (b : Barrier) : Exec Unit := do
  forkWait
  modify (fun s => releasesOn (phaseObject b.die b.gang b.name b.phase) s.focus 4 s)

/-- BARARV (R342): a release of the agent's earlier accesses; a second arrival in one phase waits for the next. -/
def bararvBody (f : F64A) : Exec Flow := do
  unlessTwin (do
    let b ← myBarrier f.imm16.toNat
    let t ← barrierTile
    waitUntil (!b.arrived.contains t) .barrier
    releaseDie b
    askBarrier t b.gang (.arrive b.name))
  return .fall

/-- BARARV (R342). -/
def execBararv (f : F64A) (s : State) : Host.Outcome State Fault Refusal := issueA (.bararv f) f (bararvBody f) s

/-- Whether an engine command has landed: its engine holds it no more, or all its bytes are written. -/
def landed (s : State) (t : Nat) (c : Nat × Nat) : Bool :=
  match (s.engine t c.1).cmds.find? (fun x => x.number == c.2) with
  | some x => x.landed
  | none => true

/-- BARDEF (R127, R342): the arrival is bound to the commands that the firing began; with all of them landed, and no arrival of the tile in
the phase, it takes place at once. -/
def bardefBody (f : F64A) : Exec Flow := do
  unlessTwin (do
    let b ← myBarrier f.imm16.toNat
    let t ← barrierTile
    forkWait
    let q ← mySeq
    let begun := (q.firing.map (·.begun)).getD []
    modify (fun s => defers b.gang t b.name begun s.focus s)
    let s ← get
    if begun.all (landed s t) && !b.arrived.contains t then
      modify (defersDone b.gang t b.name b.phase begun)
      askBarrier t b.gang (.arrive b.name)
    else askBarrier t b.gang (.defer ⟨b.gang, t, b.name, begun⟩))
  return .fall

/-- BARDEF (R342). -/
def execBardef (f : F64A) (s : State) : Host.Outcome State Fault Refusal := issueA (.bardef f) f (bardefBody f) s

/-- A waiting BARWAIT stands in the barrier's list, from which BARINIT releases it. -/
def registerWait (b : Barrier) (s : State) : State :=
  modBarrier b.die b.gang b.name (fun b => if b.waiting.contains s.focus then b else { b with waiting := b.waiting ++ [s.focus] }) s

/-- The answer of BARWAIT: 1 when BARINIT released it, 2 when the tile has not arrived since the barrier was initialised, 0
once the phase of its last arrival is over (R342). -/
def barwaitAnswer (name : Nat) : Exec Word := do
  let t ← barrierTile
  let s ← get
  let q := s.focus
  let gang := s.gangOf q
  waitUntil (!barrierHeld s t name) .barrier
  let leave := modBarrier (dieOf t) gang name (fun b =>
    { b with waiting := b.waiting.filter (· != q), released := b.released.filter (· != q) })
  match findBarrier s (dieOf t) gang name with
  | some b =>
    if b.released.contains q then
      modify leave
      return 1
    else
      check (b.members.contains t) 0x0B 0
      match b.last.find? (fun e => e.1 == t) with
      | none => return 2
      | some e =>
        if e.2 < b.phase then
          modify (fun s => acquiresOn (phaseObject b.die b.gang b.name e.2) q 4 (leave s))
          return 0
        else throw (.wait .barrier (registerWait b))
  | none => trap 0x0B 0

/-- BARWAIT (R342). -/
def barwaitBody (f : F64A) : Exec Flow := do
  queueWaits [⟨f.d.toNat, 0, true, false⟩]
  putDest f.d.toNat 0 (← echoed1 (barwaitAnswer f.imm16.toNat)) false
  return .fall

/-- BARWAIT (R342). -/
def execBarwait (f : F64A) (s : State) : Host.Outcome State Fault Refusal := issueA (.barwait f) f (barwaitBody f) s

/-! ## The deferred arrival -/

/-- The deferred arrivals of a gang. -/
def deferredOf (s : State) (gang : Nat) : List Deferred := s.launch.deferred.filter (fun d => d.gang == gang)

/-- Whether a deferred arrival can be performed: its gang runs, its commands have landed and its tile has not arrived in the
phase. -/
def deferredReady (s : State) (d : Deferred) : Bool :=
  gangRuns s d.gang && d.cmds.all (landed s d.tile) &&
    (match findBarrier s (dieOf d.tile) d.gang d.name with
     | some b => !b.arrived.contains d.tile
     | none => false)

/-- The list without its first element equal to `d`. -/
def dropFirst (d : Deferred) : List Deferred → List Deferred
  | [] => []
  | e :: l => if e = d then l else e :: dropFirst d l

/-- Performs a deferred arrival, whose release covers every write of its commands (R127, R342, R343). -/
def performDeferred (d : Deferred) (s : State) : State :=
  match findBarrier s (dieOf d.tile) d.gang d.name with
  | some b => (arrive d.tile b (defersDone d.gang d.tile d.name b.phase d.cmds s)).modLaunch (fun l => { l with deferred := dropFirst d l.deferred })
  | none => s

/-- DEFERRED_ARRIVAL (R127): the `index`-th of a gang's deferred arrivals. -/
def execDeferredArrival (gang index : Nat) (s : State) : Host.Outcome State Fault Refusal :=
  match (deferredOf s gang)[index]? with
  | some d => .next (if deferredReady s d then performDeferred d s else s)
  | none => .next s

end Sys2Proof.Machine
end

