-- ==== Sys2Proof/Machine/Tags.lean ====
section
/-! DEFINITION. The tag table TLOOK, TINS, TEVICT (R161, R162, R421, R422), the semaphores SEMWAIT, SEMSIG (R222, R413), and
STRBIND (R163, R418). -/

namespace Sys2Proof.Machine

/-! ## The tag table -/

/-- CheckForm: a canonical form 0b00 address (R421). -/
def checkTagForm (a : Word) : Exec Unit := check (formOf a = 0 && formOk a) 0x04 a

def tagOf (a : Word) : BitVec 44 := a.extractLsb' 10 44

/-- A slot as a register value modulo 512. -/
def tagSlot (v : Word) : Nat := v.toNat % 512

/-- The slot that holds a tag. -/
def findTag (tags : Assoc (BitVec 44)) (tag : BitVec 44) : Option Nat := (tags.find? (fun e => e.2 == tag)).map (·.1)

/-- The slot's tag as an address, or -1. -/
def tagAddress (tags : Assoc (BitVec 44)) (slot : Nat) : Word :=
  match tags.find? (fun e => e.1 == slot) with
  | some e => e.2.setWidth 64 <<< 10
  | none => BitVec.allOnes 64

/-- TLOOK (R162). -/
def tlookBody (f : F64A) : Exec Flow := do
  queueWaits [⟨f.d.toNat, 0, true, false⟩]
  let a ← useX f.a.toNat
  checkTagForm a
  let u ← myTile
  putDest f.d.toNat 0 (match findTag u.tags (tagOf a) with
    | some s => BitVec.ofNat 64 s
    | none => BitVec.allOnes 64) false
  return .fall

/-- TLOOK (R421). -/
def execTlook (f : F64A) (s : State) : Host.Outcome State Fault Refusal := issueA (.tlook f) f (tlookBody f) s

/-- TINS (R162): the tag leaves whichever slot holds it before the slot is read. -/
def tinsBody (f : F64A) : Exec Flow := do
  queueWaits [⟨f.b.toNat, 0, false, false⟩, ⟨f.d.toNat, 0, true, false⟩]
  let a ← useX f.a.toNat
  let b ← useSource 3 f.b.toNat f.imm16 0
  checkTagForm a
  let u ← myTile
  let tags := u.tags.filter (fun e => e.2 != tagOf a)
  modMyTile (fun u => { u with tags := Assoc.set tags (tagSlot b) (tagOf a) })
  putDest f.d.toNat 0 (tagAddress tags (tagSlot b)) false
  return .fall

/-- TINS (R421). -/
def execTins (f : F64A) (s : State) : Host.Outcome State Fault Refusal := issueA (.tins f) f (tinsBody f) s

/-- TEVICT (R162). -/
def tevictBody (f : F64A) : Exec Flow := do
  queueWaits [⟨f.a.toNat, 0, false, false⟩, ⟨f.d.toNat, 0, true, false⟩]
  let a ← useSource 3 f.a.toNat f.imm16 0
  let u ← myTile
  modMyTile (fun u => { u with tags := Assoc.erase u.tags (tagSlot a) })
  putDest f.d.toNat 0 (tagAddress u.tags (tagSlot a)) false
  return .fall

/-- TEVICT (R421). -/
def execTevict (f : F64A) (s : State) : Host.Outcome State Fault Refusal := issueA (.tevict f) f (tevictBody f) s

/-! ## Semaphores -/

def Tile.sem (u : Tile) (n : Nat) : Byte := u.sems.getD n 0
def setSem (n : Nat) (v : Byte) (u : Tile) : Tile := { u with sems := u.sems.setIfInBounds n v }

/-- Adds one to a semaphore of a tile, which wakes its sequencers (R440). -/
def semIncrement (t n : Nat) (s : State) : State := latchTile t 4 (s.modTile t (fun u => setSem n (u.sem n + 1) u))

/-- The release at TILE scope on a semaphore: the issuer's requests are acknowledged; what a pair holds back is seen by its own tile
(R222, R280). -/
def releaseTile (n : Nat) : Exec Unit := do
  let s ← get
  waitUntil (outstanding s s.focus = 0) .outstanding
  let t := s.primaryOf ((State.tileOf s.focus).getD 0)
  modify (fun s => releasesOn (semObject t n) s.focus 1 s)

/-- SEMSIG (R222). -/
def semsigBody (f : F64A) : Exec Flow := do
  let n := f.imm16.toNat
  let u ← myTile
  waitUntil ((u.sem n).toNat < 255) .sem
  releaseTile n
  let t ← myTileNo
  modify (semIncrement t n)
  return .fall

/-- SEMSIG (R413). -/
def execSemsig (f : F64A) (s : State) : Host.Outcome State Fault Refusal := issueA (.semsig f) f (semsigBody f) s

/-- SEMWAIT (R222). -/
def semwaitBody (f : F64A) : Exec Flow := do
  let n := f.imm16.toNat
  let u ← myTile
  waitUntil (0 < (u.sem n).toNat) .sem
  modMyTile (fun u => setSem n (u.sem n - 1) u)
  modify (fun s => acquiresOn (semObject (s.primaryOf ((State.tileOf s.focus).getD 0)) n) s.focus 1 s)
  return .fall

/-- SEMWAIT (R413). -/
def execSemwait (f : F64A) (s : State) : Host.Outcome State Fault Refusal := issueA (.semwait f) f (semwaitBody f) s

/-! ## STRBIND -/

/-- STRBIND (R163, R418): type and remaining count are replaced, bytes in the FIFO stay. -/
def strbindBody (f : F64A) : Exec Flow := do
  let n := (← useSource 3 f.b.toNat f.imm16 0).toNat
  check (1 ≤ n && n ≤ 65535) 0x01 0
  modMe (fun q =>
    let i := f.a.toNat - 48
    let d := q.sds.getD i Stream.reset
    { q with sds := q.sds.setIfInBounds i { d with bound := true, ty := f.ty, left := n } })
  return .fall

/-- STRBIND (R418). -/
def execStrbind (f : F64A) (s : State) : Host.Outcome State Fault Refusal := issueA (.strbind f) f (strbindBody f) s

end Sys2Proof.Machine
end

