-- ==== Sys2Proof/Machine/Matrix.lean ====
section
/-! DEFINITION. The matrix unit: operand-memory slots, tensor entries and their duplication maps, MMA with its k-steps,
accumulator moves, and the current narrow format (R84-R92, R164, R210-R221, R271, R322-R324, R334, R391, R393, R397, R420,
R423, R426). -/

namespace Sys2Proof.Machine

/-! ## Tensor entries (R214) -/

namespace Tensor

def base (e : Tensor) : Word := e[0]
def kind (e : Tensor) : Nat := (e[1].extractLsb' 0 8).toNat
def ty (e : Tensor) : Nat := (e[1].extractLsb' 8 8).toNat
def layout (e : Tensor) : Nat := (e[1].extractLsb' 16 4).toNat
def fmt (e : Tensor) : BitVec 32 := e[1].extractLsb' 32 32
def rows (e : Tensor) : Nat := (e[2].extractLsb' 0 32).toNat
def columns (e : Tensor) : Nat := (e[2].extractLsb' 32 32).toNat
def stride (e : Tensor) : Nat := e[3].toNat
def scaleBase (e : Tensor) : Word := e[4]
def scale (e : Tensor) : Nat := (e[5].extractLsb' 0 32).toNat
def map (e : Tensor) : Word := e[6]
def slot (e : Tensor) : Nat := (e[0].extractLsb' 0 5).toNat

/-- Bits of an element. -/
def width (e : Tensor) : Nat := if e.ty = 12 then (Nf.ofWord e.fmt).width else tyWidth e.ty

/-- Whether elements take a nibble each; else bytes of an element. -/
def nibbles (e : Tensor) : Bool := e.ty = 12 && e.width ≤ 4
def size (e : Tensor) : Nat := if e.ty = 12 then 1 else e.width / 8

end Tensor

def absentTensor : Tensor := Vector.replicate 8 0

def Tile.tensor (u : Tile) (n : Nat) : Tensor := u.tensors.get absentTensor n

/-- The class of a type that MMA takes: 4 for nf of at most 4 bits, 8 for other narrow and 8-bit integers, 16, 32, 64 (R210). -/
def typeClass (e : Tensor) : Option Nat :=
  match e.ty with
  | 0 => some 8
  | 4 => some 8
  | 8 => some 16
  | 9 => some 16
  | 10 => some 32
  | 11 => some 64
  | 12 => some (if e.width ≤ 4 then 4 else 8)
  | _ => none

/-- The mode of a pairing (R210). -/
def modeOf (a b : Tensor) : Option MmaMode :=
  match typeClass a, typeClass b with
  | some 4, some 4 => some .four
  | some 4, some 8 => some .eight
  | some 8, some 4 => some .eight
  | some 8, some 8 => some .eight
  | some 16, some 16 => some .sixteen
  | some 32, some 32 => some .fp32
  | some 64, some 64 => some .fp64
  | _, _ => none

/-- Positions of a k-step (R210). -/
def kstepOf : MmaMode → Nat
  | .four => 128
  | .eight => 64
  | .sixteen => 16
  | .fp32 => 4
  | .fp64 => 1

/-- Rows of A's strip (R215). -/
def stripRows : MmaMode → Nat
  | .fp64 => 32
  | _ => 64

/-- Whether a mode applies block scales (R89, R211). -/
def scaled : MmaMode → Bool
  | .four => true
  | .eight => true
  | _ => false

/-- The modes that an entry's type allows. -/
def modesOf (e : Tensor) : List MmaMode :=
  match typeClass e with
  | some 4 => [.four, .eight]
  | some 8 => [.eight]
  | some 16 => [.sixteen]
  | some 32 => [.fp32]
  | some 64 => [.fp64]
  | _ => []

/-- Whether an entry has the geometry of A's or of B's slot tile in a mode (R214). -/
def slotShapeA (e : Tensor) (m : MmaMode) : Bool := e.rows = stripRows m && e.columns = kstepOf m
def slotShapeB (e : Tensor) (m : MmaMode) : Bool := e.rows = kstepOf m && e.columns = 64

/-- Whether an image that is not absent keeps R214, as TDEF and the launch unit check it (R322). -/
def tensorOk (e : Tensor) : Bool :=
  e.kind ≤ 3 && e.ty ≤ 12 && (e[1].extractLsb' 20 12) == 0 && (if e.ty = 12 then nfValid e.fmt else e.fmt == 0) &&
    1 ≤ e.rows && e.rows ≤ 2 ^ 20 && 1 ≤ e.columns && e.columns ≤ 2 ^ 20 && e.stride % 8 = 0 &&
    (e[5].extractLsb' 32 32) == 0 && e[7] == 0 && (e.map == 0 || formOf e.map = 1) &&
    (e.kind ≠ 3 || (modesOf e).any (fun m => slotShapeA e m || slotShapeB e m))

/-! ## Operand-memory slots (R212, R397) -/

def claimed (u : Tile) (slot : Nat) : Bool := u.claims.getLsbD slot

/-- OMCLAIM (R212). -/
def omclaimBody (f : F64A) : Exec Flow := do
  let u ← myTile
  let d := f.d.toNat
  let take := fun (n : Nat) => modMyTile (fun u => { u with claims := u.claims ||| (1#32 <<< n) })
  if f.imm16.getLsbD 5 then
    match (List.range 32).find? (fun n => !claimed u n) with
    | none => putX d (BitVec.allOnes 64) false
    | some n =>
      take n
      putX d (BitVec.ofNat 64 n) false
  else
    let n := f.imm16.toNat
    if claimed u n then putX d 1 false
    else
      take n
      putX d 0 false
  return .fall

/-- OMCLAIM (R397). -/
def execOmclaim (f : F64A) (s : State) : Host.Outcome State Fault Refusal := issueA (.omclaim f) f (omclaimBody f) s

/-- The slots that an MMA names: those of the slot form, and those of entries of kind 3; pairs in the 4-bit mode. -/
def Mma.slots (m : Mma) : List Nat :=
  let both := fun n => if m.mode = .four then [n, n + 1] else [n]
  if m.slotForm then both m.aslot ++ both m.bslot
  else (if m.ea.kind = 3 then both m.ea.slot else []) ++ (if m.eb.kind = 3 then both m.eb.slot else [])

/-- OMREL waits until no incomplete MMA names the slot (R212, R397). -/
def omrelBody (f : F64A) : Exec Flow := do
  let n := f.imm16.toNat
  let u ← myTile
  waitUntil (!u.matrix.any (fun m => m.slots.contains n)) .matrix
  modMyTile (fun u => { u with claims := u.claims &&& ~~~(1#32 <<< n) })
  return .fall

/-- OMREL (R397). -/
def execOmrel (f : F64A) (s : State) : Host.Outcome State Fault Refusal := issueA (.omrel f) f (omrelBody f) s

/-! ## TDEF, TDUP, TQRY, TFMT -/

/-- Whether an incomplete MMA names a tensor. -/
def namesTensor (u : Tile) (n : Nat) : Bool := u.matrix.any (fun m => m.tida == n || m.tidb == n)

/-- Words of the tile's own scratchpad; a poisoned word is consumed. -/
def ownWords (a : Word) (off n : Nat) : Exec (List Word) := do
  let t ← myTileNo
  (List.range n).mapM (fun i => do
    let bs ← takeScratch t (off + 8 * i) 8
    if bs.poisoned then consumed (a + BitVec.ofNat 64 (8 * i))
    return BitVec.ofNat 64 (ofBytes bs.bytes))

/-- Installs an entry, or none for an absent image, and detaches the maps that name it (R322). -/
def setTensor (n : Nat) (e : Tensor) (u : Tile) : Tile :=
  { u with
    tensors := if e.kind = 0 then Assoc.erase u.tensors n else Assoc.set u.tensors n e
    attached := u.attached.filter (fun x => x.1 != n && x.2.1 != n) }

/-- TDEF (R322): a pair closes the interval first (R420). -/
def tdefBody (f : F128C) : Exec Flow := do
  closeBefore
  let a ← useX f.a.toNat
  let s ← get
  let t ← myTileNo
  check (formOf a = 1 && formOk a && mirrored s s.focus (gtileOf s a) == t) 0x04 a
  check (offsetOf a + 64 ≤ 2 ^ 20) 0x04 a
  check (a.toNat % 64 = 0) 0x0A a
  let ws ← ownWords a (offsetOf a) 8
  let e : Tensor := Vector.ofFn (fun i : Fin 8 => ws.getD i.val 0)
  let n := f.sub8.toNat
  check (e.kind = 0 || tensorOk e) 0x16 (BitVec.ofNat 64 n)
  waitUntil (!namesTensor (← myTile) n) .matrix
  modMyTile (setTensor n e)
  return .fall

/-- TDEF (R322). -/
def execTdef (f : F128C) (s : State) : Host.Outcome State Fault Refusal := issueC (.tdef f) f (tdefBody f) s

/-- Attachments a tile holds (R323). -/
def attachLimit : Nat := 16

/-- The address of the first poisoned word of bytes read at an address. -/
def poisonedWord (a : Word) (bs : Marked) : Option Word :=
  ((List.range bs.length).find? (fun i => (bs.getD i (0, false)).2)).map (fun i => BitVec.ofNat 64 ((a.toNat + i) / 8 * 8))

/-- Bytes of a map, of u16 fields, at a scratchpad-form address, under R156 and R99; poison is consumed. -/
def mapBytes (a : Word) (n : Nat) : Exec (List Byte) := do
  checkAddress a n 2
  let s ← get
  let bs ← takeScratch (mirrored s s.focus (gtileOf s a)) (offsetOf a) n
  match poisonedWord a bs with
  | some w => consumed w
  | none => return bs.bytes

/-- The channels of a map after its count. -/
def mapChannels (bs : List Byte) (n : Nat) : List Nat := (List.range n).map (fun j => ofBytes ((bs.drop (2 + 2 * j)).take 2))

def rising : List Nat → Bool
  | a :: b :: l => a < b && rising (b :: l)
  | _ => true

/-- TDUP (R91, R323). -/
def tdupBody (f : F128C) : Exec Flow := do
  closeBefore
  let u ← myTile
  let ta := f.sub8.toNat
  let tb := (f.flags18.extractLsb' 0 8).toNat
  let ea := u.tensor ta
  let eb := u.tensor tb
  let bad : Word := BitVec.ofNat 64 ta
  check (ea.kind ≠ 0) 0x16 bad
  check (eb.kind ≠ 0) 0x16 (BitVec.ofNat 64 tb)
  waitUntil (!namesTensor u ta && !namesTensor u tb) .matrix
  let others := u.attached.filter (fun x => !(x.1 == ta && x.2.1 == tb))
  if ea.map = 0 then modMyTile (fun u => { u with attached := others })
  else
    let n := ofBytes (← mapBytes ea.map 2)
    let cs := mapChannels (← mapBytes ea.map (2 + 2 * n)) n
    check (n ≤ 48 && rising cs && cs.all (fun c => c < ea.columns) && others.length < attachLimit) 0x16 bad
    modMyTile (fun u => { u with attached := others ++ [(ta, tb, cs)] })
  return .fall

/-- TDUP (R323). -/
def execTdup (f : F128C) (s : State) : Host.Outcome State Fault Refusal := issueC (.tdup f) f (tdupBody f) s

/-- TQRY (R426). -/
def tqryBody (f : F64A) : Exec Flow := do
  queueWaits [⟨f.d.toNat, 0, true, false⟩]
  let e := (← myTile).tensor (f.imm16.toNat % 256)
  putDest f.d.toNat 0 (e.getD (f.imm16.toNat / 256 % 8) 0) false
  return .fall

/-- TQRY (R426). -/
def execTqry (f : F64A) (s : State) : Host.Outcome State Fault Refusal := issueA (.tqry f) f (tqryBody f) s

/-- TFMT (R423). -/
def tfmtBody (i : Instr) (f : F64A) : Exec Flow := do
  let v ← useX f.a.toNat
  check ((v.extractLsb' 32 32) == 0 && nfValid (v.extractLsb' 0 32)) 0x01 (lowBits i)
  let old := (← myTile).fmt
  modMyTile (fun u => { u with fmt := v.extractLsb' 0 32 })
  putX f.d.toNat (old.setWidth 64) false
  return .fall

/-- TFMT (R423). -/
def execTfmt (f : F64A) (s : State) : Host.Outcome State Fault Refusal := issueA (.tfmt f) f (tfmtBody (.tfmt f) f) s

/-! ## Accumulators (R221, R334) -/

/-- The exact product of two values. A zero product has the sign that the signs of its factors give, also where an element is an exact
integer, of which R89 does not say what sign a zero product has (DESIGN CHOICE, log 37). -/
def mulExact (a b : FVal) : FVal :=
  match a, b with
  | .nan s, _ => .nan s
  | _, .nan s => .nan s
  | .inf n, .inf m => .inf (n != m)
  | .inf n, .fin m k _ => if k = 0 then .nan false else .inf (n != m)
  | .fin m k _, .inf n => if k = 0 then .nan false else .inf (n != m)
  | .fin n k e, .fin m l d => .fin (n != m) (k * l) (e + d)

/-- Whether an accumulator is tagged FP64. -/
def isFp64 (u : Tile) (acc : Nat) : Bool := u.accTag.getLsbD acc
def setAccTag (acc : Nat) (v : Bool) (u : Tile) : Tile :=
  { u with accTag := if v then u.accTag ||| (1#4 <<< acc) else u.accTag &&& ~~~(1#4 <<< acc) }

/-- Bytes of an accumulator. -/
def accBytes : Nat := 16384

/-- Waits until every MMA on an accumulator is complete. -/
def waitAcc (acc : Nat) : Exec Unit := do
  let u ← myTile
  waitUntil (!u.matrix.any (fun m => m.acc == acc)) .matrix

/-- ACCZ (R221). -/
def acczBody (f : F64A) : Exec Flow := do
  let acc := f.imm16.toNat % 4
  waitAcc acc
  let t ← myTileNo
  modify (fun s => s.modMem (fun m => m.clear (accKey t acc 0) (accKey t acc accBytes)))
  modMyTile (setAccTag acc (f.imm16.getLsbD 2))
  return .fall

/-- ACCZ (R221). -/
def execAccz (f : F64A) (s : State) : Host.Outcome State Fault Refusal := issueA (.accz f) f (acczBody f) s

/-- CheckScratch of 16 KiB, aligned to 64 (R221): the tile and offset. -/
def accScratch (a : Word) : Exec (Nat × Nat) := do
  check (formOf a = 1) 0x04 a
  checkAddress a accBytes 64
  let s ← get
  return (mirrored s s.focus (gtileOf s a), offsetOf a)

/-- ACCWR (R221, R334). -/
def accwrBody (f : F64A) : Exec Flow := do
  let acc := f.imm16.toNat % 4
  let a ← useX f.a.toNat
  waitAcc acc
  let (g, off) ← accScratch a
  let bs ← takeScratch g off accBytes
  match poisonedWord a bs with
  | some w => consumed w
  | none => pure ()
  let t ← myTileNo
  modify (fun s => s.modMem (fun m => m.setBytes (accKey t acc 0) bs.bytes))
  modMyTile (setAccTag acc (f.imm16.getLsbD 2))
  return .fall

/-- ACCWR (R221). -/
def execAccwr (f : F64A) (s : State) : Host.Outcome State Fault Refusal := issueA (.accwr f) f (accwrBody f) s

/-- Element (i, j) of an accumulator (R221). -/
def accElement (s : State) (t acc i j : Nat) : FVal :=
  if isFp64 (s.tile t) acc then f64.decode (ofBytes (s.mem.bytes (accKey t acc (512 * i + 8 * j)) 8))
  else f32.decode (ofBytes (s.mem.bytes (accKey t acc (256 * i + 4 * j)) 4))

/-- Stores one element of a result tensor, each address checked under R156; a nibble leaves its neighbour (R221). -/
def storeElement (e : Tensor) (r c : Nat) (v : FVal) : Exec Unit := do
  let s ← get
  let nf := Nf.ofWord e.fmt
  let off := r * e.stride + (if e.nibbles then c / 2 else c * e.size)
  let a := e.base + BitVec.ofNat 64 off
  let size := if e.nibbles then 1 else e.size
  check (formOf a = 1) 0x04 a
  checkAddress a size size
  let g := mirrored s s.focus (gtileOf s a)
  if e.ty = 12 then
    let bits := (nf.ofVal v).bits
    if e.nibbles then
      let old := ofBytes (← takeScratch g (offsetOf a) 1).bytes
      let new := if c % 2 = 0 then old / 16 * 16 + bits % 16 else old % 16 + bits % 16 * 16
      putScratch g (offsetOf a) (marked (toBytes 1 new) false)
    else putScratch g (offsetOf a) (marked (toBytes 1 bits) false)
  else putScratch g (offsetOf a) (marked (toBytes e.size ((fmtOf e.ty).ofVal .rne v).bits) false)

/-- Runs an action whose trap leaves the effects before it in place. -/
def keeping (act : Exec Unit) : Exec Unit := fun s =>
  match act s with
  | .error (.trap code tval none) _ => .error (.after code tval (fun _ => s)) s
  | r => r

/-- ACCRD (R88, R221, R334). -/
def accrdBody (f : F64A) : Exec Flow := do
  let acc := f.imm16.toNat % 4
  let a ← useX f.a.toNat
  waitAcc acc
  let t ← myTileNo
  let s ← get
  if f.imm16.getLsbD 10 then
    let (g, off) ← accScratch a
    putScratch g off (marked (s.mem.bytes (accKey t acc 0) accBytes) false)
  else
    let n := f.imm16.toNat / 4 % 256
    let e := (s.tile t).tensor n
    let r := a.toNat % 2 ^ 20
    let c := a.toNat / 2 ^ 20 % 2 ^ 20
    check (e.kind = 2 && 8 ≤ e.ty && r < e.rows && c < e.columns && a.toNat / 2 ^ 40 = 0) 0x16 (BitVec.ofNat 64 n)
    check (formOf e.base ≠ 1 || mayReach s s.focus (gtileOf s e.base)) 0x0B e.base
    let scale := f32.decode e.scale
    for i in List.range (if isFp64 (s.tile t) acc then 32 else 64) do
      for j in List.range 64 do
        if r + i < e.rows && c + j < e.columns then
          keeping (storeElement e (r + i) (c + j) (mulExact (accElement s t acc i j) scale))
  return .fall

/-- ACCRD (R221). -/
def execAccrd (f : F64A) (s : State) : Host.Outcome State Fault Refusal := issueA (.accrd f) f (accrdBody f) s

/-! ## MMA: issue (R216, R217, R391) -/

/-- The channels that TDUP has attached to a pair. -/
def attachedTo (u : Tile) (ta tb : Nat) : List Nat :=
  ((u.attached.find? (fun x => x.1 == ta && x.2.1 == tb)).map (·.2.2)).getD []

/-- Whether kind-3 entries keep R214 in a mode: exact slot geometry, and a second slot in the 4-bit mode. -/
def slotsOk (ea eb : Tensor) (m : MmaMode) : Bool :=
  let last := if m = .four then 30 else 31
  (ea.kind ≠ 3 || (slotShapeA ea m && ea.slot ≤ last)) && (eb.kind ≠ 3 || (slotShapeB eb m && eb.slot ≤ last))

/-- MMA (R217): checked, then enqueued while the matrix queue holds fewer than two. The whole registers xA and xB are compared
with the rows and columns, and a kind 2 base that is not of form 0b01 passes the group check (R216, log 43). -/
def mmaBody (i : Instr) (f : F96E) : Exec Flow := do
  let s ← get
  let u ← myTile
  let ta := f.tida.toNat
  let tb := f.tidb.toNat
  let slotForm := f.aux32.getLsbD 16
  let bslot := (f.aux32.extractLsb' 11 5).toNat
  let aslot := (f.aux32.extractLsb' 6 5).toNat
  let acc := (f.aux32.extractLsb' 0 2).toNat
  let a0 ← if slotForm then pure 0 else useX f.a.toNat
  let b0 ← if slotForm then pure 0 else useX f.b.toNat
  let ea := u.tensor ta
  let eb := u.tensor tb
  let bad : Word := BitVec.ofNat 64 ta
  check (ea.kind ≠ 0) 0x16 bad
  check (eb.kind ≠ 0) 0x16 (BitVec.ofNat 64 tb)
  match modeOf ea eb with
  | none => trap 0x16 bad
  | some mode =>
    check (mode ≠ .four || accepted s (s.partOf s.focus) 4) 0x16 bad
    check (isFp64 u acc = (mode = .fp64)) 0x01 (lowBits i)
    let cs := if slotForm then [] else attachedTo u ta tb
    let steps := if slotForm then (if mode = .fp64 then 2 else 1)
      else (ea.columns + cs.length + kstepOf mode - 1) / kstepOf mode
    let m : Mma := ⟨s.gangOf s.focus, mode, slotForm, ta, tb, ea, eb, a0.toNat, b0.toNat, aslot, bslot, acc,
      if f.aux32.getLsbD 2 then some (f.aux32.extractLsb' 3 3).toNat else none, steps, 0, cs, [], 0, false, none⟩
    if slotForm then
      check (mode ≠ .four || (aslot ≠ 31 && bslot ≠ 31)) 0x01 (lowBits i)
      match m.slots.find? (fun n => !claimed u n) with
      | some n => trap 0x0F (BitVec.ofNat 64 n)
      | none => pure ()
    else
      check (a0.toNat < ea.rows && a0.toNat % stripRows mode = 0 && b0.toNat < eb.columns && b0.toNat % 64 = 0 &&
        ea.columns = eb.rows && slotsOk ea eb mode) 0x16 bad
      if ea.kind = 2 && formOf ea.base = 1 then check (mayReach s s.focus (gtileOf s ea.base)) 0x0B ea.base
      if eb.kind = 2 && formOf eb.base = 1 then check (mayReach s s.focus (gtileOf s eb.base)) 0x0B eb.base
    waitUntil (u.matrix.length < 2) .matrix
    release
    modMyTile (fun u => { u with matrix := u.matrix ++ [m], kstep := if u.matrix.isEmpty then s.time else u.kstep })
    takeIn (encode i ++ toBytes 8 a0.toNat ++ toBytes 8 b0.toNat)
    return .fall

/-- MMA (R391). -/
def execMma (f : F96E) (s : State) : Host.Outcome State Fault Refusal := issueE (.mma f) f (mmaBody (.mma f) f) s

/-! ## MMA: the k-step (R89, R92, R211, R214, R215, R217-R220) -/

/-- The value of an operand pattern of an entry's type. -/
def operandValue (e : Tensor) (bits : Nat) : FVal :=
  if e.ty < 8 then
    let v := intOf e.ty bits
    .fin (decide (v < 0)) v.natAbs 0
  else if e.ty < 12 then (fmtOf e.ty).decode bits
  else (Nf.ofWord e.fmt).decode (bits % 2 ^ e.width)

/-- A fault of an operand fetch: its first byte's address, and whether it is a miss of the TLB. -/
structure MatFault where
  addr : Word
  miss : Bool
  deriving DecidableEq, Repr

/-- What ends a fetch of the matrix unit: a fault of R218, or poison consumed at an address. -/
inductive MatStop where
  | fault (f : MatFault)
  | poison (a : Word)
  deriving DecidableEq, Repr

/-- A fetch of the matrix unit. -/
abbrev Fetch := ExceptT MatStop Exec

def matFault {α : Type} (a : Word) (miss : Bool) : Fetch α := throw (.fault ⟨a, miss⟩)

/-- Bytes at a key that stand at an address, 0 for a slot's, with consumed poison (R217); read as block scales, an uncorrectable
word is of class S4 (R273). -/
def cleanBytes (scale : Bool) (a : Word) (entry : BitVec 32) (key n : Nat) : Fetch (List Byte) := do
  let s ← get
  if isExternal key && !installed key then (throw (Stop.fault .absentMemory) : Exec Unit)
  if fencedKey s key && State.tileOf s.focus != some (tileOfKey key) then throw (.poison (BitVec.ofNat 64 (a.toNat / 8 * 8)))
  let d := readDecoded s.mem s.free entry key n
  let d := if scale then { d with classes := d.classes.map (fun c => if c = 3 then 4 else c) } else d
  set (afterFindings (s.partOf s.focus) (s.gangOf s.focus) d s)
  if d.poison.any id then throw (.poison (BitVec.ofNat 64 (a.toNat / 8 * 8))) else return d.bytes

/-- The bytes that a twin's fetch from job memory receives: those its primary has fetched (R215). -/
def stagedBytes (fetch : Fetch (List Byte)) : Fetch (List Byte) := do
  let t ← (myTileNo : Exec Nat)
  let s ← get
  match (s.tile t).twin with
  | .alone => fetch
  | .primary =>
    let bs ← fetch
    modify (fun s => s.modTile (t + 1) (fun u => { u with staged := u.staged ++ [bs] }))
    return bs
  | .twin => match (s.tile t).staged with
    | bs :: rest =>
      modify (fun s => s.modTile t (fun u => { u with staged := rest }))
      return bs
    | [] => return []

/-- Bytes of job virtual memory within one page, whose leaf must carry a layout code (R214, R271). -/
def pageBytes (scale : Bool) (layout : Nat) (a : Word) (n : Nat) : Fetch (List Byte) :=
  stagedBytes (do
    let s ← get
    if !(formOk a && formOf a = 0) || (rangeCause a n).isSome then matFault a false
    match lookup (tlbOf s s.focus) (s.partOf s.focus) a.toNat .read with
    | .miss => matFault a true
    | .denied => matFault a false
    | .hit e =>
      let leaf : Word := e.leaf.setWidth 64
      if (leaf.extractLsb' 8 4).toNat ≠ layout then matFault a false
      cleanBytes scale a (leafEntry s (s.partOf s.focus) leaf) (leafKey s.host.devid.toNat leaf (a.toNat - e.base)) n)

/-- Bytes of job virtual memory, page by page in ascending order. -/
def virtualBytes (scale : Bool) (layout : Nat) : Nat → Word → Nat → Fetch (List Byte)
  | 0, _, _ => pure []
  | fuel + 1, a, n => do
    if n = 0 then return []
    let take := min n (2 ^ 14 - a.toNat % 2 ^ 14)
    let bs ← pageBytes scale layout a take
    let more ← virtualBytes scale layout fuel (a + BitVec.ofNat 64 take) (n - take)
    return bs ++ more

/-- Bytes of an operand or a scale at an offset of a base of kind 1 or 2, aligned to its elements' width, under the steps of R156; a range
that leaves a scratchpad faults at the first byte outside (R218). -/
def operandBytes (scale : Bool) (kind layout align : Nat) (base : Word) (off n : Nat) : Fetch (List Byte) := do
  let a := base + BitVec.ofNat 64 off
  if kind = 1 then
    if formOk a && formOf a = 0 && a.toNat % align ≠ 0 then matFault a false
    virtualBytes scale layout (n / 2 ^ 14 + 2) a n
  else
    let s ← get
    if formOf a ≠ 1 || !formOk a || shutOut s s.focus a then matFault a false
    if (rangeCause a n).isSome then matFault (a + BitVec.ofNat 64 (2 ^ 20 - offsetOf a)) false
    if a.toNat % align ≠ 0 || !mayReach s s.focus (gtileOf s a) then matFault a false
    cleanBytes scale a 0 (scratchKey (mirrored s s.focus (gtileOf s a)) (offsetOf a)) n

/-- Patterns of `n` elements of row `r` from column `c` on, for an entry of kind 1 or 2 (R214). -/
def rowPatterns (e : Tensor) (r c n : Nat) : Fetch (List Nat) := do
  if n = 0 then return []
  if e.nibbles then
    let first := c / 2
    let last := (c + n - 1) / 2
    let bs ← operandBytes false e.kind e.layout 1 e.base (r * e.stride + first) (last - first + 1)
    return (List.range n).map (fun i =>
      let b := (bs.getD ((c + i) / 2 - first) 0).toNat
      if (c + i) % 2 = 0 then b % 16 else b / 16)
  else
    let bs ← operandBytes false e.kind e.layout e.size e.base (r * e.stride + c * e.size) (n * e.size)
    return (List.range n).map (fun i => ofBytes ((bs.drop (i * e.size)).take e.size))

/-- Where element (r, k) of a slot layout stands: the slot, the byte and its length (R211). -/
def slotPlace (m : MmaMode) (slot r k : Nat) : Nat × Nat × Nat :=
  match m with
  | .four => (slot + k / 64, 64 * r + k % 64, 1)
  | .eight => (slot, 64 * r + k, 1)
  | .sixteen => (slot, 32 * r + 2 * k, 2)
  | .fp32 => (slot, 16 * r + 4 * k, 4)
  | .fp64 => (slot, 16 * r + 8 * k, 8)

/-- Element (r, k) of an operand in a slot. -/
def slotPattern (m : MmaMode) (slot r k : Nat) : Fetch Nat := do
  let t ← (myTileNo : Exec Nat)
  let (s, off, n) := slotPlace m slot r k
  return ofBytes (← cleanBytes false 0 0 (slotKey t s off) n)

/-- A block scale as a power of two; none is a NaN block (R87). -/
def scaleExp (sc : Nat) : Option Int := if sc = 255 then none else some ((sc : Int) - 127)

/-- The scale of row (or column) `r` in block `b`, with K positions in all (R211, R214). -/
def blockScale (m : MmaMode) (e : Tensor) (fromSlot : Bool) (slot k r b : Nat) : Fetch (Option Int) := do
  if !scaled m then return some 0
  if fromSlot then
    let t ← (myTileNo : Exec Nat)
    let s := if m = .four then slot + b else slot
    return scaleExp (ofBytes (← cleanBytes true 0 0 (slotKey t s (4096 + r)) 1))
  else if e.scaleBase = 0 then return some 0
  else return scaleExp (ofBytes (← operandBytes true e.kind 0 1 e.scaleBase (r * ((k + 63) / 64) + b) 1))

/-- A value times a power of two, or NaN in a NaN block. -/
def scaleBy (v : FVal) (sc : Option Int) : FVal :=
  match sc, v with
  | none, _ => .nan false
  | some d, .fin n k e => .fin n k (e + d)
  | some _, v => v

def zeroValue : FVal := .fin false 0 0

/-- One operand of an MMA as its fetch sees it: the entry, whether it lies in a slot and in which, its strip's origin, and
the extent of its rows for A or its columns for B. -/
structure Side where
  e : Tensor
  inSlot : Bool
  slot : Nat
  origin : Nat
  extent : Nat
  deriving DecidableEq, Repr

def Mma.sideA (m : Mma) : Side :=
  ⟨m.ea, m.slotForm || m.ea.kind = 3, if m.slotForm then m.aslot else m.ea.slot, m.a0, if m.slotForm then stripRows m.mode else m.ea.rows⟩
def Mma.sideB (m : Mma) : Side :=
  ⟨m.eb, m.slotForm || m.eb.kind = 3, if m.slotForm then m.bslot else m.eb.slot, m.b0, if m.slotForm then 64 else m.eb.columns⟩

/-- K, the positions without duplicates: A's columns, or the positions of the slot form. -/
def Mma.positions (m : Mma) : Nat := if m.slotForm then m.steps * kstepOf m.mode else m.ea.columns

/-- The channel at a position: itself below K, the listed channel of a duplicate, none in the padding (R92). -/
def Mma.channel (m : Mma) (pos : Nat) : Option Nat := if pos < m.positions then some pos else m.channels[pos - m.positions]?

/-- The factor 2^-1 of a split channel and of its duplicate (R92). -/
def Mma.half (m : Mma) (c : Nat) : Int := if m.channels.contains c then -1 else 0

/-- Whether an MMA copies B rows for its duplicates (R92, R215). -/
def Mma.usesSplit (m : Mma) : Bool := !m.channels.isEmpty

/-- Whether a duplicate's row of 64 elements fits a row of the split-row area, 64 bytes (R16); a wider one stays with the MMA
(log 37). -/
def Mma.splitFits (m : Mma) : Bool := scaled m.mode

/-- Row `i` of A's strip over the positions of k-step `p`, with its scales and halves. -/
def rowOfA (m : Mma) (p i : Nat) : Fetch (List FVal) := do
  let d := m.sideA
  let r := d.origin + i
  let ps := (List.range (kstepOf m.mode)).map (fun j => p * kstepOf m.mode + j)
  if d.extent ≤ r then return ps.map (fun _ => zeroValue)
  let run := ps.filter (fun pos => pos < m.positions)
  let direct ← if d.inSlot then run.mapM (fun k => slotPattern m.mode d.slot i k)
    else rowPatterns d.e r (p * kstepOf m.mode) run.length
  ps.mapM (fun pos => do
    match m.channel pos with
    | none => return zeroValue
    | some c =>
      let bits ← if pos < m.positions then pure (direct.getD (pos - p * kstepOf m.mode) 0)
        else if d.inSlot then slotPattern m.mode d.slot i c
        else (fun (l : List Nat) => l.headD 0) <$> rowPatterns d.e r c 1
      let sc ← blockScale m.mode d.e d.inSlot d.slot m.positions (if d.inSlot then i else r) (c / 64)
      return scaleBy (scaleBy (operandValue d.e bits) sc) (some (m.half c)))

/-- The patterns of B's row `c` over the strip's columns, zero beyond the tensor. -/
def patternsOfB (m : Mma) (c : Nat) : Fetch (List Nat) := do
  let d := m.sideB
  if d.inSlot then (List.range 64).mapM (fun j => slotPattern m.mode d.slot j c)
  else rowPatterns d.e c d.origin (min 64 (d.extent - d.origin))

/-- The copied row of a duplicate. -/
def splitPatterns (m : Mma) (j n : Nat) : Fetch (List Nat) := do
  if m.splitFits then
    let t ← (myTileNo : Exec Nat)
    (List.range n).mapM (fun i => do return ofBytes (← cleanBytes false 0 0 (splitKey t j i) 1))
  else return (m.split.getD j []).take n

/-- Row of B at a position of the k-step: 64 columns with their scales. -/
def rowOfB (m : Mma) (pos : Nat) : Fetch (List FVal) := do
  let d := m.sideB
  let n := if d.inSlot then 64 else min 64 (d.extent - d.origin)
  match m.channel pos with
  | none => return List.replicate 64 zeroValue
  | some c =>
    let bits ← if m.positions ≤ pos then splitPatterns m (pos - m.positions) n else patternsOfB m c
    let vs ← (List.range n).mapM (fun j => do
      let sc ← blockScale m.mode d.e d.inSlot d.slot m.positions (if d.inSlot then j else d.origin + j) (c / 64)
      return scaleBy (operandValue d.e (bits.getD j 0)) sc)
    return vs ++ List.replicate (64 - n) zeroValue

/-- Before its first k-step an MMA copies the listed B rows: into the split-row area, where they fit it (R215). -/
def copySplit (m : Mma) : Fetch Mma := do
  let t ← (myTileNo : Exec Nat)
  let rows ← m.channels.mapM (patternsOfB m)
  if m.splitFits then
    modify (fun s => s.modMem (fun mem => (rows.zipIdx).foldl (fun mem e =>
      mem.setBytes (splitKey t e.2 0) (e.1.map (BitVec.ofNat 8))) mem))
    return m
  else return { m with split := rows }

/-- The exact sum of a block's products: NaN and infinity as R89 states, a zero sum +0 unless every product is -0. -/
def blocksum (ps : List FVal) : FVal :=
  let nan := ps.any FVal.isNan
  let pos := ps.any (fun v => match v with
    | .inf n => !n
    | _ => false)
  let neg := ps.any (fun v => match v with
    | .inf n => n
    | _ => false)
  if nan || (pos && neg) then .nan false
  else if pos then .inf false
  else if neg then .inf true
  else
    let q := ps.foldl (fun q v => match v with
      | .fin _ m e => if m = 0 then q else min q e
      | _ => q) (2 ^ 20 : Int)
    let total : Int := ps.foldl (fun t v => match v with
      | .fin n m e => if m = 0 then t else (if n then t - m * 2 ^ (e - q).toNat else t + m * 2 ^ (e - q).toNat)
      | _ => t) 0
    if total = 0 then .fin (ps.all FVal.neg) 0 0 else .fin (decide (total < 0)) total.natAbs q

/-- The new value of an accumulator element after a k-step's products: one rounding for each block, or the chain of R89. -/
def accumulate (m : MmaMode) (old : Nat) (ps : List FVal) : Nat :=
  let add := fun (acc : Nat) (block : List FVal) => (f32.addVal .rne (f32.decode acc) (blocksum block)).bits
  match m with
  | .four => add (add old (ps.take 64)) (ps.drop 64)
  | .fp64 => ps.foldl (fun acc v => (f64.addVal .rne v (f64.decode acc)).bits) old
  | _ => add old ps

/-- The accumulator's bytes after k-step `p` with A's rows and B's rows by position. -/
def newAcc (s : State) (t : Nat) (m : Mma) (as bs : List (List FVal)) : List Byte :=
  let n := if m.mode = .fp64 then 8 else 4
  ((List.range (stripRows m.mode)).map (fun i =>
    let row := as.getD i []
    ((List.range 64).map (fun j =>
      let old := ofBytes (s.mem.bytes (accKey t m.acc ((64 * i + j) * n)) n)
      toBytes n (accumulate m.mode old ((row.zip bs).map (fun e => mulExact e.1 (e.2.getD j zeroValue)))))).flatten)).flatten

/-- Fetches k-step P, A before B: the MMA with its copied rows, and both operands by row and position (R217). -/
def fetchStep (m : Mma) : Fetch (Mma × List (List FVal) × List (List FVal)) := do
  let m ← if m.p = 0 && m.usesSplit then copySplit m else pure m
  let as ← (List.range (stripRows m.mode)).mapM (fun i => rowOfA m m.p i)
  let bs ← (List.range (kstepOf m.mode)).mapM (fun j => rowOfB m (m.p * kstepOf m.mode + j))
  return (m, as, bs)

/-- The accumulator takes a k-step whose check has passed. -/
def accumulateStep (t : Nat) (m : Mma) (as bs : List (List FVal)) (s : State) : State :=
  s.modMem (fun mem => mem.setBytes (accKey t m.acc 0) (newAcc s t m as bs))

def modHead (t : Nat) (f : Mma → Mma) (s : State) : State :=
  s.modTile t (fun u => match u.matrix with
    | m :: l => { u with matrix := f m :: l }
    | [] => u)

/-- The running MMA's next k-step begins now (R155). -/
def stepDone (t : Nat) (s : State) : State := s.modTile t (fun u => { u with kstep := s.time })

/-- The tile leaves service until a module reset, and stands in the completion record (R220, R282, R444). -/
def quarantineTile (g t : Nat) (s : State) : State :=
  (s.modTile t (fun u => { u with quarantined := true })).modGang g (fun u =>
    { u with quarantined := u.quarantined + 1, units := u.units ++ [BitVec.ofNat 16 t] })

/-- The check of a k-step (R220): a first mismatch counts S0 and computes the step again from the same operands; a second is
severity S3, quarantines the tile and ends the gang. -/
def checkedStep (t : Nat) (m : Mma) (as bs : List (List FVal)) (s : State) : State :=
  let p := partOfGang s m.gang
  if m.upsets = 0 then accumulateStep t m as bs s
  else
    let s := noteClass p m.gang s 0
    if m.upsets = 1 then accumulateStep t m as bs s
    else endGang m.gang 1 0x12 (quarantineTile m.gang t (noteClass p m.gang s 3))

/-- Cause 0x10 goes to the service core, charged to what the X-seq holds (R218). -/
def postMatFault (t : Nat) (f : MatFault) (s : State) : State :=
  let q := SeqId.x t
  let epc := if (s.seq q).firing.isSome then (s.seq q).pc else 0
  let trap : Trap := ⟨unitOf q, kindCode q, 0x10, epc, f.addr, s.gangOf q, s.partOf q, .matrix t,
    if f.miss then some .read else none⟩
  postTrap trap (if f.miss then addMiss q (s.partOf q) f.addr.toNat .read s else s)

/-- A fetch fault stops the MMA and the X-seq (R218). In a pair both members' stop, the fault is reported once both X-seqs have come to
the same instruction, and a twin reports none (R283). -/
def stopMma (t : Nat) (f : MatFault) (s : State) : State :=
  let stop := modHead t (fun m => { m with stopped := true }) s
  match (s.tile t).twin with
  | .alone => postMatFault t f stop
  | .primary => modHead t (fun m => { m with fault := some (f.addr, f.miss) }) (modHead (t + 1) (fun m => { m with stopped := true }) stop)
  | .twin => stop

/-- Whether the X-seqs of a tile and, in a pair, of its partner stand at the same instruction. -/
def sameInstruction (s : State) (t : Nat) : Bool := !s.paired t || (s.tile t).x.retired == (s.tile (s.partnerOf t)).x.retired

/-- An MMA whose steps are done completes once its signal can be applied (R219). -/
def finishMma (t : Nat) (m : Mma) (s : State) : State :=
  let done := fun (s : State) => latchTile t 16 (s.modTile t (fun u => { u with matrix := u.matrix.drop 1, lastSteps := m.steps, kstep := s.time }))
  match m.sig with
  | none => done s
  | some n => if ((s.tile t).sem n).toNat < 255 then semIncrement t n (done s) else s

/-- One k-step of a tile's running MMA, or its completion. What its reads find stands, whatever the k-step comes to (R273). -/
def stepMma (t : Nat) (s : State) : Host.Outcome State Fault Refusal :=
  match (s.tile t).matrix with
  | [] => .next s
  | m :: _ =>
    if m.stopped then .next s
    else if m.steps ≤ m.p then .next (finishMma t m s)
    else
      let here := s.focus
      let s := { s with focus := .x t }
      let back := fun (s : State) => { s with focus := here }
      match (fetchStep m).run.run s with
      | .ok (.ok (m, as, bs)) s' =>
        let s' := checkedStep t m as bs s'
        let m := { m with p := m.p + 1, upsets := 0 }
        let s' := stepDone t (modHead t (fun _ => m) s')
        .next (back (if m.p < m.steps then s' else finishMma t m s'))
      | .ok (.error (.fault f)) s' => .next (back (stopMma t f (keepFindings s s')))
      | .ok (.error (.poison a)) s' => .next (back (consumePoison (.x t) (noteConsumed (.x t) a (keepFindings s s'))))
      | .error (.fault r) _ => .fault r
      | .error _ _ => .next (back s)

/-- Whether an MMA fetches operands from job virtual memory. -/
def Mma.fetchesJob (m : Mma) : Bool := !m.slotForm && (m.ea.kind == 1 || m.eb.kind == 1)

/-- Whether both members' running MMAs stand at the same k-step, as a fetch from job memory needs (R215). -/
def membersMeet (s : State) (t : Nat) : Bool :=
  match (s.tile t).matrix, (s.tile (s.partnerOf t)).matrix with
  | m :: _, n :: _ => m.tida == n.tida && m.tidb == n.tidb && m.acc == n.acc && m.p == n.p
  | _, _ => false

/-- Whether a tile's matrix unit can take a step on its own turn: a twin's fetch from job memory goes with its primary's. -/
def mmaReady (s : State) (t : Nat) : Bool :=
  match (s.tile t).matrix with
  | [] => false
  | m :: _ =>
    !m.stopped && gangRuns s (s.tile t).gang &&
      (if m.steps ≤ m.p then
        match m.sig with
        | some n => ((s.tile t).sem n).toNat < 255
        | none => true
       else !(s.paired t && m.fetchesJob) || ((s.tile t).twin == .primary && membersMeet s t))

/-- The fault of a pair's stopped MMA that has still to be reported. -/
def faultDue (s : State) (t : Nat) : Option MatFault :=
  match (s.tile t).matrix with
  | m :: _ => if m.stopped && sameInstruction s t then m.fault.map (fun f => ⟨f.1, f.2⟩) else none
  | [] => none

/-- MMA_KSTEP (R217): one k-step of the subject tile's running MMA; a pair's members take a step that fetches from job memory
together, so that the twin receives the bytes the primary fetched (R215). -/
def execMmaKstep (s : State) : Host.Outcome State Fault Refusal :=
  let t := s.subject
  match faultDue s t with
  | some f => .next (postMatFault t f (modHead t (fun m => { m with fault := none }) s))
  | none =>
    if !mmaReady s t then .next s
    else
      let both := match (s.tile t).matrix with
        | m :: _ => s.paired t && m.fetchesJob && m.p < m.steps
        | [] => false
      let clear := fun (s : State) => if both then s.modTile (s.partnerOf t) (fun u => { u with staged := [] }) else s
      match stepMma t (clear s) with
      | .next s' =>
        if both && (s'.tile t).gang = (s.tile t).gang && !(s'.tile t).matrix.any (·.stopped) then stepMma (s.partnerOf t) s'
        else .next s'
      | r => r

/-! ## MPROG (R219, R393) -/

/-- BUSY, ACC and KSTEP of a tile. -/
def progressWord (u : Tile) : Word :=
  match u.matrix with
  | m :: _ => BitVec.ofNat 64 (2 ^ 63 + m.acc * 2 ^ 61 + m.p)
  | [] => BitVec.ofNat 64 u.lastSteps

/-- MPROG: with WAIT it first waits until no MMA is incomplete; a twin takes its primary's value. -/
def mprogBody (f : F64A) : Exec Flow := do
  queueWaits [⟨f.d.toNat, 0, true, false⟩]
  let u ← myTile
  if f.imm16.getLsbD 0 then waitUntil u.matrix.isEmpty .matrix
  let v ← echoed1 (do return progressWord (← myTile))
  putDest f.d.toNat 0 v false
  return .fall

/-- MPROG (R393). -/
def execMprog (f : F64A) (s : State) : Host.Outcome State Fault Refusal := issueA (.mprog f) f (mprogBody f) s

end Sys2Proof.Machine
end

