-- ==== Sys2Proof/Machine/Mem.lean ====
section
/-! DEFINITION. The memory and ordering instructions: LD, ST, FEST, FEQ, ATOM, ACQ, REL, FENCE, WAITSEQ, BIND, UNBIND, PROBE
(R158-R160, R192, R193, R199-R207, R340, R370, R371, R384, R408, R416, R439). -/

namespace Sys2Proof.Machine

/-- BASE + OFF22; a poisoned base is consumed (R384). -/
def baseAddress (f : F64M) : Exec Word := do
  let b ← useX f.base.toNat
  return b + f.off22.signExtend 64

/-- Whether an F64-M instruction lets its gondola migrate (R193); `last` is the highest register it names. -/
def qualifies (f : F64M) (last : Nat) : Bool := f.pred == 0 && last ≤ 7 && f.base.toNat ≤ 7

/-- FE ≠ 0, FEST and FEQ apply to scratchpads only (R158). -/
def scratchOnly (a : Word) : Exec Unit := check (formOf a ≠ 0) 0x04 a

/-- An access to a strongly ordered page is a full fence before it (R207). -/
def strongBefore (p : Place) : Exec Unit := do if strong p then strongFence

/-- What an ordered access of the F64-M format is to the order of memory (R41, R199): `releases` and `acquires` tell which edges it makes. -/
def syncOf (f : F64M) (releases acquires : Bool) : Sync :=
  ⟨if releases then some f.sc.toNat else none, if acquires then some f.sc.toNat else none, none, false⟩

/-- Whether the issuing member's pair holds back a full/empty change of the word at a place (R280). -/
def heldAtWord (s : State) (p : Place) : Bool :=
  match State.tileOf s.focus, p, isPaired s s.focus with
  | some t, .scratch g off, true => (s.pair (s.primaryOf t)).held.any (fun h => match h with
    | .fe g' w => g' == g && w.offset / 8 == off / 8
    | .state g' w _ => g' == g && w == off / 8
    | _ => false)
  | _, _, _ => false

/-! ## LD and ST -/

/-- A load's value into D, a queue slot included (R40, R75). -/
def loadInto (ty d : Nat) (v : Nat) (poison : Bool) : Exec Unit := putDest d 0 (extend ty v) poison

/-- A load that leaves its unit: D is pending until the response, or the sequencer is held (R179, R385). -/
def requestLoad (y : Sync) (f : F64M) (p : Place) (n : Nat) (hold : Bool) : Exec Unit := do
  let s ← get
  let d := f.d.toNat
  let op := ReqOp.load (reach s s.focus p n) f.ty f.d
  if d < 32 then
    waitUntil (!(s.seq s.focus).xPending.getLsbD d || d == 0) .pending
    askSync (y.at_ p) op p hold hold none
  else
    let r ← boundQueue d
    askSync (y.at_ p) op p hold true (some (seenQueue s r).p)

/-- LD (R384, R385). -/
def ldBody (f : F64M) : Exec Flow := do
  let ty := f.ty.toNat
  let n := tyWidth ty / 8
  let d := f.d.toNat
  queueWaits [⟨d, 0, true, false⟩]
  let a ← baseAddress f
  if f.fe ≠ 0 then scratchOnly a
  match ← locate a n n .read [] (qualifies f d) with
  | .inr r => return r
  | .inl p =>
    strongBefore p
    let s ← get
    let y := syncOf f false (f.ord == 1)
    if f.fe = 0 then
      if isOwn s.focus p then
        ownOrder p n
        let bs ← if f.ord == 1 || strong p then getBytes p n else plainBytes p n
        syncOwn (y.at_ p) p
        loadInto ty d (ofBytes bs.bytes) bs.poisoned
      else requestLoad y f p n (f.ord == 1 || strong p)
    else
      let op := if f.fe = 1 then FeOp.wf else .wfe
      let act : Exec Word := do
        if !(← waits .word) then
          ownOrder p n
          if heldAtWord (← get) p then closeBefore
        feAccess p a op n 0 false (if f.fe = 2 ∨ f.ord = 1 then some f.sc.toNat else none)
      let v ← if ← outsidePair p then echoed1 act else act
      loadInto ty d v.toNat false
    return .fall

/-- LD (R384). -/
def execLd (f : F64M) (s : State) : Host.Outcome State Fault Refusal := issueM (.ld f) f (ldBody f) s

/-- ST (R416, R417). -/
def stBody (f : F64M) : Exec Flow := do
  let ty := f.ty.toNat
  let n := tyWidth ty / 8
  queueWaits [⟨f.d.toNat, 0, false, false⟩]
  let a ← baseAddress f
  if f.fe ≠ 0 then scratchOnly a
  match ← locate a n n .write [] (qualifies f f.d.toNat) with
  | .inr r => return r
  | .inl p =>
    let v ← source ty f.d.toNat 0 0
    let bytes := toBytes n v.val.toNat
    let waiting ← waits .word
    let outside ← outsidePair p
    let releases := f.ord == 2 || f.fe == 2
    if releases && !waiting then releaseAt outside f.sc.toNat
    strongBefore p
    let y := syncOf f (f.ord == 2) false
    let scope := if releases then some f.sc.toNat else none
    let s ← get
    if f.fe = 0 then
      if outside then holdBack (.write [piece s s.focus p (marked bytes v.poison)])
      else if isOwn s.focus p then
        ownOrder p n
        putPlain p (marked bytes v.poison)
        syncOwn y p
      else sendSync (y.at_ p) (.store [piece s s.focus p (marked bytes v.poison)]) p (f.ord == 2) (f.ord == 2 || strong p)
    else
      let op := if f.fe = 1 then FeOp.we else .wef
      if outside then holdBack (.fe (tileOfKey p.key) ⟨s.focus, op, offsetOf a, n, v.val, v.poison, true, none, scope⟩)
      else
        if !waiting then ownOrder p n
        let _ ← feAccess p a op n v.val v.poison scope
    takeIn (toBytes 8 a.toNat ++ bytes)
    return .fall

/-- ST (R416). -/
def execSt (f : F64M) (s : State) : Host.Outcome State Fault Refusal := issueM (.st f) f (stBody f) s

/-! ## FEST and FEQ -/

/-- A word of the sequencer's own unit whose state is used: poison is consumed (R275). -/
def useWord (p : Place) (a : Word) : Exec Unit := do
  let bs ← getBytes p 8
  if bs.poisoned then consumed a

/-- FEST (R159, R371). -/
def festBody (f : F64M) : Exec Flow := do
  let a ← baseAddress f
  scratchOnly a
  match ← locate a 8 8 .write [] false with
  | .inr r => return r
  | .inl p =>
    let outside ← outsidePair p
    if f.ord == 2 then releaseAt outside f.sc.toNat
    let y := syncOf f (f.ord == 2) false
    let s ← get
    let g := tileOfKey p.key
    let w := offsetOf a / 8
    let v := f.fn3.getLsbD 0
    if outside then holdBack (.state g w v)
    else if isOwn s.focus p then
      ownOrder p 8
      useWord p a
      noteWrite p 8
      syncOwn y p
      modify (changeState (inPair s s.focus g) g w v)
    else sendSync y (.setState g w v) p true false
    return .fall

/-- FEST (R371). -/
def execFest (f : F64M) (s : State) : Host.Outcome State Fault Refusal := issueM (.fest f) f (festBody f) s

/-- FEQ (R159, R371). -/
def feqBody (f : F64M) : Exec Flow := do
  let a ← baseAddress f
  scratchOnly a
  match ← locate a 8 8 .read [] false with
  | .inr r => return r
  | .inl p =>
    let s ← get
    let g := tileOfKey p.key
    let w := offsetOf a / 8
    let d := f.d.toNat
    let y := syncOf f false (f.ord == 1)
    if isOwn s.focus p then
      ownOrder p 8
      useWord p a
      syncOwn y p
      putX d (if isFull (← get) g w then 1 else 0) false
    else
      waitUntil (!(s.seq s.focus).xPending.getLsbD d || d == 0) .pending
      askSync y (.getState g w f.d) p true (f.ord == 1) none
    return .fall

/-- FEQ (R371). -/
def execFeq (f : F64M) (s : State) : Host.Outcome State Fault Refusal := issueM (.feq f) f (feqBody f) s

/-! ## ATOM -/

/-- Op(FN3, old, v) of R340, and c for cas, on patterns of a type's width. -/
def atomOp (ty fn old v c : Nat) : Nat :=
  let w := tyWidth ty
  let flt := fmtOf ty
  match fn with
  | 0 => if tyFloat ty then (flt.addVal .rne (flt.decode old) (flt.decode v)).bits else (old + v) % 2 ^ w
  | 1 => if tyFloat ty then (flt.pick false old v).bits else if intOf ty old ≤ intOf ty v then old else v
  | 2 => if tyFloat ty then (flt.pick true old v).bits else if intOf ty old ≤ intOf ty v then v else old
  | 3 => old &&& v
  | 4 => old ||| v
  | 5 => old ^^^ v
  | 6 => v
  | _ => if old = c then v else old

/-- The aligned word that holds a place, and the offset of the place in it. -/
def wordPlace : Place → Place × Nat
  | .scratch g off => (.scratch g (off / 8 * 8), off % 8)
  | .ext key leaf => (.ext (key / 8 * 8) leaf, key % 8)

/-- One indivisible read and write of an ATOM for the issuing sequencer; a poisoned word is consumed (R275, R340). -/
def atomAt (p : Place) (a : Word) (ty fn v c : Nat) : Exec Nat := do
  let n := tyWidth ty / 8
  let (word, off) := wordPlace p
  let bs ← getBytes word 8
  if bs.poisoned then consumed a
  let old := ofBytes ((bs.bytes.drop off).take n)
  let new := atomOp ty fn old v c
  if fn ≠ 7 ∨ old = c then
    let s ← get
    putBytes p (marked (toBytes n new) false)
    modify (keepReleases s p.key)
    noteWrite p n
  return old

/-- ATOM (R340). -/
def atomBody (f : F64M) : Exec Flow := do
  let ty := f.ty.toNat
  let w := tyWidth ty
  let n := w / 8
  let d := f.d.toNat
  let fn := f.fn3.toNat
  closeBefore
  let a ← baseAddress f
  let last := if fn = 7 then d + 1 else d
  match ← locate a n n .read [.write] (qualifies f last) with
  | .inr r => return r
  | .inl p =>
    let v := (← useX d).toNat % 2 ^ w
    let c ← if fn = 7 then (do return (← useX (d + 1)).toNat % 2 ^ w) else pure 0
    if f.ord == 2 || f.ord == 3 then releaseAt false f.sc.toNat
    strongBefore p
    let y := (syncOf f (f.ord == 2 || f.ord == 3) (f.ord == 1 || f.ord == 3)).at_ p
    let s ← get
    if isOwn s.focus p then
      ownOrder p n
      let old ← atomAt p a ty fn v c
      syncOwn y p
      putX d (extend ty old) false
    else
      let r := reach s s.focus p n
      let hold := f.ord == 1 || f.ord == 3 || strong p
      askSync y (.atom r f.ty fn (BitVec.ofNat 64 v) (BitVec.ofNat 64 c) f.d a) p true hold none
    return .fall

/-- ATOM (R340). -/
def execAtom (f : F64M) (s : State) : Host.Outcome State Fault Refusal := issueM (.atom f) f (atomBody f) s

/-! ## ACQ, WAITSEQ, REL, FENCE (R205) -/

/-- The 8-byte word at an object in the sequencer's own unit; poison is consumed (R335, R439). -/
def objectWord (p : Place) (a : Word) : Exec Word := do
  ownOrder p 8
  let bs ← getBytes p 8
  if bs.poisoned then consumed a
  return BitVec.ofNat 64 (ofBytes bs.bytes)

/-- The wait of ACQ and WAITSEQ until the unsigned word is at least a value. It runs at the word's home: for a word of another
unit the home holds a request, and the sequencer waits at its boundary (R205, R439). `y` is its edge (R201, R202). -/
def awaitWord (y : Sync) (p : Place) (a : Word) (least : Word) : Exec Word := do
  match ← granted .memory with
  | some g =>
    if g.2 then consumed a
    return g.1
  | none =>
    let s ← get
    if isOwn s.focus p then
      let v ← objectWord p a
      let found ← get
      if v.toNat < least.toNat && !valueCame found s.focus p.key least.toNat then
        throw (.wait .memory (fun s => watch s.focus p.key least.toNat (keepFindings s found)))
      modify (unwatch s.focus)
      syncOwn y p
      return v
    else
      if !(← waits .memory) then
        strongBefore p
        waitUntil (outstanding s s.focus < 64) .outstanding
      throw (.wait .memory (registerRequest y (.await (reach s s.focus p 8) least) p))

/-- ACQ (R205, R335): in a pair the twin takes the primary's D (R279). -/
def acqBody (f : F64M) : Exec Flow := do
  let d := f.d.toNat
  let a ← baseAddress f
  match ← locate a 8 8 .read [] (qualifies f d) with
  | .inr r => return r
  | .inl p =>
    let s ← get
    let least ← if f.fn3 == 1 then useX d else pure 0
    let y := (syncOf f false true).at_ p
    if isOwn s.focus p then strongBefore p
    if isPaired s s.focus && (isOwn s.focus p || f.fn3 == 1) then putX d (← echoed1 (awaitWord y p a least)) false
    else if isOwn s.focus p || f.fn3 == 1 then putX d (← awaitWord y p a least) false
    else
      strongBefore p
      requestLoad y f p 8 true
    return .fall

/-- ACQ (R205). -/
def execAcq (f : F64M) (s : State) : Host.Outcome State Fault Refusal := issueM (.acq f) f (acqBody f) s

/-- WAITSEQ (R205, R439): in a pair the twin takes the primary's D (R279, R328). -/
def waitseqBody (f : F64M) : Exec Flow := do
  let d := f.d.toNat
  let a ← baseAddress f
  match ← locate a 8 8 .read [] (qualifies f d) with
  | .inr r => return r
  | .inl p =>
    let s ← get
    if isOwn s.focus p then strongBefore p
    let least ← useX d
    let y := (⟨none, some f.sc.toNat, some f.sc.toNat, false⟩ : Sync).at_ p
    let act : Exec Word := do
      let v ← awaitWord y p a least
      modify (fun s => commandsJoined s.focus s)
      return v
    putX d (← if isPaired s s.focus then echoed1 act else act) false
    return .fall

/-- WAITSEQ (R439). -/
def execWaitseq (f : F64M) (s : State) : Host.Outcome State Fault Refusal := issueM (.waitseq f) f (waitseqBody f) s

/-- REL (R205, R408). -/
def relBody (f : F64M) : Exec Flow := do
  queueWaits [⟨f.d.toNat, 0, false, false⟩]
  let a ← baseAddress f
  let adds := f.fn3 == 1
  match ← locate a 8 8 .write (if adds then [.read] else []) (qualifies f f.d.toNat) with
  | .inr r => return r
  | .inl p =>
    let v ← useSource 3 f.d.toNat 0 0
    let outside ← outsidePair p
    releaseAt outside f.sc.toNat
    strongBefore p
    let y := syncOf f true false
    let s ← get
    let bytes := toBytes 8 v.toNat
    if outside then
      if adds then holdBack (.add p.key (reach s s.focus p 8).entry v a)
      else holdBack (.write [piece s s.focus p (marked bytes false)])
    else if isOwn s.focus p then
      ownOrder p 8
      if adds then let _ ← atomAt p a 3 0 v.toNat 0
      else putPlain p (marked bytes false)
      syncOwn y p
    else if adds then sendSync (y.at_ p) (.add (reach s s.focus p 8) v a) p true (strong p)
    else sendSync (y.at_ p) (.store [piece s s.focus p (marked bytes false)]) p true (strong p)
    takeIn (toBytes 8 a.toNat ++ bytes)
    return .fall

/-- REL (R408). -/
def execRel (f : F64M) (s : State) : Host.Outcome State Fault Refusal := issueM (.rel f) f (relBody f) s

/-- Whether a request returns data. -/
def ReqOp.reads : ReqOp → Bool
  | .load .. => true
  | .vload .. => true
  | .atom .. => true
  | .getState .. => true
  | .record .. => true
  | .fe _ op _ _ _ _ => op == .wf || op == .wfe
  | .await .. => true
  | _ => false

/-- Whether an earlier load of the agent has not returned its data, a twin's the one that it expects of its primary (R279, R370). -/
def readsPending (s : State) (q : SeqId) : Bool :=
  s.fabric.requests.any (fun r => r.isOf q && r.op.reads) || (s.seq q).expects.any (·.op.reads)

/-- FENCE (R370): `.acq` waits for earlier loads, `.rel` and `.full` for every earlier access; its edges pair with other fences in their
scopes (R202, R204). SEQ orders nothing more. -/
def fenceBody (f : F64M) : Exec Flow := do
  let sc := f.sc.toNat
  if sc ≠ 0 then
    match f.fn3.toNat with
    | 0 =>
      let s ← get
      waitUntil (!readsPending s s.focus) .outstanding
      modify (fun s => fenceAcquire s.focus sc s)
    | 1 => fenceFirst sc
    | _ =>
      let s ← get
      waitUntil (!readsPending s s.focus) .outstanding
      fenceFull sc
  return .fall

/-- FENCE (R370). -/
def execFence (f : F64M) (s : State) : Host.Outcome State Fault Refusal := issueM (.fence f) f (fenceBody f) s

/-! ## BIND and UNBIND (R200, R206) -/

/-- CheckRegion: form and range (0x04), alignment of base and length (0x0A), group (0x0B). -/
def checkRegion (a len : Word) : Exec Unit := do
  let s ← get
  check (formOk a && !shutOut s s.focus a) 0x04 a
  let unit := if formOf a = 0 then 2 ^ 14 else 64
  if formOf a = 0 then check (a.toNat + len.toNat ≤ 2 ^ 54) 0x04 a
  else check (offsetOf a + len.toNat ≤ 2 ^ 20) 0x04 a
  check (a.toNat % unit = 0 && len.toNat % unit = 0) 0x0A a
  if formOf a = 1 then check (mayReach s s.focus (gtileOf s a)) 0x0B a

/-- CheckObject: an 8-byte-aligned word. -/
def checkObject (c : Word) : Exec Unit := do
  let s ← get
  check (formOk c && !shutOut s s.focus c && (rangeCause c 8).isNone) 0x04 c
  check (c.toNat % 8 = 0) 0x0A c
  if formOf c = 1 then check (mayReach s s.focus (gtileOf s c)) 0x0B c

/-- BIND: 0 bound, 1 the table of 256 is full or there is no launch, 2 some byte is bound otherwise (R206). -/
def bindStatus (table : Option (List Binding)) (a len c : Word) : Word × Option Binding :=
  match table with
  | none => (if len = 0 then 0 else 1, none)
  | some t =>
    if len = 0 || t.contains ⟨a, len.toNat, c⟩ then (0, none)
    else if t.any (fun b => b.meets a.toNat len.toNat) then (2, none)
    else if 256 ≤ t.length then (1, none)
    else (0, some ⟨a, len.toNat, c⟩)

/-- BIND (R206, R345). -/
def bindBody (f : F64A) : Exec Flow := do
  let a ← useX f.a.toNat
  let len ← useSource 3 f.b.toNat f.imm16 0
  let c ← useX f.c.toNat
  checkRegion a len
  checkObject c
  let st ← echoed1 (do
    let s ← get
    let g := s.gangOf s.focus
    let (st, new) := bindStatus ((s.gang? g).map (bindingTable s)) a len c
    match new with
    | some b => set (s.modGang g (fun u => { u with bindings := u.bindings ++ [b] }))
    | none => pure ()
    return st)
  putX f.d.toNat st false
  return .fall

/-- BIND (R345). -/
def execBind (f : F64A) (s : State) : Host.Outcome State Fault Refusal := issueA (.bind f) f (bindBody f) s

/-- A launch's table without the region that begins at an address (R206). -/
def removeBinding (g : Nat) (a : Word) (s : State) : State :=
  let s' := s.modGang g (fun u => { u with bindings := u.bindings.filter (fun b => b.base != a) })
  match s.gang? g with
  | some u => s'.modFabric (fun f => { f with peerBindings := f.peerBindings.filter (fun b =>
      !(b.part == u.part && b.rendezvous == rendezvousOf u && b.binding.base == a)) })
  | none => s'

/-- UNBIND (R206, R429). -/
def unbindBody (f : F64A) : Exec Flow := do
  let a ← useX f.a.toNat
  let st ← echoed1 (do
    let s ← get
    let g := s.gangOf s.focus
    let table := ((s.gang? g).map (bindingTable s)).getD []
    set (removeBinding g a s)
    return if table.any (fun b => b.base == a) then 0 else 1)
  putX f.d.toNat st false
  return .fall

/-- UNBIND (R429). -/
def execUnbind (f : F64A) (s : State) : Host.Outcome State Fault Refusal := issueA (.unbind f) f (unbindBody f) s

/-! ## PROBE (R192) -/

/-- D of a PROBE that finds a TLB entry. -/
def probeWord (service : Bool) (e : TlbEntry) : Word :=
  let leaf : Word := e.leaf.setWidth 64
  let dev := leaf &&& 0x3FC0_0000_0000_0000#64
  let size : Word := e.size.setWidth 64 <<< 52
  let frame := if service then leaf &&& 0x0000_FFFF_FFFF_C000#64 else 0
  dev ||| size ||| frame ||| (leaf &&& 0x3FFF#64)

/-- The answer of PROBE: steps 1, 2, 4 and 5 of R156 for one byte. A miss is served as R188 states; where firmware concludes not mapped
PROBE reports it, and it raises no cause. A service core's own miss is served where it stands, by the shipped walk (log 13). -/
def probeAnswer (a : Word) (acc : Access) : Exec Word := do
  let s ← get
  let q := s.focus
  let p := s.partOf q
  if let some (v, _) ← granted .memory then return v
  if !formOk a || shutOut s q a then return probeFault 0x04
  match rangeCause a 1 with
  | some c => return probeFault c
  | none =>
    if formOf a = 1 then
      return if mayReach s q (gtileOf s a) then 0x4000_0000_0000_0000#64 else probeFault 0x0B
    match lookup (tlbOf s q) p a.toNat acc with
    | .hit e => return probeWord (q.kind == .s) e
    | .denied => return probeFault 0x08
    | .miss =>
      if q.kind ≠ .s && ownHandler s q then throw (.trap 0x07 a (some acc))
      match walk s p a.toNat with
      | .leaf l =>
        if !installable s p l then return probeFault 0x07
        if q.kind ≠ .s then throw (.trap 0x07 a (some acc))
        set (install q (entryOf p l acc) (markLeaf p 0 l acc s))
        return if permits (entryOf p l acc).leaf acc then probeWord true (entryOf p l acc) else probeFault 0x08
      | .nothing => return probeFault 0x07
      | .broken => if q.kind ≠ .s then throw (.trap 0x07 a (some acc)) else consumed a

/-- PROBE (R192, R403). -/
def probeBody (f : F64M) : Exec Flow := do
  let a ← baseAddress f
  let r ← echoed1 (probeAnswer a (if f.fn3.getLsbD 0 then .write else .read))
  putX f.d.toNat r false
  return .fall

/-- PROBE (R403). -/
def execProbe (f : F64M) (s : State) : Host.Outcome State Fault Refusal := issueM (.probe f) f (probeBody f) s

end Sys2Proof.Machine
end

