-- ==== Sys2Proof/Machine/Chain.lean ====
section
/-! DEFINITION. The engines of a tile and their commands: COPY, GET, PUTS, CHAPP, CHTAIL, CHSEQ, and the start, the progress,
the signal and the completion of a command (R127, R163, R164, R169, R171-R178, R209, R213, R280, R328, R349, R353, R380, R405). -/

namespace Sys2Proof.Machine

/-! ## The fields of COPY's AUX32 (R174) -/

def copyMode (x : BitVec 32) : Nat := (x.extractLsb' 30 2).toNat
def copyEs (x : BitVec 32) : Nat := (x.extractLsb' 28 2).toNat
def copyDkind (x : BitVec 32) : Nat := (x.extractLsb' 26 2).toNat
def copySq (x : BitVec 32) : Bool := x.getLsbD 25
def copySlot (x : BitVec 32) : Nat := (x.extractLsb' 20 5).toNat
def copySd (x : BitVec 32) : Nat := (x.extractLsb' 20 3).toNat
def copyCount (x : BitVec 32) : Nat := (x.extractLsb' 0 20).toNat

/-- Bytes of an element of a copy, and of its whole destination. -/
def copyElement (x : BitVec 32) : Nat := 2 ^ copyEs x
def copyBytes (x : BitVec 32) (len : Nat) : Nat := if copyMode x = 0 then len else copyCount x * copyElement x

/-! ## The checks at issue (R175, R353, R380, R405) -/

/-- The spans of the pages of a range of form 0b00, translated in ascending order; a page on a peer is refused (R174, R175). -/
def spansOf (acc : Access) (peer : Bool) : Nat → Word → Nat → Exec (List Span)
  | 0, _, _ => pure []
  | fuel + 1, a, n => do
    if n = 0 then return []
    let e ← translate a acc
    check (peer || resOf (e.leaf.setWidth 64) ≠ 2) 0x09 a
    let take := min n (e.limit - a.toNat)
    let more ← spansOf acc peer fuel (a + BitVec.ofNat 64 take) (n - take)
    return ⟨e.base, e.limit, e.leaf.setWidth 64⟩ :: more

/-- Checks a range as R156 does and translates its pages; without `peer` the range lies on the issuing module. -/
def takeSpans (a : Word) (n align : Nat) (acc : Access) (peer : Bool) : Exec (List Span) := do
  let s ← get
  check (peer || formOf a ≠ 1 || deviceOf a = s.host.devid.toNat) 0x04 a
  checkAddress a n align
  if formOf a = 1 then return [] else spansOf acc peer (n / 2 ^ 14 + 2) a n

/-- The bytes of a slot, data and scales (R164). -/
def slotLength : Nat := 4160

/-- A destination of COPY: its kind 1 names a claimed slot and stays within it, its kind 2 a stream (R164, R174). -/
def takeDestination (a : Word) (aux : BitVec 32) (n : Nat) : Exec (List Span) := do
  let s ← get
  if copyDkind aux = 0 then takeSpans a n 1 .write false
  else
    check (formOf a = 1 && formOk a && deviceOf a = s.host.devid.toNat) 0x04 a
    if copyDkind aux = 1 then check (claimed (s.tile (gtileOf s a)) (copySlot aux)) 0x0F (BitVec.ofNat 64 (copySlot aux))
    check (mayReach s s.focus (gtileOf s a)) 0x0B a
    check (copyDkind aux ≠ 1 || a.toNat % 2 ^ 13 + n ≤ slotLength) 0x04 a
    return []

/-- The spans of COPY's sources at issue: the source, with the metadata of mode 1; the indices of mode 2 (R174). -/
def takeSources (b c : Word) (aux : BitVec 32) (n : Nat) : Exec (List Span) := do
  match copyMode aux with
  | 0 => takeSpans b n 1 .read false
  | 1 =>
    let vs ← takeSpans b (n / 2) 1 .read false
    let ms ← takeSpans c (copyCount aux / 4) 1 .read false
    return vs ++ ms
  | _ => takeSpans c (4 * copyCount aux) 1 .read false

/-- The spans of PUTS's counter, which its home reads and writes. -/
def takeCounter (ctr : Word) (dec : Byte) : Exec (List Span) := do
  if dec = 0 then return []
  let rs ← takeSpans ctr 8 8 .read true
  let ws ← takeSpans ctr 8 8 .write true
  return rs ++ ws

/-- The checks of COPY after its operands are read. -/
def prepareCopy (a b c : Word) (aux : BitVec 32) : Exec (CmdOp × List Span) := do
  let n := copyBytes aux c.toNat
  check (copyMode aux ≠ 3 && copyDkind aux ≠ 3 &&
    (copyMode aux ≠ 0 || (copyEs aux = 0 && copyCount aux = 0 && c.toNat < 2 ^ 40)) &&
    (copyMode aux ≠ 1 || (copyEs aux ≤ 1 && copyCount aux ≠ 0 && copyCount aux % 4 = 0)) &&
    (copyMode aux ≠ 2 || copyCount aux ≠ 0) &&
    (copyDkind aux ≠ 0 || copySlot aux = 0) && (copyDkind aux = 2 || !copySq aux) &&
    (copyDkind aux ≠ 2 || (aux.extractLsb' 23 2) == 0)) 0x01 0
  let ds ← takeDestination a aux n
  let ss ← takeSources b c aux n
  return (.copy a b c (aux.setWidth 64), ds ++ ss)

/-- Whether an address names the issuing tile's own scratchpad. -/
def isOwnScratch (s : State) (a : Word) : Bool :=
  formOf a = 1 && formOk a && some (mirrored s s.focus (gtileOf s a)) == State.tileOf s.focus

/-- The checks of GET. -/
def prepareGet (a b c : Word) : Exec (CmdOp × List Span) := do
  check (c.toNat < 2 ^ 40) 0x01 0
  check (isOwnScratch (← get) a) 0x04 a
  let ds ← takeSpans a c.toNat 1 .write false
  let ss ← takeSpans b c.toNat 1 .read true
  return (.get a b c, ds ++ ss)

/-- The checks of PUTS. -/
def preparePuts (a b c ctr : Word) (dec : Byte) : Exec (CmdOp × List Span) := do
  check ((dec ≠ 0 || ctr = 0) && (dec = 0 || ctr.toNat % 8 = 0) && c.toNat < 2 ^ 40) 0x01 0
  check (formOf b ≠ 1 || isOwnScratch (← get) b) 0x04 b
  let ss ← takeSpans b c.toNat 1 .read false
  let ds ← takeSpans a c.toNat 1 .write true
  let cs ← takeCounter ctr dec
  return (.puts a b c ctr dec, ss ++ ds ++ cs)

/-! ## Appending and publishing (R171, R173) -/

/-- Commands an engine holds that are appended and not complete. -/
def Engine.held (e : Engine) : Nat := (e.cmds.filter (fun c => c.state != .complete)).length

def commandLimit : Nat := 64

/-- The tile whose engines run the issuing sequencer's commands: a pair's primary (R328). -/
def engineTile : Exec Nat := do
  let s ← get
  return s.primaryOf ((State.tileOf s.focus).getD 0)

/-- Writes the state of a command's record in the issuing tile's scratchpad (R172). -/
def markRecord (t : Nat) (c : Cmd) (bytes : List Byte) (at_ : Nat) (s : State) : State :=
  match c.record with
  | some r => writeScratch false (partOfGang s c.gang) c.gang t (r % 2 ^ 20 + at_) (marked bytes false) s
  | none => s

/-- Publishes an engine's commands up to a number. -/
def publishAll (t e upTo : Nat) (s : State) : State :=
  let ready := (s.engine t e).cmds.filter (fun c => c.state == .appended && c.number ≤ upTo)
  let s := s.modEngine t e (fun g => { g with cmds := g.cmds.map (fun c =>
    if c.state == .appended && c.number ≤ upTo then { c with state := .published, since := s.time } else c) })
  ready.foldl (fun s c => markRecord t c (toBytes 2 1) 62 s) s

/-- Appends a command and answers its number. The firing that appends it has begun it, a COLL too, whose writes a BARDEF arrival joins
(R127, R209, R266; log 40). -/
def appendCmd (t e : Nat) (op : CmdOp) (wait : CmdWait) (record : Option Nat) (spans : List Span) : Exec Nat := do
  let s ← get
  let g := s.engine t e
  let n := g.next
  let (token, s) := (Config.freeWord s.free, { s with free := s.free + 1 })
  let c : Cmd :=
    { number := n
      op := op
      wait := wait
      record := record
      firing := s.firingOf s.focus
      gang := s.gangOf s.focus
      state := .appended
      spans := spans
      sent := 0
      early := []
      awaiting := 0
      token := token
      landed := false
      signalled := false
      poison := 0
      since := s.time }
  let join := fun (g : Engine) => { g with next := n + 1, cmds := g.cmds ++ [c] }
  set (s.modEngine t e join)
  -- a gondola's firing on a pair's primary is not paired, so no rollback takes its command back (R328)
  if isGondola (s.seq s.focus) && s.paired t then
    modify (fun s => s.modPair t (fun p => { p with
      primary := if e = 0 then { p.primary with copy := join p.primary.copy } else { p.primary with coll := join p.primary.coll } }))
  modMe (fun q => { q with firing := q.firing.map (fun f => { f with begun := f.begun ++ [(e, n)] }) })
  return n

/-- Publishes up to a number, or leaves that to the pair's boundary (R280). -/
def publishOrHold (t e n : Nat) : Exec Unit := do
  if (← myTwin) == .alone then modify (publishAll t e n) else holdBack (.publish e n)

/-- The fork of every command that a publication up to a number publishes: each sees what the publisher sees (R173, R209, R349). -/
def forkAppended (t e upTo : Nat) : Exec Unit :=
  modify (fun s => ((s.engine t e).cmds.filter (fun c => c.state == .appended && c.number ≤ upTo)).foldl
    (fun s c => forked t e c.number s.focus s) s)

/-- Appends one command held inside the engine and publishes it with every earlier one (R171). -/
def issueCommand (e : Nat) (prepare : Exec (CmdOp × List Span)) : Exec Word := do
  let (op, spans) ← prepare
  let t ← engineTile
  waitUntil (((← get).engine t e).held < commandLimit) .limit
  forkWait
  let n ← appendCmd t e op .none none spans
  forkAppended t e n
  publishOrHold t e n
  return BitVec.ofNat 64 n

/-- A command instruction: the twin takes its primary's D, and the interval closes after it (R279, R280, R281). -/
def commandBody (e : Nat) (i : Instr) (d : Nat) (operands : List Word) (prepare : Exec (CmdOp × List Span)) : Exec Flow := do
  let n ← echoed1 (issueCommand e prepare)
  putX d n false
  takeIn (encode i ++ (operands.map (fun w => toBytes 8 w.toNat)).flatten)
  closeAfter
  return .fall

/-- COPY (R174, R353). -/
def copyBody (f : F96E) : Exec Flow := do
  let a ← useX f.a.toNat
  let b ← useX f.b.toNat
  let c ← useX f.c.toNat
  commandBody 0 (.copy f) f.d.toNat [a, b, c] (prepareCopy a b c f.aux32)

/-- COPY (R353). -/
def execCopy (f : F96E) (s : State) : Host.Outcome State Fault Refusal := issueE (.copy f) f (copyBody f) s

/-- The checks that GET's and PUTS's pseudocode reaches before they consume poison: the length, and GET's destination (R332, R380, R405). -/
def checkFirst (length : Nat) (own : Option Nat) : Exec Unit := do
  let (n, _) ← getX length
  check (n.toNat < 2 ^ 40) 0x01 0
  match own with
  | some r =>
    let (a, _) ← getX r
    check (isOwnScratch (← get) a) 0x04 a
  | none => pure ()

/-- GET (R176, R380). -/
def getBody (f : F96E) : Exec Flow := do
  checkFirst f.c.toNat (some f.a.toNat)
  let a ← useX f.a.toNat
  let b ← useX f.b.toNat
  let c ← useX f.c.toNat
  commandBody 0 (.get f) f.d.toNat [a, b, c] (prepareGet a b c)

/-- GET (R380). -/
def execGet (f : F96E) (s : State) : Host.Outcome State Fault Refusal := issueE (.get f) f (getBody f) s

/-- PUTS (R177, R405): a poisoned D is consumed with its sources. -/
def putsBody (f : F128C) : Exec Flow := do
  checkFirst f.c.toNat none
  let _ ← useX f.d.toNat
  let a ← useX f.a.toNat
  let b ← useX f.b.toNat
  let c ← useX f.c.toNat
  commandBody 0 (.puts f) f.d.toNat [a, b, c] (preparePuts a b c f.imm64 f.sub8)

/-- PUTS (R405). -/
def execPuts (f : F128C) (s : State) : Host.Outcome State Fault Refusal := issueC (.puts f) f (putsBody f) s

/-! ## CHAPP, CHTAIL, CHSEQ (R172, R173, R349) -/

/-- Runs a record's checks: their failure is chain misuse with the record's address, but a TLB miss that the firmware would
serve is served first. -/
def asChain {α : Type} (record : Word) (act : Exec α) : Exec α := fun s =>
  match act s with
  | .error (.trap code tval miss) s' =>
    let served : Bool := match miss, walk s (s.partOf s.focus) tval.toNat with
      | some _, .leaf l => installable s (s.partOf s.focus) l
      | some _, .broken => true
      | _, _ => false
    .error (if served then .trap code tval miss else .trap 0x15 record none) s'
  | r => r

/-- The wait of a record, with the spans of its word (R172). -/
def recordWaitOf (kind sem : Nat) (addr value : Word) : Exec (CmdWait × List Span) := do
  match kind with
  | 0 => return (.none, [])
  | 1 => return (.sem sem, [])
  | 2 => do
    check (formOf addr = 1) 0x04 addr
    return (.full addr, ← takeSpans addr 8 8 .read true)
  | _ => return (.atLeast addr value, ← takeSpans addr 8 8 .read true)

/-- The operation and wait of a record's first six words, once they pass the checks of R172, R175-R177 and R349. -/
def readRecord (ws : List Word) : Exec (CmdOp × CmdWait × List Span) := do
  let w := fun i => ws.getD i 0
  let op := ((w 0).extractLsb' 0 8).toNat
  let kind := ((w 0).extractLsb' 8 8).toNat
  let sem := ((w 0).extractLsb' 16 8).toNat
  let aux := (w 0).extractLsb' 32 32
  check (1 ≤ op && op ≤ 3 && kind ≤ 3 && sem ≤ 7 && ((w 0).extractLsb' 24 8) == 0 && (op = 1 || aux == 0) &&
    (op ≠ 3 || kind ≤ 1)) 0x15 0
  let (o, ss) ← match op with
    | 1 => prepareCopy (w 1) (w 2) (w 3) aux
    | 2 => prepareGet (w 1) (w 2) (w 3)
    | _ => preparePuts (w 1) (w 2) (w 3) (w 4) ((w 5).setWidth 8)
  let (wt, ts) ← recordWaitOf kind sem (w 4) (w 5)
  return (o, wt, ss ++ ts)

/-- Whether a command's wait is satisfied now; a poisoned wait word is consumed (R275). The bank unit of a word-full wait's word
tells the engine when it has served the wait, which it does as an LD `.wf` (R158, R172). -/
def waitOver (t : Nat) (c : Cmd) (look : Cmd → Word → Exec Nat) : Exec Bool := do
  let s ← get
  match c.wait with
  | .none => return true
  | .sem n => return 0 < ((s.tile t).sem n).toNat
  | .full a => return isFull s (gtileOf s a) (offsetOf a / 8)
  | .atLeast a v => return v.toNat ≤ (← look c a)

/-- Where a byte of a command's range stands: a scratchpad of the domain, or external memory by the translations taken at
issue, with its layout-table entry (R175). -/
def placeAt (s : State) (c : Cmd) (a : Word) : Option (Nat × BitVec 32) :=
  if formOf a = 1 then some (scratchKey (gtileOf s a) (offsetOf a), 0)
  else (c.spans.find? (fun p => p.base ≤ a.toNat && a.toNat < p.limit)).map (fun p =>
    (leafKey s.host.devid.toNat p.leaf (a.toNat - p.base), leafEntry s (partOfGang s c.gang) p.leaf))

/-- The bytes of a command's range with their poison marks, page by page; a fenced tile answers poison (R278). -/
def readRange (c : Cmd) : Nat → Word → Nat → Exec Marked
  | 0, _, _ => pure []
  | fuel + 1, a, n => do
    if n = 0 then return []
    let s ← get
    let take := if formOf a = 1 then n else min n (2 ^ 14 - a.toNat % 2 ^ 14)
    let here ← match placeAt s c a with
      | none => poisonBytes take
      | some (key, entry) => fetchMarked (partOfGang s c.gang) c.gang entry key take
    return here ++ (← readRange c fuel (a + BitVec.ofNat 64 take) (n - take))

/-- The engine of a tile whose command a command is. -/
def engineOf (s : State) (t : Nat) (c : Cmd) : Nat :=
  if (s.engine t 1).cmds.any (fun x => x.number == c.number && x.op == c.op) then 1 else 0

/-- What a command of tile `t` reads of a range: its plain reads need not return the last value of a word that it does not see yet
(R203, R209). -/
def viewRange (t : Nat) (c : Cmd) : Nat → Word → Nat → Exec Marked
  | 0, _, _ => pure []
  | fuel + 1, a, n => do
    if n = 0 then return []
    let s ← get
    let take := if formOf a = 1 then n else min n (2 ^ 14 - a.toNat % 2 ^ 14)
    let here ← readRange c 1 a take
    let seen := match placeAt s c a with
      | some (key, _) => if c.spans.any (fun p => p.leaf.getLsbD 7) then here else commandView t (engineOf s t c) c.number key here s
      | none => here
    return seen ++ (← viewRange t c fuel (a + BitVec.ofNat 64 take) (n - take))

/-- A value of `n` bytes of a range with whether any of them is poison. -/
def readValue (c : Cmd) (a : Word) (n : Nat) : Exec (Nat × Bool) := do
  let bs ← readRange c 3 a n
  return (ofBytes (bs.map (·.1)), bs.any (·.2))

/-- The word a command waits on; poison is consumed. -/
def lookAt (c : Cmd) (a : Word) : Exec Nat := do
  let (v, p) ← readValue c a 8
  if p then consumed a
  return v

/-- The oldest command of an engine that is not complete. -/
def Engine.head (e : Engine) : Option Cmd := e.cmds.find? (fun c => c.state != .complete)

/-- The next command to start: the oldest that has not started, if it is published (R171). -/
def Engine.nextToStart (e : Engine) : Option Cmd :=
  match e.cmds.find? (fun c => c.state == .appended || c.state == .published) with
  | some c => if c.state == .published then some c else none
  | none => none

/-- CHAPP's D on the primary: 1 when the engine is full and its head waits for the issuing firing's own record, else 0 with
the record appended and linked. A head that is not published does not count as waiting (DESIGN CHOICE, log 40). The words are D, the sequence number and the previous record's offset plus 1. -/
def chappAnswer (e : Nat) (a : Word) : Exec (List Word) := do
  let ws ← ownWords a (offsetOf a) 6
  let (op, wt, spans) ← asChain a (readRecord ws)
  let t ← engineTile
  let s ← get
  let g := s.engine t e
  if commandLimit ≤ g.held then
    match g.head with
    | some h =>
      let ready ← waitOver t h lookAt
      if h.state == .published && !ready && h.firing == s.firingOf s.focus then return [1, 0, 0]
      else waitFor .limit
    | none => waitFor .limit
  else
    let n ← appendCmd t e op wt (some a.toNat) spans
    modify (fun s => s.modEngine t e (fun g => { g with last := some (offsetOf a) }))
    return [0, BitVec.ofNat 64 n, BitVec.ofNat 64 ((g.last.map (· + 1)).getD 0)]

/-- CHAPP (R173): each member of a pair writes the record's last words in its own scratchpad (R280). -/
def chappBody (f : F96E) : Exec Flow := do
  let a ← useX f.a.toNat
  let s ← get
  let t ← myTileNo
  check (isOwnScratch s a) 0x15 a
  check (a.toNat % 64 = 0) 0x0A a
  let r ← echoed (chappAnswer (f.aux32.toNat % 2) a)
  let d := r.getD 0 0
  if d = 0 then
    let prev := (r.getD 2 0).toNat
    if prev ≠ 0 then putScratch t (prev - 1 + 48) (marked (toBytes 8 a.toNat) false)
    putScratch t (offsetOf a + 48) (marked (toBytes 8 0) false)
    putScratch t (offsetOf a + 56) (marked (toBytes 4 (r.getD 1 0).toNat ++ toBytes 4 0) false)
  putX f.d.toNat d false
  takeIn (encode (.chapp f) ++ toBytes 8 a.toNat)
  return .fall

/-- CHAPP (R349). -/
def execChapp (f : F96E) (s : State) : Host.Outcome State Fault Refusal := issueE (.chapp f) f (chappBody f) s

/-- CHTAIL (R173, R349): publishes all, with a fork edge; with nothing unpublished it changes nothing. -/
def chtailBody (f : F64A) : Exec Flow := do
  let e := f.imm16.toNat % 2
  let t ← engineTile
  unlessTwin (do
    let g := (← get).engine t e
    if g.cmds.any (fun c => c.state == .appended) then
      forkWait
      forkAppended t e (g.next - 1)
      publishOrHold t e (g.next - 1))
  takeIn (encode (.chtail f))
  closeAfter
  return .fall

/-- CHTAIL (R349). -/
def execChtail (f : F64A) (s : State) : Host.Outcome State Fault Refusal := issueA (.chtail f) f (chtailBody f) s

/-- CHSEQ (R173, R349). -/
def chseqBody (f : F64A) : Exec Flow := do
  let b ← useX f.b.toNat
  let t ← engineTile
  let v ← echoed1 (do
    let g := (← get).engine t (f.imm16.toNat % 2)
    check (b.toNat < g.next) 0x15 0
    waitUntil (b.toNat ≤ g.cs) .chain
    modify (fun s => commandJoined t (f.imm16.toNat % 2) g.cs s.focus s)
    return BitVec.ofNat 64 g.cs)
  putX f.d.toNat v false
  return .fall

/-- CHSEQ (R349). -/
def execChseq (f : F64A) (s : State) : Host.Outcome State Fault Refusal := issueA (.chseq f) f (chseqBody f) s

/-! ## Moving data (R163, R169, R172, R174, R175, R178, R213) -/

/-- The parts of [start, start + n) that lie in one aligned 8-byte word each, as offset and length. -/
def wordParts (start n : Nat) : List (Nat × Nat) :=
  (List.range ((start + n + 7) / 8 - start / 8)).map (fun i =>
    let lo := max start (8 * (start / 8 + i))
    let hi := min (start + n) (8 * (start / 8 + i) + 8)
    (lo - start, hi - lo))

/-- Where a copy's bytes go: an address, a slot of a tile from an offset on, or a stream of a tile (R174). -/
inductive Sink where
  | mem (a : Word)
  | slot (tile slot off : Nat)
  | stream (tile : Nat) (x : Bool) (sd : Nat)
  deriving DecidableEq, Repr

/-- The destination that COPY's A and AUX32 name, from byte `o` on. -/
def sinkOf (s : State) (a : Word) (aux : BitVec 32) (o : Nat) : Sink :=
  match copyDkind aux with
  | 1 => .slot (gtileOf s a) (copySlot aux) (a.toNat % 2 ^ 13 + o)
  | 2 => .stream (gtileOf s a) (copySq aux) (copySd aux)
  | _ => .mem (a + BitVec.ofNat 64 o)

/-- The FIFO of a stream of a tile. -/
def streamOf (s : State) (t : Nat) (x : Bool) (sd : Nat) : Stream :=
  (s.seq (if x then .x t else .a t)).sds.getD sd Stream.reset

/-- Bytes of a stream's FIFO (R163). -/
def fifoBytes : Nat := 1024

/-- Bytes that a sink takes now. -/
def Sink.room (s : State) : Sink → Nat
  | .stream t x sd => fifoBytes - (streamOf s t x sd).fifo.length
  | _ => 2 ^ 40

/-- Appends bytes to a stream of a tile, at both members of a pair. -/
def pushStream (t : Nat) (x : Bool) (sd : Nat) (bs : Marked) (s : State) : State :=
  let push := fun (q : Seq) =>
    let d := q.sds.getD sd Stream.reset
    { q with sds := q.sds.setIfInBounds sd { d with fifo := d.fifo ++ bs } }
  outsideChange t (fun u => if x then { u with x := push u.x } else { u with a := push u.a }) s

/-- Fills bytes of an operand-memory slot for a partition and a gang, at both members of a pair (R164). -/
def fillSlot (p g t slot off : Nat) (bs : Marked) (s : State) : State :=
  (stateTiles s false t).foldl (fun s u => writeBytes p g 0 (slotKey u slot off) bs s) s

/-- The bytes of one part of a block. -/
def partOfBlock (bs : Marked) (p : Nat × Nat) : Marked := (bs.drop p.1).take p.2

/-- Poisoned aligned words of a block from an offset on. -/
def poisonedParts (start : Nat) (bs : Marked) : Nat :=
  ((wordParts start bs.length).filter (fun p => (partOfBlock bs p).poisoned)).length

/-- The index array of a gather. -/
def Cmd.indices (c : Cmd) : Word :=
  match c.op with
  | .copy _ _ len _ => len
  | _ => 0

/-- Bytes of a command's destination. -/
def Cmd.total (c : Cmd) : Nat :=
  match c.op with
  | .copy _ _ len aux => copyBytes (aux.setWidth 32) len.toNat
  | .get _ _ len => len.toNat
  | .puts _ _ len _ _ => len.toNat
  | .coll .. => 0

/-- A mode 2 element's place at run time: under R156 and R99, through the cluster's TLB, whose miss the serving service core answers,
on this module (R174, R175, R186). -/
def elementPlace (t : Nat) (c : Cmd) (a : Word) (n : Nat) : Exec (Option (Nat × BitVec 32 × Bool)) := do
  let s ← get
  let p := partOfGang s c.gang
  if !formOk a || shutOut s (.a t) a || (rangeCause a n).isSome then return none
  else if formOf a = 1 then
    return if deviceOf a = s.host.devid.toNat && mayReach s (.a t) (gtileOf s a) then some (scratchKey (gtileOf s a) (offsetOf a), 0, false)
      else none
  else
    let (e, s') := deviceEntry (.a t) p c.gang a.toNat .read s
    match e with
    | .found e =>
      set s'
      let leaf := e.leaf.setWidth 64
      return if resOf leaf = 2 then none else some (leafKey s.host.devid.toNat leaf (a.toNat - e.base), leafEntry s p leaf, leaf.getLsbD 7)
    | .absent =>
      set s'
      return none
    | .pends => waitMiss (.a t) p c.gang a.toNat .read

/-- The address of element `i` of a gather, by its index; none for a poisoned index. -/
def elementAddress (c : Cmd) (src indices : Word) (w i : Nat) : Exec (Option Word) := do
  let (v, bad) ← readValue c (indices + BitVec.ofNat 64 (4 * i)) 4
  return if bad then none else some (src + BitVec.ofNat 64 (w * v))

/-- The bytes of a command's range as runs of consecutive keys, page by page. -/
def rangeRuns (s : State) (c : Cmd) : Nat → Word → Nat → List (Nat × Nat)
  | 0, _, _ => []
  | fuel + 1, a, n =>
    if n = 0 then []
    else
      let take := if formOf a = 1 then n else min n (2 ^ 14 - a.toNat % 2 ^ 14)
      let more := rangeRuns s c fuel (a + BitVec.ofNat 64 take) (n - take)
      match placeAt s c a with
      | some (key, _) => (key, take) :: more
      | none => more

/-- The place of element `i` of a gather; none for a poisoned index or an address that faults. -/
def indexedPlace (t : Nat) (c : Cmd) (src indices : Word) (w i : Nat) : Exec (Option (Nat × BitVec 32 × Bool)) := do
  match ← elementAddress c src indices w i with
  | some a => elementPlace t c a w
  | none => return none

/-- The elements of a gather as runs of keys; a poisoned index and an address that faults name none. -/
def gatherRuns (s : State) (t : Nat) (c : Cmd) (src indices : Word) (w count : Nat) : List (Nat × Nat) :=
  (List.range count).flatMap (fun i =>
    match (indexedPlace t c src indices w i).run s with
    | .ok (some (key, _)) _ => [(key, w)]
    | _ => [])

/-- The sources of a command: its data, with the metadata of mode 1 and the indices of mode 2 (R174). -/
def sourceRuns (s : State) (t : Nat) (c : Cmd) : List (Nat × Nat) :=
  let range := fun (a : Word) (n : Nat) => rangeRuns s c (n / 2 ^ 14 + 2) a n
  match c.op with
  | .copy _ src len aux =>
    let x := aux.setWidth 32
    match copyMode x with
    | 0 => range src len.toNat
    | 1 => range src (c.total / 2) ++ range len (copyCount x / 4)
    | _ => range len (4 * copyCount x) ++ gatherRuns s t c src len (copyElement x) (copyCount x)
  | .get _ src len => range src len.toNat
  | .puts _ src len _ _ => range src len.toNat
  | .coll .. => []

/-- The bytes that a command writes from an address on: one that its sources hold as well is left unspecified, so it is a
free byte (R175, R380). -/
def unsettled (t : Nat) (c : Cmd) (a : Word) (bs : Marked) : Exec Marked := do
  let s ← get
  let runs := sourceRuns s t c
  let shared := (List.range bs.length).map (fun i => match placeAt s c (a + BitVec.ofNat 64 i) with
    | some (key, _) => runs.any (fun r => decide (r.1 ≤ key) && decide (key < r.1 + r.2))
    | none => false)
  if shared.any id then
    set { s with free := s.free + bs.length }
    return (bs.zip (shared.zip (freeBytes s.free bs.length))).map (fun b => if b.2.1 then (b.2.2, b.1.2) else b.1)
  else return bs

/-- The pages of a range as offset and length. -/
def pageParts (a : Word) (n : Nat) : List (Nat × Nat) :=
  if formOf a = 1 then [(0, n)]
  else
    (List.range ((a.toNat + n + 2 ^ 14 - 1) / 2 ^ 14 - a.toNat / 2 ^ 14)).map (fun i =>
      let lo := max a.toNat ((a.toNat / 2 ^ 14 + i) * 2 ^ 14)
      let hi := min (a.toNat + n) ((a.toNat / 2 ^ 14 + i + 1) * 2 ^ 14)
      (lo - a.toNat, hi - lo))

/-- A command's write of `n` bytes at an address, whose key is given: until a join other agents need not see it (R209), unless its pages
are strongly ordered (R207). -/
def hideBlock (s : State) (t : Nat) (c : Cmd) (a : Word) (key n : Nat) (u : State) : State :=
  if c.spans.any (fun p => p.leaf.getLsbD 7) then u
  else hide s (fun w => [a.toNat + 8 * w - key]) [.command t (engineOf s t c) c.number] key n u

/-- Writes a block of a command of tile `t` into a sink, page by page in one write each (R178, R213, R272). A fence drops it (R278). -/
def deliver (t : Nat) (c : Cmd) (sink : Sink) (bs : Marked) : Exec Unit := do
  let s ← get
  let p := partOfGang s c.gang
  match sink with
  | .mem a =>
    match placeAt s c a with
    | none => pure ()
    | some (first, _) =>
      if fencedKey s first then set (dropWrite p s)
      else
        let bs ← unsettled t c a bs
        for x in pageParts a bs.length do
          match placeAt s c (a + BitVec.ofNat 64 x.1) with
          | some (key, entry) =>
            let before ← get
            if spaceOf key = spaceScratch then modify (writeScratch false p c.gang (tileOfKey key) (key % 2 ^ 20) (partOfBlock bs x))
            else storeMarked p c.gang entry key (partOfBlock bs x)
            modify (hideBlock before t c (a + BitVec.ofNat 64 x.1) key x.2)
          | none => pure ()
  | .slot u n off => if fenced s u then set (dropWrite p s) else modify (fillSlot p c.gang u n off bs)
  | .stream u x sd => if fenced s u then set (dropWrite p s) else modify (pushStream u x sd bs)

/-- Counts poisoned words or elements for a command's gang (R175). -/
def countPoison (g n : Nat) (s : State) : State := s.modGang g (fun u => { u with poison := min (u.poison + n) (2 ^ 32 - 1) })

/-- Updates one command of an engine. -/
def modCmd (t e n : Nat) (f : Cmd → Cmd) (s : State) : State :=
  s.modEngine t e (fun g => { g with cmds := g.cmds.map (fun c => if c.number = n then f c else c) })

/-- `bad` of a command's words or elements are written as poison. -/
def notePoison (t e : Nat) (c : Cmd) (bad : Nat) (s : State) : State :=
  countPoison c.gang bad (modCmd t e c.number (fun c => { c with poison := c.poison + bad }) s)

/-- The greatest request of a copy (R169). -/
def requestBytes : Nat := 4096

/-- Whether a byte of a range is external and lies on this module. -/
def isLocalExternal (s : State) (c : Cmd) (a : Word) : Bool :=
  match placeAt s c a with
  | some (key, _) => isExternal key && key / 2 ^ 53 = 0
  | none => false

/-- The owning core of a byte of a range. -/
def coreOf (s : State) (c : Cmd) (a : Word) : Nat :=
  match placeAt s c a with
  | some (key, _) => ownerOf key
  | none => 0

/-- The eight words of a request (R169). -/
def requestWords (t : Nat) (c : Cmd) (kind : Nat) (ext tile : Word) (len : Nat) (aux : BitVec 32) (index : Word) : Request8 :=
  let first := BitVec.ofNat 64 (kind + (unitOf (.a t)).toNat * 2 ^ 16 + c.number % 2 ^ 32 * 2 ^ 32)
  let size := BitVec.ofNat 64 (len + aux.toNat * 2 ^ 32)
  Vector.ofFn (fun i : Fin 8 => [first, ext, tile, size, index, c.token, 0, 0].getD i.val 0)

/-- Puts a request into a memory core's queue, which must have a free slot, and publishes it (R169). -/
def publishRequest (core : Nat) (r : Request8) (s : State) : State :=
  let u := s.mcore core
  latch (.m core) 64 (s.modMCore core (fun v =>
    { v with slots := v.slots.setIfInBounds (u.p.toNat % 64) r, p := v.p + 1 }))

def requestRoom (s : State) (core : Nat) : Bool := ((s.mcore core).p - (s.mcore core).c).toNat < 64

/-- Whether a request of an engine is on its way into a memory core's queue. -/
def enqueuing (s : State) (t e core : Nat) : Bool :=
  s.fabric.requests.any (fun r => r.seq == .a t && r.engine.any (fun x => x.1 == e) && r.home == 2 ^ 20 + core && (match r.op with
    | .enqueue _ => true
    | _ => false))

/-- A request of an engine's command leaves for a memory core's queue, on the ordered flow between them (R169, R208, R250). -/
def sendRequest (t e : Nat) (c : Cmd) (core : Nat) (r : Request8) (s : State) : State :=
  addRequest (.a t) (some (e, c.number)) 0 c.gang (partOfGang s c.gang) (.enqueue r) (2 ^ 20 + core) true none none s

/-- Sends a request of a command for bytes of its destination, when the owner's queue has room and none is on its way there. -/
def request (t e : Nat) (c : Cmd) (core kind : Nat) (ext tile : Word) (len : Nat) (aux : BitVec 32) (index : Word) : Exec Unit := do
  let s ← get
  waitUntil (requestRoom s core && !enqueuing s t e core) .engine
  modify (fun s => modCmd t e c.number (fun c => { c with awaiting := c.awaiting + 1 })
    (sendRequest t e c core (requestWords t c kind ext tile len aux index) s))

/-! ### The bytes of a destination (R174, R175) -/

/-- Bytes of an element as poison where `bad`. -/
def asPoison (bad : Bool) (bs : Marked) : Marked := bs.map (fun b => (b.1, b.2 || bad))

/-- Group `g` of a 2:4 expansion: four dense elements of `w` bytes. -/
def groupBytes (t : Nat) (c : Cmd) (src meta_ : Word) (w g : Nat) : Exec Marked := do
  let (m, mbad) ← readValue c (meta_ + BitVec.ofNat 64 g) 1
  let vs ← viewRange t c 3 (src + BitVec.ofNat 64 (2 * w * g)) (2 * w)
  let p := m % 4
  let q := m / 4 % 4
  let bad := mbad || q ≤ p || 16 ≤ m
  return ((List.range 4).map (fun i => asPoison bad (if i = p then vs.take w else if i = q then vs.drop w else marked (toBytes w 0) false))).flatten

/-- The bytes of a gathered element: poison for one whose address faults, which becomes the gang's last fault address. -/
def elementBytes (t : Nat) (c : Cmd) (src indices : Word) (w i : Nat) : Exec Marked := do
  match ← elementAddress c src indices w i with
  | none => poisonBytes w
  | some a =>
    match ← elementPlace t c a w with
    | some (key, entry, ordered) =>
      let s ← get
      let bs ← fetchMarked (partOfGang s c.gang) c.gang entry key w
      let bs := asPoison (Marked.poisoned bs) bs
      if ordered then
        modify (commandFence t (engineOf s t c) c.number)
        return bs
      return commandView t (engineOf s t c) c.number key bs s
    | none =>
      modify (fun s => takeRefusal (.a t) (partOfGang s c.gang) c.gang a.toNat .read (s.modGang c.gang (fun u => { u with lastFault := a })))
      poisonBytes w

/-- Bytes [lo, lo + n) of items of `u` bytes each. -/
def fromItems (item : Nat → Exec Marked) (u lo n : Nat) : Exec Marked := do
  let first := lo / u
  let bs ← (List.range ((lo + n + u - 1) / u - first)).mapM (fun i => item (first + i))
  return (bs.flatten.drop (lo - first * u)).take n

/-- Bytes [lo, lo + n) of a command's destination, from its sources as they are now. -/
def produce (t : Nat) (c : Cmd) (lo n : Nat) : Exec Marked :=
  match c.op with
  | .copy _ src len aux =>
    let x := aux.setWidth 32
    let w := copyElement x
    match copyMode x with
    | 0 => viewRange t c (n / 2 ^ 14 + 2) (src + BitVec.ofNat 64 lo) n
    | 1 => fromItems (groupBytes t c src len w) (4 * w) lo n
    | _ => fromItems (elementBytes t c src len w) w lo n
  | .get _ src _ => viewRange t c (n / 2 ^ 14 + 2) (src + BitVec.ofNat 64 lo) n
  | .puts _ src _ _ _ => viewRange t c (n / 2 ^ 14 + 2) (src + BitVec.ofNat 64 lo) n
  | .coll .. => pure []

/-- A command's destination address and AUX32; a command other than COPY writes memory. -/
def Cmd.target (c : Cmd) : Word × BitVec 32 :=
  match c.op with
  | .copy dst _ _ aux => (dst, aux.setWidth 32)
  | .get dst _ _ => (dst, 0)
  | .puts dst _ _ _ _ => (dst, 0)
  | .coll dst .. => (dst, 0)

def Cmd.sink (s : State) (c : Cmd) (lo : Nat) : Sink := sinkOf s c.target.1 c.target.2 lo

/-! ### Blocks (R169, R171, R176-R178, R209, R213, R254) -/

/-- Whether a copy fills a stream. -/
def Cmd.isStream (c : Cmd) : Bool := copyDkind c.target.2 = 2

/-- What a command writes at once: an aligned 8-byte word, of memory or of a stream's bytes, or a 64-byte row of a slot (R178, R213). -/
def Cmd.unit (c : Cmd) : Nat := if copyDkind c.target.2 = 1 then 64 else 8

/-- The place of a destination's first byte among its units; a stream's words count from its first byte. -/
def Cmd.base (c : Cmd) : Nat := if c.isStream then 0 else c.target.1.toNat % 64

/-- The unit of the destination that holds byte `lo`, and the first byte of a unit. -/
def Cmd.unitOf (c : Cmd) (lo : Nat) : Nat := (c.base + lo) / c.unit
def Cmd.unitStart (c : Cmd) (k : Nat) : Nat := k * c.unit - c.base

/-- Of the `n` bytes from `lo` on, at most `limit` that end with a unit; one unit at least. -/
def Cmd.wholeUnits (c : Cmd) (lo n limit : Nat) : Nat :=
  if n ≤ limit then n
  else
    let m := limit - (c.base + lo + limit) % c.unit
    if m = 0 then min n (c.unitStart (c.unitOf lo + 1) - lo) else m

/-- What a command counts as poison in a block of its destination: words in mode 0, else elements, each in the block that holds its
last byte (R175). -/
def Cmd.poisoned (c : Cmd) (lo : Nat) (bs : Marked) : Nat :=
  if copyMode c.target.2 = 0 then poisonedParts ((c.base + lo) % 8) bs
  else
    let w := copyElement c.target.2
    ((List.range ((lo + bs.length) / w - lo / w)).filter (fun i =>
      Marked.poisoned ((bs.drop ((lo / w + i) * w - lo)).take (w - (lo - (lo / w + i) * w))))).length

/-- Writes bytes of a command's destination from `lo` on and counts their poison. -/
def landBytes (t e : Nat) (c : Cmd) (lo : Nat) (bs : Marked) : Exec Unit := do
  deliver t c (c.sink (← get) lo) bs
  modify (notePoison t e c (c.poisoned lo bs))

/-- The home of an engine's access to a byte of a range, if it has a place (R165, R208). -/
def homeAt (s : State) (c : Cmd) (a : Word) : Option Nat :=
  (placeAt s c a).map (fun k => homeOf (if spaceOf k.1 = spaceScratch then .scratch (tileOfKey k.1) (k.1 % 2 ^ 20) else .ext k.1 0))

/-- The home of a sink. -/
def sinkHome (s : State) (c : Cmd) : Sink → Option Nat
  | .mem a => homeAt s c a
  | .slot u _ _ => some u
  | .stream u _ _ => some u

/-- The homes of what byte `lo` of a command's destination comes from. -/
def sourceHomes (t : Nat) (c : Cmd) (lo : Nat) : Exec (List Nat) := do
  let s ← get
  let plain := fun (src : Word) => (homeAt s c (src + BitVec.ofNat 64 lo)).toList
  match c.op with
  | .copy _ src len aux =>
    let x := aux.setWidth 32
    let w := copyElement x
    match copyMode x with
    | 0 => return plain src
    | 1 => return (homeAt s c (src + BitVec.ofNat 64 (lo / (4 * w) * 2 * w))).toList ++ (homeAt s c (len + BitVec.ofNat 64 (lo / (4 * w)))).toList
    | _ =>
      let element := match ← indexedPlace t c src len w (lo / w) with
        | some (key, _) => if spaceOf key = spaceScratch then homeOf (.scratch (tileOfKey key) 0) else homeOf (.ext key 0)
        | none => t
      return element :: (homeAt s c (len + BitVec.ofNat 64 (lo / w * 4))).toList
  | .get _ src _ => return plain src
  | .puts _ src _ _ _ => return plain src
  | .coll .. => return []

/-- Bytes of a packet's payload at most (R254). -/
def packetLimit : Nat := 256

/-- Packets that a flow holds unacknowledged at most (R208). -/
def flowLimit : Nat := 2 ^ 23

/-- Sends a packet of a command; GET's data travels on an ordered flow (R176, R208). -/
def sendPacket (t e : Nat) (c : Cmd) (op : ReqOp) (home : Nat) : Exec Unit := do
  let ordered := match c.op with
    | .get .. => true
    | _ => false
  waitUntil (((← get).fabric.requests.filter (fun r => r.seq == .a t && r.engine.isSome && r.home == home && r.ordered == ordered)).length < flowLimit) .engine
  modify (fun s => modCmd t e c.number (fun c => { c with awaiting := c.awaiting + 1 })
    (addRequest (.a t) (some (e, c.number)) 0 c.gang (partOfGang s c.gang) op home ordered none none s))

/-- The memory-core request that serves bytes from `lo` on of a copy between external memory of this module and a tile: its core,
kind, external address, tile-side address and index address, and the most bytes it may have (R169). -/
def coreRequest (t : Nat) (c : Cmd) (lo : Nat) : Exec (Option (Nat × Nat × Word × Word × Word × Nat)) := do
  let s ← get
  let d := c.target.1 + BitVec.ofNat 64 lo
  let inner := formOf c.target.1 = 1
  let place := if c.isStream then c.target.1 else d
  let piece := fun (a : Word) => min requestBytes (2 ^ 14 - a.toNat % 2 ^ 14)
  let plain := fun (src : Word) =>
    let a := src + BitVec.ofNat 64 lo
    if inner && isLocalExternal s c a then some (coreOf s c a, 1, a, place, (0 : Word), piece a)
    else if !inner && formOf a = 1 && isLocalExternal s c d then some (coreOf s c d, 2, d, a, 0, piece d)
    else none
  match c.op with
  | .copy _ src len aux =>
    let w := copyElement (aux.setWidth 32)
    match copyMode (aux.setWidth 32) with
    | 0 => return plain src
    | 2 =>
      if inner && lo % w = 0 then
        match ← indexedPlace t c src len w (lo / w) with
        | some (key, _) =>
          let n := max w c.unit
          return if isExternal key && n % w = 0 then some (ownerOf key, 3, src, place, len + BitVec.ofNat 64 (lo / w * 4), n) else none
        | none => return none
      else return none
    | _ => return none
  | .get _ src _ => return plain src
  | _ => return none

/-- Whether a command's blocks go one after another: a stream's, a GET's (R163, R176), and those of a command that meets a strongly
ordered page, whose accesses are fences on both sides (R207). -/
def Cmd.serial (c : Cmd) : Bool :=
  c.isStream || c.spans.any (fun p => p.leaf.getLsbD 7) || (match c.op with
    | .get .. => true
    | _ => false)

/-- The bytes of a command's destination from `lo` on whose parts of its ranges lie in one piece of 16 KiB each, so that each has one owner
(R165); of a gather, one element or one unit. -/
def Cmd.inPiece (c : Cmd) (lo : Nat) : Nat :=
  let left := fun (a : Word) => if formOf a = 1 then 2 ^ 40 else 2 ^ 14 - a.toNat % 2 ^ 14
  let at_ := fun (a : Word) (o : Nat) => left (a + BitVec.ofNat 64 o)
  let w := copyElement c.target.2
  let dest := if copyDkind c.target.2 = 0 then at_ c.target.1 lo else 2 ^ 40
  min dest (match c.op with
    | .copy _ src len aux => match copyMode (aux.setWidth 32) with
      | 0 => at_ src lo
      | 1 =>
        let g := lo / (4 * w)
        min (at_ src (2 * w * g) / (2 * w)) (at_ len g) * (4 * w) - lo % (4 * w)
      | _ => max w c.unit
    | .get _ src _ => at_ src lo
    | .puts _ src _ _ _ => at_ src lo
    | .coll .. => 0)

/-- Whether a command's data crosses a tether, where a transfer is split into packets of 256 bytes with the remainder last (R254). -/
def Cmd.crosses (c : Cmd) (s : State) : Bool :=
  (match c.op with
   | .get _ src _ => [src]
   | .puts dst .. => [dst]
   | _ => []).any (fun a => (homeAt s c a).any (fun h => h / 2 ^ 22 ≠ 0))

/-- Moves bytes from `lo` on of a command's destination, at most `n`: between external memory and a tile by the owner's request queue,
between what stands in the engine's own tile at once, and otherwise by packets, first to the source and then to the destination.
`note` tells the command how many they are. -/
def moveBlock (t e : Nat) (c : Cmd) (lo n : Nat) (note : Nat → Cmd → Cmd) : Exec Unit := do
  waitUntil (!c.serial || c.awaiting = 0) .engine
  if c.spans.any (fun p => p.leaf.getLsbD 7) then modify (commandFence t e c.number)
  let done := fun (k : Nat) => modify (modCmd t e c.number (note k))
  match ← coreRequest t c lo with
  | some (core, kind, ext, tile, index, most) =>
    let k := c.wholeUnits lo n most
    if k ≤ most && (kind ≠ 3 || k % copyElement c.target.2 = 0) then
      request t e c core kind ext tile k c.target.2 index
      return ← done k
  | none => pure ()
  let s ← get
  let sink := c.sink s lo
  let k := if c.crosses s then min n (min packetLimit (c.inPiece lo)) else c.wholeUnits lo n (min packetLimit (min (c.inPiece lo) (sink.room s)))
  waitUntil (0 < k && k ≤ sink.room s) .engine
  match (← sourceHomes t c lo).find? (· != t) with
  | some home => sendPacket t e c (.fetch lo k) home
  | none =>
    let bs ← produce t c lo k
    match sinkHome s c sink with
    | some home => if home = t then landBytes t e c lo bs else sendPacket t e c (.land lo bs) home
    | none => landBytes t e c lo bs
  done k

/-- The first unit past `k` that a command has moved early. -/
def Cmd.nextEarly (c : Cmd) (k : Nat) : Option Nat := (c.early.filter (k < ·)).min?

/-- Moves the next block of a command's data; it waits while it cannot. -/
def moveNext (t e : Nat) (c : Cmd) : Exec Unit := do
  let k := c.unitOf c.sent
  if c.early.contains k then
    modify (modCmd t e c.number (fun c => { c with sent := min c.total (c.unitStart (k + 1)), early := c.early.filter (· != k) }))
  else
    let stop := match c.nextEarly k with
      | some j => min c.total (c.unitStart j)
      | none => c.total
    moveBlock t e c c.sent (stop - c.sent) (fun n c => { c with sent := c.sent + n })

/-- Whether a unit of a command's destination can be moved before those before it: its writes to different words are not ordered
(R178, R209), unless its blocks go one after another. -/
def Cmd.mayLead (c : Cmd) (k : Nat) : Bool :=
  !c.serial && c.unitOf c.sent < k && c.unitStart k < c.total && !c.early.contains k && !c.landed

/-- Moves one unit of a command's destination ahead of its time. -/
def moveEarly (t e : Nat) (c : Cmd) (k : Nat) : Exec Unit := do
  waitUntil (c.mayLead k && !c.crosses (← get)) .engine
  let lo := c.unitStart k
  moveBlock t e c lo (min c.total (c.unitStart (k + 1)) - lo) (fun _ c => { c with early := c.early ++ [k] })

/-- A command's data has landed when all of it is moved and every request has returned. -/
def Cmd.arrived (c : Cmd) : Bool := c.total ≤ c.sent && c.awaiting = 0

/-- A command whose data has landed is so marked; a command without a signal has none to wait for. -/
def noteLanded (t e n : Nat) (s : State) : State :=
  modCmd t e n (fun c =>
    if c.arrived then
      match c.op with
      | .coll .. => c
      | .puts _ _ _ _ dec => { c with landed := true, signalled := c.signalled || dec == 0 }
      | _ => { c with landed := true, signalled := true }
    else c) s

/-- Commands that run at once (R171). -/
def runningLimit : Nat := 8

/-- Whether a request of a command stands. -/
def hasRequest (s : State) (t e n : Nat) : Bool := s.fabric.requests.any (fun r => r.seq == .a t && r.engine == some (e, n))

/-- A command starts; its record shows it. -/
def beginCmd (t e : Nat) (c : Cmd) : Exec Unit :=
  modify (fun s => noteLanded t e c.number
    (markRecord t c (toBytes 2 2) 62 (modCmd t e c.number (fun c => { c with state := .running }) s)))

/-- Starts the next published command once its wait is satisfied, and answers the command that has started (R171, R172). The access of
a word-full wait goes to the word's bank unit as an LD `.wf` does, and waits there (R158). -/
def startNext (t e : Nat) : Exec (Option Cmd) := do
  let s ← get
  let g := s.engine t e
  waitUntil ((g.cmds.filter (fun c => c.state == .running)).length < runningLimit) .engine
  match g.nextToStart with
  | none => waitFor .engine
  | some c =>
    match c.wait with
    | .full a =>
      waitUntil (!hasRequest s t e c.number) .engine
      let gtile := gtileOf s a
      set (addRequest (.a t) (some (e, c.number)) 0 c.gang (partOfGang s c.gang) (.fe gtile .wf (offsetOf a) 8 0 false)
        (homeOf (.scratch gtile 0)) true none none s)
      return none
    | .sem n =>
      waitUntil (← waitOver t c lookAt) .engine
      modify (fun s => commandAcquires t e c.number (semObject t n)
        (outsideChange t (fun u => setSem n (if u.sem n = 0 then 0 else u.sem n - 1) u) s))
      beginCmd t e c
      return some c
    | .atLeast a _ =>
      waitUntil (← waitOver t c lookAt) .engine
      modify (fun s => match placeAt s c a with
        | some p => commandAcquires t e c.number (leadWord s (p.1 / 8)) s
        | none => s)
      beginCmd t e c
      return some c
    | .none =>
      beginCmd t e c
      return some c

/-- What the answer of a request of an engine's command does to the command: its data has landed so far, its signal is applied, or its
word is full. -/
def answerCmd (t e n : Nat) (op : ReqOp) (s : State) : State :=
  match op with
  | .fe gtile _ off _ _ _ => modCmd t e n (fun c => { c with wait := .none }) (commandAcquires t e n (leadWord s (scratchKey gtile off / 8)) s)
  | .add _ _ _ => modCmd t e n (fun c => { c with awaiting := c.awaiting - 1, signalled := true }) s
  | .enqueue _ => s
  | _ => noteLanded t e n (modCmd t e n (fun c => { c with awaiting := c.awaiting - 1 }) s)

/-- Whether a partition's injection is stopped (R252). -/
def draining (s : State) (p : Nat) : Bool := s.fabric.drain.getD (p % 16) .idle == .stopped

/-- Whether a tile's engines act: its gang runs, and its partition does not drain (R252). -/
def enginesRun (s : State) (t : Nat) : Bool :=
  (s.tile t).gang != 0 && gangRuns s (s.tile t).gang && !draining s (partOfGang s (s.tile t).gang)

/-- A command that runs to completion although its gang is being pre-empted: a PUTS or a COLL that has started (R146). -/
def finishes (s : State) (t e n : Nat) : Bool :=
  match s.gang? (s.tile t).gang, (s.engine t e).cmds.find? (fun c => c.number == n) with
  | some u, some c => u.phase == .preempted && u.killing.isNone && c.state == .running && !draining s u.part &&
      (match c.op with
       | .puts .. => true
       | .coll .. => true
       | _ => false)
  | _, _ => false

/-- What an act that cannot be done yet leaves: what its reads have found (R273), and the miss of a device unit (R188). -/
def undone (s s' : State) (e : Stop) : State :=
  let u := if s'.parts = s.parts then s else keepFindings s s'
  match e with
  | .wait .miss register => register u
  | _ => u

/-- The outcome of an engine's act: poison it consumes kills the tile's rectangle, and what it cannot do yet changes nothing but
what its reads have found (R273). -/
def engineOutcome (t : Nat) (s : State) (act : Exec Unit) : Host.Outcome State Fault Refusal :=
  match act.run s with
  | .ok _ s' => .next s'
  | .error (.poison v) s' => .next (consumePoison (.a t) (noteConsumed (.a t) v (keepFindings s s')))
  | .error (.fault r) _ => .fault r
  | .error e s' => .next (undone s s' e)

/-! ## PUTS's signal and completion (R171, R172, R177, R405) -/

/-- PUTS_SIGNAL (R177): after all data has landed the signal goes to the counter's home, which subtracts the decrement, once; a
fenced home drops it (R405). -/
def signalPuts (t e : Nat) (c : Cmd) : Exec Unit := do
  match c.op with
  | .puts _ _ _ ctr dec =>
    let s ← get
    waitUntil (c.landed && !c.signalled && c.awaiting = 0) .engine
    match placeAt s c ctr, homeAt s c ctr with
    | some (key, entry), some home =>
      set (modCmd t e c.number (fun c => { c with awaiting := 1 })
        (addRequest (.a t) (some (e, c.number)) 0 c.gang (partOfGang s c.gang) (.add ⟨key, entry, 8⟩ (0 - dec.setWidth 64) ctr) home true
          none none s))
    | _, _ => set (modCmd t e c.number (fun c => { c with signalled := true }) s)
  | _ => waitFor .engine

def findCmd (s : State) (t e n : Nat) : Option Cmd := (s.engine t e).cmds.find? (fun c => c.number == n)

/-- PUTS_SIGNAL (R177). -/
def execPutsSignal (tile engine number : Nat) (s : State) : Host.Outcome State Fault Refusal :=
  match findCmd s tile engine number with
  | some c => if c.state == .running then engineOutcome tile s (signalPuts tile engine c) else .next s
  | none => .next s

/-- The commands above the longest complete run from the front, and the number of the last of that run. -/
def dropComplete (cs : Nat) : List Cmd → Nat × List Cmd
  | [] => (cs, [])
  | c :: l => if c.state == .complete then dropComplete c.number l else (cs, c :: l)

/-- A command completes: its record shows the poison count and state 3, CS advances, and the tile's sequencers wake (R171,
R172, R440). -/
def completeCmd (t e : Nat) (c : Cmd) (s : State) : State :=
  let s := modCmd t e c.number (fun c => { c with state := .complete }) s
  let s := s.modEngine t e (fun g =>
    let (n, l) := dropComplete g.cs g.cmds
    { g with cmds := l, cs := n })
  let s := markRecord t c (toBytes 2 (min c.poison 0xFFFF) ++ toBytes 2 3) 60 s
  (stateTiles s false t).foldl (fun s u => latchTile u 16 s) s

/-- Whether a running command is over. -/
def Cmd.finished (c : Cmd) : Bool := c.state == .running && c.landed && c.signalled

/-- COMMAND_COMPLETION (R171). -/
def execCommandCompletion (tile engine number : Nat) (s : State) : Host.Outcome State Fault Refusal :=
  match findCmd s tile engine number with
  | some c => .next (if c.finished then completeCmd tile engine c s else s)
  | none => .next s

end Sys2Proof.Machine
end

