-- ==== Sys2Proof/Machine/FloatOps.lean ====
section
/-! DEFINITION. The floating-point instructions of opcodes 0x30 to 0x3D and their queue-wait forms (R72-R81, R362-R378). -/

namespace Sys2Proof.Machine

/-- What a floating-point operation computes from the rounding mode, the type, FN[4:0] and the patterns A, B and C. -/
abbrev FltOp := Rm → Nat → Nat → Nat → Nat → Nat → FRes

def faddOp : FltOp := fun rm ty _ a b _ => let f := fmtOf ty; f.addVal rm (f.decode a) (f.decode b)
def fsubOp : FltOp := fun rm ty _ a b _ => let f := fmtOf ty; f.addVal rm (f.decode a) (f.decode b).negate
def fmulOp : FltOp := fun rm ty _ a b _ => let f := fmtOf ty; f.mulVal rm (f.decode a) (f.decode b)
def fdivOp : FltOp := fun rm ty _ a b _ => let f := fmtOf ty; f.divVal rm (f.decode a) (f.decode b)
def fmaOp : FltOp := fun rm ty _ a b c => let f := fmtOf ty; f.fmaVal rm (f.decode a) (f.decode b) (f.decode c)
def fsqrtOp : FltOp := fun rm ty _ a _ _ => let f := fmtOf ty; f.sqrtVal rm (f.decode a)
def fminOp : FltOp := fun _ ty _ a b _ => let f := fmtOf ty; f.pick false (a % 2 ^ f.width) (b % 2 ^ f.width)
def fmaxOp : FltOp := fun _ ty _ a b _ => let f := fmtOf ty; f.pick true (a % 2 ^ f.width) (b % 2 ^ f.width)
def fexp2Op : FltOp := fun rm ty _ a _ _ => let f := fmtOf ty; f.exp2Val rm (f.decode a)
def flog2Op : FltOp := fun rm ty _ a _ _ => let f := fmtOf ty; f.log2Val rm (f.decode a)
/-- FRND in the mode of FN[2:0], 4 standing for FPRM's (R376). -/
def frndOp : FltOp := fun rm ty fn a _ _ =>
  let f := fmtOf ty
  f.rndVal (if fn = 4 then rm else Rm.ofCode fn) (f.decode a)
/-- FSGN changes the sign bit alone (R377). -/
def fsgnOp : FltOp := fun _ ty fn a b _ =>
  let top := 2 ^ (tyWidth ty - 1)
  let sa := a / top % 2
  let sb := b / top % 2
  let sign := match fn with
    | 0 => 0
    | 1 => 1 - sa
    | 2 => sb
    | _ => (sa + sb) % 2
  ⟨a % top + sign * top, 0⟩

/-- A floating-point instruction with the first `n` of its sources (R362). -/
def fltBody (n : Nat) (op : FltOp) (f : F96Q) : Exec Flow := do
  let v := f.base.isVec
  let ty := f.base.ty.toNat
  let fn := f.base.fn5
  queueWaits (operands n f false v v v v)
  let rm ← myRm
  if v then
    let w := tyWidth ty
    let (a, b, c) ← useVABC n ty f
    let rs := (List.range (elementsAt w)).map (fun j => op rm ty fn (element a w j) (element b w j) (element c w j))
    putVDest f.base.d.toNat f.wd (packElements w (rs.map (·.bits))) 0
    raiseFlags (rs.foldl (fun m r => m ||| r.flags) 0)
  else
    let (a, b, c) ← useABC n ty f
    let r := op rm ty fn a.toNat b.toNat c.toNat
    putDest f.base.d.toNat f.wd (BitVec.ofNat 64 r.bits) false
    raiseFlags r.flags
  return .fall

/-- FCMP (R366). -/
def fcmpBody (f : F96Q) : Exec Flow := do
  queueWaits ((operands 2 f true false false false false).take 2)
  let ty := f.base.ty.toNat
  let (a, b, _) ← useABC 2 ty f
  let (c, flags) := fcmp f.base.fn5 ((fmtOf ty).decode a.toNat) ((fmtOf ty).decode b.toNat)
  putP f.base.d.toNat c
  raiseFlags flags
  return .fall

/-! ## FCVT (R367, R368) -/

/-- A pattern of a type code of 0 to 12 as a value. -/
def valueOf (nf : Nf) (ty bits : Nat) : FVal :=
  if ty < 8 then
    let i := intOf ty bits
    .fin (decide (i < 0)) i.natAbs 0
  else if ty < 12 then (fmtOf ty).decode bits
  else nf.decode bits

/-- One element converted between two type codes. -/
def convert (rm : Rm) (nf : Nf) (trunc : Bool) (src dst bits : Nat) : FRes :=
  if dst < 8 then
    if src < 8 then ⟨narrow (tyWidth dst) (intOf src bits), 0⟩
    else toInteger (if trunc then .rtz else rm) (tyWidth dst) (tySigned dst) (valueOf nf src bits)
  else if dst < 12 then (fmtOf dst).ofVal rm (valueOf nf src bits)
  else nf.ofVal (valueOf nf src bits)

/-- The issuing tile's narrow format; nf raises 0x01 before a valid one is installed (R367). -/
def myNf (i : Instr) (used : Bool) : Exec Nf := do
  if !used then return Nf.ofWord 0
  let t ← myTile
  check (nfValid t.fmt) 0x01 (lowBits i)
  return Nf.ofWord t.fmt

/-- The marks of a v register whose elements `js` of width `w` are replaced by unmarked ones: a lane that keeps some element
keeps its mark. -/
def clearLanes (w : Nat) (js : List Nat) (poison : BitVec 32) : BitVec 32 :=
  (List.range 32).foldl (fun m i =>
    let covered := if w = 64 then js.contains (i / 2) else (List.range (32 / w)).all (fun k => js.contains (i * (32 / w) + k))
    if covered then m &&& ~~~(1#32 <<< i) else m) poison

/-- FCVT: the whole register where the element counts agree, otherwise part h (R368). An immediate source is read by the source type that
FN names, for nf its low byte, where R36 speaks of TY, which in FCVT is the destination's type (DESIGN CHOICE, log 35). -/
def fcvtBody (i : Instr) (f : F96Q) : Exec Flow := do
  let v := f.base.isVec
  let dst := f.base.ty.toNat
  let src := f.base.fn5 % 16
  let trunc := f.base.fn5 / 16 = 1
  let nf ← myNf i (src = 12 || dst = 12)
  queueWaits (operands 1 f false v v v v)
  let rm ← myRm
  if v then
    let ws := tyWidth src
    let wd := tyWidth dst
    let es := elementsAt ws
    let ed := elementsAt wd
    let h := if f.base.b = 60 then f.base.imm16.toNat else 0
    let imm := if f.base.a = 60 then f.base.imm16 else 0
    let old ← if es < ed then oldVDest f else pure ⟨0, 0, 0⟩
    let a ← vsource src f.base.a.toNat imm f.wa
    let taken := (List.range (min es ed)).map (fun j => if ed < es then h * ed + j else j)
    if taken.any (fun j => (a.poison &&& laneMask ws j) != 0) then consumed a.tval
    let rs := taken.map (fun j => convert rm nf trunc src dst (element a.val ws j))
    let base := if es < ed then h * es else 0
    let r := buildElements wd (fun j => if base ≤ j ∧ j < base + rs.length then (rs.getD (j - base) ⟨0, 0⟩).bits else element old.val wd j)
    putVDest f.base.d.toNat f.wd r (clearLanes wd ((List.range rs.length).map (base + ·)) old.poison)
    raiseFlags (rs.foldl (fun m r => m ||| r.flags) 0)
  else
    let a ← useSource src f.base.a.toNat f.base.imm16 f.wa
    let r := convert rm nf trunc src dst a.toNat
    putDest f.base.d.toNat f.wd (if dst < 12 then extend dst r.bits else BitVec.ofNat 64 r.bits) false
    raiseFlags r.flags
  return .fall

/-! ## The instructions -/

/-- FADD (R365). -/
def execFadd (f : F64A) (s : State) : Host.Outcome State Fault Refusal :=
  issueA (.fadd f) f (fltBody 2 faddOp (plain f)) s

/-- FADD, queue-wait form (R64). -/
def execFaddQw (f : F96Q) (s : State) : Host.Outcome State Fault Refusal :=
  issueQ (.faddQw f) f (fltBody 2 faddOp f) s

/-- FSUB (R365). -/
def execFsub (f : F64A) (s : State) : Host.Outcome State Fault Refusal :=
  issueA (.fsub f) f (fltBody 2 fsubOp (plain f)) s

/-- FSUB, queue-wait form (R64). -/
def execFsubQw (f : F96Q) (s : State) : Host.Outcome State Fault Refusal :=
  issueQ (.fsubQw f) f (fltBody 2 fsubOp f) s

/-- FMUL (R365). -/
def execFmul (f : F64A) (s : State) : Host.Outcome State Fault Refusal :=
  issueA (.fmul f) f (fltBody 2 fmulOp (plain f)) s

/-- FMUL, queue-wait form (R64). -/
def execFmulQw (f : F96Q) (s : State) : Host.Outcome State Fault Refusal :=
  issueQ (.fmulQw f) f (fltBody 2 fmulOp f) s

/-- FMA (R373). -/
def execFma (f : F64A) (s : State) : Host.Outcome State Fault Refusal :=
  issueA (.fma f) f (fltBody 3 fmaOp (plain f)) s

/-- FMA, queue-wait form (R64). -/
def execFmaQw (f : F96Q) (s : State) : Host.Outcome State Fault Refusal :=
  issueQ (.fmaQw f) f (fltBody 3 fmaOp f) s

/-- FDIV (R365). -/
def execFdiv (f : F64A) (s : State) : Host.Outcome State Fault Refusal :=
  issueA (.fdiv f) f (fltBody 2 fdivOp (plain f)) s

/-- FDIV, queue-wait form (R64). -/
def execFdivQw (f : F96Q) (s : State) : Host.Outcome State Fault Refusal :=
  issueQ (.fdivQw f) f (fltBody 2 fdivOp f) s

/-- FSQRT (R378). -/
def execFsqrt (f : F64A) (s : State) : Host.Outcome State Fault Refusal :=
  issueA (.fsqrt f) f (fltBody 1 fsqrtOp (plain f)) s

/-- FSQRT, queue-wait form (R64). -/
def execFsqrtQw (f : F96Q) (s : State) : Host.Outcome State Fault Refusal :=
  issueQ (.fsqrtQw f) f (fltBody 1 fsqrtOp f) s

/-- FMIN (R374). -/
def execFmin (f : F64A) (s : State) : Host.Outcome State Fault Refusal :=
  issueA (.fmin f) f (fltBody 2 fminOp (plain f)) s

/-- FMIN, queue-wait form (R64). -/
def execFminQw (f : F96Q) (s : State) : Host.Outcome State Fault Refusal :=
  issueQ (.fminQw f) f (fltBody 2 fminOp f) s

/-- FMAX (R374). -/
def execFmax (f : F64A) (s : State) : Host.Outcome State Fault Refusal :=
  issueA (.fmax f) f (fltBody 2 fmaxOp (plain f)) s

/-- FMAX, queue-wait form (R64). -/
def execFmaxQw (f : F96Q) (s : State) : Host.Outcome State Fault Refusal :=
  issueQ (.fmaxQw f) f (fltBody 2 fmaxOp f) s

/-- FCMP (R366). -/
def execFcmp (f : F64A) (s : State) : Host.Outcome State Fault Refusal :=
  issueA (.fcmp f) f (fcmpBody (plain f)) s

/-- FCMP, queue-wait form (R64). -/
def execFcmpQw (f : F96Q) (s : State) : Host.Outcome State Fault Refusal :=
  issueQ (.fcmpQw f) f (fcmpBody f) s

/-- FSGN (R377). -/
def execFsgn (f : F64A) (s : State) : Host.Outcome State Fault Refusal :=
  issueA (.fsgn f) f (fltBody (if f.fn5 < 2 then 1 else 2) fsgnOp (plain f)) s

/-- FSGN, queue-wait form (R64). -/
def execFsgnQw (f : F96Q) (s : State) : Host.Outcome State Fault Refusal :=
  issueQ (.fsgnQw f) f (fltBody (if f.base.fn5 < 2 then 1 else 2) fsgnOp f) s

/-- FCVT (R367). -/
def execFcvt (f : F64A) (s : State) : Host.Outcome State Fault Refusal :=
  issueA (.fcvt f) f (fcvtBody (.fcvt f) (plain f)) s

/-- FCVT, queue-wait form (R64). -/
def execFcvtQw (f : F96Q) (s : State) : Host.Outcome State Fault Refusal :=
  issueQ (.fcvtQw f) f (fcvtBody (.fcvtQw f) f) s

/-- FRND (R376). -/
def execFrnd (f : F64A) (s : State) : Host.Outcome State Fault Refusal :=
  issueA (.frnd f) f (fltBody 1 frndOp (plain f)) s

/-- FRND, queue-wait form (R64). -/
def execFrndQw (f : F96Q) (s : State) : Host.Outcome State Fault Refusal :=
  issueQ (.frndQw f) f (fltBody 1 frndOp f) s

/-- FEXP2 (R372). -/
def execFexp2 (f : F64A) (s : State) : Host.Outcome State Fault Refusal :=
  issueA (.fexp2 f) f (fltBody 1 fexp2Op (plain f)) s

/-- FEXP2, queue-wait form (R64). -/
def execFexp2Qw (f : F96Q) (s : State) : Host.Outcome State Fault Refusal :=
  issueQ (.fexp2Qw f) f (fltBody 1 fexp2Op f) s

/-- FLOG2 (R372). -/
def execFlog2 (f : F64A) (s : State) : Host.Outcome State Fault Refusal :=
  issueA (.flog2 f) f (fltBody 1 flog2Op (plain f)) s

/-- FLOG2, queue-wait form (R64). -/
def execFlog2Qw (f : F96Q) (s : State) : Host.Outcome State Fault Refusal :=
  issueQ (.flog2Qw f) f (fltBody 1 flog2Op f) s

end Sys2Proof.Machine
end

