-- ==== Sys2Proof/Machine/Int.lean ====
section
/-! DEFINITION. The integer instructions of opcodes 0x01 to 0x18 with their F64-I and queue-wait forms, LI and the NOPs
(R82, R83, R333-R419). -/

namespace Sys2Proof.Machine

/-! ## The operations, on patterns of the width of a type -/

/-- What an integer operation computes from TY, FN[4:0] and the sources A, B and C as 64-bit patterns. -/
abbrev IntOp := Nat → Nat → Nat → Nat → Nat → Nat

/-- Clamping to the range of a type (R83). -/
def clamp (ty : Nat) (v : Int) : Int :=
  let w := tyWidth ty
  let lo : Int := if tySigned ty then -(2 ^ (w - 1)) else 0
  let hi : Int := if tySigned ty then 2 ^ (w - 1) - 1 else 2 ^ w - 1
  max lo (min hi v)

/-- An exact result, wrapped (R82), or clamped when FN[4:0] = 1 (R83). -/
def wrapOrClamp (ty fn : Nat) (v : Int) : Nat := narrow (tyWidth ty) (if fn = 1 then clamp ty v else v)

def addOp : IntOp := fun ty fn a b _ => wrapOrClamp ty fn (intOf ty a + intOf ty b)
def subOp : IntOp := fun ty fn a b _ => wrapOrClamp ty fn (intOf ty a - intOf ty b)
def mulOp : IntOp := fun ty _ a b _ => narrow (tyWidth ty) (intOf ty a * intOf ty b)
/-- Bits [2w-1:w] of the exact product (R394). -/
def mulhOp : IntOp := fun ty _ a b _ => narrow (tyWidth ty) ((intOf ty a * intOf ty b).fdiv (2 ^ tyWidth ty))
/-- R356: all ones for a divisor of 0; the quotient of the least value by -1 wraps to itself. -/
def divOp : IntOp := fun ty _ a b _ =>
  if intOf ty b = 0 then 2 ^ tyWidth ty - 1 else narrow (tyWidth ty) ((intOf ty a).tdiv (intOf ty b))
/-- R409: the dividend for a divisor of 0. -/
def remOp : IntOp := fun ty _ a b _ =>
  if intOf ty b = 0 then a % 2 ^ tyWidth ty else narrow (tyWidth ty) ((intOf ty a).tmod (intOf ty b))
def andOp : IntOp := fun _ _ a b _ => a &&& b
def orOp : IntOp := fun _ _ a b _ => a ||| b
def xorOp : IntOp := fun _ _ a b _ => a ^^^ b
/-- R414: the shift count is the whole of B. -/
def shlOp : IntOp := fun ty _ a b _ =>
  if tyWidth ty ≤ b then 0 else a % 2 ^ tyWidth ty * 2 ^ b % 2 ^ tyWidth ty
def shrOp : IntOp := fun ty _ a b _ => if tyWidth ty ≤ b then 0 else a % 2 ^ tyWidth ty / 2 ^ b
/-- A pattern as a signed number of width `w`. -/
def signedAtWidth (w a : Nat) : Int := if 2 ^ (w - 1) ≤ a % 2 ^ w then (a % 2 ^ w : Int) - 2 ^ w else (a % 2 ^ w : Int)
def sraOp : IntOp := fun ty _ a b _ =>
  narrow (tyWidth ty) ((signedAtWidth (tyWidth ty) a).fdiv (2 ^ min b (tyWidth ty)))
/-- R411: left by B modulo w. -/
def rotOp : IntOp := fun ty _ a b _ =>
  let w := tyWidth ty
  let k := b % w
  let v := a % 2 ^ w
  v * 2 ^ k % 2 ^ w + v / 2 ^ (w - k)
def minOp : IntOp := fun ty _ a b _ => if intOf ty a ≤ intOf ty b then a else b
def maxOp : IntOp := fun ty _ a b _ => if intOf ty a ≤ intOf ty b then b else a
/-- R350: w when A is zero. -/
def clzOp : IntOp := fun ty _ a _ _ => tyWidth ty - bitLength (a % 2 ^ tyWidth ty)
def popcOp : IntOp := fun ty _ a _ _ => ((List.range (tyWidth ty)).filter (fun i => a.testBit i)).length
/-- R344: the field of A at pos = B[5:0] of length min(B[12:6], 64 - pos), sign-extended for TY 3. -/
def bfxOp : IntOp := fun ty _ a b _ =>
  let pos := b % 64
  let len := min (b / 64 % 128) (64 - pos)
  let v := a / 2 ^ pos % 2 ^ len
  if len = 0 then 0
  else if ty = 3 ∧ 2 ^ (len - 1) ≤ v then v + (2 ^ 64 - 2 ^ len) else v
/-- R344: C with that field replaced by the low bits of A. -/
def bfiOp : IntOp := fun _ _ a b c =>
  let pos := b % 64
  let len := min (b / 64 % 128) (64 - pos)
  let mask := (2 ^ len - 1) * 2 ^ pos
  (c &&& (2 ^ 64 - 1 - mask)) ||| a % 2 ^ len * 2 ^ pos
/-- R386, with the shift in FN[2:0]. -/
def leaOp : IntOp := fun _ fn a b c => (a + b * 2 ^ fn + c) % 2 ^ 64
/-- R379. -/
def gaddrOp : IntOp := fun _ _ a b c => 2 ^ 62 + a % 2 ^ 8 * 2 ^ 54 + b % 2 ^ 11 * 2 ^ 43 + c % 2 ^ 20

/-! ## Bodies -/

/-- The type that extends a result: LEA and GADDR write 64 bits whatever TY holds. -/
def intBody (n ty : Nat) (op : IntOp) (f : F96Q) : Exec Flow := do
  let v := f.base.isVec
  queueWaits (operands n f false v v v v)
  if v then
    let w := tyWidth ty
    let (a, b, c) ← useVABC n ty f
    let r := buildElements w (fun j => op ty f.base.fn5 (element a w j) (element b w j) (element c w j))
    putVDest f.base.d.toNat f.wd r 0
  else
    let (a, b, c) ← useABC n ty f
    putDest f.base.d.toNat f.wd (extend ty (op ty f.base.fn5 a.toNat b.toNat c.toNat)) false
  return .fall

/-- The queue operands of an F64-I instruction. -/
def immOperands (f : F64I) : List QOperand := [⟨f.a.toNat, 0, false, false⟩, ⟨f.d.toNat, 0, true, false⟩]

/-- IMM34, sign-extended (R58). -/
def F64I.value (f : F64I) : Word := f.imm34.signExtend 64

/-- An F64-I form: IMM34 stands for B (R333). -/
def immBody (op : IntOp) (f : F64I) : Exec Flow := do
  queueWaits (immOperands f)
  let ty := f.ty.toNat
  let a ← useSource ty f.a.toNat 0 0
  putDest f.d.toNat 0 (extend ty (op ty 0 a.toNat (F64I.value f).toNat 0)) false
  return .fall

/-- The conditions of R351 on two sources of a type's width. -/
def cmpHolds (ty cc a b : Nat) : Bool :=
  let w := tyWidth ty
  match cc with
  | 0 => a % 2 ^ w = b % 2 ^ w
  | 1 => a % 2 ^ w ≠ b % 2 ^ w
  | 2 => signedAtWidth w a < signedAtWidth w b
  | 3 => signedAtWidth w b ≤ signedAtWidth w a
  | 4 => a % 2 ^ w < b % 2 ^ w
  | _ => b % 2 ^ w ≤ a % 2 ^ w

/-- CMP with its predicate in D (R351). -/
def cmpBody (f : F96Q) : Exec Flow := do
  queueWaits ((operands 2 f true false false false false).take 2)
  let ty := f.base.ty.toNat
  let (a, b, _) ← useABC 2 ty f
  putP f.base.d.toNat (cmpHolds ty f.base.fn5 a.toNat b.toNat)
  return .fall

/-- CMP with predicate and condition in D (R58, R351). -/
def cmpImmBody (f : F64I) : Exec Flow := do
  queueWaits ((immOperands f).take 1)
  let ty := f.ty.toNat
  let a ← useSource ty f.a.toNat 0 0
  putP (f.d.toNat % 8) (cmpHolds ty (f.d.toNat / 8) a.toNat (F64I.value f).toNat)
  return .fall

/-- MOV carries poison (R276, R392). -/
def movBody (f : F96Q) : Exec Flow := do
  let v := f.base.isVec
  let ty := f.base.ty.toNat
  queueWaits (operands 1 f false v v v v)
  if v then
    let a ← vsource ty f.base.a.toNat f.base.imm16 f.wa
    putVDest f.base.d.toNat f.wd a.val a.poison
  else
    let a ← source ty f.base.a.toNat f.base.imm16 f.wa
    putDest f.base.d.toNat f.wd (extend ty a.val.toNat) a.poison
  return .fall

def movImmBody (f : F64I) : Exec Flow := do
  queueWaits [⟨f.d.toNat, 0, true, false⟩]
  putDest f.d.toNat 0 (extend f.ty.toNat (F64I.value f).toNat) false
  return .fall

/-- SEL reads both sources, consumes neither and carries the mark of the one it selects (R412). -/
def selBody (f : F96Q) : Exec Flow := do
  let v := f.base.isVec
  let ty := f.base.ty.toNat
  queueWaits (operands 2 f false v v v v)
  let q ← mySeq
  let p := q.p (f.base.fn5 % 8)
  if v then
    let a ← vsource ty f.base.a.toNat f.base.imm16 f.wa
    let b ← vsource ty f.base.b.toNat f.base.imm16 f.wb
    let r := if p then a else b
    putVDest f.base.d.toNat f.wd r.val r.poison
  else
    let a ← source ty f.base.a.toNat f.base.imm16 f.wa
    let b ← source ty f.base.b.toNat f.base.imm16 f.wb
    let r := if p then a else b
    putDest f.base.d.toNat f.wd (extend ty r.val.toNat) r.poison
  return .fall

/-- LI (R387). -/
def liBody (f : F96I) : Exec Flow := do
  queueWaits [⟨f.d.toNat, 0, true, false⟩]
  putDest f.d.toNat 0 f.imm64 false
  return .fall

/-! ## The instructions -/

/-- ADD (R337). -/
def execAdd (f : F64A) (s : State) : Host.Outcome State Fault Refusal :=
  issueA (.add f) f (intBody 2 f.ty.toNat addOp (plain f)) s

/-- ADD, F64-I (R58). -/
def execAddImm (f : F64I) (s : State) : Host.Outcome State Fault Refusal :=
  issueI (.addImm f) f (immBody addOp f) s

/-- ADD, queue-wait form (R64). -/
def execAddQw (f : F96Q) (s : State) : Host.Outcome State Fault Refusal :=
  issueQ (.addQw f) f (intBody 2 f.base.ty.toNat addOp f) s

/-- SUB (R419). -/
def execSub (f : F64A) (s : State) : Host.Outcome State Fault Refusal :=
  issueA (.sub f) f (intBody 2 f.ty.toNat subOp (plain f)) s

/-- SUB, queue-wait form (R64). -/
def execSubQw (f : F96Q) (s : State) : Host.Outcome State Fault Refusal :=
  issueQ (.subQw f) f (intBody 2 f.base.ty.toNat subOp f) s

/-- MUL (R394). -/
def execMul (f : F64A) (s : State) : Host.Outcome State Fault Refusal :=
  issueA (.mul f) f (intBody 2 f.ty.toNat mulOp (plain f)) s

/-- MUL, queue-wait form (R64). -/
def execMulQw (f : F96Q) (s : State) : Host.Outcome State Fault Refusal :=
  issueQ (.mulQw f) f (intBody 2 f.base.ty.toNat mulOp f) s

/-- MULH (R394). -/
def execMulh (f : F64A) (s : State) : Host.Outcome State Fault Refusal :=
  issueA (.mulh f) f (intBody 2 f.ty.toNat mulhOp (plain f)) s

/-- MULH, queue-wait form (R64). -/
def execMulhQw (f : F96Q) (s : State) : Host.Outcome State Fault Refusal :=
  issueQ (.mulhQw f) f (intBody 2 f.base.ty.toNat mulhOp f) s

/-- DIV (R356). -/
def execDiv (f : F64A) (s : State) : Host.Outcome State Fault Refusal :=
  issueA (.div f) f (intBody 2 f.ty.toNat divOp (plain f)) s

/-- DIV, queue-wait form (R64). -/
def execDivQw (f : F96Q) (s : State) : Host.Outcome State Fault Refusal :=
  issueQ (.divQw f) f (intBody 2 f.base.ty.toNat divOp f) s

/-- REM (R409). -/
def execRem (f : F64A) (s : State) : Host.Outcome State Fault Refusal :=
  issueA (.rem f) f (intBody 2 f.ty.toNat remOp (plain f)) s

/-- REM, queue-wait form (R64). -/
def execRemQw (f : F96Q) (s : State) : Host.Outcome State Fault Refusal :=
  issueQ (.remQw f) f (intBody 2 f.base.ty.toNat remOp f) s

/-- AND (R339). -/
def execAnd (f : F64A) (s : State) : Host.Outcome State Fault Refusal :=
  issueA (.and f) f (intBody 2 f.ty.toNat andOp (plain f)) s

/-- AND, F64-I (R58). -/
def execAndImm (f : F64I) (s : State) : Host.Outcome State Fault Refusal :=
  issueI (.andImm f) f (immBody andOp f) s

/-- AND, queue-wait form (R64). -/
def execAndQw (f : F96Q) (s : State) : Host.Outcome State Fault Refusal :=
  issueQ (.andQw f) f (intBody 2 f.base.ty.toNat andOp f) s

/-- OR (R398). -/
def execOr (f : F64A) (s : State) : Host.Outcome State Fault Refusal :=
  issueA (.or f) f (intBody 2 f.ty.toNat orOp (plain f)) s

/-- OR, F64-I (R58). -/
def execOrImm (f : F64I) (s : State) : Host.Outcome State Fault Refusal :=
  issueI (.orImm f) f (immBody orOp f) s

/-- OR, queue-wait form (R64). -/
def execOrQw (f : F96Q) (s : State) : Host.Outcome State Fault Refusal :=
  issueQ (.orQw f) f (intBody 2 f.base.ty.toNat orOp f) s

/-- XOR (R442). -/
def execXor (f : F64A) (s : State) : Host.Outcome State Fault Refusal :=
  issueA (.xor f) f (intBody 2 f.ty.toNat xorOp (plain f)) s

/-- XOR, F64-I (R58). -/
def execXorImm (f : F64I) (s : State) : Host.Outcome State Fault Refusal :=
  issueI (.xorImm f) f (immBody xorOp f) s

/-- XOR, queue-wait form (R64). -/
def execXorQw (f : F96Q) (s : State) : Host.Outcome State Fault Refusal :=
  issueQ (.xorQw f) f (intBody 2 f.base.ty.toNat xorOp f) s

/-- SHL (R414). -/
def execShl (f : F64A) (s : State) : Host.Outcome State Fault Refusal :=
  issueA (.shl f) f (intBody 2 f.ty.toNat shlOp (plain f)) s

/-- SHL, F64-I (R58). -/
def execShlImm (f : F64I) (s : State) : Host.Outcome State Fault Refusal :=
  issueI (.shlImm f) f (immBody shlOp f) s

/-- SHL, queue-wait form (R64). -/
def execShlQw (f : F96Q) (s : State) : Host.Outcome State Fault Refusal :=
  issueQ (.shlQw f) f (intBody 2 f.base.ty.toNat shlOp f) s

/-- SHR (R414). -/
def execShr (f : F64A) (s : State) : Host.Outcome State Fault Refusal :=
  issueA (.shr f) f (intBody 2 f.ty.toNat shrOp (plain f)) s

/-- SHR, F64-I (R58). -/
def execShrImm (f : F64I) (s : State) : Host.Outcome State Fault Refusal :=
  issueI (.shrImm f) f (immBody shrOp f) s

/-- SHR, queue-wait form (R64). -/
def execShrQw (f : F96Q) (s : State) : Host.Outcome State Fault Refusal :=
  issueQ (.shrQw f) f (intBody 2 f.base.ty.toNat shrOp f) s

/-- SRA (R414). -/
def execSra (f : F64A) (s : State) : Host.Outcome State Fault Refusal :=
  issueA (.sra f) f (intBody 2 f.ty.toNat sraOp (plain f)) s

/-- SRA, F64-I (R58). -/
def execSraImm (f : F64I) (s : State) : Host.Outcome State Fault Refusal :=
  issueI (.sraImm f) f (immBody sraOp f) s

/-- SRA, queue-wait form (R64). -/
def execSraQw (f : F96Q) (s : State) : Host.Outcome State Fault Refusal :=
  issueQ (.sraQw f) f (intBody 2 f.base.ty.toNat sraOp f) s

/-- ROT (R411). -/
def execRot (f : F64A) (s : State) : Host.Outcome State Fault Refusal :=
  issueA (.rot f) f (intBody 2 f.ty.toNat rotOp (plain f)) s

/-- ROT, queue-wait form (R64). -/
def execRotQw (f : F96Q) (s : State) : Host.Outcome State Fault Refusal :=
  issueQ (.rotQw f) f (intBody 2 f.base.ty.toNat rotOp f) s

/-- MIN (R388). -/
def execMin (f : F64A) (s : State) : Host.Outcome State Fault Refusal :=
  issueA (.min f) f (intBody 2 f.ty.toNat minOp (plain f)) s

/-- MIN, queue-wait form (R64). -/
def execMinQw (f : F96Q) (s : State) : Host.Outcome State Fault Refusal :=
  issueQ (.minQw f) f (intBody 2 f.base.ty.toNat minOp f) s

/-- MAX (R388). -/
def execMax (f : F64A) (s : State) : Host.Outcome State Fault Refusal :=
  issueA (.max f) f (intBody 2 f.ty.toNat maxOp (plain f)) s

/-- MAX, queue-wait form (R64). -/
def execMaxQw (f : F96Q) (s : State) : Host.Outcome State Fault Refusal :=
  issueQ (.maxQw f) f (intBody 2 f.base.ty.toNat maxOp f) s

/-- CLZ (R350). -/
def execClz (f : F64A) (s : State) : Host.Outcome State Fault Refusal :=
  issueA (.clz f) f (intBody 1 f.ty.toNat clzOp (plain f)) s

/-- CLZ, queue-wait form (R64). -/
def execClzQw (f : F96Q) (s : State) : Host.Outcome State Fault Refusal :=
  issueQ (.clzQw f) f (intBody 1 f.base.ty.toNat clzOp f) s

/-- POPC (R402). -/
def execPopc (f : F64A) (s : State) : Host.Outcome State Fault Refusal :=
  issueA (.popc f) f (intBody 1 f.ty.toNat popcOp (plain f)) s

/-- POPC, queue-wait form (R64). -/
def execPopcQw (f : F96Q) (s : State) : Host.Outcome State Fault Refusal :=
  issueQ (.popcQw f) f (intBody 1 f.base.ty.toNat popcOp f) s

/-- BFX (R344). -/
def execBfx (f : F64A) (s : State) : Host.Outcome State Fault Refusal :=
  issueA (.bfx f) f (intBody 2 f.ty.toNat bfxOp (plain f)) s

/-- BFX, queue-wait form (R64). -/
def execBfxQw (f : F96Q) (s : State) : Host.Outcome State Fault Refusal :=
  issueQ (.bfxQw f) f (intBody 2 f.base.ty.toNat bfxOp f) s

/-- BFI (R344). -/
def execBfi (f : F64A) (s : State) : Host.Outcome State Fault Refusal :=
  issueA (.bfi f) f (intBody 3 f.ty.toNat bfiOp (plain f)) s

/-- BFI, queue-wait form (R64). -/
def execBfiQw (f : F96Q) (s : State) : Host.Outcome State Fault Refusal :=
  issueQ (.bfiQw f) f (intBody 3 f.base.ty.toNat bfiOp f) s

/-- LEA (R386). -/
def execLea (f : F64A) (s : State) : Host.Outcome State Fault Refusal :=
  issueA (.lea f) f (intBody 3 3 leaOp (plain f)) s

/-- LEA, queue-wait form (R64). -/
def execLeaQw (f : F96Q) (s : State) : Host.Outcome State Fault Refusal :=
  issueQ (.leaQw f) f (intBody 3 3 leaOp f) s

/-- GADDR (R379). -/
def execGaddr (f : F64A) (s : State) : Host.Outcome State Fault Refusal :=
  issueA (.gaddr f) f (intBody 3 3 gaddrOp (plain f)) s

/-- GADDR, queue-wait form (R64). -/
def execGaddrQw (f : F96Q) (s : State) : Host.Outcome State Fault Refusal :=
  issueQ (.gaddrQw f) f (intBody 3 3 gaddrOp f) s

/-- CMP (R351). -/
def execCmp (f : F64A) (s : State) : Host.Outcome State Fault Refusal :=
  issueA (.cmp f) f (cmpBody (plain f)) s

/-- CMP, F64-I (R351). -/
def execCmpImm (f : F64I) (s : State) : Host.Outcome State Fault Refusal :=
  issueI (.cmpImm f) f (cmpImmBody f) s

/-- CMP, queue-wait form (R64). -/
def execCmpQw (f : F96Q) (s : State) : Host.Outcome State Fault Refusal :=
  issueQ (.cmpQw f) f (cmpBody f) s

/-- SEL (R412). -/
def execSel (f : F64A) (s : State) : Host.Outcome State Fault Refusal :=
  issueA (.sel f) f (selBody (plain f)) s

/-- SEL, queue-wait form (R64). -/
def execSelQw (f : F96Q) (s : State) : Host.Outcome State Fault Refusal :=
  issueQ (.selQw f) f (selBody f) s

/-- MOV (R392). -/
def execMov (f : F64A) (s : State) : Host.Outcome State Fault Refusal :=
  issueA (.mov f) f (movBody (plain f)) s

/-- MOV, F64-I (R58). -/
def execMovImm (f : F64I) (s : State) : Host.Outcome State Fault Refusal :=
  issueI (.movImm f) f (movImmBody f) s

/-- MOV, queue-wait form (R64). -/
def execMovQw (f : F96Q) (s : State) : Host.Outcome State Fault Refusal :=
  issueQ (.movQw f) f (movBody f) s

/-- LI (R387). -/
def execLi (f : F96I) (s : State) : Host.Outcome State Fault Refusal :=
  issueL (.li f) f (liBody f) s

/-- NOP (R396). -/
def execNop (f : F64A) (s : State) : Host.Outcome State Fault Refusal :=
  issueA (.nop f) f (pure .fall) s

/-- NOP, 96 bits (R396). -/
def execNop96 (f : F96Q) (s : State) : Host.Outcome State Fault Refusal :=
  issue (.nop96 f) f.base.pred f.base.pneg (pure .fall) s

/-- NOP, 128 bits (R396). -/
def execNop128 (f : F128C) (s : State) : Host.Outcome State Fault Refusal :=
  issueC (.nop128 f) f (pure .fall) s

end Sys2Proof.Machine
end

