-- ==== Sys2Proof/Machine/Push.lean ====
section
/-! DEFINITION. The memory cores' part of a copy: MCPOLL and PUSH, the delivery of pushed blocks, the return of a request,
and the firmware loader that serves a request (R163, R169, R170, R213, R389, R404). -/

namespace Sys2Proof.Machine

/-! ## MCPOLL (R169, R389) -/

/-- The next MCPOLL of a firing completes the request taken before, even while it waits for another. -/
def mcpollBody : Exec Flow := do
  let s ← get
  match s.focus with
  | .m c =>
    let u := s.mcore c
    if u.taken.isSome then waitUntil (requestServed s c) .outstanding
    if u.p = u.c then throw (.wait .queue (returnRequest c))
    set (returnRequest c s)
    let r := u.slots.getD (u.c.toNat % 64) (Vector.replicate 8 0)
    for i in List.range 8 do putX (8 + i) (r.getD i 0) (u.slotMarks.getLsbD (8 * (u.c.toNat % 64) + i))
    modify (fun s => s.modMCore c (fun v => { v with c := v.c + 1, taken := some r, takenPoison := 0 }))
    return .fall
  | _ => return .fall

/-- MCPOLL (R389). -/
def execMcpoll (f : F64A) (s : State) : Host.Outcome State Fault Refusal := issueA (.mcpoll f) f mcpollBody s

/-! ## PUSH (R170, R404) -/

def pushKind (x : BitVec 32) : Nat := (x.extractLsb' 30 2).toNat
def pushSlot (x : BitVec 32) : Nat := (x.extractLsb' 25 5).toNat
def pushRow (x : BitVec 32) : Nat := (x.extractLsb' 13 12).toNat + 1

/-- The limits of PUSH on its row count and lengths. -/
def pushFits (x : BitVec 32) (rows : Nat) : Bool :=
  let len := rows * pushRow x
  1 ≤ rows && rows ≤ 4096 && (pushKind x ≠ 0 || pushSlot x = 0) && (pushKind x ≠ 2 || !(pushSlot x).testBit 3) &&
    (pushKind x = 3 || len ≤ 4096) && (pushKind x ≠ 3 || len ≤ 64) && (pushKind x ≠ 1 || len % 64 = 0)

/-- A row of PUSH's source, page by page. -/
def sourceRow : Nat → Word → Nat → Exec (List (Place × Nat))
  | 0, _, _ => pure []
  | fuel + 1, a, n => do
    if n = 0 then return []
    let take := if formOf a = 1 then n else min n (2 ^ 14 - a.toNat % 2 ^ 14)
    let p ← resolve a take 1 .read
    let more ← sourceRow fuel (a + BitVec.ofNat 64 take) (n - take)
    return (p, take) :: more

/-- The rows of PUSH, one after another. -/
def sourceRows (a stride : Word) (row : Nat) : Nat → Exec (List (Place × Nat))
  | 0 => pure []
  | n + 1 => do
    checkAddress a row 1
    let here ← sourceRow (row / 2 ^ 14 + 2) a row
    let more ← sourceRows (a + stride) stride row n
    return here ++ more

/-- The bytes of a packed block that one request may bring. -/
def pullLimit : Nat := 128

/-- A part of a packed block cut where its place in the block passes a multiple of the limit. -/
def cutPart (start : Nat) (r : Reach) : List (Nat × Reach) :=
  (List.range ((start + r.len + pullLimit - 1) / pullLimit - start / pullLimit)).map (fun i =>
    let lo := max start ((start / pullLimit + i) * pullLimit)
    let hi := min (start + r.len) ((start / pullLimit + i + 1) * pullLimit)
    (lo, ⟨r.key + (lo - start), r.entry, hi - lo⟩))

/-- The home of a key. -/
def homeOfKey (key : Nat) : Nat :=
  if spaceOf key = spaceScratch then homeOf (.scratch (tileOfKey key) 0) else homeOf (.ext key 0)

/-- What of a packed block others hold, by the requests that bring it: for each owner the parts of each stretch of 128 bytes (R165). -/
def pulls (s : State) (parts : List (Place × Nat)) : List (List (Nat × Reach)) :=
  let placed := parts.foldl (fun (l : List (Nat × Place × Nat)) p => l ++ [((l.map (·.2.2)).sum, p)]) []
  let far := ((placed.filter (fun e => !isOwn s.focus e.2.1)).map (fun e => cutPart e.1 (reach s s.focus e.2.1 e.2.2))).flatten
  ((far.map (fun e => homeOfKey e.2.key)).eraseDups.flatMap (fun h =>
    (List.range 33).map (fun i => far.filter (fun e => homeOfKey e.2.key == h && e.1 / pullLimit == i)))).filter (fun l => !l.isEmpty)

/-- The bytes of PUSH's own pieces, after the firing's own accesses to them (R198); the places of the others are still empty. -/
def ownParts : List (Place × Nat) → Exec Marked
  | [] => pure []
  | (p, n) :: l => do
    let here ← if isOwn (← me) p then (do
        if strong p then strongFence
        ownOrder p n
        getBytes p n)
      else pure (marked (List.replicate n 0) false)
    return here ++ (← ownParts l)

/-- PUSH (R404): what others own of its source is asked of them, and the block leaves when it is there (R169, R170, R179; log 2). -/
def pushBody (f : F96E) : Exec Flow := do
  let dst ← useX f.d.toNat
  let a ← useX f.a.toNat
  let stride ← useX f.b.toNat
  let rows := (← useX f.c.toNat).toNat
  let x := f.aux32
  check (pushFits x rows) 0x01 0
  let s ← get
  let t := gtileOf s dst
  check (formOf dst = 1 && formOk dst && deviceOf dst = s.host.devid.toNat && mayReach s s.focus t) 0x04 dst
  if pushKind x = 0 then
    match rangeCause dst (rows * pushRow x) with
    | some c => trap c dst
    | none => pure ()
  if pushKind x = 1 || pushKind x = 3 then
    check (claimed (s.tile t) (pushSlot x)) 0x0F (BitVec.ofNat 64 (pushSlot x))
  let parts ← sourceRows a stride (pushRow x) rows
  let asked := pulls s parts
  if parts.any (fun e => strong e.1) then strongFence
  waitUntil (asked.isEmpty || outstanding s s.focus + asked.length ≤ 64) .outstanding
  let bs ← ownParts parts
  let core := match s.focus with
    | .m c => c
    | _ => 0
  let id := (← get).next
  modify (fun s => { (s.modLaunch (fun l => { l with pushes := l.pushes ++
    [{ id := id
       core := core
       firing := s.firingOf s.focus
       gang := (s.tile t).gang
       kind := x.extractLsb' 30 2
       tile := t
       offset := offsetOf dst
       slot := if pushKind x = 2 then pushSlot x % 8 else pushSlot x
       seqX := (pushSlot x).testBit 4
       bytes := bs
       rows := []
       pending := asked.length
       way := Way.start (routerOfSeq s.focus) s.time
       cmd := none }] })) with next := s.next + 1 })
  modify (fun s => asked.foldl (fun s rs =>
    addRequest s.focus none (s.firingOf s.focus) (s.gangOf s.focus) (s.partOf s.focus) (.pull rs id)
      (homeOfKey ((rs.map (·.2.key)).headD 0)) false none none s) s)
  if parts.any (fun e => strong e.1) && !asked.isEmpty then modMe (fun q => { q with hold := some id })
  return .fall

/-- PUSH (R404). -/
def execPush (f : F96E) (s : State) : Host.Outcome State Fault Refusal := issueE (.push f) f (pushBody f) s

/-! ## Delivery (R163, R170, R213, R404) -/

/-- The first byte of a pushed block at its destination. -/
def Pushed.start (b : Pushed) : Nat :=
  match b.kind.toNat with
  | 0 => b.offset
  | 3 => 4096
  | _ => 0

/-- Lands a pushed block's bytes at its tile, as one write. -/
def landBlock (b : Pushed) (bs : Marked) (s : State) : State :=
  let p := partOfGang s b.gang
  match b.kind.toNat with
  | 0 => writeScratch false p b.gang b.tile b.offset bs s
  | 2 => pushStream b.tile b.seqX b.slot bs s
  | _ => fillSlot p b.gang b.tile b.slot b.start bs s

/-- A pushed block takes bytes of its source that a request has brought (R170); the last of a strongly ordered page's end the hold of
its sequencer (R207). -/
def fillPush (id : Nat) (rs : List (Nat × Reach)) (bs : Marked) (s : State) : State :=
  let place := fun (b : Pushed) => (rs.foldl (fun (e : Marked × Marked) r =>
    (e.1.take r.1 ++ e.2.take r.2.len ++ e.1.drop (r.1 + r.2.len), e.2.drop r.2.len)) (b.bytes, bs)).1
  let s := s.modLaunch (fun l => { l with pushes := l.pushes.map (fun b =>
    if b.id = id then { b with bytes := place b, pending := b.pending - 1 } else b) })
  match s.launch.pushes.find? (fun b => b.id == id && b.pending == 0) with
  | some b => s.modSeq (.m b.core) (fun q => if q.hold = some id then { q with hold := none } else q)
  | none => s

/-- Poisoned words delivered are counted for the tile's gang and for the request in hand (R169, R404). -/
def countDelivered (b : Pushed) (bad : Nat) (s : State) : State :=
  let s := countPoison b.gang bad s
  s.modMCore b.core (fun u =>
    if (u.m.firing.map (·.number)) = some b.firing then { u with takenPoison := u.takenPoison + bad } else u)

/-- The 64-byte rows of its slot that a block fills, as offset and length in the block; a block for no slot has none (R213). -/
def Pushed.rowParts (b : Pushed) : List (Nat × Nat) :=
  if b.kind ≠ 1 then []
  else
    let start := match b.cmd with
      | some (_, _, _, a) => a.toNat % 64
      | none => 0
    (List.range ((start + b.bytes.length + 63) / 64)).map (fun i =>
      let lo := max start (64 * i)
      (lo - start, min (start + b.bytes.length) (64 * i + 64) - lo))

/-- What of a block can be written in one delivery: a row of a slot that is not written yet, as many whole words as a stream has room for,
or all of it (R163, R213). -/
def Pushed.next (s : State) (b : Pushed) (row : Nat) : Option (Nat × Nat) :=
  if b.kind = 1 then if b.rows.contains row then none else b.rowParts[row]?
  else if b.kind = 2 then
    let room := Sink.room s (.stream b.tile b.seqX b.slot)
    if b.bytes.length ≤ room then some (0, b.bytes.length) else if room < 8 then none else some (0, room / 8 * 8)
  else some (0, b.bytes.length)

/-- Whether the `i`-th block can be delivered, in its row `row` if it fills a slot: its source and its packet are there, no earlier block
of its firing to its tile waits, its gang holds the tile (a pre-empted gang's block waits until it resumes, R146), and a stream has room. -/
def pushReady (s : State) (i row : Nat) (b : Pushed) : Bool :=
  b.pending = 0 && b.way.hop == .router (routerOf b.tile) &&
    !((s.launch.pushes.take i).any (fun e => e.core == b.core && e.firing == b.firing && e.tile == b.tile)) &&
    (s.tile b.tile).gang == b.gang && (b.next s row).isSome

/-- Lands part of a block: for a copy's command where its destination names, else as the block's kind says. -/
def landPart (b : Pushed) (p : Nat × Nat) (s : State) : State :=
  let bs := partOfBlock b.bytes p
  match b.cmd with
  | some (t, e, n, a) => match findCmd s t e n with
    | some c => (match (deliver t c (sinkOf s a c.target.2 p.1) bs).run s with
      | .ok _ s' => s'
      | .error _ _ => s)
    | none => s
  | none => countDelivered b (poisonedParts (b.start + p.1) bs)
      (if b.kind = 1 then fillSlot (partOfGang s b.gang) b.gang b.tile b.slot p.1 bs s else landBlock b bs s)

/-- What remains of a block after a part of it has landed; none when all has. -/
def Pushed.rest (b : Pushed) (row : Nat) (p : Nat × Nat) : Option Pushed :=
  let b := { b with way := { b.way with copies := 0 } }
  if b.kind = 1 then if b.rows.length + 1 < b.rowParts.length then some { b with rows := b.rows ++ [row] } else none
  else if p.2 < b.bytes.length then some { b with bytes := b.bytes.drop p.2 } else none

/-- Delivers a part of a block; a fence drops all of it (R278). Resent copies will be discarded, and are counted. -/
def deliverBlock (i row : Nat) (b : Pushed) (s : State) : State :=
  match b.next s row with
  | none => s
  | some p =>
    let s := countError s (partOfGang s b.gang) 6 b.way.copies
    let s := s.modLaunch (fun l => { l with pushes := match if fenced s b.tile then none else b.rest row p with
      | some r => l.pushes.set i r
      | none => l.pushes.eraseIdx i })
    if fenced s b.tile then dropWrite (partOfGang s b.gang) s else landPart b p s

/-- Blocks in transit whose rows a delivery's subject can number. -/
def pushBase : Nat := 2 ^ 32

/-- PUSH_DELIVERY (R170): the subject numbers the block among those in transit, and by multiples of 2^32 the row of its slot. -/
def execPushDelivery (s : State) : Host.Outcome State Fault Refusal :=
  let i := s.subject % pushBase
  let row := s.subject / pushBase
  match s.launch.pushes[i]? with
  | some b => .next (if pushReady s i row b then deliverBlock i row b s else s)
  | none => .next s

/-- The subjects under which the blocks in transit can be delivered next. -/
def pushSubjects (s : State) : List Nat :=
  s.launch.pushes.zipIdx.map (fun e => e.2 + pushBase * (((List.range e.1.rowParts.length).find? (fun k => !e.1.rows.contains k)).getD 0))

/-! ## The return of a request (R169) -/

/-- The command that a request belongs to: by the issuing tile, the number and the completion token. -/
def commandOf (s : State) (r : Request8) : Option (Nat × Nat × Cmd) :=
  let t := (r[0].extractLsb' 16 16).toNat
  let n := (r[0].extractLsb' 32 32).toNat
  [0, 1].findSome? (fun e =>
    ((s.engine t e).cmds.find? (fun c => c.number % 2 ^ 32 == n && c.token == r[5] && c.state == .running)).map (fun c => (t, e, c)))

/-- The token comes back with the count of poisoned words. -/
def returnToken (r : Request8) (poison : Nat) (s : State) : State :=
  match commandOf s r with
  | some (t, e, c) =>
    noteLanded t e c.number (modCmd t e c.number (fun c =>
      { c with awaiting := c.awaiting - 1, poison := c.poison + poison }) s)
  | none => s

/-- MC_REQUEST_COMPLETION (R169): the subject is the memory core; blocks that its loader has pushed are delivered first. -/
def execMcRequestCompletion (s : State) : Host.Outcome State Fault Refusal :=
  match (s.mcore s.subject).returning with
  | (r, n) :: rest =>
    if s.launch.pushes.any (fun b => b.core == s.subject && b.firing == 0) then .next s
    else .next (returnToken r n (s.modMCore s.subject (fun u => { u with returning := rest })))
  | [] => .next s

/-! ## The firmware loader (R169) -/

/-- The loader pushes a block of a copy toward its tile (R169). -/
def loaderPush (core t e : Nat) (c : Cmd) (tile : Word) (bs : Marked) (s : State) : State :=
  let aux := c.target.2
  { (s.modLaunch (fun l => { l with pushes := l.pushes ++
      [{ id := s.next
         core := core
         firing := 0
         gang := c.gang
         kind := BitVec.ofNat 2 (copyDkind aux)
         tile := gtileOf s tile
         offset := offsetOf tile
         slot := if copyDkind aux = 2 then copySd aux else copySlot aux
         seqX := copySq aux
         bytes := bs
         rows := []
         pending := 0
         way := Way.start (routerOfCore core) s.time
         cmd := some (t, e, c.number, tile) }] })) with next := s.next + 1 }

/-- Serves one request and answers the poisoned words or elements that it delivers; what goes to a tile is pushed. -/
def serveRequest (core t e : Nat) (c : Cmd) (r : Request8) : Exec Nat := do
  let ext := r[1]
  let tile := r[2]
  let len := (r[3].extractLsb' 0 32).toNat
  let aux := r[3].extractLsb' 32 32
  let g := c.gang
  let start := fun (a : Word) => (a - c.target.1).toNat
  if (r[0].extractLsb' 0 8) = 2 then
    let bs ← viewRange t c 3 tile len
    deliver t c (.mem ext) bs
    modify (countPoison g (c.poisoned (start ext) bs))
    return c.poisoned (start ext) bs
  else
    let first := ((r[4] - c.indices).toNat) / 4
    let bs ← if (r[0].extractLsb' 0 8) = 3 then fromItems (elementBytes t c ext c.indices (copyElement aux)) (copyElement aux) (first * copyElement aux) len
      else viewRange t c 3 ext len
    let bad := c.poisoned (if c.isStream then first * copyElement aux else start tile) bs
    modify (fun s => countPoison g bad (loaderPush core t e c tile bs s))
    return bad

/-- Whether a memory core's firmware loader can take a request: no firing holds the core and q15 holds one. -/
def loaderReady (s : State) (core : Nat) : Bool :=
  let u := s.mcore core
  u.m.firing.isNone && u.taken.isNone && u.p ≠ u.c

/-- A turn of the firmware loader of a memory core: it takes the oldest request and serves it. -/
def runLoader (core : Nat) (s : State) : Host.Outcome State Fault Refusal :=
  if !loaderReady s core then .next s
  else
    let u := s.mcore core
    let r := u.slots.getD (u.c.toNat % 64) (Vector.replicate 8 0)
    let before := s
    let s := s.modMCore core (fun v => { v with c := v.c + 1 })
    let done := fun (n : Nat) (s : State) => s.modMCore core (fun v => { v with returning := v.returning ++ [(r, n)] })
    match commandOf s r with
    | none => .next (done 0 s)
    | some (t, e, c) =>
      match (serveRequest core t e c r).run s with
      | .ok n s' => .next (done n s')
      | .error (.fault x) _ => .fault x
      | .error (.wait .miss register) _ => .next (register before)
      | .error _ _ => .next (done 0 s)

end Sys2Proof.Machine
end

