-- ==== Sys2Proof/Machine/Collective.lean ====
section
/-! DEFINITION. Collectives: COLL, their matching, mode and combination, and the start and progress of an engine's commands
(R171, R262-R266, R352). -/

namespace Sys2Proof.Machine

/-! ## COLL (R263) -/

def collKind (f : F128C) : Nat := f.sub8.toNat % 4
def collFn (f : F128C) : Nat := f.sub8.toNat / 4 % 4
def collTy (f : F128C) : Nat := f.sub8.toNat / 16
def collRoot (f : F128C) : Nat := (f.flags18.extractLsb' 0 12).toNat

/-- Whether participants are listed at most once each. -/
def distinct : List (Nat × Nat) → Bool
  | [] => true
  | p :: l => !l.contains p && distinct l

/-- Halves of the descriptor's words: its bytes as u32 values from an offset on. -/
def descriptorWords (ws : List Word) (n : Nat) : List Nat :=
  (List.range n).map (fun i => ((ws.getD (i / 2) 0).toNat / 2 ^ (32 * (i % 2))) % 2 ^ 32)

/-- A descriptor in the issuer's own scratchpad: its tag and participants, when it keeps its limits and lists the issuer. -/
def readDescriptor (f : F128C) : Exec (BitVec 32 × List (Nat × Nat)) := do
  let s ← get
  let off := f.imm64.toNat
  let own := BitVec.ofNat 64 (2 ^ 62 + s.host.devid.toNat * 2 ^ 54 + (s.primaryOf (← myTileNo)) * 2 ^ 43 + off)
  check (off + 8 ≤ 2 ^ 20) 0x15 own
  let head := (← ownWords own off 1).headD 0
  let m := (head.extractLsb' 0 16).toNat
  check (2 ≤ m && m ≤ 4096 && (head.extractLsb' 24 8) == 0 && off + 8 + 4 * m ≤ 2 ^ 20) 0x15 own
  let list := descriptorWords (← ownWords (own + 8) (off + 8) ((m + 1) / 2)) m
  let ranks := list.map (fun w => (w % 256, w / 256 % 2048))
  let me := (s.host.devid.toNat, (← myTile).index)
  check (list.all (fun w => w < 2 ^ 19) && distinct ranks && ranks.contains me) 0x15 own
  let root := collRoot f
  check (if collKind f = 1 || collKind f = 2 then root < m else root = 0) 0x15 own
  return (head.extractLsb' 32 32, ranks)

/-- A range of COLL in the issuer's own scratchpad, of elements of `w` bytes each. -/
def ownRange (a : Word) (n w : Nat) : Exec Unit := do
  check (isOwnScratch (← get) a) 0x04 a
  checkAddress a n w

/-- The checks of COLL and its command. -/
def prepareColl (f : F128C) (a b c : Word) : Exec (CmdOp × List Span) := do
  let n := c.toNat
  check (1 ≤ n && n ≤ 65536) 0x01 0
  let (tag, ranks) ← readDescriptor f
  let w := tyWidth (collTy f) / 8
  ownRange b (n * w) w
  ownRange a ((if collKind f = 3 then ranks.length else 1) * n * w) w
  return (.coll a b n (collKind f) (collFn f) (collTy f) (collRoot f) (f.flags18.getLsbD 12) f.imm64.toNat tag ranks, [])

/-- COLL (R263, R352). -/
def collBody (f : F128C) : Exec Flow := do
  let a ← useX f.a.toNat
  let b ← useX f.b.toNat
  let c ← useX f.c.toNat
  commandBody 1 (.coll f) f.d.toNat [a, b, c] (prepareColl f a b c)

/-- COLL (R263). -/
def execColl (f : F128C) (s : State) : Host.Outcome State Fault Refusal := issueC (.coll f) f (collBody f) s

/-! ## Matching and mode (R263, R264) -/

/-- Whether the job has a reduction tree with every switch attested (R262, R264; log 32). -/
def treeAttested (s : State) (p : Nat) : Bool :=
  !(s.part p).tree.isEmpty && (s.part p).tree.all (fun n => (s.fabric.trust.get ⟨0, 0, 0⟩ n.slot).state == 1)

/-- Whether a started COLL proposes in-network (R264, R292). -/
def proposes (s : State) (gang : Nat) (endpoint : Bool) : Bool :=
  !endpoint && accepted s (partOfGang s gang) 7 && treeAttested s (partOfGang s gang)

/-- What a collective's participants ask for. -/
def Collective.what (x : Collective) : CollWhat := ⟨x.kind, x.fn, x.ty, x.count, x.root⟩

/-- A started COLL joins the collective of its tag and descriptor contents in which its participant has not started yet; a
disagreement on the operation ends the gang with status 10, cause 0x15. -/
def joinCollective (t : Nat) (c : Cmd) (s : State) : State :=
  match c.op with
  | .coll _ _ count kind fn ty root endpoint _ tag ranks =>
    let index := (s.tile t).index
    let entry := (index, t, c.number, proposes s c.gang endpoint)
    let mine := fun (x : Collective) => x.gang == c.gang && x.tag == tag && x.ranks == ranks && !x.started.any (fun e => e.1 == index)
    match s.launch.collectives.find? mine with
    | some x =>
      if x.what = ⟨kind, fn, ty, count, root⟩ then
        s.modLaunch (fun l => { l with collectives := l.collectives.map (fun y =>
          if y = x then { y with started := y.started ++ [entry] } else y) })
      else endGang c.gang 10 0x15 s
    | none =>
      { (s.modLaunch (fun l => { l with collectives := l.collectives ++
          [⟨s.next, c.gang, tag, ranks, kind, fn, ty, count, root, [entry], [], none, none⟩] })) with next := s.next + 1 }
  | _ => s

/-! ## Combination (R264, R265) -/

/-- ⊕ of a collective. -/
def combineOne (fn ty : Nat) (a b : Word) : Word :=
  let w := tyWidth ty
  let x := a.toNat % 2 ^ w
  let y := b.toNat % 2 ^ w
  let r :=
    if tyFloat ty then
      match fn with
      | 0 => (faddOp .rne ty 0 x y 0).bits
      | 1 => (fminOp .rne ty 0 x y 0).bits
      | _ => (fmaxOp .rne ty 0 x y 0).bits
    else
      match fn with
      | 0 => addOp ty 0 x y 0
      | 1 => minOp ty 0 x y 0
      | _ => maxOp ty 0 x y 0
  BitVec.ofNat 64 (r % 2 ^ w)

/-- ⊕ of two lists of elements. -/
def combineAll (fn ty : Nat) (a b : List Word) : List Word := a.zipWith (combineOne fn ty) b

/-- Values combined left to right. -/
def combineFold (fn ty : Nat) : List (List Word) → List Word
  | [] => []
  | v :: vs => vs.foldl (combineAll fn ty) v

/-- One round of endpoint mode at distance `d`: position i takes the value of position i + d where 2·d divides i. -/
def combineRound (fn ty d : Nat) (vs : List (List Word)) : List (List Word) :=
  (List.range vs.length).map (fun i =>
    if i % (2 * d) = 0 ∧ i + d < vs.length then combineAll fn ty (vs.getD i []) (vs.getD (i + d) []) else vs.getD i [])

/-- Endpoint mode over devices in ascending order: rounds s = 0, 1, …; position 0 holds the result. -/
def combineTree (fn ty : Nat) (vs : List (List Word)) : List Word :=
  ((List.range 9).foldl (fun vs r => combineRound fn ty (2 ^ r) vs) vs).headD []

/-- What has come to a switch, as place in the order of arrival and value. -/
abbrev Arrival := Nat × List Word

/-- Arrivals in their order. -/
def inOrder : List Arrival → List Arrival
  | [] => []
  | a :: l => ((inOrder l).filter (fun b => b.1 < a.1)) ++ a :: ((inOrder l).filter (fun b => !(decide (b.1 < a.1))))

/-- What a switch of a tree sends on: its arrivals, from its devices and from the switches below it, combined left to right in their
order; it leaves with the last of them (R265). `values` are the devices' values in the order in which they come to the tree. -/
def switchResult (fn ty : Nat) (tree : List Branch) (values : List (Nat × List Word)) : Nat → Branch → Arrival
  | 0, _ => (0, [])
  | fuel + 1, n =>
    let own := values.zipIdx.filterMap (fun e => if n.devices.contains e.1.1 then some (e.2, e.1.2) else none)
    let below := (tree.filter (fun b => n.below.contains b.slot)).map (switchResult fn ty tree values fuel)
    let arrivals := inOrder (own ++ below.filter (fun a => !a.2.isEmpty))
    ((arrivals.map (·.1)).foldl max 0, combineFold fn ty (arrivals.map (·.2)))

/-- In-network mode over a tree whose first switch is the top (R262, R265). -/
def combineSwitches (fn ty : Nat) (tree : List Branch) (values : List (Nat × List Word)) : List Word :=
  match tree with
  | [] => []
  | top :: _ => (switchResult fn ty tree values tree.length top).2

/-- The devices of a collective, ascending. -/
def Collective.devices (x : Collective) : List Nat := x.ranks.foldl (fun l r => insertNat l r.1) []

/-- The launch-local indices of a device's participants, in rank order. -/
def Collective.locals (x : Collective) (d : Nat) : List Nat := (x.ranks.filter (fun r => r.1 == d)).map (·.2)

/-- The elements that a device's stage sends: its combined value, the root's source, or its sources one after another. -/
def Collective.valueLength (x : Collective) (d : Nat) : Nat :=
  match x.kind with
  | 2 => if (x.ranks.getD x.root (0, 0)).1 = d then x.count else 0
  | 3 => (x.locals d).length * x.count
  | _ => x.count

/-- The source of a local participant; poison is consumed. -/
def sourceOf (x : Collective) (s : State) (index : Nat) : Exec (List Word) := do
  match x.started.find? (fun e => e.1 == index) with
  | none => return []
  | some (_, t, n, _) =>
    match findCmd s t 1 n with
    | none => return []
    | some c =>
      match c.op with
      | .coll _ src .. =>
        let w := tyWidth x.ty / 8
        let bs ← viewRange t c 3 src (x.count * w)
        match bs.findIdx? (·.2) with
        | some i => consumed ((src + BitVec.ofNat 64 i) &&& ~~~7#64)
        | none => pure ()
        return (List.range x.count).map (fun i => BitVec.ofNat 64 (ofBytes (((bs.drop (i * w)).take w).map (·.1))))
      | _ => return []

/-- The device stage of this module (R265); of a broadcast only the root's source is read (R264). -/
def deviceStage (x : Collective) (d : Nat) : Exec (List Word) := do
  let s ← get
  match x.kind with
  | 2 =>
    let root := x.ranks.getD x.root (0, 0)
    if root.1 = d then sourceOf x s root.2 else return []
  | 3 => return (← (x.locals d).mapM (sourceOf x s)).flatten
  | _ => return combineFold x.fn x.ty (← (x.locals d).mapM (sourceOf x s))

/-- The result of a collective whose devices' values are all there. -/
def Collective.outcome (x : Collective) (tree : List Branch) (inNetwork : Bool) : List Word :=
  let of := fun d => ((x.values.find? (fun v => v.1 == d)).map (·.2.2)).getD []
  match x.kind with
  | 2 => of (x.ranks.getD x.root (0, 0)).1
  | 3 => ((List.range x.ranks.length).map (fun r =>
      let d := (x.ranks.getD r (0, 0)).1
      let before := ((x.ranks.take r).filter (fun e => e.1 == d)).length
      ((of d).drop (before * x.count)).take x.count)).flatten
  | _ =>
    if inNetwork then combineSwitches x.fn x.ty tree (x.values.map (fun v => (v.1, v.2.2)))
    else combineTree x.fn x.ty (x.devices.map of)

/-- A collective with every device's value settles its mode and its result. -/
def Collective.settle (x : Collective) (tree : List Branch) : Collective :=
  if x.devices.all (fun d => x.values.any (fun v => v.1 == d)) then
    let inNetwork := x.values.all (fun v => v.2.1)
    { x with settled := some (inNetwork, x.outcome tree inNetwork) }
  else x

/-- Whether every participant of this module has started. -/
def Collective.ready (x : Collective) (d : Nat) : Bool :=
  (x.locals d).all (fun i => x.started.any (fun e => e.1 == i))

def putCollective (i : Nat) (x : Collective) (s : State) : State :=
  s.modLaunch (fun l => { l with collectives := l.collectives.set i x })

/-- A device's value reaches the tree, or in endpoint mode the other devices. -/
def Collective.add (x : Collective) (tree : List Branch) (d : Nat) (inNetwork : Bool) (vs : List Word) : Collective :=
  ({ x with values := x.values ++ [(d, inNetwork, vs)] }).settle tree

/-- The participants' tiles that take a collective's result: the root alone of a reduce, else all of this module. -/
def Collective.takers (x : Collective) (s : State) : List Nat :=
  (x.started.filter (fun e => x.kind ≠ 1 || x.ranks.getD x.root (0, 0) == (s.host.devid.toNat, e.1))).map (fun e => e.2.1)

/-- The router at which the result of a collective starts on this module: that of the tether to another device's switch or position 0,
or of this module's first participant when it is position 0 itself (R264, R265). -/
def Collective.origin (x : Collective) (s : State) : Nat :=
  let first := x.devices.headD 0
  let inNetwork := (x.settled.map (·.1)).getD false
  if !inNetwork && first = s.host.devid.toNat then routerOf ((x.started.map (fun e => e.2.1)).headD 0)
  else routerOfTether (tetherTo first)

/-- A settled collective's result is multicast to its takers on this module (R259, R265). -/
def sendResult (x : Collective) (s : State) : State :=
  if x.settled.isNone || (x.takers s).isEmpty then s
  else
    let m : Multicast := ⟨s.next, x.gang, x.id, x.takers s, Way.start (x.origin s) s.time⟩
    { (s.modLaunch (fun l => { l with multicasts := l.multicasts ++ [m] })) with next := s.next + 1 }

/-- A collective takes a device's value. -/
def takeValue (i : Nat) (x : Collective) (d : Nat) (inNetwork : Bool) (vs : List Word) (s : State) : State :=
  let x' := x.add (s.part (partOfGang s x.gang)).tree d inNetwork vs
  sendResult x' (putCollective i x' s)

/-- The bytes of a value as they travel. -/
def Collective.bytesOf (x : Collective) (vs : List Word) : List Byte := (vs.map (fun v => toBytes (tyWidth x.ty / 8) v.toNat)).flatten

/-- Whether this module's own value leaves the module: for the tree's switch, or for position 0 on another device (R265). -/
def Collective.leaves (x : Collective) (own : Nat) (inNetwork : Bool) (vs : List Word) : Bool :=
  1 < x.devices.length && !vs.isEmpty && (inNetwork || x.devices.headD 0 != own)

/-- This module's own value for a collective: formed once all of its participants have started, it goes packet by packet over the
tether, if it leaves the module, and is then there (R254, R265). -/
def ownValue (i : Nat) (x : Collective) (s : State) : Host.Outcome State Fault Refusal :=
  let own := s.host.devid.toNat
  match x.sending with
  | some v =>
    if v.way.hop ≠ .across then .next s
    else if v.done + packetLimit < (x.bytesOf v.values).length then
      .next (putCollective i { x with sending := some { v with
        done := v.done + packetLimit
        way := { v.way with hop := .issuer, timeouts := 0, sentAt := s.time } } } s)
    else .next (takeValue i { x with sending := none } own v.inNetwork v.values s)
  | none =>
    if x.ready own then
      match (deviceStage x own).run s with
      | .ok vs s' =>
        let inNetwork := x.started.all (fun e => e.2.2.2)
        .next (if x.leaves own inNetwork vs then
            putCollective i { x with sending := some ⟨inNetwork, vs, 0, Way.start (routerOf ((x.started.map (fun e => e.2.1)).headD 0)) s.time⟩ } s'
          else takeValue i x own inNetwork vs s')
      | .error (.poison a) s' =>
        let t := gtileOf s a % 2048
        .next (consumePoison (.a t) (noteConsumed (.a t) a (keepFindings s s')))
      | .error (.fault r) _ => .fault r
      | .error _ _ => .next s
    else .next s

/-- SWITCH_COMBINE (R263-R265): a device's value arrives for the collective of a number, unless its partition drains (R252). Another
device's value, what it asks for and its proposal are given, and a
disagreement ends the gang with status 10, cause 0x15. -/
def execSwitchCombine (collective device : Nat) (offer : CollOffer) (values : List (BitVec 64)) (s : State) :
    Host.Outcome State Fault Refusal :=
  match s.launch.collectives[collective]? with
  | none => .next s
  | some x =>
    let own := s.host.devid.toNat
    if x.settled.isSome || !x.devices.contains device || x.values.any (fun v => v.1 == device) || draining s (partOfGang s x.gang) then .next s
    else if device = own then ownValue collective x s
    else if offer.what ≠ x.what then .next (endGang x.gang 10 0x15 s)
    else if values.length = x.valueLength device then .next (takeValue collective x device offer.inNetwork values s)
    else .next s

/-! ## The result (R264) -/

/-- The collective of a started command. -/
def collectiveOf (s : State) (t : Nat) (c : Cmd) : Option Collective :=
  s.launch.collectives.find? (fun x => x.gang == c.gang && x.started.any (fun e => e.2.1 == t && e.2.2.1 == c.number))

/-- Whether a collective's local commands have all written their results. -/
def Collective.written (x : Collective) (s : State) : Bool :=
  x.started.all (fun e => match findCmd s e.2.1 1 e.2.2.1 with
    | some c => c.landed
    | none => true)

/-- Whether the result's range overlaps the source's without being it. -/
def overlapsSource (dst src : Word) (result source : Nat) : Bool :=
  !(dst == src && result == source) && decide (offsetOf dst < offsetOf src + source) && decide (offsetOf src < offsetOf dst + result)

/-- Whether the result of a collective has come to a tile. -/
def resultAt (s : State) (x : Collective) (t : Nat) : Bool :=
  s.launch.multicasts.any (fun m => m.collective == x.id && m.targets.contains t && m.way.hop == .router (routerOf t))

/-- A tile has taken the result that a multicast has brought. -/
def takeResult (x : Collective) (t : Nat) (s : State) : State :=
  let taken := fun (m : Multicast) => if m.collective = x.id then { m with targets := m.targets.filter (· != t) } else m
  s.modLaunch (fun l => { l with multicasts := (l.multicasts.map taken).filter (fun m => !m.targets.isEmpty) })

/-- A settled collective's command writes the result that has come to its tile and the mode byte of its descriptor; other agents need not
see its writes before the join (R209, R266). The commands of the module complete together, once all of them have written, so that one
revocation finds all of them or none complete (R264). A result that overlaps its source, without being the same range, is unspecified, so it
is free. -/
def landCollective (t : Nat) (c : Cmd) (s : State) : State :=
  match c.op, collectiveOf s t c with
  | .coll dst src count _ _ ty _ _ desc _ _, some x =>
    match x.settled with
    | none => s
    | some (inNetwork, vs) =>
      let p := partOfGang s c.gang
      let w := tyWidth ty / 8
      let takes := (x.takers s).contains t
      if takes && !resultAt s x t then s
      else
        let result := if takes then (vs.map (fun v => toBytes w v.toNat)).flatten else []
        let open_ := overlapsSource dst src result.length (count * w)
        let bytes := if open_ then freeBytes s.free result.length else result
        let s := if open_ then { s with free := s.free + result.length } else s
        let put := fun (off : Nat) (bs : List Byte) (s : State) =>
          hideBlock s t c (scratchAddress s t off) (scratchKey t off) bs.length (writeScratch false p c.gang t off (marked bs false) s)
        let s := put (desc + 2) [if inNetwork then 1 else 2] (put (offsetOf dst) bytes s)
        let s := modCmd t 1 c.number (fun c => { c with landed := true }) (takeResult x t s)
        if x.written s then
          x.started.foldl (fun s e => modCmd e.2.1 1 e.2.2.1 (fun c => { c with signalled := true }) s)
            (s.modLaunch (fun l => { l with collectives := l.collectives.filter (fun y => y.id != x.id) }))
        else s
  | _, _ => s

/-! ## COMMAND_START (R171) -/

/-- Whether a command is a COLL. -/
def Cmd.isColl (c : Cmd) : Bool :=
  match c.op with
  | .coll .. => true
  | _ => false

/-- A command's number and, above it, one more than the unit of its destination that moves ahead of its time, if one does. -/
def actBase : Nat := 2 ^ 64

/-- One act of an engine: with number 0 the next published command starts, a COLL joining its collective; else the running
command of that number moves its next block, or a unit ahead of its time, or writes a settled collective's result. -/
def engineAct (t e subject : Nat) : Exec Unit := do
  let n := subject % actBase
  if n = 0 then
    match ← startNext t e with
    | some c => if c.isColl then modify (joinCollective t c)
    | none => pure ()
  else
    match findCmd (← get) t e n with
    | some c =>
      if c.state == .running && !c.landed then
        if c.isColl then modify (landCollective t c)
        else
          if subject ≠ n then moveEarly t e c (subject / actBase - 1)
          else if c.sent < c.total then moveNext t e c
          modify (noteLanded t e n)
    | none => pure ()

/-- COMMAND_START (R171): the subject is 0 for the start of the engine's next command, or the number of a running command
whose data moves, with the unit that moves ahead of its time (R209). -/
def execCommandStart (tile engine : Nat) (s : State) : Host.Outcome State Fault Refusal :=
  if enginesRun s tile || finishes s tile engine (s.subject % actBase) then engineOutcome tile s (engineAct tile engine s.subject)
  else .next s

end Sys2Proof.Machine
end

