-- ==== Sys2Proof/Machine/Control.lean ====
section
/-! DEFINITION. Branches, calls and jumps: B, CALL, RET, J, JR, BRQ, BOPUSH (R111, R122, R341, R346-R348, R382, R410). -/

namespace Sys2Proof.Machine

/-- The target of an F64-B instruction: 4-byte units from the instruction itself (R44). -/
def branchTarget (f : F64B) : Exec Word := do
  let q ← mySeq
  return q.pc + (f.disp34.signExtend 64 <<< 2)

/-- The comparisons of CC 0 to 5 (R341). -/
def branchHolds (cc : Nat) (a b : Word) : Bool :=
  match cc with
  | 0 => a == b
  | 1 => a != b
  | 2 => a.slt b
  | 3 => !a.slt b
  | 4 => a.ult b
  | _ => !a.ult b

/-- B (R341). -/
def bBody (f : F64B) : Exec Flow := do
  let q ← mySeq
  let taken : Bool ← match f.cc.toNat with
    | 6 => pure true
    | 7 => pure (q.p f.a.toNat)
    | 8 => pure (!q.p f.a.toNat)
    | cc => do
      let a ← useX f.a.toNat
      let b ← useX f.b.toNat
      pure (branchHolds cc a b)
  if taken then return .jump (← branchTarget f) else return .fall

/-- B (R341). -/
def execB (f : F64B) (s : State) : Host.Outcome State Fault Refusal := issueB (.b f) f (bBody f) s

/-- The scratchpad offset of CSPILL when it names the issuing tile's own scratchpad, 8-byte aligned (R348). -/
def spillOffset (spill : Word) : Exec (Nat × Nat) := do
  let s ← get
  match State.tileOf s.focus with
  | some t =>
    check (formOf spill = 1 && formOk spill && mirrored s s.focus (gtileOf s spill) == t) 0x04 spill
    check (spill.toNat % 8 = 0) 0x0A spill
    return (t, offsetOf spill)
  | none => trap 0x04 spill

def spillBase (limits : BitVec 40) : Nat := (limits.extractLsb' 20 20).toNat
def spillLimit (limits : BitVec 40) : Nat := (limits.extractLsb' 0 20).toNat

/-- Return addresses that the hardware store holds, newest first (R347). -/
def storeDepth : Nat := 16

/-- CALL (R348): a full store first spills its oldest entry. -/
def callBody (f : F64B) : Exec Flow := do
  let q ← mySeq
  if storeDepth ≤ q.returns.length then
    check (offsetOf q.cspill + 8 ≤ spillLimit q.csplim) 0x0D (q.csplim.setWidth 64)
    let (t, off) ← spillOffset q.cspill
    putScratch t off (marked (toBytes 8 (q.returns.getLastD 0).toNat) false)
    modMe (fun q => { q with returns := q.returns.dropLast, cspill := q.cspill + 8 })
  modMe (fun u => { u with returns := (q.pc + 8) :: u.returns })
  return .jump (← branchTarget f)

/-- CALL (R348). -/
def execCall (f : F64B) (s : State) : Host.Outcome State Fault Refusal := issueB (.call f) f (callBody f) s

/-- RET (R410). -/
def retBody : Exec Flow := do
  let q ← mySeq
  match q.returns with
  | t :: rest =>
    check (t.toNat % 4 = 0) 0x0A t
    modMe (fun u => { u with returns := rest })
    return .jump t
  | [] =>
    check (spillBase q.csplim < offsetOf q.cspill) 0x0C 0
    let (tile, off) ← spillOffset q.cspill
    let bs ← takeScratch tile (off - 8) 8
    if bs.poisoned then consumed (q.cspill - 8)
    let t : Word := BitVec.ofNat 64 (ofBytes bs.bytes)
    check (t.toNat % 4 = 0) 0x0A t
    modMe (fun u => { u with cspill := u.cspill - 8 })
    return .jump t

/-- RET (R410). -/
def execRet (f : F64A) (s : State) : Host.Outcome State Fault Refusal := issueA (.ret f) f retBody s

/-- J (R382). -/
def jBody (f : F64I) : Exec Flow := do
  let t := (← useX f.a.toNat) + f.imm34.signExtend 64
  check (t.toNat % 4 = 0) 0x0A t
  return .jump t

/-- J (R382). -/
def execJ (f : F64I) (s : State) : Host.Outcome State Fault Refusal := issueI (.j f) f (jBody f) s

/-- JR (R382): the target is read before D is written. -/
def jrBody (f : F64A) : Exec Flow := do
  let t ← useX f.a.toNat
  check (t.toNat % 4 = 0) 0x0A t
  let q ← mySeq
  putX f.d.toNat (q.pc + 8) false
  return .jump t

/-- JR (R382). -/
def execJr (f : F64A) (s : State) : Host.Outcome State Fault Refusal := issueA (.jr f) f (jrBody f) s

/-! ## The branch-outcome queues (R111, R346) -/

/-- The queue toward the other sequencer of the tile, or, for `mine`, toward the issuing one. -/
def outcomes (q : SeqId) (mine : Bool) (u : Tile) : List Bool := if (q.kind = .a) = mine then u.toA else u.toX
def setOutcomes (q : SeqId) (mine : Bool) (l : List Bool) (u : Tile) : Tile :=
  if (q.kind = .a) = mine then { u with toA := l } else { u with toX := l }

/-- BOPUSH (R346). -/
def bopushBody (f : F64A) : Exec Flow := do
  let q ← me
  let u ← myTile
  waitUntil ((outcomes q false u).length < 64) .branch
  let v := (← mySeq).p f.a.toNat
  modMyTile (fun u => setOutcomes q false (outcomes q false u ++ [v]) u)
  return .fall

/-- BOPUSH (R346). -/
def execBopush (f : F64A) (s : State) : Host.Outcome State Fault Refusal := issueA (.bopush f) f (bopushBody f) s

/-- BRQ (R346). -/
def brqBody (f : F64B) : Exec Flow := do
  let q ← me
  let u ← myTile
  match outcomes q true u with
  | [] => waitFor .branch
  | bit :: rest =>
    modMyTile (setOutcomes q true rest)
    if bit = (f.cc.toNat = 7) then return .jump (← branchTarget f) else return .fall

/-- BRQ (R346). -/
def execBrq (f : F64B) (s : State) : Host.Outcome State Fault Refusal := issueB (.brq f) f (brqBody f) s

end Sys2Proof.Machine
end

