-- ==== Sys2Proof/Machine/Event.lean ====
section
/-! DEFINITION. The event engine: its records and arithmetic, EVDEF to EVSTAT, the processing of items, wakes and tokens,
global virtual time, windows and samples (R223-R249, R360, R361). -/

namespace Sys2Proof.Machine

/-! ## FP64 with RNE (R231) -/

def fAdd (a b : Word) : Word := BitVec.ofNat 64 (f64.addVal .rne (f64.decode a.toNat) (f64.decode b.toNat)).bits
def fSub (a b : Word) : Word := BitVec.ofNat 64 (f64.addVal .rne (f64.decode a.toNat) (f64.decode b.toNat).negate).bits
def fMul (a b : Word) : Word := BitVec.ofNat 64 (f64.mulVal .rne (f64.decode a.toNat) (f64.decode b.toNat)).bits
def fDiv (a b : Word) : Word := BitVec.ofNat 64 (f64.divVal .rne (f64.decode a.toNat) (f64.decode b.toNat)).bits
def fSqrt (a : Word) : Word := BitVec.ofNat 64 (f64.sqrtVal .rne (f64.decode a.toNat)).bits
/-- FMA(a, b, c). -/
def fFma (a b c : Word) : Word :=
  BitVec.ofNat 64 (f64.fmaVal .rne (f64.decode a.toNat) (f64.decode b.toNat) (f64.decode c.toNat)).bits

def fNan (a : Word) : Bool := (f64.decode a.toNat).isNan
def fFinite (a : Word) : Bool := (f64.decode a.toNat).isFinite
/-- a < b and a = b; both are false of a NaN. -/
def fLt (a b : Word) : Bool := !fNan a && !fNan b && compareVal (f64.decode a.toNat) (f64.decode b.toNat) == .lt
def fEq (a b : Word) : Bool := !fNan a && !fNan b && compareVal (f64.decode a.toNat) (f64.decode b.toNat) == .eq
def fLe (a b : Word) : Bool := fLt a b || fEq a b
def fMin (a b : Word) : Word := if fLt b a then b else a
def fMax (a b : Word) : Word := if fLt a b then b else a
def fAbs (a : Word) : Word := a &&& 0x7FFF_FFFF_FFFF_FFFF#64
def fInf : Word := 0x7FF0_0000_0000_0000#64
def fNegInf : Word := 0xFFF0_0000_0000_0000#64
def fNaN : Word := BitVec.ofNat 64 f64.nan
def fTwo : Word := 0x4000_0000_0000_0000#64

/-! ## Records (R225, R226) -/

namespace EvRec

def tLast (r : EvRec) : Word := r.w[0]
def x (r : EvRec) : Word := r.w[1]
def s1 (r : EvRec) : Word := r.w[2]
def s2 (r : EvRec) : Word := r.w[3]
def q (r : EvRec) : Word := r.w[4]
def quantum (r : EvRec) : Word := r.w[5]
def tNext (r : EvRec) : Word := r.w[6]
def control (r : EvRec) : Word := r.w[7]
def method (r : EvRec) : Nat := (r.control.extractLsb' 0 2).toNat
def stormClass (r : EvRec) : Nat := (r.control.extractLsb' 2 3).toNat
def didx (r : EvRec) : Nat := (r.control.extractLsb' 5 24).toNat
def dcnt (r : EvRec) : Nat := (r.control.extractLsb' 29 12).toNat
def dact (r : EvRec) : Nat := (r.control.extractLsb' 41 4).toNat
def dtile (r : EvRec) : Nat := (r.control.extractLsb' 45 2).toNat
def pend (r : EvRec) : Bool := r.control.getLsbD 54
/-- Writes a word; poison that stood in it goes. -/
def put (r : EvRec) (i : Nat) (v : Word) : EvRec := { r with w := r.w.setIfInBounds i v, poison := r.poison &&& ~~~(1#8 <<< i) }

end EvRec

/-- A control word with bit `n` set or clear. -/
def setBit (w : Word) (n : Nat) (v : Bool) : Word := if v then w ||| (1#64 <<< n) else w &&& ~~~(1#64 <<< n)

def absentRec : EvRec := ⟨Vector.replicate 8 0, 0, 0, []⟩

def EvEngine.rec_ (e : EvEngine) (i : Nat) : EvRec := e.recs.get absentRec i
def EvEngine.defined (e : EvEngine) (i : Nat) : Bool := e.recs.any (fun r => r.1 == i)
def EvEngine.putRec (e : EvEngine) (i : Nat) (r : EvRec) : EvEngine := { e with recs := e.recs.set i r }

/-! ## Arithmetic of a record (R232-R237) -/

/-- Reanchor(v, t) (R232). -/
def reanchor (t : Word) (r : EvRec) : EvRec :=
  let d := fSub t r.tLast
  let moved :=
    if r.method = 1 then
      (r.put 1 (fFma (fFma r.s2 d r.s1) d r.x)).put 2 (fFma (fMul fTwo r.s2) d r.s1)
    else r.put 1 (fFma r.s1 d r.x)
  moved.put 0 t

/-- ChooseQ(v) (R233). -/
def chooseQ (r : EvRec) : EvRec :=
  if r.method ≠ 2 || fEq r.s1 0 then r.put 4 r.x
  else
    let qo := r.q
    let up := fLt 0 r.s1
    let g := if up then fAdd r.x r.quantum else fSub r.x r.quantum
    let sp := fFma r.s2 (fSub g qo) r.s1
    if (up && fLe 0 sp) || (fLt r.s1 0 && fLe sp 0) then r.put 4 g
    else
      let qe := fSub qo (fDiv r.s1 r.s2)
      r.put 4 (if fLe (fAbs (fSub qe r.x)) r.quantum then qe else r.x)

/-- The least positive root of QSS2 for the two sides of the quantum, +∞ for none. -/
def nextRoot (r : EvRec) : Word :=
  let e := fSub r.x r.q
  [r.quantum, r.quantum ^^^ 0x8000_0000_0000_0000#64].foldl (fun best g =>
    let u := fDiv (fSub g e) r.s2
    if fLt 0 u then fMin best (fSqrt u) else best) fInf

/-- Crossing(v, t′) (R234). -/
def crossing (t0 : Word) (r : EvRec) : Word :=
  let t :=
    if r.method = 1 then (if fEq r.s2 0 then fInf else fAdd t0 (nextRoot r))
    else if fEq r.s1 0 then fInf
    else
      let up := fLt 0 r.s1
      let ahead := r.method = 2 && ((up && fLt r.x r.q) || (fLt r.s1 0 && fLt r.q r.x))
      let g := if ahead then r.q else if up then fAdd r.q r.quantum else fSub r.q r.quantum
      fAdd t0 (fDiv (fSub g r.x) r.s1)
  if fLt t t0 then t0 else t

/-- t_next := Clamp(v, t) with STORM, and whether it was clamped (R237). -/
def clampNext (tmin : Vector Word 8) (t : Word) (r : EvRec) : EvRec × Bool :=
  let lim := fAdd r.tprev (tmin.getD r.stormClass 0)
  let late := fLt t lim
  ((r.put 6 (if late then lim else t)).put 7 (setBit r.control 53 late), late)

/-! ## The words an act consumes (R249) -/

namespace EvRec

/-- Whether one of some words of a record is poison. -/
def marked (r : EvRec) (words : List Nat) : Bool := words.any r.poison.getLsbD
/-- The words Reanchor reads (R232). -/
def anchorWords (r : EvRec) : List Nat := if r.method = 1 then [7, 0, 1, 2, 3] else [7, 0, 1, 2]
/-- The words an event reads: t_next, those of Reanchor, and what ChooseQ and Crossing add (R230, R233, R234). -/
def eventWords (r : EvRec) : List Nat :=
  6 :: r.anchorWords ++
    (if r.method = 1 then (if fEq r.s2 0 then [] else [5])
     else if fEq r.s1 0 then []
     else if r.method = 2 then [3, 4, 5] else [5])
/-- The words EVSLOPE reads with new slopes b and c (R234, R235). -/
def slopeWords (r : EvRec) (b c : Word) : List Nat :=
  r.anchorWords ++ (if r.method = 1 then 4 :: (if fEq c 0 then [] else [5]) else if fEq b 0 then [] else [4, 5])
/-- The words EVQLD reads (R236). -/
def quantWords (r : EvRec) (slope : Bool) (t : Word) : List Nat :=
  7 :: (if slope then (if r.method = 1 then [2] else [])
    else if r.method = 1 then (if fFinite t then [0, 2, 4] else []) else [4])

end EvRec

/-! ## Engines -/

/-- An event engine of the domain: 512 times its device's place plus its cluster. A peer's stand beside this module's. -/
def engineAt (s : State) (k : Nat) : EvEngine := (s.cluster k).ev

/-- Whether a saved engine of a pre-empted gang stands for a cluster's (R249). -/
def savedEngine (s : State) (g k : Nat) : Option EvEngine :=
  match (s.gang? g).bind (·.saved) with
  | some v => (v.engines.find? (fun e => e.1 == k)).map (·.2)
  | none => none

/-- The engine of a cluster that serves a gang, running or saved. -/
def servingEngine (s : State) (g k : Nat) : Option EvEngine :=
  if (engineAt s k).gang = g then some (engineAt s k) else savedEngine s g k

def modServing (g k : Nat) (f : EvEngine → EvEngine) (s : State) : State :=
  if (engineAt s k).gang = g then s.modEvent k f
  else s.modGang g (fun u => { u with saved := u.saved.map (fun v =>
    { v with engines := v.engines.map (fun e => if e.1 = k then (e.1, f e.2) else e) }) })

/-- The cluster of the issuing tile sequencer. -/
def myCluster : Exec Nat := do return clusterOf (← myTileNo)

/-- A storm clamp is counted at the engine and for its gang (R237). -/
def countClamp (k : Nat) (clamped : Bool) (s : State) : State :=
  if clamped then
    (s.modEvent k (fun e => { e with clamps := e.clamps + 1 })).modGang (engineAt s k).gang
      (fun u => { u with clamps := min (u.clamps + 1) (2 ^ 32 - 1) })
  else s

/-- Stores a record with its next event after an anchor at `t0`. -/
def storeRec (k i : Nat) (t0 : Word) (r : EvRec) (s : State) : State :=
  let (r, clamped) := clampNext (s.cluster k).evtmin (crossing t0 r) r
  countClamp k clamped (s.modEvent k (fun e => e.putRec i r))

/-! ## Samples (R243-R245) -/

/-- The gang that an engine serves. -/
def engineGang (s : State) (k : Nat) : Nat := (engineAt s k).gang

/-- Writes bytes of an engine's sample buffer. -/
def writeBuffer (k : Nat) (buffer : Word) (at_ : Nat) (bytes : Marked) (s : State) : State :=
  writeScratch false (partOfGang s (engineGang s k)) (engineGang s k) (gtileOf s buffer) (offsetOf buffer + at_) bytes s

/-- A value of an engine's sample buffer with whether it is poison. -/
def bufferValue (k : Nat) (buffer : Word) (at_ n : Nat) (s : State) : (Nat × Bool) × State :=
  let d := readDecoded s.mem s.free 0 (scratchKey (gtileOf s buffer) (offsetOf buffer + at_)) n
  ((ofBytes d.bytes, d.poison.any id), afterFindings (partOfGang s (engineGang s k)) (engineGang s k) d s)

/-- A new value of a word of the buffer from its old one; poison stays poison. -/
def updateBuffer (k : Nat) (buffer : Word) (at_ n : Nat) (f : Nat → Nat) (s : State) : State :=
  let (v, s) := bufferValue k buffer at_ n s
  writeBuffer k buffer at_ (marked (toBytes n (f v.1)) v.2) s

/-- x(ts) of a record, without a change to it (R244). -/
def valueAt (ts : Word) (r : EvRec) : Word := (reanchor ts r).x

/-- Capture (R244). -/
def capture (k : Nat) (s : State) : State :=
  let e := engineAt s k
  match e.sample with
  | some m =>
    let values := (List.range 4096).map (fun i => if e.defined i then valueAt m.ts (e.rec_ i) else fNaN)
    let h : Word := match e.window with
      | some w => w.h
      | none => 0
    let s := writeBuffer k m.buffer 64 (marked (values.map (fun v => toBytes 8 v.toNat)).flatten false) s
    let s := writeBuffer k m.buffer 24 (marked (toBytes 4 e.recs.length) false) s
    let s := writeBuffer k m.buffer 0 (marked (toBytes 8 1) false) s
    s.modEvent k (fun e => { e with sample := some { m with captured := true, h := h } })
  | none => s

/-- An engine consumes a poisoned record word: poison consumed at its cluster's tiles (R71, R249, R278). -/
def enginePoison (k : Nat) (s : State) : State := killRect (rectOf s (4 * k)) s

/-- Whether the next events of an engine hold poison, which a choice among them consumes (R230, R249). -/
def nextPoisoned (e : EvEngine) : Bool := e.recs.any (fun r => r.2.marked [6])

/-- Whether a capture at a time above ts would consume a poisoned word (R244, R249). -/
def capturePoisoned (s : State) (k : Nat) (t : Word) : Bool :=
  match (engineAt s k).sample with
  | some m => !m.captured && fLt m.ts t && (engineAt s k).recs.any (fun r => r.2.marked r.2.anchorWords)
  | none => false

/-- Captures when the engine meets a time above ts. -/
def captureAbove (k : Nat) (t : Word) (s : State) : State :=
  match (engineAt s k).sample with
  | some m => if !m.captured && fLt m.ts t then capture k s else s
  | none => s

/-- Adds 1 to a completion word for a gang (R240, R245); a fence drops it (R278). -/
def bumpWord (g : Nat) (key : Nat) (entry : BitVec 32) (s : State) : State :=
  let p := partOfGang s g
  if fencedKey s key then dropWrite p s
  else
    let d := readDecoded s.mem s.free entry key 8
    let s := afterFindings p g d s
    let bytes := marked (toBytes 8 (ofBytes d.bytes + 1)) (d.poison.any id)
    if spaceOf key = spaceScratch then writeScratch false p g (tileOfKey key) (key % 2 ^ 20) bytes s
    else writeBytes p g entry key bytes s

/-- Settlement of a captured sample once GVT > ts + H (R245). -/
def settleSample (k : Nat) (s : State) : State :=
  let e := engineAt s k
  match e.sample with
  | some m =>
    if m.captured && fLt (fAdd m.ts m.h) e.gvt then
      let s := writeBuffer k m.buffer 0 (marked (toBytes 8 3) false) s
      let s := bumpWord e.gang (scratchKey (gtileOf s m.buffer) (offsetOf m.buffer + 8)) 0 s
      s.modEvent k (fun e => { e with sample := none })
    else s
  | none => s

/-- The patch of a captured sample by a late wake of variable `i` with original time `tl`, applied at `applied` (R244). -/
def patchSample (k i : Nat) (old : EvRec) (b c applied tl : Word) (s : State) : State :=
  match (engineAt s k).sample with
  | some m =>
    if m.captured && fLe tl m.ts then
      let d := fSub m.ts tl
      let moved := fun (v : Nat) =>
        let v := fFma (fSub b old.s1) d (BitVec.ofNat 64 v)
        (if old.method = 1 then fFma (fSub c old.s2) (fMul d d) v else v).toNat
      let s := updateBuffer k m.buffer (64 + 8 * i) 8 moved s
      let s := updateBuffer k m.buffer 28 4 (· + 1) s
      updateBuffer k m.buffer 32 8 (fun v => (fMax (BitVec.ofNat 64 v) (fSub applied tl)).toNat) s
    else s
  | none => s

/-! ## What the instructions do to an engine (R228, R235, R240, R243) -/

/-- The engine is taken by a launch: every record undefined, every counter clear (R223, R248). -/
def takeEngine (k g : Nat) (s : State) : State :=
  if (engineAt s k).gang = 0 then s.modEvent k (fun _ => { EvEngine.reset with gang := g }) else s

/-- EVSLOPE's effect (R235). -/
def applySlope (k i : Nat) (b c : Word) (s : State) : State :=
  let e := engineAt s k
  let r := e.rec_ i
  let t0 := match r.wakes with
    | w :: _ => w.time
    | [] => e.lvt
  let d := fSub t0 r.tLast
  let moved :=
    if r.method = 1 then (r.put 4 (fFma r.s1 d r.q)).put 1 (fFma (fFma r.s2 d r.s1) d r.x)
    else r.put 1 (fFma r.s1 d r.x)
  let fresh := ((moved.put 0 t0).put 2 b).put 3 c
  let left := r.wakes.drop 1
  let fresh := { fresh with wakes := left, w := fresh.w.setIfInBounds 7 (setBit fresh.control 54 (!left.isEmpty)) }
  let s := storeRec k i t0 fresh s
  match r.wakes with
  | w :: _ =>
    let s := match w.late with
      | some tl => patchSample k i r b c w.time tl s
      | none => s
    s.modEvent k (fun e => { e with item := e.item.map (fun it => { it with unsettled := it.unsettled - 1 }) })
  | [] => s

/-- The window closes when the engine has received GVT ≥ T (R240). -/
def closeWindow (k : Nat) (s : State) : State :=
  let e := engineAt s k
  match e.window with
  | some w =>
    if fLe w.t e.gvt then
      let s := s.modEvent k (fun e => { e with window := none })
      match w.word with
      | some (key, entry) => bumpWord e.gang key entry s
      | none => s
    else s
  | none => s

/-- The effect of an instruction at its engine, which serves the launch since the instruction issued. A window whose T the engine has
received closes at once (R240). -/
def applyEvent (k g : Nat) (c : EvCmd) (s : State) : State :=
  if engineGang s k ≠ g then s
  else match c with
  | .define i image =>
    let control := setBit (setBit (image.getD 7 0) 54 false) 53 false
    storeRec k i (image.getD 0 0) ⟨image.setIfInBounds 7 control, 0, fNegInf, []⟩ s
  | .depend i first count base =>
    s.modEvent k (fun e =>
      let r := e.rec_ i
      let kept := r.control &&& ~~~0x1FF_FFFF_FFE0#64
      let control := kept ||| BitVec.ofNat 64 (first * 2 ^ 5 + count * 2 ^ 29)
      { e.putRec i (r.put 7 control) with listBase := if base = 0 then e.listBase else base })
  | .run w => closeWindow k (s.modEvent k (fun e => { e with window := some w, opening := false }))
  | .sample buffer ts =>
    let s := writeBuffer k buffer 0 (marked (toBytes 8 0) false) s
    let s := writeBuffer k buffer 16 (marked (toBytes 8 ts.toNat) false) s
    let s := writeBuffer k buffer 24 (marked (List.replicate 40 0) false) s
    s.modEvent k (fun e => { e with sample := some ⟨buffer, ts, 0, false⟩, arming := false })
  | .slope i b c =>
    let r := (engineAt s k).rec_ i
    if r.marked (r.slopeWords b c) then enginePoison k s else applySlope k i b c s

/-- An engine knows what a bridled pair has asked of it and not yet sent (R280). -/
def announce (k : Nat) (c : EvCmd) (on : Bool) (s : State) : State :=
  match c with
  | .run _ => s.modEvent k (fun e => { e with opening := on })
  | .sample _ _ => s.modEvent k (fun e => { e with arming := on })
  | _ => s

/-! ## Checks of the instructions (R223, R224, R360) -/

def refIndex (v : Word) : Nat := (v.extractLsb' 0 12).toNat
def refEngine (v : Word) : Nat := (v.extractLsb' 12 9).toNat
def refDevice (v : Word) : Nat := (v.extractLsb' 21 8).toNat

/-- TVAL of event engine for a variable. -/
def refTval (v : Word) : Word := BitVec.ofNat 64 (refIndex v)

def checkRef (v : Word) (ok : Bool) : Exec Unit := check ok 0x17 (refTval v)

/-- Whether a VREF is well formed and names the issuing cluster's engine. -/
def namesOwn (s : State) (k : Nat) (v : Word) : Bool :=
  (v.extractLsb' 29 35) == 0 && refDevice v = s.host.devid.toNat && refEngine v = k

/-- Whether the engine of a cluster serves no other launch than a gang's. -/
def openTo (s : State) (k g : Nat) : Bool := (engineAt s k).gang = 0 || (engineAt s k).gang = g

/-- The defined variable that a VREF names at the issuing cluster's engine. -/
def ownVariable (k : Nat) (v : Word) : Exec EvRec := do
  let s ← get
  let e := engineAt s k
  checkRef v (namesOwn s k v && e.gang = (← myGangNo) && e.defined (refIndex v))
  return e.rec_ (refIndex v)

/-- Performs an instruction's effect at its engine, or leaves it to the pair's boundary (R280, R360). -/
def askEngine (c : EvCmd) : Exec Unit := do
  let k ← myCluster
  let g ← myGangNo
  if (← myTwin) == .alone then modify (applyEvent k g c)
  else
    modify (announce k c true)
    holdBack (.event k g c)

/-! ## EVDEF, EVDEP (R228) -/

/-- Whether an image keeps R228 for a gang's variable of a cluster. -/
def imageOk (s : State) (k g : Nat) (r : EvRec) : Bool :=
  r.method ≠ 3 && (r.control.extractLsb' 55 9) == 0 && (r.control.extractLsb' 47 6) == 0 &&
    fFinite r.x && fFinite r.s1 && fFinite r.s2 && fFinite r.q && fLt 0 r.quantum && fFinite r.quantum &&
    fLe 0 r.tLast && fFinite r.tLast &&
    (match s.gang? g with
     | some u => u.tiles.contains (4 * k + r.dtile)
     | none => false)

/-- EVDEF's answer on the primary: 1 for a variable that was defined. -/
def evdefAnswer (v b : Word) : Exec Word := do
  let ws ← ownWords b (offsetOf b) 8
  let s ← get
  let k ← myCluster
  let g ← myGangNo
  let image : Vector Word 8 := Vector.ofFn (fun i : Fin 8 => ws.getD i.val 0)
  let e := engineAt s k
  let i := refIndex v
  if namesOwn s k v && openTo s k g && (e.rec_ i).marked [7] then consumed 0
  checkRef v (namesOwn s k v && openTo s k g && e.window.isNone && !(e.rec_ i).pend && imageOk s k g ⟨image, 0, 0, []⟩)
  modify (takeEngine k g)
  askEngine (.define i image)
  return if e.defined i then 1 else 0

/-- An address in the issuer's own scratchpad with room for `n` bytes, aligned to 64. -/
def checkOwn (a : Word) (n : Nat) : Exec Unit := do
  check (isOwnScratch (← get) a && offsetOf a + n ≤ 2 ^ 20) 0x04 a
  check (a.toNat % 64 = 0) 0x0A a

/-- EVDEF (R228). -/
def evdefBody (f : F128C) : Exec Flow := do
  let v ← useX f.a.toNat
  let b ← useX f.b.toNat
  checkOwn b 64
  putX f.d.toNat (← echoed1 (evdefAnswer v b)) false
  takeIn (encode (.evdef f) ++ toBytes 8 v.toNat ++ toBytes 8 b.toNat)
  closeAfter
  return .fall

/-- EVDEF (R228). -/
def execEvdef (f : F128C) (s : State) : Host.Outcome State Fault Refusal := issueC (.evdef f) f (evdefBody f) s

/-- EVDEP (R228, R229). -/
def evdepBody (f : F128C) : Exec Flow := do
  let v ← useX f.a.toNat
  let b ← useX f.b.toNat
  let c ← useX f.c.toNat
  let base := f.imm64
  check (base = 0 || (formOk base && formOf base = 0)) 0x04 base
  check (base.toNat % 4 = 0) 0x0A base
  unlessTwin (do
    let k ← myCluster
    let r ← ownVariable k v
    let e := engineAt (← get) k
    if r.marked [7] then consumed 0
    checkRef v (e.window.isNone && !r.pend && b.toNat < 2 ^ 24 && c.toNat < 4096)
    askEngine (.depend (refIndex v) b.toNat c.toNat base))
  takeIn (encode (.evdep f) ++ toBytes 8 v.toNat ++ toBytes 8 b.toNat ++ toBytes 8 c.toNat)
  closeAfter
  return .fall

/-- EVDEP (R228). -/
def execEvdep (f : F128C) (s : State) : Host.Outcome State Fault Refusal := issueC (.evdep f) f (evdepBody f) s

/-! ## EVSLOPE, EVQLD, EVGVT, EVSTAT (R235, R236, R239, R248) -/

/-- EVSLOPE's answer on the primary: 0 when it settles a wake, 1 when it is spontaneous. -/
def evslopeAnswer (v b c : Word) : Exec Word := do
  let k ← myCluster
  let r ← ownVariable k v
  checkRef v (fFinite b && fFinite c)
  askEngine (.slope (refIndex v) b c)
  return if r.pend then 0 else 1

/-- EVSLOPE (R235). -/
def evslopeBody (f : F64A) : Exec Flow := do
  queueWaits [⟨f.b.toNat, 0, false, false⟩, ⟨f.c.toNat, 0, false, false⟩]
  let v ← useX f.a.toNat
  let b ← useSource 11 f.b.toNat f.imm16 0
  let c ← useSource 11 f.c.toNat f.imm16 0
  putX f.d.toNat (← echoed1 (evslopeAnswer v b c)) false
  takeIn (encode (.evslope f) ++ toBytes 8 v.toNat ++ toBytes 8 b.toNat ++ toBytes 8 c.toNat)
  closeAfter
  return .fall

/-- EVSLOPE (R235). -/
def execEvslope (f : F64A) (s : State) : Host.Outcome State Fault Refusal := issueA (.evslope f) f (evslopeBody f) s

/-- What EVQLD reads of a record at a time (R236, R361). -/
def quantised (r : EvRec) (slope : Bool) (t : Word) : Word :=
  if slope then (if r.method = 1 then r.s1 else 0)
  else if r.method = 1 then (if fFinite t then fFma r.s1 (fSub t r.tLast) r.q else fNaN)
  else r.q

/-- The engine that a VREF names. -/
def engineOfRef (s : State) (v : Word) : Nat := placeOfDevice s (refDevice v) * 512 + refEngine v

/-- The record that EVQLD names at an engine of the launch. -/
def servedRecord (v : Word) : Exec EvRec := do
  let s ← get
  let g ← myGangNo
  match servingEngine s g (engineOfRef s v) with
  | some e =>
    check ((v.extractLsb' 29 35) == 0 && (s.gang? g).isSome && e.defined (refIndex v)) 0x17 (refTval v)
    return e.rec_ (refIndex v)
  | none => trap 0x17 (refTval v)

/-- EVQLD (R236): of another engine the read is a request and D stays pending (R179); in a pair the primary reads and its twin takes
the value (R279). -/
def evqldBody (f : F64A) : Exec Flow := do
  queueWaits [⟨f.b.toNat, 0, false, false⟩]
  let v ← useX f.a.toNat
  let t ← useSource 11 f.b.toNat f.imm16 0
  let d := f.d.toNat
  let _ ← getX d
  let slope := f.fn.getLsbD 0
  let k := engineOfRef (← get) v
  if k = (← myCluster) then
    putX d (← echoed1 (do
      let r ← servedRecord v
      if r.marked (r.quantWords slope t) then consumed 0
      return quantised r slope t)) false
  else
    let _ ← echoed1 (do
      let _ ← servedRecord v
      return 0)
    ask (.record k (refIndex v) t slope f.d) (.scratch (k / 512 * 2048 + k % 512 * 4) 0) false false none
  return .fall

/-- EVQLD (R236). -/
def execEvqld (f : F64A) (s : State) : Host.Outcome State Fault Refusal := issueA (.evqld f) f (evqldBody f) s

/-- The issuing cluster's engine, which serves no other launch; what a freshly taken one holds when it serves none (R223). -/
def myEngine : Exec EvEngine := do
  let s ← get
  let k ← myCluster
  check (openTo s k (← myGangNo)) 0x17 0
  return if (engineAt s k).gang = 0 then EvEngine.reset else engineAt s k

/-- EVGVT (R239). -/
def evgvtBody (f : F64A) : Exec Flow := do
  putX f.d.toNat (← echoed1 (do return (← myEngine).gvt)) false
  return .fall

/-- EVGVT (R239). -/
def execEvgvt (f : F64A) (s : State) : Host.Outcome State Fault Refusal := issueA (.evgvt f) f (evgvtBody f) s

/-- The values of EVSTAT (R248). -/
def statOf (e : EvEngine) (n : Nat) : Word :=
  let bit := fun (b : Bool) (v : Nat) => if b then v else 0
  match n with
  | 0 => e.events
  | 1 => e.wakes
  | 2 => e.sent
  | 3 => e.received
  | 4 => e.lateTokens
  | 5 => e.lateness
  | 6 => e.clamps
  | 7 => e.lvt
  | 8 => BitVec.ofNat 64 (bit e.window.isSome 1 + bit e.sample.isSome 2 + bit e.item.isSome 4)
  | 9 => e.dropped
  | _ => BitVec.ofNat 64 e.recs.length

/-- EVSTAT (R248). -/
def evstatBody (f : F64A) : Exec Flow := do
  putX f.d.toNat (← echoed1 (do return statOf (← myEngine) (f.imm16.toNat % 16))) false
  return .fall

/-- EVSTAT (R248). -/
def execEvstat (f : F64A) (s : State) : Host.Outcome State Fault Refusal := issueA (.evstat f) f (evstatBody f) s

/-! ## EVRUN, EVSAMP (R240, R243) -/

/-- The key and layout-table entry of a completion word on the issuer's own module, 8-byte aligned; a form 0b01 address of another
module raises 0x04 and a peer's page 0x09 (R240, log 43). -/
def completionWord (a : Word) : Exec (Nat × BitVec 32) := do
  let rs ← takeSpans a 8 8 .read false
  let ws ← takeSpans a 8 8 .write false
  let s ← get
  match (rs ++ ws).head? with
  | some p => return (leafKey s.host.devid.toNat p.leaf (a.toNat - p.base), leafEntry s (s.partOf s.focus) p.leaf)
  | none => return (scratchKey (mirrored s s.focus (gtileOf s a)) (offsetOf a), 0)

/-- EVRUN's answer on the primary. -/
def evrunAnswer (h t : Word) (word : Option (Nat × BitVec 32)) : Exec Word := do
  let s ← get
  let k ← myCluster
  let g ← myGangNo
  check (openTo s k g) 0x17 0
  modify (takeEngine k g)
  if fLt h 0 || fNan h || fNan t then return 2
  if (engineAt (← get) k).window.isSome || (engineAt (← get) k).opening then return 1
  forkEdge
  askEngine (.run ⟨h, t, word⟩)
  return 0

/-- EVRUN (R240). -/
def evrunBody (f : F64A) : Exec Flow := do
  queueWaits [⟨f.b.toNat, 0, false, false⟩, ⟨f.c.toNat, 0, false, false⟩]
  let h ← useX f.a.toNat
  let t ← useSource 11 f.b.toNat f.imm16 0
  let c ← useSource 11 f.c.toNat f.imm16 0
  let d ← echoed1 (do
    let word ← if f.c = 0 then pure none else some <$> completionWord c
    evrunAnswer h t word)
  putX f.d.toNat d false
  takeIn (encode (.evrun f) ++ toBytes 8 h.toNat ++ toBytes 8 t.toNat ++ toBytes 8 c.toNat)
  closeAfter
  return .fall

/-- EVRUN (R240). -/
def execEvrun (f : F64A) (s : State) : Host.Outcome State Fault Refusal := issueA (.evrun f) f (evrunBody f) s

/-- Bytes of a sample buffer (R243). -/
def sampleBytes : Nat := 32832

/-- EVSAMP's answer on the primary. -/
def evsampAnswer (a ts : Word) : Exec Word := do
  let s ← get
  let k ← myCluster
  let g ← myGangNo
  check (openTo s k g) 0x17 0
  modify (takeEngine k g)
  let e := engineAt (← get) k
  if e.sample.isSome || e.arming then return 1
  if fNan ts || fLt ts e.lvt then return 2
  askEngine (.sample a ts)
  return 0

/-- EVSAMP (R243). -/
def evsampBody (f : F128C) : Exec Flow := do
  let a ← useX f.a.toNat
  let ts ← useX f.b.toNat
  checkOwn a sampleBytes
  putX f.d.toNat (← echoed1 (evsampAnswer a ts)) false
  takeIn (encode (.evsamp f) ++ toBytes 8 a.toNat ++ toBytes 8 ts.toNat)
  closeAfter
  return .fall

/-- EVSAMP (R243). -/
def execEvsamp (f : F128C) (s : State) : Host.Outcome State Fault Refusal := issueC (.evsamp f) f (evsampBody f) s

/-! ## Items (R229-R231, R241) -/

/-- Whether an item of a time is due under the open window (R240). -/
def due (e : EvEngine) (t : Word) : Bool :=
  match e.window with
  | some w => fLt t w.t && (fLt t (fAdd e.gvt w.h) || (fEq w.h 0 && fEq t e.gvt))
  | none => false

/-- The earliest of an engine's events: time and variable, the lowest variable first; a time that is a NaN is no event's (R230, log 43). -/
def earliestEvent (e : EvEngine) : Option (Word × Nat) :=
  e.recs.foldl (fun best r =>
    if fNan r.2.tNext then best
    else match best with
      | some b => if fLt r.2.tNext b.1 then some (r.2.tNext, r.1) else best
      | none => some (r.2.tNext, r.1)) none

/-- The earliest token of an engine's queue, by time and then by arrival. -/
def earliestToken (e : EvEngine) : Option Token :=
  e.tokens.foldl (fun best t =>
    match best with
    | some b => if fLt t.time b.time then some t else best
    | none => some t) none

/-- An engine's first item by key: a token before an event of the same time. -/
inductive First where
  | token (t : Token)
  | event (time : Word) (index : Nat)
  deriving DecidableEq, Repr

def firstItem (e : EvEngine) : Option First :=
  match earliestToken e, earliestEvent e with
  | some t, some (u, i) => if fLt u t.time then some (.event u i) else some (.token t)
  | some t, none => some (.token t)
  | none, some (u, i) => some (.event u i)
  | none, none => none

def First.time : First → Word
  | .token t => t.time
  | .event t _ => t

/-- Why an engine cannot go on: a list it cannot translate, a poisoned word, or a miss that is not answered (R188, R229, R249). -/
inductive EvStop where
  | broken
  | poisoned
  | pends (va : Nat)
  deriving DecidableEq, Repr

/-- A word of a dependant list, through the cluster's TLB, whose miss the serving service core answers, and the owning memory core
(R188, R229). -/
def listWord (s : State) (k : Nat) (a : Word) : Except EvStop (BitVec 32) × State :=
  let g := engineGang s k
  let p := partOfGang s g
  if a.toNat + 4 > 2 ^ 54 then (.error .broken, s)
  else
    let (entry, s) := deviceEntry (.s k) p g a.toNat .read s
    match entry with
    | .absent => (.error .broken, takeRefusal (.s k) p g a.toNat .read s)
    | .pends => (.error (.pends a.toNat), s)
    | .found e =>
      let leaf := e.leaf.setWidth 64
      let d := readDecoded s.mem s.free (leafEntry s p leaf) (leafKey s.host.devid.toNat leaf (a.toNat - e.base)) 4
      let s := afterFindings p g d s
      if d.poison.any id then (.error .poisoned, s) else (.ok (BitVec.ofNat 32 (ofBytes d.bytes)), s)

/-- Whether a list entry names a variable that can be woken: well formed, at an engine of the launch, defined there (R229). -/
def wakable (s : State) (g : Nat) (w : BitVec 32) : Bool :=
  let v : Word := w.setWidth 64
  (w.extractLsb' 29 3) == 0 &&
    (match servingEngine s g (engineOfRef s v) with
     | some e => e.defined (refIndex v)
     | none => false)

/-- The wakes of an event's dependant list, in list order; entries that cannot be woken are dropped and counted. -/
def readList (k i : Nat) (base : Word) : Nat → Nat → State → Except EvStop (List ToWake) × State
  | 0, _, s => (.ok [], s)
  | n + 1, j, s =>
    match listWord s k (base + BitVec.ofNat 64 (4 * j)) with
    | (.error x, s) => (.error x, s)
    | (.ok w, s) =>
      let g := (engineAt s k).gang
      let ok := wakable s g w
      let s := if ok then s else s.modEvent k (fun e => { e with dropped := e.dropped + 1 })
      match readList k i base n (j + 1) s with
      | (.ok l, s) =>
        let v : Word := w.setWidth 64
        let self := namesOwn s k v && refIndex v = i
        (.ok (if ok then ⟨w.extractLsb' 0 29, self, none, false⟩ :: l else l), s)
      | r => r

/-- Writes a wake token of 16 bytes (R231). -/
def tokenBytes (w : ToWake) (t : Word) : List Byte :=
  toBytes 4 w.ref.toNat ++ toBytes 2 ((if w.self then 1 else 0) + (if w.late.isSome then 2 else 0)) ++ toBytes 2 0 ++
    toBytes 8 (w.late.getD t).toNat

/-- Input queue 0 of a variable's derivative actor, when it is bound with slots of at least 16 bytes. -/
def wakeQueue (s : State) (k : Nat) (r : EvRec) : Option (Nat × Nat × Queue) :=
  let t := 4 * k + r.dtile
  match ((s.tile t).x.actors.getD r.dact Actor.absent).inputs.head? with
  | some (h, _) => match (s.tile t).x.handles.getD h none with
    | some (.tile g base) =>
      let q := queueAt s (.tile g base)
      if 16 ≤ q.size then some (g, base, q) else none
    | _ => none
  | none => none

/-- Posts a local wake of an engine: the token at producer + 0 and the producer counter one further, at both members of a pair. -/
def postToken (k g base : Nat) (q : Queue) (bytes : List Byte) (s : State) : State :=
  let gang := engineGang s k
  let s := writeScratch false (partOfGang s gang) gang g (base + q.slotOffset q.p 0) (marked bytes false) s
  let f := fun (u : Tile) => { u with queues := u.queues.set base ((u.queues.get Queue.reset base).moved true 1) }
  (stateTiles s false g).foldl (fun s u => latchTile u 1 s) (outsideChange g f s)

/-- A gang ends for its event engine's queue or list (R229, R231). -/
def eventFault (g : Nat) (s : State) : State := endGang g 10 0x17 s

/-- A local wake of an item's time sets PEND of its variable and counts as unsettled, before its token finds a slot
(R231); selector 1 of R248 counts it here (log 43). -/
def setPend (k : Nat) (it : Item) (w : ToWake) (s : State) : State :=
  s.modEvent k (fun e =>
    let i := refIndex (w.ref.setWidth 64)
    let r := e.rec_ i
    { e.putRec i { r.put 7 (setBit r.control 54 true) with wakes := r.wakes ++ [⟨it.time, w.late⟩] } with
      wakes := e.wakes + 1
      item := some { it with todo := { w with pending := true } :: it.todo.drop 1, unsettled := it.unsettled + 1 } })

/-- The first wake of an item is made. -/
def dropWake (k : Nat) (s : State) : State :=
  s.modEvent k (fun e => { e with item := e.item.map (fun it => { it with todo := it.todo.drop 1 }) })

/-- Writes the token of a local wake that is pending, if its queue has room: whether it was written. -/
def writeWake (k : Nat) (w : ToWake) (time : Word) (s : State) : Bool × State :=
  match wakeQueue s k ((engineAt s k).rec_ (refIndex (w.ref.setWidth 64))) with
  | none => (false, eventFault (engineGang s k) s)
  | some (g, base, q) =>
    if q.poison then (false, enginePoison k s)
    else if q.free = 0 then (false, s)
    else (true, dropWake k (postToken k g base q (tokenBytes w time) s))

/-- Sends a wake to another engine. -/
def sendWake (k : Nat) (it : Item) (w : ToWake) (s : State) : State :=
  let v : Word := w.ref.setWidth 64
  let x : Sent := ⟨s.next, engineGang s k, k, engineOfRef s v, ⟨refIndex v, it.time⟩, Way.start (routerOf (4 * k)) s.time⟩
  let s := { (s.modLaunch (fun l => { l with tokens := l.tokens ++ [x] })) with next := s.next + 1 }
  dropWake k (s.modEvent k (fun e => { e with sent := e.sent + 1, item := some { it with unsettled := it.unsettled + 1 } }))

/-- Makes an item's next wakes, as many as there is room for (R231). -/
def makeWakes (k : Nat) : Nat → State → State
  | 0, s => s
  | fuel + 1, s =>
    match (engineAt s k).item with
    | none => s
    | some it =>
      match it.todo with
      | [] => if it.unsettled = 0 then s.modEvent k (fun e => { e with item := none }) else s
      | w :: _ =>
        if !namesOwn s k (w.ref.setWidth 64) then makeWakes k fuel (sendWake k it w s)
        else if ((engineAt s k).rec_ (refIndex (w.ref.setWidth 64))).marked [7] then enginePoison k s
        else
          let (written, s') := writeWake k w it.time (if w.pending then s else setPend k it w s)
          if written then makeWakes k fuel s' else s'

/-- Begins an event of variable `i` (R230). -/
def beginEvent (k i : Nat) (s : State) : State :=
  let before := s
  let e := engineAt s k
  let r := e.rec_ i
  if r.marked r.eventWords then enginePoison k s else
  let t := fMax e.lvt r.tNext
  let s := s.modEvent k (fun e => { e with lvt := t, events := e.events + 1 })
  let r := chooseQ (reanchor t r)
  let (r, clamped) := clampNext (s.cluster k).evtmin (crossing t r) r
  let s := countClamp k clamped (s.modEvent k (fun e => e.putRec i { r with tprev := t }))
  match readList k i (e.listBase + BitVec.ofNat 64 (4 * r.didx)) r.dcnt 0 s with
  | (.error (.pends va), _) => missDevice (.s k) (partOfGang before e.gang) e.gang va .read before
  | (.error .broken, s) => eventFault e.gang s
  | (.error .poisoned, s) => enginePoison k s
  | (.ok l, s) => makeWakes k (l.length + 1) (s.modEvent k (fun e => { e with item := some ⟨t, l, 0, s.time⟩ }))

/-- Begins a token's item: one that is late is applied at LVT, and counted (R241). -/
def beginToken (k : Nat) (t : Token) (s : State) : State :=
  let e := engineAt s k
  let late := fLt t.time e.lvt
  let at_ := fMax e.lvt t.time
  let own := BitVec.ofNat 29 (s.host.devid.toNat * 2 ^ 21 + k * 2 ^ 12 + t.index)
  let w : ToWake := ⟨own, false, if late then some t.time else none, false⟩
  makeWakes k 2 (s.modEvent k (fun e =>
    { e with
      lvt := at_
      tokens := e.tokens.erase t
      lateTokens := if late then e.lateTokens + 1 else e.lateTokens
      lateness := if late then fMax e.lateness (fSub at_ t.time) else e.lateness
      item := some ⟨at_, [w], 0, s.time⟩ }))

/-- Whether an engine may begin an item: its gang runs and is not about to be pre-empted (R146). -/
def engineRuns (s : State) (k : Nat) : Bool :=
  match s.gang? (engineAt s k).gang with
  | some u => u.phase == .running && u.killing.isNone
  | none => false

/-- EVENT_ITEM (R230): the subject is the engine. An item in hand goes on; else the first item begins if it is due. -/
def execEventItem (s : State) : Host.Outcome State Fault Refusal :=
  let k := s.subject
  let e := engineAt s k
  match e.item with
  | some it => .next (makeWakes k (it.todo.length + 1) s)
  | none =>
    if engineRuns s k && e.window.isSome && nextPoisoned e then .next (enginePoison k s)
    else match firstItem e with
    | some f =>
      if engineRuns s k && due e f.time then
        if capturePoisoned s k f.time then .next (enginePoison k s)
        else
        let s := captureAbove k f.time s
        match f with
        | .token t => .next (beginToken k t s)
        | .event _ i => .next (beginEvent k i s)
      else .next s
    | none => .next s

/-! ## Tokens, global virtual time (R230, R239, R240, R245) -/

/-- Tokens that an engine's queue holds (R230). -/
def tokenRoom : Nat := 1024

/-- The wake of the sending engine settles. -/
def settleSent (x : Sent) (s : State) : State :=
  modServing x.gang x.sender (fun e => { e with item := e.item.map (fun it => { it with unsettled := it.unsettled - 1 }) }) s

/-- The router at which a token arrives, and whether it has come to its engine. -/
def Sent.router (x : Sent) : Nat := if x.engine < 512 then routerOf (4 * x.engine) else routerOfTether (tetherTo (x.engine / 512 - 1))
def Sent.there (x : Sent) : Bool := if x.engine < 512 then x.way.hop == .router x.router else x.way.hop == .across

/-- REMOTE_TOKEN_ACCEPT (R230): the subject numbers the token among those on their way, whose packet has come. Its engine accepts it
into its queue when there is room, pre-empted or not (R249), and its tile keeps room for the response (R256). -/
def execRemoteTokenAccept (s : State) : Host.Outcome State Fault Refusal :=
  match s.launch.tokens[s.subject]? with
  | none => .next s
  | some x =>
    if !x.there then .next s
    else
      let rest := (countError s (partOfGang s x.gang) 6 x.way.copies).modLaunch (fun l => { l with tokens := l.tokens.eraseIdx s.subject })
      match servingEngine s x.gang x.engine with
      | none => .next (settleSent x rest)
      | some e =>
        if e.tokens.length < tokenRoom && (s.fabric.cache.filter (fun c => c.home == 4 * x.engine)).length < 256 then
          .next (settleSent x (modServing x.gang x.engine (fun e =>
            { e with tokens := e.tokens ++ [x.token], received := e.received + 1 }) rest))
        else .next s

/-- What an engine contributes to GVT (R239). -/
def contribution (s : State) (g k : Nat) (e : EvEngine) : Word :=
  let own := if e.item.isSome then e.lvt else fInf
  let first := match firstItem e with
    | some f => f.time
    | none => fInf
  (s.launch.tokens.filter (fun x => x.gang == g && x.sender == k)).foldl (fun t x => fMin t x.token.time) (fMin own first)

/-- A reduction met a poisoned t_next of an engine, running or saved: the gang ends (R239, R249). -/
def reductionPoison (g k : Nat) (s : State) : State := if engineGang s k = g then enginePoison k s else endGang g 2 0x11 s

/-- The engines of this module that serve a gang, running or saved. -/
def enginesOf (s : State) (g : Nat) : List (Nat × EvEngine) :=
  ((s.clusters.filter (fun e => e.1 < 512 && e.2.ev.gang == g)).map (fun e => (e.1, e.2.ev))) ++
    (match (s.gang? g).bind (·.saved) with
     | some v => v.engines
     | none => [])

/-- GVT_REDUCTION (R239): at a tick that is a multiple of 1,000, over this module's engines and the least that the peers'
engines contribute; a larger result becomes the gang's GVT and goes to its engines. -/
def execGvtReduction (gang : Nat) (peers : BitVec 64) (s : State) : Host.Outcome State Fault Refusal :=
  match s.gang? gang with
  | none => .next s
  | some u =>
    if s.ticks % 1000 ≠ 0 then .next s
    else match (enginesOf s gang).find? (fun e => nextPoisoned e.2) with
    | some e => .next (reductionPoison gang e.1 s)
    | none =>
      let v := (enginesOf s gang).foldl (fun t e => fMin t (contribution s gang e.1 e.2)) peers
      let gvt := fMax u.gvt v
      let s := s.modGang gang (fun u => { u with gvt := gvt })
      .next ((enginesOf s gang).foldl (fun s e =>
        modServing gang e.1 (fun e => if fLt e.gvt gvt then { e with incoming := some gvt } else e) s) s)

/-- GVT_RECEIVE (R239): the subject engine receives the new value: a sample is captured, the window closes, the sample
settles (R240, R244, R245). -/
def execGvtReceive (s : State) : Host.Outcome State Fault Refusal :=
  let k := s.subject
  match (engineAt s k).incoming with
  | none => .next s
  | some v =>
    let s := s.modEvent k (fun e => { e with gvt := fMax e.gvt v, incoming := none })
    if capturePoisoned s k (engineAt s k).gvt then .next (enginePoison k s)
    else .next (settleSample k (closeWindow k (captureAbove k (engineAt s k).gvt s)))

end Sys2Proof.Machine
end

