-- ==== Sys2Proof/Machine/Queue.lean ====
section
/-! DEFINITION. The queue instructions QBIND, QADV, QPUB, QAVAIL (R106-R110, R406, R407). -/

namespace Sys2Proof.Machine

/-! ## Geometry and overlap -/

/-- Whether a geometry keeps the limits of R106. -/
def geometryOk (lz ls : Nat) : Bool := 3 ≤ lz && lz ≤ 12 && 1 ≤ ls && ls ≤ 12 && lz + ls ≤ 19

/-- Whether a queue may stand at a base beside a scratchpad's other queues: the same geometry where one is there, no overlap,
at most 64 (R106, R107). -/
def queueFits (qs : Assoc Queue) (base lz ls : Nat) : Bool :=
  match qs.find? (fun e => e.1 == base) with
  | some e => e.2.lz == lz && e.2.ls == ls
  | none =>
    qs.length < 64 &&
      qs.all (fun e => base + 2 ^ (lz + ls) ≤ e.1 || e.1 + 2 ^ (e.2.lz + e.2.ls) ≤ base)

/-- A queue stands at a base: created with both counters 0 unless it is there already (R106). -/
def createQueue (base lz ls : Nat) (u : Tile) : Tile :=
  if u.queues.any (fun e => e.1 == base) then u else { u with queues := u.queues.set base ⟨lz, ls, 0, 0, false⟩ }

/-- A change of a scratchpad's queues: by a member of the pair at its own tile, by any other agent at both (R279). -/
def changeTile (inside : Bool) (t : Nat) (f : Tile → Tile) (s : State) : State :=
  if inside then s.modTile t f else outsideChange t f s

/-- Binds the issuing sequencer's handle with specifier `spec` (R406). -/
def bindHandle (spec : Nat) (r : Option QRef) (s : State) : State :=
  s.modSeq s.focus (fun q => { q with handles := q.handles.setIfInBounds (spec - 32) r })

/-- QBIND (R107, R406): a geometry or place that no queue can have leaves the handle unbound. -/
def qbindBody (f : F64A) : Exec Flow := do
  let spec := f.d.toNat
  check ((← me).kind ≠ .m || spec ≠ 47) 0x01 0
  let a ← useX f.a.toNat
  let g ← useSource 3 f.b.toNat f.imm16 0
  check (formOf a = 1) 0x04 a
  checkAddress a 1 1
  let s ← get
  let lz := g.toNat % 16
  let ls := g.toNat / 16 % 16
  let tile := mirrored s s.focus (gtileOf s a)
  let base := offsetOf a
  let unfit : Stop := .after 0x0E (BitVec.ofNat 64 spec) (bindHandle spec none)
  if g.toNat / 256 ≠ 0 || !geometryOk lz ls then throw unfit
  check (base % 2 ^ (lz + ls) = 0) 0x0A a
  if !queueFits (s.tile tile).queues base lz ls then throw unfit
  let inside := inPair s s.focus tile
  modify (fun s => bindHandle spec (some (.tile tile base))
    (changeTile inside tile (createQueue base lz ls) s))
  return .fall

/-- QBIND (R406). -/
def execQbind (f : F64A) (s : State) : Host.Outcome State Fault Refusal := issueA (.qbind f) f (qbindBody f) s

/-! ## Counters (R108, R109, R407) -/

/-- The words of `n` slots from a counter on. -/
def slotWords (r : QRef) (q : Queue) (counter : BitVec 32) (n : Nat) : List Nat :=
  match r with
  | .tile t base => ((List.range n).map (fun i => wordsOf (scratchKey t (base + q.slotOffset counter i)) q.size)).flatten
  | .request _ => []

/-- A change of a queue's counters: at both members of a pair when it comes from outside, and it wakes the sequencers of the
queue's home tile (R279, R440). -/
def moveCounter (r : QRef) (f : Queue → Queue) (s : State) : State :=
  match r with
  | .tile t base =>
    let inside := inPair s s.focus t
    let s' := changeTile inside t (fun u => { u with queues := u.queues.set base (f (u.queues.get Queue.reset base)) }) s
    (stateTiles s inside t).foldl (fun s u => latchTile u 1 s) s'
  | .request _ => setQueueAt r (f (queueAt s r)) s

/-- Whether a queue lies outside the pair of the issuing member. -/
def outsideQueue : QRef → Exec Bool
  | .tile t _ => outsideTile t
  | .request _ => pure false

/-- The words of blocks that a memory core's firing has pushed and that are not delivered (R170). -/
def pushedWords (s : State) (q : SeqId) : List Nat :=
  match q with
  | .m c => ((s.launch.pushes.filter (fun b => b.core == c && b.firing == s.firingOf q && b.kind == 0)).map
      (fun b => wordsOf (scratchKey b.tile b.offset) b.bytes.length)).flatten
  | _ => []

/-- Whether the issuing sequencer's own unit keeps a queue's counters. -/
def ownQueue (q : SeqId) : QRef → Bool
  | .tile t _ => State.tileOf q == some t || q.kind == .s
  | .request _ => true

/-- QADV and QPUB: `n` slots are filled or free, the agent's accesses to them are over, and the counter moves (R108, R109): at
another tile by a request (R407). A pair holds back the move of a queue outside it behind its held stores (R280; log 15). -/
def moveBody (publish : Bool) (f : F64A) : Exec Flow := do
  let r ← boundQueue f.a.toNat
  let n := (← useSource 3 f.b.toNat f.imm16 0).toNat
  let q ← useQueue r
  let s ← get
  check (1 ≤ n && n ≤ q.slots) 0x01 0
  let left ← echoedQueue r
  waitUntil (left || n ≤ (if publish then q.free else q.filled)) .queue
  let words := slotWords r q (if publish then q.p else q.c) n
  waitUntil (!inFlight s s.focus words && !(pushedWords s s.focus).any words.contains) .outstanding
  modify (passOn s.focus words)
  if ← outsideQueue r then holdBack (.move r publish n)
  else match ownQueue s.focus r, r with
    | false, .tile t base => send (.move r publish n) (.scratch t base) true false none none
    | _, _ => modify (moveCounter r (fun q => q.moved publish n))
  return .fall

/-- QADV (R108). -/
def execQadv (f : F64A) (s : State) : Host.Outcome State Fault Refusal := issueA (.qadv f) f (moveBody false f) s

/-- QPUB (R108). -/
def execQpub (f : F64A) (s : State) : Host.Outcome State Fault Refusal := issueA (.qpub f) f (moveBody true f) s

/-- QAVAIL: filled, or free with FN[0] = 1; a twin takes its primary's answer (R108, R279, R407). -/
def qavailBody (f : F64A) : Exec Flow := do
  let d := f.d.toNat
  queueWaits [⟨d, 0, true, false⟩]
  let r ← boundQueue f.a.toNat
  let v ← echoed1 (do
    let q ← useQueue r
    return BitVec.ofNat 64 (if f.fn.getLsbD 0 then q.free else q.filled))
  putDest d 0 v false
  return .fall

/-- QAVAIL (R108). -/
def execQavail (f : F64A) (s : State) : Host.Outcome State Fault Refusal := issueA (.qavail f) f (qavailBody f) s

end Sys2Proof.Machine
end

