-- ==== Sys2Proof/Machine/Fabric.lean ====
section
/-! DEFINITION. The fabric: routers and ports, the packets and their ways, tethers with their groups and their cipher, the accesses of
requests at their homes and their responses, recovery, the drain and swap of tables, the links, and the trust table (R13, R14, R148,
R165, R179, R208, R250-R262, R264, R278). -/

namespace Sys2Proof.Machine

/-- Where a table entry sends a packet, with its virtual channel; none when the entry is invalid (R250). -/
def entryNext (r : Nat) (e : BitVec 16) : Option (Behind × BitVec 2) :=
  if e.getLsbD 15 then (portTarget r (e.extractLsb' 0 5).toNat).map (fun b => (b, e.extractLsb' 11 2)) else none

/-- Where the active table of a router sends a packet; the firmware's minimal routes use virtual channel 0 (log 41). -/
def routeNext (s : State) (r dest part : Nat) : Option (Behind × BitVec 2) :=
  match s.fabric.active.find? (fun e => e.1 == routeKey r dest part) with
  | some e => entryNext r e.2
  | none => if s.fabric.minimalActive.getLsbD part then some (.router (minimalNext r dest), 0) else none

/-! ## Packets (R208, R250, R254, R259) -/

/-- Whether a home lies on this module. -/
def isHere (home : Nat) : Bool := home / 2 ^ 22 = 0

/-- What a packet carries, as a number of its kind (R254; log 41). -/
def ReqOp.code : ReqOp → Nat
  | .load .. => 0
  | .vload .. => 1
  | .store .. => 2
  | .atom .. => 3
  | .setState .. => 4
  | .getState .. => 5
  | .add .. => 6
  | .record .. => 7
  | .fe .. => 8
  | .await .. => 9
  | .move .. => 10
  | .pull .. => 11
  | .fetch .. => 12
  | .land .. => 13
  | .claim .. => 19
  | .enqueue _ => 21

/-- The bytes that a request carries with it. -/
def ReqOp.payload : ReqOp → List Byte
  | .store ps => (ps.map (fun p => Marked.bytes p.bytes)).flatten
  | .atom _ _ _ v c _ _ => toBytes 8 v.toNat ++ toBytes 8 c.toNat
  | .add _ v _ => toBytes 8 v.toNat
  | .fe _ _ _ n v _ => toBytes n v.toNat
  | .await _ v => toBytes 8 v.toNat
  | .land _ bs => Marked.bytes bs
  | .enqueue ws => (ws.toList.map (fun w => toBytes 8 w.toNat)).flatten
  | _ => []

/-- A packet on the fabric as routers and tethers see it: its age, its partition, its destination router, the tether by which it
leaves the module, if it does, its way, and what its header and its payload hold (R250, R254, R259). -/
structure Packet where
  age : Nat
  part : Nat
  gang : Nat
  dest : Nat
  port : Option Nat
  way : Way
  device : Nat
  unit : Nat
  flow : Nat
  number : Nat
  kind : Nat
  payload : List Byte
  deriving DecidableEq, Repr

/-- Which packet a step concerns: its subject numbers the request, the gondola, the pushed block, the token or the collective whose value
travels by its own number, and a multicast packet by its place. -/
inductive Carrier where
  | request (id : Nat)
  | gondola (number : Nat)
  | push (id : Nat)
  | token (id : Nat)
  | multicast (index : Nat)
  | value (id : Nat)
  deriving DecidableEq, Repr

/-- The base of the numbers that follow a packet's class in a subject. -/
def carrierBase : Nat := 2 ^ 64

def carrierOf (subject : Nat) : Carrier :=
  let n := subject % carrierBase
  match subject / carrierBase with
  | 0 => .request n
  | 1 => .gondola n
  | 2 => .push n
  | 3 => .token n
  | 4 => .multicast n
  | _ => .value n

def subjectOf : Carrier → Nat
  | .request n => n
  | .gondola n => carrierBase + n
  | .push n => 2 * carrierBase + n
  | .token n => 3 * carrierBase + n
  | .multicast n => 4 * carrierBase + n
  | .value n => 5 * carrierBase + n

/-- One direction of one flow, or the flow of a packet of another kind: no two kinds share one (R261; log 41). -/
def direction (flow kind : Nat) : Nat := 8 * flow + kind

/-- The packet of a request, or of its answer on the way back; a request that its home has holds none. -/
def Request.packet (r : Request) : Option Packet :=
  let device := r.home / 2 ^ 22
  match r.stage with
  | .sent =>
    some ⟨r.id, r.part, r.gang, routerOfHome r.home, if device = 0 then none else some (tetherTo (device - 1)), r.way, device - 1,
      r.home % 2 ^ 22, direction r.flow 0, r.number, r.op.code, r.op.payload⟩
  | .answered v _ =>
    some ⟨r.id, r.part, r.gang, routerOfSeq r.seq, none, r.way, 0, 0, direction r.flow 1, r.number, 14, toBytes 128 v.toNat⟩
  | _ => none

/-- The packet of a gondola, of two payload beats (R254). -/
def Transit.packet (s : State) (x : Transit) : Packet :=
  let device := match x.dest with
    | .away d => some d
    | _ => none
  ⟨x.gondola.number, partOfGang s x.gondola.gang, x.gondola.gang, routerOfDest x.dest, device.map tetherTo, x.way, device.getD 0, 0,
    direction x.gondola.number 2, 0, 15, Marked.bytes (packetBytes x.gondola)⟩

/-- The packet of a pushed block. -/
def Pushed.packet (s : State) (b : Pushed) : Packet :=
  ⟨b.id, partOfGang s b.gang, b.gang, routerOf b.tile, none, b.way, 0, b.tile, direction b.id 3, 0, 16, Marked.bytes b.bytes⟩

/-- The reference of the variable that a token between engines wakes (R225, R231). -/
def sentRef (s : State) (x : Sent) : BitVec 29 :=
  let device := if x.engine < 512 then s.host.devid.toNat else x.engine / 512 - 1
  BitVec.ofNat 29 (device * 2 ^ 21 + x.engine % 512 * 2 ^ 12 + x.token.index)

/-- The packet of a wake token between engines (R231). -/
def Sent.packet (s : State) (x : Sent) : Packet :=
  ⟨x.id, partOfGang s x.gang, x.gang, x.router, if x.engine < 512 then none else some (tetherTo (x.engine / 512 - 1)), x.way,
    x.engine / 512 - 1, x.engine % 512, direction x.id 4, 0, 17, tokenBytes ⟨sentRef s x, false, none, false⟩ x.token.time⟩

/-- The packet of a collective's value, up to 256 bytes of it at a time (R254, R265). -/
def Collective.packet (s : State) (x : Collective) : Option Packet :=
  let first := x.devices.headD 0
  x.sending.map (fun v => ⟨x.id, partOfGang s x.gang, x.gang, routerOfTether (tetherTo first), some (tetherTo first), v.way, first, 0,
    direction x.id 6, v.done / packetLimit, 20, ((x.bytesOf v.values).drop v.done).take packetLimit⟩)

/-- The packet that a subject names; a multicast packet's branches are taken together elsewhere. -/
def packetAt (s : State) (c : Carrier) : Option Packet :=
  match c with
  | .request n => (s.fabric.requests.find? (fun r => r.id == n)).bind (·.packet)
  | .gondola n => (s.launch.transit.find? (fun x => x.gondola.number == n)).map (·.packet s)
  | .push n => (s.launch.pushes.find? (fun b => b.id == n)).map (·.packet s)
  | .token n => (s.launch.tokens.find? (fun x => x.id == n)).map (·.packet s)
  | .multicast n => (s.launch.multicasts[n]?).map (fun m =>
      ⟨m.id, partOfGang s m.gang, m.gang, 0, none, m.way, 0, 0, direction m.id 5, 0, 18, []⟩)
  | .value n => (s.launch.collectives.find? (fun x => x.id == n)).bind (·.packet s)

/-- Changes the way of the packet that a subject names. -/
def modWay (c : Carrier) (f : Way → Way) (s : State) : State :=
  match c with
  | .request n => s.modFabric (fun u => { u with requests := u.requests.map (fun r => if r.id = n then { r with way := f r.way } else r) })
  | .gondola n => s.modLaunch (fun l => { l with transit := l.transit.map (fun x =>
      if x.gondola.number = n then { x with way := f x.way } else x) })
  | .push n => s.modLaunch (fun l => { l with pushes := l.pushes.map (fun b => if b.id = n then { b with way := f b.way } else b) })
  | .token n => s.modLaunch (fun l => { l with tokens := l.tokens.map (fun x => if x.id = n then { x with way := f x.way } else x) })
  | .multicast n => s.modLaunch (fun l => { l with multicasts := l.multicasts.zipIdx.map (fun e =>
      if e.2 = n then { e.1 with way := f e.1.way } else e.1) })
  | .value n => s.modLaunch (fun l => { l with collectives := l.collectives.map (fun x =>
      if x.id = n then { x with sending := x.sending.map (fun v => { v with way := f v.way }) } else x) })

/-- A packet is at a place of its way. -/
def moveTo (c : Carrier) (h : Hop) (s : State) : State := modWay c (fun w => { w with hop := h }) s

/-- Every packet of the module but the multicast ones. -/
def packetsOf (s : State) : List Packet :=
  s.fabric.requests.filterMap (·.packet) ++ s.launch.transit.map (·.packet s) ++ s.launch.pushes.map (·.packet s) ++
    s.launch.tokens.map (·.packet s) ++ s.launch.collectives.filterMap (·.packet s)

/-- The routers to which a multicast packet's branches go from a router: those of its targets that are not there (R259). -/
def branches (s : State) (m : Multicast) (here : Nat) : List (Option (Behind × BitVec 2)) :=
  ((m.targets.map routerOf).filter (· != here)).map (fun d => routeNext s here d (partOfGang s m.gang))

/-- Whether an older packet waits at a router for the same way on (R259). -/
def contended (s : State) (age here : Nat) (next : Behind) : Bool :=
  (packetsOf s).any (fun p => decide (p.age < age) && p.way.hop == .router here && p.dest != here &&
    ((routeNext s here p.dest p.part).map (·.1) == some next)) ||
  s.launch.multicasts.any (fun m => decide (m.id < age) && m.way.hop == .router here &&
    (branches s m here).any (fun b => b.map (·.1) == some next))

/-- A packet is injected at its router, unless its partition drains. -/
def inject (c : Carrier) (p : Packet) (s : State) : State := if draining s p.part then s else moveTo c (.router p.way.origin) s

/-- A packet at its last router takes its tether, if it leaves the module and the link is up. That hop comes before the first global
hop, on virtual channel 0 (R253). -/
def takeTether (c : Carrier) (port : Nat) (s : State) : State :=
  if (s.fabric.links.getD port Link.reset).state = .up then modWay c (fun w => { w with hop := .tether port 0, vc := 0 }) s else s

/-- A packet of a peer enters the module's link, unless its partition drains (R252, R255). -/
def enter (c : Carrier) (p : Packet) (s : State) : State :=
  match p.way.inbound with
  | some port => if draining s p.part then s else takeTether c port s
  | none => s

/-- A packet goes one router further by the active table. An invalid entry discards it, counted in ERRCNT7; one that leaves the
routers at another place than the packet's discards it too (log 41). -/
def routePacket (c : Carrier) (p : Packet) (here : Nat) (s : State) : State :=
  match routeNext s here p.dest p.part with
  | none => countError (moveTo c .lost s) p.part 7 1
  | some (.router n, vc) =>
    if contended s p.age here (.router n) then s else modWay c (fun w => { w with hop := .router n, vc := vc }) s
  | some _ => moveTo c .lost s

/-- The packets that a multicast packet becomes where its branches part: one for each way on, allocated together, and what has
arrived (R259). -/
def splitMulticast (s : State) (m : Multicast) (here : Nat) : List Multicast :=
  let far := m.targets.filter (fun t => routerOf t != here)
  let near := m.targets.filter (fun t => routerOf t == here)
  let next := fun (t : Nat) => routeNext s here (routerOf t) (partOfGang s m.gang)
  let ways := (far.map next).dedup
  (if near.isEmpty then [] else [{ m with targets := near }]) ++ ways.map (fun b =>
    { m with
      targets := far.filter (fun t => next t == b)
      way := match b with
        | some (.router n, vc) => { m.way with hop := .router n, vc := vc }
        | _ => { m.way with hop := .lost } })

/-- A multicast packet takes all of its branches or none: none while an older packet is to go first on one of them (R259). Invalid
entries discard their branch, counted in ERRCNT7. -/
def routeMulticast (i : Nat) (m : Multicast) (here : Nat) (s : State) : State :=
  let bs := branches s m here
  if bs.isEmpty || bs.any (fun b => match b with
      | some (n, _) => contended s m.id here n
      | none => false) then s
  else
    let s' := s.modLaunch (fun l => { l with multicasts := l.multicasts.take i ++ splitMulticast s m here ++ l.multicasts.drop (i + 1) })
    if bs.contains none then countError s' (partOfGang s m.gang) 7 1 else s'

/-- A duplicate discarded or a resend is counted in ERRCNT6 (R256, R286). -/
def countResend (p n : Nat) (s : State) : State := countError s p 6 n

/-- PACKET_FORWARD (R250, R252, R259): the subject names the packet. -/
def execPacketForward (s : State) : Host.Outcome State Fault Refusal :=
  let c := carrierOf s.subject
  match packetAt s c with
  | none => .next s
  | some p =>
    match p.way.hop, c with
    | .issuer, _ => .next (inject c p s)
    | .across, _ => .next (enter c p s)
    | .router here, .multicast i => match s.launch.multicasts[i]? with
      | some m =>
        .next (if (branches s m here).isEmpty && 0 < p.way.copies then
            countResend p.part 1 (modWay c (fun w => { w with copies := w.copies - 1 }) s)
          else routeMulticast i m here s)
      | none => .next s
    | .router here, _ =>
      if here ≠ p.dest then .next (routePacket c p here s)
      else match p.port with
        | some port => .next (takeTether c port s)
        | none => .next s
    | _, _ => .next s

/-! ## Tether packets (R253-R255, R261) -/

/-- The header of a tether packet, one beat: destination device and unit, partition, flow identifier, 24-bit sequence number, kind,
virtual channel and payload length (R254), in this order (log 41). -/
def header (p : Packet) : List Byte :=
  toBytes 1 p.device ++ toBytes 3 p.unit ++ toBytes 1 p.part ++ toBytes 4 (Config.flowId p.flow).toNat ++ toBytes 3 p.number ++
    toBytes 1 p.kind ++ toBytes 1 p.way.vc.toNat ++ toBytes 2 p.payload.length ++ List.replicate 16 0

/-- The nonce of a packet: its flow identifier and the flow's extended sequence number (R261). -/
def nonceOf (p : Packet) : BitVec 96 := Config.flowId p.flow ++ BitVec.ofNat 64 p.number

/-- The extended number that a receiver whose flow has come to `count` restores from the 24 bits of a packet (R261). -/
def restoreNumber (count low : Nat) : Nat :=
  let base := count / 2 ^ 24 * 2 ^ 24 + low
  if base + 2 ^ 23 < count then base + 2 ^ 24 else if count + 2 ^ 23 ≤ base ∧ 2 ^ 24 ≤ base then base - 2 ^ 24 else base

/-- The payload as it travels: sealed with the job's key, if the job has one (R261). -/
def sealed (s : State) (p : Packet) : List Byte :=
  match (s.part p.part).key with
  | some k => Config.gcmSeal k (nonceOf p) (header p) p.payload
  | none => p.payload

/-- Bytes as beats of 32. -/
def beatsOf (bs : List Byte) : List (BitVec 256) :=
  (List.range ((bs.length + 31) / 32)).map (fun i => BitVec.ofNat 256 (ofBytes ((bs.drop (32 * i)).take 32)))

/-- The beats of a tether packet: its header and 0 to 8 of payload (R254). -/
def packetBeats (s : State) (p : Packet) : List (BitVec 256) := beatsOf (header p) ++ beatsOf (sealed s p)

/-- The group of up to 8 beats that follows `acked` beats of a packet (R255). -/
def groupOfBeats (s : State) (p : Packet) (acked : Nat) : List (BitVec 256) := ((packetBeats s p).drop acked).take 8

/-- One bit into CRC-32, least significant bit first, with the polynomial 0x04C1_1DB7 reflected (R255). -/
def crc32Step (crc : BitVec 32) : BitVec 32 := if crc.getLsbD 0 then (crc >>> 1) ^^^ 0xEDB88320#32 else crc >>> 1

def crc32Byte (crc : BitVec 32) (b : Byte) : BitVec 32 :=
  (List.range 8).foldl (fun c _ => crc32Step c) (crc ^^^ b.setWidth 32)

/-- The CRC-32 of IEEE 802.3 over a group of beats (R255). -/
def crc32 (beats : List (BitVec 256)) : BitVec 32 :=
  ((beats.map (fun b => toBytes 32 b.toNat)).flatten.foldl crc32Byte 0xFFFFFFFF#32) ^^^ 0xFFFFFFFF#32

/-- Updates one link of the module. -/
def modLink (port : Nat) (f : Link → Link) (s : State) : State :=
  s.modFabric (fun u => { u with links := u.links.setIfInBounds port (f (u.links.getD port Link.reset)) })

/-- A group is acknowledged: it leaves the replay buffer, and after the last one the packet is at the peer, or a peer's at the hub router
of its tether (R255). -/
def acknowledge (c : Carrier) (inbound : Bool) (port acked total : Nat) (s : State) : State :=
  moveTo c (if acked < total then .tether port acked else if inbound then .router (routerOfTether port) else .across) s

/-- LINK_CRC_GROUP (R255, R261): a group of the subject's packet with its CRC as the receiver has them. A group that fails its CRC
stays in the replay buffer, in its place, and is replayed; one that is not what was sent fails its tag, with which the receiver opens the
payload, and drops the packet; both are counted in ERRCNT5. Any other is acknowledged. -/
def execLinkCrcGroup (port : Nat) (beats : List (BitVec 256)) (crc : BitVec 32) (s : State) : Host.Outcome State Fault Refusal :=
  let c := carrierOf s.subject
  match packetAt s c with
  | none => .next s
  | some p =>
    match p.way.hop with
    | .tether n acked =>
      if n ≠ port then .next s
      else if crc32 beats ≠ crc then
        .next (countError (modLink port (fun l => { l with replays := l.replays + 1 }) s) p.part 5 1)
      else if beats ≠ groupOfBeats s p acked then .next (countError (moveTo c .lost s) p.part 5 1)
      else .next (acknowledge c p.way.inbound.isSome port (acked + beats.length) (packetBeats s p).length s)
    | _ => .next s

/-- The 64-bit configuration digest of a link (R258): width in lanes, physical lanes, speed code, zero. -/
def digestOf (l : LinkConfig) : BitVec 64 := 0#16 ++ (l.speed ++ (l.lanes ++ l.width))

/-- LINK_RETRAIN (R258): the link has retrained to a configuration, and the two ends exchange their digests; the third difference in a
row fails the link. -/
def execLinkRetrain (port : Nat) (found : LinkConfig) (remote : BitVec 64) (s : State) : Host.Outcome State Fault Refusal :=
  if (s.fabric.links.getD port Link.reset).state ≠ .retraining then .next s
  else
    .next (modLink port (fun l =>
      let l := { l with width := found.width, lanes := found.lanes, speed := found.speed }
      if digestOf found = remote then { l with state := .up, differing := 0 }
      else if l.differing < 2 then { l with state := .down, differing := l.differing + 1 }
      else { l with state := .failed, differing := l.differing + 1 }) s)

/-- Every packet's carrier. -/
def carriers (s : State) : List Carrier :=
  s.fabric.requests.map (fun r => .request r.id) ++ s.launch.transit.map (fun x => .gondola x.gondola.number) ++
    s.launch.pushes.map (fun b => .push b.id) ++ s.launch.tokens.map (fun x => .token x.id) ++
    (List.range s.launch.multicasts.length).map .multicast ++
    (s.launch.collectives.filter (·.sending.isSome)).map (fun x => .value x.id)

/-- Whether a packet is in the replay buffer of a link. -/
def onLink (s : State) (port : Nat) (c : Carrier) : Bool :=
  match packetAt s c with
  | some p => (match p.way.hop with
    | .tether n _ => n == port
    | _ => false)
  | none => false

/-- LINK_DOWN (R258): the subject is the link. A link that is up goes down, and one that is down enters retraining; the packets
in its replay buffer are lost, and recovered end to end (R256). -/
def execLinkDown (s : State) : Host.Outcome State Fault Refusal :=
  match (s.fabric.links.getD s.subject Link.reset).state with
  | .up =>
    let lost := (carriers s).filter (onLink s s.subject)
    .next (modLink s.subject (fun l => { l with state := .retraining }) (lost.foldl (fun s c => moveTo c .lost s) s))
  | .down => .next (modLink s.subject (fun l => { l with state := .retraining }) s)
  | _ => .next s

/-! ## Delivery of requests (R170, R198, R208, R256) -/

def findRequest (s : State) (id : Nat) : Option Request := s.fabric.requests.find? (fun r => r.id == id)

def modRequest (id : Nat) (f : Request → Request) (s : State) : State :=
  s.modFabric (fun u => { u with requests := u.requests.map (fun r => if r.id = id then f r else r) })

/-- Whether a request's packet has come to its home's router, or to the peer module. -/
def Request.there (r : Request) : Bool :=
  if isHere r.home then r.way.hop == .router (routerOfHome r.home) else r.way.hop == .across

/-- Whether a request has not been delivered. -/
def Request.underway (r : Request) : Bool := r.stage == .sent

/-- Whether two requests touch a word. -/
def shareWord (a b : Request) : Bool := a.op.words.any b.op.words.contains

/-- Whether a packet waits for an earlier one: of its ordered flow (R208), or of its sequencer at a word that both touch (R198). -/
def waitsBefore (s : State) (r : Request) : Bool :=
  s.fabric.requests.any (fun x => decide (x.id < r.id) && x.underway &&
    ((r.ordered && x.flow == r.flow) || (x.isOf r.seq && r.engine.isNone && shareWord x r)))

/-- Whether a memory core's request to a tile waits for a block that its firing pushed there before (R170). -/
def behindPush (s : State) (r : Request) : Bool :=
  match r.seq with
  | .m c => s.launch.pushes.any (fun b => decide (b.id < r.id) && b.core == c && b.firing == r.firing && b.tile == r.home)
  | _ => false

/-- The extended number that a request's home restores from the 24 bits that its packet carries (R208, R261). -/
def restored (s : State) (r : Request) : Nat := restoreNumber (s.fabric.flows.get 0 r.flow) (r.number % 2 ^ 24)

/-- Whether a request's home has had its packet: by flow and restored number. -/
def wasDelivered (s : State) (r : Request) : Bool := s.fabric.delivered.contains (r.flow, restored s r)

/-- The response kept for a packet. -/
def cachedFor (s : State) (r : Request) : Option Cached :=
  s.fabric.cache.find? (fun c => c.home == r.home && c.flow == r.flow && c.number == r.number)

/-- A duplicate of a request comes to its home: discarded and counted, and answered from the response cache if its response is kept
there. A store or a landing, whose answer alone was lost, is answered and not done again; a read is performed again (R256). -/
def deliverAgain (r : Request) (s : State) : State :=
  countResend r.part 1 (match cachedFor s r with
    | some c => modRequest r.id (fun r => r.answer c.value c.poison) s
    | none => match r.op with
      | .store _ => modRequest r.id (fun r => r.answer 0 0) s
      | .land _ _ => modRequest r.id (fun r => r.answer 0 0) s
      | _ => { modRequest r.id (fun r => { r with stage := .delivered s.next }) s with next := s.next + 1 })

/-- A request comes to its home as the module's next packet (R165). -/
def deliverFirst (r : Request) (s : State) : State :=
  let s := modRequest r.id (fun r => { r with stage := .delivered s.next }) s
  { (s.modFabric (fun u => { u with delivered := u.delivered ++ [(r.flow, restored s r)] })) with next := s.next + 1 }

/-- PACKET_DELIVERY (R208, R256): the subject is the request, whose packet has come to its home. An ordered flow delivers in sequence,
and so do the accesses of one agent to one word; resent copies of a packet that its home has had are discarded. -/
def execPacketDelivery (s : State) : Host.Outcome State Fault Refusal :=
  match findRequest s s.subject with
  | none => .next s
  | some r =>
    if r.underway then
      if !r.there || waitsBefore s r || behindPush s r then .next s
      else .next (if wasDelivered s r then deliverAgain r s else deliverFirst r s)
    else if 0 < r.way.copies then
      .next (countResend r.part 1 (modRequest r.id (fun r => { r with way := { r.way with copies := r.way.copies - 1 } }) s))
    else .next s

/-! ## Accesses at their homes (R165, R275, R278) -/

/-- Bytes at a reach for a request, poison behind a fence. -/
def reachBytes (r : Request) (x : Reach) : Exec Marked := fetchMarked r.part r.gang x.entry x.key x.len

/-- Bytes at a reach for a request of a pair's primary, with what its hold buffer held when it asked laid over (R280). -/
def heldBytes (r : Request) (x : Reach) : Exec Marked := do
  match r.echo with
  | some (_, n) =>
    let words ← fetchWords r.part r.gang x.entry x.key x.len
    return overlay (((← get).pair ((State.tileOf r.seq).getD 0)).held.take n) x.key x.len words
  | none => reachBytes r x

/-- Writes bytes at a key for a partition and a gang; a fence drops them. -/
def putKey (p g key : Nat) (entry : BitVec 32) (bytes : Marked) : Exec Unit := do
  let s ← get
  if fencedKey s key then pure ()
  else if spaceOf key = spaceScratch then set (writeScratch false p g (tileOfKey key) (key % 2 ^ 20) bytes s)
  else storeMarked p g entry key bytes

/-- What a load's request returns where memory holds `bs`: a plain one what its agent may read, one that orders memory all of it (R199,
R203). -/
def plainOrNewest (r : Request) (x : Reach) (bs : Marked) : Exec Marked := do
  if r.sync = Sync.none then view r.seq x.key bs
  else
    viewNewest r.seq x.key x.len
    return bs

/-- The parts of a vector load at a home in their places in the register; each line of external memory is read once (R166). -/
def vectorHome (r : Request) (xs : List (Nat × Reach)) : Exec Marked := do
  let line := fun (x : Reach) => (x.key / 64 * 64, x.entry)
  let lines := ((xs.filter (fun e => isExternal e.2.key)).map (fun e => line e.2)).eraseDups
  let read ← lines.mapM (fun l => do return (l, ← heldBytes r ⟨l.1, l.2, 64⟩))
  let here := fun (x : Reach) => do
    if isExternal x.key then return (((read.find? (fun l => l.1 == line x)).map (·.2)).getD []).drop (x.key % 64) |>.take x.len
    else heldBytes r x
  xs.foldlM (fun (image : Marked) e => do
    let bs ← plainOrNewest r e.2 (← here e.2)
    return image.take e.1 ++ bs ++ image.drop (e.1 + e.2.len)) (marked (List.replicate 128 0) false)

/-- A piece of a store's request is written; what a plain one writes other agents need not see yet (R203). -/
def putOrHide (r : Request) (p : Piece) : Exec Unit := do
  let s ← get
  putKey r.part r.gang p.key p.entry p.bytes
  if r.sync = Sync.none then modify (hidePlain s r.seq p.key p.bytes.length)
  modify (wrote r.seq (wordsOf p.key p.bytes.length))

/-- A PUTS's signal has reached its counter (R177, R202). -/
def signalOf (r : Request) (key : Nat) (s : State) : State :=
  match State.tileOf r.seq, r.engine with
  | some t, some (e, n) => signalled t e n key s
  | _, _ => s

/-- A store dropped at a fence is counted once (R278). -/
def countDropped (p : Nat) (keys : List Nat) : Exec Unit := modify (fun s => if keys.any (fencedKey s) then dropWrite p s else s)

/-- One indivisible read and write at a home; behind a fence it reads poison, and `counts` tells whether the write it drops is a store. -/
def atomHome (r : Request) (x : Reach) (counts : Bool) (f : Nat → Option Nat) : Exec Answer := do
  let s ← get
  if fencedKey s x.key then
    if counts then set (dropWrite r.part s)
    return answerOf (← poisonBytes x.len)
  let word ← reachBytes r ⟨x.key / 8 * 8, x.entry, 8⟩
  if word.poisoned then return consumedMark
  let old := ofBytes ((Marked.bytes word).drop (x.key % 8) |>.take x.len)
  viewNewest r.seq x.key x.len
  match f old with
  | some new =>
    let s ← get
    putKey r.part r.gang x.key x.entry (marked (toBytes x.len new) false)
    modify (fun t => (if r.engine.isNone then wrote r.seq (wordsOf x.key x.len) else id) (keepReleases s x.key t))
  | none => pure ()
  return (BitVec.ofNat 1024 old, 0)

/-- Whether a word is full as a request of a pair's primary takes it, with what its hold buffer held when it asked (R280). -/
def heldState (s : State) (r : Request) (t w : Nat) : Bool :=
  match r.echo with
  | some (_, n) => ((s.pair ((State.tileOf r.seq).getD 0)).held.take n).foldl (fun v h => match h with
    | .state t' w' v' => if t' = t ∧ w' = w then v' else v
    | .fe t' x => if t' = t ∧ x.offset / 8 = w ∧ x.op = .wef then true else v
    | _ => v) (isFull s t w)
  | none => isFull s t w

/-- What a full/empty state request finds at its word: poison is consumed, a fence answers poison (R159, R275, R278). -/
def stateHome (r : Request) (t w : Nat) (set_ : Option Bool) : Exec Answer := do
  let s ← get
  if fenced s t then
    if set_.isSome then set (dropWrite r.part s)
    return answerOf (← poisonBytes 8)
  let word ← reachBytes r ⟨scratchKey t (8 * w), 0, 8⟩
  if word.poisoned then return consumedMark
  match set_ with
  | some v =>
    modify (fun s => changeState false t w v (fulfil r (scratchKey t (8 * w)) (wrote r.seq (wordsOf (scratchKey t (8 * w)) 8) s)))
    return (0, 0)
  | none =>
    viewNewest r.seq (scratchKey t (8 * w)) 8
    return (if heldState (← get) r t w then 1 else 0, 0)

/-- The result of EVQLD at an engine; a poisoned record word is consumed there (R236, R249). -/
def recordHome (r : Request) (k i : Nat) (t : Word) (slope : Bool) : Exec Answer := do
  match servingEngine (← get) r.gang k with
  | some e =>
    if (e.rec_ i).marked ((e.rec_ i).quantWords slope t) then return consumedMark
    return ((quantised (e.rec_ i) slope t).setWidth 1024, 0)
  | none => return (0, 0)

/-- The command of an engine's request. -/
def commandFor (s : State) (r : Request) : Option (Nat × Nat × Cmd) :=
  match State.tileOf r.seq, r.engine with
  | some t, some (e, n) => (findCmd s t e n).map (fun c => (t, e, c))
  | _, _ => none

/-- The bytes that a command's packet has fetched go on to their destination, on the flow between the agent and it (R176, R208). -/
def forwardData (r : Request) (lo : Nat) (bs : Marked) (home : Nat) (s : State) : State :=
  let flow := flowOf r.seq home r.ordered * 4 + 3
  let number := s.fabric.flows.get 0 flow
  let s := s.modFabric (fun u => { u with
    flows := u.flows.set flow (number + 1)
    delivered := u.delivered.filter (fun e => e != (r.flow, r.number)) })
  modRequest r.id (fun r => { r with
    op := .land lo bs
    home := home
    flow := flow
    number := number
    stage := .sent
    way := r.way.fromHome r.home }) s

/-- What a request's home does: its answer, or none while the request waits there or has gone on. -/
def performRequest (r : Request) : Exec (Option Answer) := do
  match r.op with
  | .load x _ _ =>
    let bs ← plainOrNewest r x (← heldBytes r x)
    modify (acquire r.seq r.sync x.key)
    return some (answerOf bs)
  | .vload xs _ =>
    let bs ← vectorHome r xs
    modify (acquire r.seq r.sync ((xs.map (·.2.key)).headD 0))
    return some (answerOf bs)
  | .pull xs _ => return some (answerOf (← xs.mapM (fun e => reachBytes r e.2)).flatten)
  | .store ps =>
    for p in ps do putOrHide r p
    countDropped r.part (ps.map (·.key))
    modify (fulfil r ((ps.map (·.key)).headD 0))
    return some (0, 0)
  | .atom x ty fn v c _ _ =>
    let w := tyWidth ty.toNat
    let v ← atomHome r x false (fun old =>
      if fn ≠ 7 ∨ old = c.toNat % 2 ^ w then some (atomOp ty.toNat fn old (v.toNat % 2 ^ w) (c.toNat % 2 ^ w)) else none)
    modify (fun s => acquire r.seq r.sync x.key (fulfil r x.key s))
    return some v
  | .add x v _ =>
    let v ← atomHome r x true (fun old => some ((old + v.toNat) % 2 ^ 64))
    modify (fun s => signalOf r x.key (fulfil r x.key s))
    return some v
  | .setState t w v => some <$> stateHome r t w (some v)
  | .getState t w _ =>
    let v ← stateHome r t w none
    modify (acquire r.seq r.sync (scratchKey t (8 * w)))
    return some v
  | .record k i t slope _ => some <$> recordHome r k i t slope
  | .fe t op off n data poison =>
    let s ← get
    if fenced s t then
      if op == .we || op == .wef then set (dropWrite r.part s)
      return some (answerOf (← poisonBytes 8))
    set (arriveWaiter t ⟨r.seq, op, off, n, data, poison, false, some r.id, r.sync.release <|> r.sync.acquire⟩ (modRequest r.id (fun r => { r with stage := .waiting }) s))
    return none
  | .await x least =>
    let word ← heldBytes r x
    let s ← get
    if word.poisoned then
      modify (unwatch r.seq)
      return some consumedMark
    else if least.toNat ≤ ofBytes (Marked.bytes word) || valueCame s r.seq x.key least.toNat then
      modify (unwatch r.seq)
      viewNewest r.seq x.key x.len
      modify (acquire r.seq r.sync x.key)
      return some (answerOf word)
    else
      modify (fun s => watch r.seq x.key least.toNat (modRequest r.id (fun r => { r with stage := .waiting }) s))
      return none
  | .move q publish n =>
    let s ← get
    match q with
    | .tile t _ =>
      let u := queueAt s q
      if fenced s t then
        set (dropWrite r.part s)
        return some (0, 0)
      else if u.poison then return some consumedMark
      else if n ≤ (if publish then u.free else u.filled) then
        set { moveCounter q (fun q => q.moved publish n) { s with focus := .s 0 } with focus := s.focus }
        return some (0, 0)
      else
        set (modRequest r.id (fun r => { r with stage := .waiting }) s)
        return none
    | .request _ => return some (0, 0)
  | .claim x _ n =>
    let v ← atomHome r x false (fun old => if old < n.total then some (chunkEnd n old) else none)
    modify (fun s => if v.2 = 0 && v.1.toNat < n.total then acquire r.seq r.sync x.key (fulfil r x.key (wrote r.seq (wordsOf x.key 8) s))
      else forgo r.id s)
    return some v
  | .fetch lo n =>
    match commandFor (← get) r with
    | some (t, _, c) =>
      let bs ← produce t c lo n
      let s ← get
      match sinkHome s c (c.sink s lo) with
      | some home =>
        set (forwardData r lo bs home s)
        return none
      | none => return some (0, 0)
    | none => return some (0, 0)
  | .land lo bs =>
    match commandFor (← get) r with
    | some (t, e, c) => landBytes t e c lo bs
    | none => pure ()
    return some (0, 0)
  | .enqueue ws =>
    modify (publishRequest (r.home % 2 ^ 20) ws)
    return some (0, 0)

/-- Whether a stream has no room yet for the bytes of a command's packet (R163). -/
def streamFull (s : State) (r : Request) : Bool :=
  match r.op, commandFor s r with
  | .land lo bs, some (_, _, c) => Sink.room s (c.sink s lo) < bs.length
  | _, _ => false

/-- Whether a home refuses a request for now: its tile's gang is pre-empted (R148), an event engine's excepted, which accepts and
answers (R249), a stream or a memory core's queue has no room, or the response cache is full (R256). -/
def refused (s : State) (r : Request) : Bool :=
  let tile := r.home % 2 ^ 20
  let engine := match r.op with
    | .record .. => true
    | _ => false
  (!engine && isHere r.home && r.home % 2 ^ 22 < 2 ^ 20 && r.gang ≠ 0 && (s.tile tile).gang ≠ r.gang && !fenced s tile) ||
  streamFull s r ||
  (match r.op with
   | .enqueue _ => !requestRoom s (r.home % 2 ^ 20)
   | _ => false) ||
  (r.op.once && 256 ≤ (s.fabric.cache.filter (fun c => c.home == r.home)).length)

/-- Whether a delivered request is behind one that its home received before it and can perform, or that touches a word of it: a home
performs requests in the order in which it receives them (R165). -/
def behindOther (s : State) (r : Request) (arrival : Nat) : Bool :=
  s.fabric.requests.any (fun x => x.home == r.home && x.id != r.id &&
    (match x.stage with
     | .delivered n => decide (n < arrival) && (shareWord x r || !refused s x)
     | _ => false))

/-- Whether a home can perform a request now. -/
def atTurn (s : State) (r : Request) : Bool :=
  match r.stage, r.op with
  | .delivered n, _ => !refused s r && !behindOther s r n
  | .waiting, .await _ _ => !refused s r
  | .waiting, .move _ _ _ => !refused s r
  | _, _ => false

/-- OWNER_ACCESS (R165): the subject is the request, which its home performs. -/
def execOwnerAccess (s : State) : Host.Outcome State Fault Refusal :=
  match findRequest s s.subject with
  | none => .next s
  | some r =>
    if !atTurn s r then .next s
    else match (performRequest r).run s with
      | .ok (some (v, p)) s' => .next (answerRequest r.id v p s')
      | .ok none s' => .next s'
      | .error (.fault x) _ => .fault x
      | .error _ _ => .next s

/-! ## Responses (R179) -/

/-- Removes a finished request with what is kept for it; copies still in flight will be discarded, and are counted. -/
def closeRequest (r : Request) (s : State) : State :=
  let s := if 0 < r.way.copies then countResend r.part r.way.copies s else s
  s.modFabric (fun u =>
    { u with
      requests := u.requests.filter (fun x => x.id != r.id)
      delivered := u.delivered.filter (fun e => e != (r.flow, r.number))
      cache := u.cache.filter (fun c => !(c.home == r.home && c.flow == r.flow && c.number == r.number)) })

/-- The sequencer is no longer held for an instruction whose last request has been answered. -/
def releaseHold (r : Request) (s : State) : State :=
  if s.fabric.requests.any (fun x => x.id != r.id && x.whole == r.whole) then s
  else s.modSeq r.seq (fun q => if q.hold = some r.whole then { q with hold := none } else q)

/-- Requests whose home may consume poison for the issuer. -/
def ReqOp.mayConsume : ReqOp → Bool
  | .atom .. => true
  | .setState .. => true
  | .getState .. => true
  | .add .. => true
  | .record .. => true
  | .move .. => true
  | .claim .. => true
  | _ => false

/-- The address of the word that a request concerns, 0 for one of no word (R70). -/
def ReqOp.wordAddress (s : State) : ReqOp → Word
  | .setState t w _ => scratchAddress s t (8 * w)
  | .getState t w _ => scratchAddress s t (8 * w)
  | .fe t _ off _ _ _ => scratchAddress s t (off / 8 * 8)
  | .atom _ _ _ _ _ _ a => a
  | .add _ _ a => a
  | .claim _ _ n => n.counter
  | _ => 0

/-- The unit whose ATOM has found poison at its home stands in the gang's completion record (R340). -/
def ReqOp.noteUnit (op : ReqOp) (q : SeqId) (s : State) : State :=
  match op with
  | .atom .. => s.modGang (s.gangOf q) (fun u => { u with units := u.units ++ [unitOf q] })
  | _ => s

/-- An answer reaches the engine of a tile: poison that its word-full wait has met is consumed (R172, R275). -/
def answerEngine (r : Request) (t e n : Nat) (p : BitVec 32) (s : State) : State :=
  match r.op with
  | .fe .. => if p != 0 then consumePoison (.a t) (noteConsumed (.a t) (r.op.wordAddress s) s) else answerCmd t e n r.op s
  | _ => if r.op.mayConsume && p == 2 then consumePoison (.a t) (noteConsumed (.a t) (r.op.wordAddress s) s) else answerCmd t e n r.op s

/-- An answer that the issuing sequencer in focus, or both members of a pair, take. -/
def takeAnswer (r : Request) (a : Answer) : Exec Unit := do
  match r.echo, r.op with
  | some (k, _), .fe .. => let _ ← respond r.op r.slot a; let _ := k
  | some _, .await .. => let _ ← respond r.op r.slot a
  | some (k, _), _ =>
    respondNumbered k r.op r.slot a
    let s ← get
    set { s with focus := partnerSeq s r.seq }
    tell k a
  | none, _ => let _ ← respond r.op r.slot a

/-- An answer reaches its issuing sequencer; a home that consumed poison consumed it for the issuer. A firing that has ended, or left
with MIGR, takes nothing (R118, R179). -/
def answerSeq (r : Request) (v : BitVec 1024) (p : BitVec 32) (s : State) : Host.Outcome State Fault Refusal :=
  if r.void || s.firingOf r.seq ≠ r.firing then .next s
  else if r.op.mayConsume && p = 2 then
    .next (consumePoison r.seq (noteConsumed r.seq (r.op.wordAddress s) (r.op.noteUnit r.seq (releaseHold r s))))
  else match (takeAnswer r (v, p)).run { s with focus := r.seq } with
    | .ok _ s' => .next (releaseHold r { s' with focus := s.focus })
    | .error (.fault x) _ => .fault x
    | .error _ _ => .next s

/-- REQUEST_RESPONSE (R179): the subject is the request, whose answer has come to its issuer's router. -/
def execRequestResponse (s : State) : Host.Outcome State Fault Refusal :=
  match findRequest s s.subject with
  | none => .next s
  | some r =>
    match r.stage with
    | .answered v p =>
      if r.way.hop ≠ .router (routerOfSeq r.seq) then .next s
      else
        let done := closeRequest r s
        match r.engine, State.tileOf r.seq, r.op with
        | _, _, .claim _ slot n => .next (answerClaim r slot n v p done)
        | some (e, n), some t, _ => .next (answerEngine r t e n p done)
        | _, _, .pull rs id => .next (fillPush id rs (laneBytes v p) done)
        | _, _, _ => answerSeq r v p done
    | _ => .next s

/-! ## Recovery (R256) -/

/-- Units of time in a microsecond. -/
def microsecond : Nat := 17000

/-- Whether a packet has been without an acknowledgement for TMO microseconds: a request that is refused, or waits at its home, has
one. -/
def timedOut (s : State) (c : Carrier) : Bool :=
  match c with
  | .request n => match findRequest s n with
    | some r => decide (r.way.sentAt + s.fabric.timeout.toNat * microsecond ≤ s.time) && r.stage != .waiting && (match r.stage with
      | .delivered _ => !refused s r
      | _ => true)
    | none => false
  | c => match packetAt s c with
    | some p => decide (p.way.sentAt + s.fabric.timeout.toNat * microsecond ≤ s.time) && (match p.way.hop with
      | .issuer => true
      | .lost => true
      | .tether _ _ => true
      | .router here => here != p.dest || p.port.isSome
      | .across => false)
    | none => false

/-- A packet is sent again: from its start if it was lost, else as a copy that will be discarded (R256). -/
def Way.again (w : Way) (time : Nat) : Way :=
  let w := { w with timeouts := w.timeouts + 1, sentAt := time }
  match w.hop with
  | .lost => { w with hop := if w.inbound.isSome then .across else .issuer }
  | .issuer => w
  | _ => { w with copies := w.copies + 1 }

/-- Whether a request's answer is on its way. -/
def ReqStage.isAnswer : ReqStage → Bool
  | .answered _ _ => true
  | _ => false

/-- A packet is sent again, from where it began; a lost answer is asked for again. -/
def resend (c : Carrier) (s : State) : State :=
  match c with
  | .request n => modRequest n (fun r =>
      if r.way.hop = .lost && r.stage.isAnswer then
        { r with stage := .sent, way := { r.way with inbound := none, origin := routerOfSeq r.seq }.again s.time }
      else { r with way := r.way.again s.time }) s
  | c => modWay c (fun w => w.again s.time) s

/-- The gang and partition of a carrier, and its time-outs. -/
def carrierGang (s : State) : Carrier → Nat × Nat × Nat
  | .request n => match findRequest s n with
    | some r => (r.gang, r.part, r.way.timeouts)
    | none => (0, 0, 0)
  | c => match packetAt s c with
    | some p => (p.gang, p.part, p.way.timeouts)
    | none => (0, 0, 0)

/-- END_TO_END_TIMEOUT (R256): the subject names the packet, which is resent; the eighth time-out in a row ends the issuer's gang with
status 3, cause 0x13. -/
def execEndToEndTimeout (s : State) : Host.Outcome State Fault Refusal :=
  let c := carrierOf s.subject
  let (g, p, n) := carrierGang s c
  if !timedOut s c then .next s
  else if 8 ≤ n + 1 then .next (endGang g 3 0x13 (modWay c (fun w => { w with timeouts := 8, sentAt := s.time }) s))
  else .next (countResend p 1 (resend c s))

/-! ## Drain and swap (R252) -/

/-- ROUTING_DRAIN (R252): the subject is the partition, whose injection stops. -/
def execRoutingDrain (s : State) : Host.Outcome State Fault Refusal :=
  .next (s.modFabric (fun u => { u with drain := u.drain.setIfInBounds s.subject .stopped }))

/-- Whether a packet has been injected and not come to its end. -/
def Way.flying (w : Way) (arrived : Bool) : Bool :=
  0 < w.copies ||
    (match w.hop with
     | .router _ => !arrived
     | .tether _ _ => true
     | .across => !arrived && w.inbound.isNone
     | _ => false)

/-- Whether a partition has a packet in flight. -/
def inFlightPart (s : State) (p : Nat) : Bool :=
  s.fabric.requests.any (fun r => r.part == p && r.way.flying (match r.stage with
      | .delivered _ => true
      | .waiting => true
      | _ => false)) ||
    s.launch.transit.any (fun x => partOfGang s x.gondola.gang == p && x.way.flying x.there) ||
    s.launch.pushes.any (fun b => partOfGang s b.gang == p && b.way.flying (b.way.hop == .router (routerOf b.tile))) ||
    s.launch.tokens.any (fun x => partOfGang s x.gang == p && x.way.flying x.there) ||
    s.launch.collectives.any (fun x => partOfGang s x.gang == p && x.sending.any (fun v => v.way.flying (v.way.hop == .across))) ||
    s.launch.multicasts.any (fun m => partOfGang s m.gang == p &&
      m.way.flying (m.targets.all (fun t => m.way.hop == .router (routerOf t))))

/-- Bit `p` of one mask in place of another's. -/
def mixBit (p : Nat) (a b : BitVec 16) : BitVec 16 := (a &&& ~~~(1#16 <<< p)) ||| (b &&& (1#16 <<< p))

/-- ROUTING_SWAP (R252): the subject is the partition. Once nothing of it is in flight, active and shadow are swapped for it at
every router, and injection resumes. -/
def execRoutingSwap (s : State) : Host.Outcome State Fault Refusal :=
  let p := s.subject
  if !draining s p || inFlightPart s p || 16 ≤ p then .next s
  else
    let mine := fun (e : Nat × BitVec 16) => e.1 % 16 == p
    .next (s.modFabric (fun u =>
      { u with
        active := (u.shadow.filter mine).foldl (fun m e => Assoc.set m e.1 e.2) (u.active.filter (fun e => !mine e))
        shadow := (u.active.filter mine).foldl (fun m e => Assoc.set m e.1 e.2) (u.shadow.filter (fun e => !mine e))
        minimalActive := mixBit p u.minimalActive u.minimalShadow
        minimalShadow := mixBit p u.minimalShadow u.minimalActive
        drain := u.drain.setIfInBounds p .idle }))

/-! ## The trust table (R260, R262, R264) -/

/-- Entries of the trust table. -/
def trustEntries : Nat := 512

/-- The steps of R260 for a job's partition: the certificate chain verifies against an installed root, the signed measurements are
those of the job's accepted list, and the session opens. -/
def attests (s : State) (p : Nat) (e : Evidence) : Bool :=
  s.fabric.roots.any (Config.chainVerifies e.chain) && Config.reportVerifies e.chain e.report &&
    (s.part p).measured.contains (Config.reportDigest e.report) && e.session

/-- The job of a partition has a key, which the security controller makes with its first attested switch (R260). -/
def giveKey (p : Nat) (s : State) : State :=
  if (s.part p).key.isSome then s
  else { (s.modPart p (fun u => { u with key := some (Config.jobKey s.free) })) with free := s.free + 1 }

/-- SWITCH_ATTESTATION (R260, R262): the security controller attests a switch for its table entry and sends it the key of the job of the
subject partition. A failure leaves an unattested switch so, and is counted. -/
def execSwitchAttestation (slot : Nat) (number : BitVec 16) (digest : BitVec 64) (shown : Evidence) (s : State) :
    Host.Outcome State Fault Refusal :=
  if trustEntries ≤ slot then .next s
  else if attests s s.subject shown then
    .next (giveKey s.subject (s.modFabric (fun u => { u with trust := u.trust.set slot ⟨digest, number, 1⟩ })))
  else if (s.fabric.trust.get ⟨0, 0, 0⟩ slot).state = 0 then
    .next (s.modFabric (fun u =>
      { u with trust := u.trust.set slot ⟨digest, number, 0⟩, failedAttestations := u.failedAttestations + 1 }))
  else .next s

/-- A collective that a revoked switch sends back to endpoint mode: its results are discarded and no command proposes in-network
(R264). This module's own value stays what the unchanged sources gave. -/
def Collective.rerun (own : Nat) (x : Collective) : Collective :=
  { x with
    values := (x.values.filter (fun v => v.1 == own)).map (fun v => (v.1, false, v.2.2))
    settled := none
    sending := x.sending.map (fun v => { v with inNetwork := false })
    started := x.started.map (fun e => (e.1, e.2.1, e.2.2.1, false)) }

/-- A collective that is not complete runs again: its multicast result is dropped, and its commands of this module write again. -/
def rerunCollective (own : Nat) (s : State) (x : Collective) : State :=
  if x.written s then s
  else
    let s := s.modLaunch (fun l =>
      { l with
        collectives := l.collectives.map (fun y => if y.id = x.id then (x.rerun own).settle (s.part (partOfGang s x.gang)).tree else y)
        multicasts := l.multicasts.filter (fun m => m.collective != x.id) })
    let s := x.started.foldl (fun s e => modCmd e.2.1 1 e.2.2.1 (fun c =>
      if c.state == .running then { c with landed := false, signalled := false } else c) s) s
    match s.launch.collectives.find? (fun y => y.id == x.id) with
    | some y => sendResult y s
    | none => s

/-- SWITCH_REVOCATION (R262, R264): the subject is the trust-table entry. -/
def execSwitchRevocation (s : State) : Host.Outcome State Fault Refusal :=
  let t := s.fabric.trust.get ⟨0, 0, 0⟩ s.subject
  if t.state ≠ 1 then .next s
  else
    let s' := s.modFabric (fun u => { u with trust := u.trust.set s.subject { t with state := 2 } })
    let hit := fun (x : Collective) => (s.part (partOfGang s x.gang)).tree.any (fun b => b.slot == s.subject)
    .next ((s.launch.collectives.filter hit).foldl (rerunCollective s.host.devid.toNat) s')

end Sys2Proof.Machine
end

