-- ==== Sys2Proof/Machine/Images.lean ====
section
/-! DEFINITION. Gang launch records and the images they name: their fields, their checks with the causes of R132, and what the
launch unit reads of them (R96, R100, R104, R107, R112, R130-R132, R141, R151, R152, R214). -/

namespace Sys2Proof.Machine

/-! ## The launch unit's accesses to job memory -/

/-- The key of a virtual address through an entry. -/
def TlbEntry.key (s : State) (e : TlbEntry) (va : Nat) : Nat := leafKey s.host.devid.toNat (e.leaf.setWidth 64) (va - e.base)

/-- The memory core that owns what a virtual address of a partition leads to, by an entry of its own TLB or else by the walk
(R165; log 13). -/
def ownerFor (s : State) (p va : Nat) : Nat :=
  match s.mcores.find? (fun c => ((c.2.tlb.find p va).map (fun e => ownerOf (e.key s va))) == some c.1) with
  | some c => c.1
  | none => match walk s p va with
    | .leaf l => ownerOf (leafKey s.host.devid.toNat l.word (va - l.base))
    | _ => 0

/-- The key, layout-table entry and end of the span of an address of a partition, translated for a unit of the hub die in the owning
memory core's TLB, whose misses that core's service core serves (R165, R187, R188, R289; log 13). -/
def jobKey (p g : Nat) (a : Word) (acc : Access) : Exec (Nat × BitVec 32 × Nat) := do
  let s ← get
  check (formOf a = 0 && formOk a) 0x04 a
  let q : SeqId := .m (ownerFor s p a.toNat)
  let found := lookup (tlbOf s q) p a.toNat acc
  if found = .miss && !ownHandler s q && walk s p a.toNat = .broken then consumed a
  let (e, s') := deviceEntry q p g a.toNat acc s
  match e with
  | .found e =>
    set s'
    return (e.key s' a.toNat, leafEntry s' p (e.leaf.setWidth 64), e.limit)
  | .absent =>
    set (takeRefusal q p g a.toNat acc s')
    trap (if found = .miss then 0x07 else 0x08) a
  | .pends => waitMiss q p g a.toNat acc

/-- `n` bytes of job memory, page by page, with their poison marks, as a structure of the device or as the host's data; in `flat` under
layout 0 (R268, R273). -/
def jobBytes (p g : Nat) (structure_ flat : Bool) : Nat → Word → Nat → Exec (List (Byte × Bool))
  | 0, _, _ => pure []
  | fuel + 1, a, n => do
    if n = 0 then return []
    let (key, entry, limit) ← jobKey p g a .read
    let take := min n (limit - a.toNat)
    let (bs, ps) ← (if structure_ then fetchStructure else fetchBytes) p g (if flat then 0 else entry) key take
    modify (loads g (wordsOf key take))
    return bs.zip ps ++ (← jobBytes p g structure_ flat fuel (a + BitVec.ofNat 64 take) (n - take))

/-- Bytes that hold no poison; a poisoned one is uncorrectable for the launch unit (R132). -/
def unpoisoned (a : Word) (bs : List (Byte × Bool)) : Exec (List Byte) := do
  if bs.any (·.2) then consumed a
  return bs.map (·.1)

/-- `n` bytes of job memory. -/
def jobRead (p g : Nat) (a : Word) (n : Nat) : Exec (List Byte) := do
  unpoisoned a (← jobBytes p g true false (n / 2 ^ 14 + 2) a n)

/-- `n` bytes of a launch queue's ring (R136, R268). -/
def ringRead (p : Nat) (a : Word) (n : Nat) : Exec (List Byte) := do
  unpoisoned a (← jobBytes p 0 true true (n / 2 ^ 14 + 2) a n)

/-- The little-endian number in bytes [o, o + n) of a list. -/
def numberAt (bs : List Byte) (o n : Nat) : Nat := ofBytes ((bs.drop o).take n)

/-- An 8-byte word of job memory. -/
def jobWord (p g : Nat) (a : Word) : Exec Word := do return BitVec.ofNat 64 (ofBytes (← jobRead p g a 8))

/-- Writes bytes of job memory, page by page. -/
def jobWrite (p g : Nat) : Nat → Word → List Byte → Exec Unit
  | 0, _, _ => pure ()
  | fuel + 1, a, bs => do
    if bs.isEmpty then return
    let (key, entry, limit) ← jobKey p g a .write
    let take := min bs.length (limit - a.toNat)
    storeBytes p g entry key (bs.take take) false
    jobWrite p g fuel (a + BitVec.ofNat 64 take) (bs.drop take)

/-! ## The fields of a record (R130, R131) -/

def LaunchRecord.format (r : LaunchRecord) : Nat := (r[0].extractLsb' 0 16).toNat
def LaunchRecord.flag (r : LaunchRecord) (n : Nat) : Bool := r[0].getLsbD (16 + n)
def LaunchRecord.prio (r : LaunchRecord) : Nat := (r[0].extractLsb' 32 8).toNat
def LaunchRecord.part (r : LaunchRecord) : Nat := (r[0].extractLsb' 40 8).toNat
def LaunchRecord.blocks (r : LaunchRecord) : Nat := (r[0].extractLsb' 48 16).toNat
def LaunchRecord.perBlock (r : LaunchRecord) : Nat := (r[1].extractLsb' 0 16).toNat
def LaunchRecord.policy (r : LaunchRecord) : Nat := (r[1].extractLsb' 16 8).toNat
def LaunchRecord.entryA (r : LaunchRecord) : Word := r[2]
def LaunchRecord.entryX (r : LaunchRecord) : Word := r[3]
def LaunchRecord.params (r : LaunchRecord) : Word := r[4]
def LaunchRecord.tensors (r : LaunchRecord) : Word := r[5]
def LaunchRecord.groups (r : LaunchRecord) : Word := r[6]
def LaunchRecord.startTick (r : LaunchRecord) : Nat := r[7].toNat
def LaunchRecord.dependence (r : LaunchRecord) (i : Nat) : Word := r.toList.getD (8 + i) 0
def LaunchRecord.threshold (r : LaunchRecord) (i : Nat) : Word := r.toList.getD (12 + i) 0
def LaunchRecord.completionWord (r : LaunchRecord) : Word := r[16]
def LaunchRecord.completionRecord (r : LaunchRecord) : Word := r[17]
def LaunchRecord.saveArea (r : LaunchRecord) : Word := r[18]
def LaunchRecord.actors (r : LaunchRecord) : Word := r[19]
def LaunchRecord.queues (r : LaunchRecord) : Word := r[20]
def LaunchRecord.snapshot (r : LaunchRecord) : Word := r[21]
def LaunchRecord.scratchImage (r : LaunchRecord) : Word := r[22]

def LaunchRecord.restartable (r : LaunchRecord) : Bool := r.flag 0
def LaunchRecord.failIfBusy (r : LaunchRecord) : Bool := r.flag 1
def LaunchRecord.bridled (r : LaunchRecord) : Bool := r.flag 2
def LaunchRecord.preemptible (r : LaunchRecord) : Bool := r.flag 3
def LaunchRecord.tickStart (r : LaunchRecord) : Bool := r.flag 4
def LaunchRecord.child (r : LaunchRecord) : Bool := r.flag 5
def LaunchRecord.fallback (r : LaunchRecord) : Bool := r.flag 6

/-- Launch tiles, and tiles placed with their twins. -/
def LaunchRecord.tileCount (r : LaunchRecord) : Nat := r.blocks * r.perBlock
def LaunchRecord.placed (r : LaunchRecord) : Nat := if r.bridled then 2 * r.tileCount else r.tileCount

/-- Whether a record is one part of several: flag 4 with a rendezvous word (R142). -/
def LaunchRecord.spans (r : LaunchRecord) : Bool := r.tickStart && r.dependence 3 != 0

/-- The dependence slots that are start conditions (R138, R142). -/
def LaunchRecord.waits (r : LaunchRecord) : List Nat :=
  (List.range 4).filter (fun i => r.dependence i != 0 && !(i == 3 && r.tickStart))

/-- The most tiles of a block under a policy (R130, R131). -/
def policyLimit (r : LaunchRecord) : Nat :=
  match r.policy with
  | 0 => 2048
  | 1 => if r.bridled then 2 else 4
  | 2 => 16
  | 3 => 512
  | _ => 0

/-- Cause 1 of R132: the record's own fields and flags, for a partition, a child or a host record (R130, R131, R143, R292). -/
def recordOk (s : State) (p : Nat) (child : Bool) (r : LaunchRecord) : Bool :=
  r.format = 0x5331 && (r[0].extractLsb' 23 9) == 0 && r.prio ≤ 7 && r.part = p && 1 ≤ r.blocks && r.blocks ≤ 256 &&
    1 ≤ r.perBlock && r.policy ≤ 3 && r.perBlock ≤ policyLimit r && (r[1].extractLsb' 24 40) == 0 && r.groups != 0 &&
    (r.tickStart || r.startTick = 0) && (List.range 4).all (fun i => (r.dependence i).toNat % 8 = 0) &&
    r.completionWord != 0 && r.completionWord.toNat % 8 = 0 && r.completionRecord != 0 && r.completionRecord.toNat % 64 = 0 &&
    (!r.preemptible || r.saveArea != 0) && (!r.restartable || r.snapshot != 0) && r[23] == 0 && r.child == child &&
    (!child || !r.tickStart) && (!r.bridled || accepted s p 0) && (!r.restartable || accepted s p 1) &&
    (!r.tickStart || accepted s p 6)

/-! ## Causes -/

/-- A reading of images that may refuse with a cause of R132. -/
abbrev Load := ExceptT Nat Exec

/-- A reading whose translation faults refuse with a cause. -/
def orCause {α : Type} (c : Nat) (act : Exec α) : Load α := fun s =>
  match act s with
  | .ok a s' => .ok (.ok a) s'
  | .error (.trap _ _ _) s' => .ok (.error c) (keepFindings s s')
  | .error e s' => .error e s'

/-- Refuses with a cause when a limit is broken. -/
def need (ok : Bool) (c : Nat) : Load Unit := if ok then pure () else throw c

/-! ## The group table image (R96) -/

/-- The launch-local indices that a group table image lists, entry by entry. -/
def readGroups (p g : Nat) (a : Word) (tiles : Nat) : Load (List (List Nat)) := do
  let at_ := fun (o n : Nat) => orCause 2 (jobRead p g (a + BitVec.ofNat 64 o) n)
  let head ← at_ 0 8
  let n := numberAt head 0 2
  need (1 ≤ n && n ≤ 256 && numberAt head 2 6 = 0) 2
  let entries ← at_ 8 (8 * n)
  let lists ← (List.range n).mapM (fun i => do
    let off := numberAt entries (8 * i) 4
    let m := numberAt entries (8 * i + 4) 2
    need (1 ≤ m && m ≤ 2048 && numberAt entries (8 * i + 6) 2 = 0) 2
    let bs ← at_ off (2 * m)
    let l := (List.range m).map (fun j => numberAt bs (2 * j) 2)
    need (rising l && l.all (· < tiles)) 2
    return l)
  need ((List.range tiles).all (fun t => (lists.filter (fun l => l.contains t)).length ≤ 4)) 2
  return lists

/-! ## The queue image (R107) -/

/-- An entry of the queue image; a home of none is the tile's own scratchpad. -/
structure QueueEntry where
  handle : Nat
  onA : Bool
  onX : Bool
  lz : Nat
  ls : Nat
  base : Nat
  home : Option Nat
  deriving DecidableEq, Repr

/-- Whether queues at one scratchpad keep R106: taken one after another, each fits beside the earlier ones. -/
def queuesFit : List QueueEntry → Assoc Queue → Bool
  | [], _ => true
  | e :: l, qs => geometryOk e.lz e.ls && e.base % 2 ^ (e.lz + e.ls) = 0 && e.base + 2 ^ (e.lz + e.ls) ≤ 2 ^ 20 &&
      (match qs.find? (fun q => q.1 == e.base) with
       | some q => q.2.lz == e.lz && q.2.ls == e.ls && queuesFit l qs
       | none => queueFits qs e.base e.lz e.ls && queuesFit l (qs.set e.base ⟨e.lz, e.ls, 0, 0, false⟩))

/-- The entries whose queue stands at launch-local tile `i`. -/
def queuesAt (es : List QueueEntry) (i : Nat) : List QueueEntry := es.filter (fun e => e.home.isNone || e.home == some i)

/-- Whether two launch-local tiles share a group. -/
def shareGroup (groups : List (List Nat)) (i j : Nat) : Bool := i == j || groups.any (fun l => l.contains i && l.contains j)

/-- The queue image of a record, checked against its tiles and groups. -/
def readQueues (p g : Nat) (a : Word) (tiles : Nat) (groups : List (List Nat)) : Load (List QueueEntry) := do
  if a = 0 then return []
  let head ← orCause 4 (jobRead p g a 8)
  let n := numberAt head 0 4
  need (n ≤ 32 && numberAt head 4 4 = 0) 4
  let bs ← orCause 4 (jobRead p g (a + 8) (16 * n))
  let es ← (List.range n).mapM (fun i => do
    let f := fun (o k : Nat) => numberAt bs (16 * i + o) k
    need (f 0 1 ≤ 15 && f 1 1 ≤ 3 && f 4 4 < 2 ^ 20 && (f 8 2 = 0xFFFF || f 8 2 < tiles) && f 10 6 = 0) 4
    return (⟨f 0 1, f 1 1 % 2 = 1, f 1 1 / 2 = 1, f 2 1, f 3 1, f 4 4,
      if f 8 2 = 0xFFFF then none else some (f 8 2)⟩ : QueueEntry))
  need ((List.range tiles).all (fun i => queuesFit (queuesAt es i) [])) 4
  need (es.all (fun e => match e.home with
    | some h => (List.range tiles).all (fun i => shareGroup groups i h)
    | none => true)) 4
  return es

/-! ## The actor table image (R100, R104) -/

/-- A sequencer's actors as the launch loads them, with the nest of each reel-bound one. -/
abbrev ActorEntry := Actor × Option Nest

/-- The pairs of handle and count of an entry's inputs or outputs, `n` of them, from two words. -/
def portsOf (w v : Word) (n : Nat) : List (Nat × Nat) :=
  ([w.extractLsb' 0 32, w.extractLsb' 32 32, v.extractLsb' 0 32, v.extractLsb' 32 32].take n).map
    (fun x => ((x.extractLsb' 16 4).toNat, (x.extractLsb' 0 16).toNat))

/-- Whether the first `n` port words keep their ranges and name bound handles. -/
def portsOk (w v : Word) (n : Nat) (bound : Nat → Bool) : Bool :=
  ([w.extractLsb' 0 32, w.extractLsb' 32 32, v.extractLsb' 0 32, v.extractLsb' 32 32].take n).all
    (fun x => (x.extractLsb' 20 12) == 0 && 1 ≤ (x.extractLsb' 0 16).toNat && (x.extractLsb' 0 16).toNat ≤ 4096 &&
      bound (x.extractLsb' 16 4).toNat)

/-- One entry of the image, number `i` of its sequencer. -/
def readActor (p g : Nat) (w : Nat → Word) (i : Nat) (x : Bool) (bound : Nat → Bool) : Load ActorEntry := do
  let flags := (w 1).extractLsb' 0 8
  if !flags.getLsbD 3 then
    need ((List.range 8).all (fun j => w j == 0)) 3
    return (Actor.absent, none)
  let prio := ((w 1).extractLsb' 8 8).toNat
  let ins := ((w 1).extractLsb' 16 8).toNat
  let outs := ((w 1).extractLsb' 24 8).toNat
  let reel := flags.getLsbD 2
  let base := ((w 7).extractLsb' 0 32).toNat
  let size := ((w 7).extractLsb' 32 32).toNat
  need ((flags.extractLsb' 4 4) == 0 && flags.getLsbD 0 == x && prio ≤ 3 && ins ≤ 4 && outs ≤ 4 &&
    ((w 1).extractLsb' 32 32) == 0 && portsOk (w 2) (w 3) ins bound && portsOk (w 4) (w 5) outs bound &&
    (reel || w 6 == 0) && (!reel || i ≤ 3) && base % 8 = 0 && size % 8 = 0 && base + size ≤ 2 ^ 20) 3
  let a : Actor :=
    { present := true
      enabled := flags.getLsbD 1
      reelBound := reel
      entry := w 0
      prio := prio
      inputs := portsOf (w 2) (w 3) ins
      outputs := portsOf (w 4) (w 5) outs
      nest := w 6
      spillBase := base
      spillSize := size
      age := 0 }
  if reel then
    let bs ← orCause 3 (jobRead p g (w 6) 64)
    let ws := (List.range 8).map (fun j => BitVec.ofNat 64 (numberAt bs (8 * j) 8))
    need ((w 6).toNat % 8 = 0 && nestOk ws) 3
    return (a, some (nestOf ws))
  else return (a, none)

/-- The implicit actor of a sequencer without an image (R104). It is there and enabled also where the record's entry field is 0, which
R130 calls absent for an image and R104 does not except (DESIGN CHOICE, log 20). -/
def implicitActor (entry : Word) : Actor := { Actor.absent with present := true, enabled := true, entry := entry }

/-- The actors of the A-seq and of the X-seq. -/
def readActors (p g : Nat) (r : LaunchRecord) (queues : List QueueEntry) : Load (List ActorEntry × List ActorEntry) := do
  if r.actors = 0 then return ([(implicitActor r.entryA, none)], [(implicitActor r.entryX, none)])
  let bs ← orCause 3 (jobRead p g r.actors 2048)
  let word := fun (i j : Nat) => (BitVec.ofNat 64 (numberAt bs (64 * i + 8 * j) 8) : Word)
  let as ← (List.range 16).mapM (fun i =>
    readActor p g (word i) i false (fun h => queues.any (fun q => q.handle == h && q.onA)))
  let xs ← (List.range 16).mapM (fun i =>
    readActor p g (word (16 + i)) i true (fun h => queues.any (fun q => q.handle == h && q.onX)))
  return (as, xs)

/-! ## Tensors, parameters, the scratchpad image (R141, R214) -/

/-- The present entries of a tensor table image. -/
def readTensors (p g : Nat) (a : Word) : Load (Assoc Tensor) := do
  if a = 0 then return []
  let bs ← orCause 10 (jobRead p g a 16384)
  let es := (List.range 256).map (fun n =>
    (n, (Vector.ofFn (fun i : Fin 8 => BitVec.ofNat 64 (numberAt bs (64 * n + 8 * i.val) 8)) : Tensor)))
  need (es.all (fun e => Tensor.kind e.2 = 0 || tensorOk e.2)) 10
  return es.filter (fun e => Tensor.kind e.2 ≠ 0)

/-- The bytes that a launch writes at offset 0xF_F000 of every tile (R141). -/
def readParams (p g : Nat) (a : Word) : Load (List Byte) := do
  if a = 0 then return toBytes 16 0
  need (a.toNat % 8 = 0) 11
  let head ← orCause 11 (jobRead p g a 8)
  let n := numberAt head 0 4
  need (n ≤ 510 && numberAt head 4 4 = 0) 11
  let vs ← orCause 11 (jobRead p g (a + 8) (8 * n))
  return toBytes 8 a.toNat ++ toBytes 8 n ++ vs

/-- The scratchpad initial image (R130, R140). -/
def readScratchImage (p g : Nat) (w : Word) : Load (List Byte) := do
  let kib := (w.extractLsb' 0 20).toNat
  need (kib ≤ 1024) 11
  let a := w &&& ~~~0xFFFFF#64
  if a = 0 || kib = 0 then return []
  orCause 11 (jobRead p g a (1024 * kib))

/-- Offset of the parameters in a scratchpad. -/
def paramOffset : Nat := 0xFF000

/-! ## The save area and the input snapshot (R151, R152) -/

/-- Bytes of a save area for `n` tiles. -/
def saveBytes (n : Nat) : Nat := (320 + n * 1280) * 1024

/-- Whether `n` bytes lie on pages of local HBM that may be written. -/
def pinned (s : State) (p : Nat) : Nat → Nat → Nat → Bool
  | 0, _, n => n = 0
  | fuel + 1, a, n =>
    if n = 0 then true
    else match walk s p a with
      | .leaf l => installable s p l && resOf l.word = 0 && l.word.getLsbD 3 &&
          pinned s p fuel (a + min n (l.limit - a)) (n - min n (l.limit - a))
      | _ => false

/-- Cause 5 of R132. -/
def saveAreaOk (s : State) (r : LaunchRecord) : Bool :=
  !r.preemptible ||
    (r.saveArea.toNat % 65536 = 0 && formOf r.saveArea = 0 && formOk r.saveArea &&
      pinned s r.part (saveBytes r.placed / 2 ^ 14 + 2) r.saveArea.toNat (saveBytes r.placed))

/-- The input regions of a snapshot descriptor, as base and size, and where their digests stand. -/
def readSnapshot (p g : Nat) (a : Word) : Load (List (Word × Nat) × Word) := do
  let head ← orCause 6 (jobRead p g a 8)
  let i := numberAt head 0 1
  let o := numberAt head 1 1
  need (1 ≤ i && i ≤ 8 && 1 ≤ o && o ≤ 8 && numberAt head 2 6 = 0) 6
  let bs ← orCause 6 (jobRead p g (a + 8) (16 * (i + o)))
  let rs := (List.range (i + o)).map (fun j => (BitVec.ofNat 64 (numberAt bs (16 * j) 8), numberAt bs (16 * j + 8) 8))
  need (rs.all (fun r => r.1.toNat % 64 = 0 && r.2 ≠ 0 && r.2 % 64 = 0)) 6
  return (rs.take i, a + BitVec.ofNat 64 (8 + 16 * (i + o)))

/-- The digests of the input regions (R152). -/
def readDigests (p g : Nat) (rs : List (Word × Nat)) : Load (List (BitVec 512)) :=
  rs.mapM (fun r => do return Config.sha3 (← orCause 6 (jobRead p g r.1 r.2)))

/-- Computes the digests of a restartable record and writes them into its descriptor. -/
def takeDigests (p g : Nat) (r : LaunchRecord) : Load (List (BitVec 512)) := do
  if !r.restartable then return []
  let (rs, at_) ← readSnapshot p g r.snapshot
  let ds ← readDigests p g rs
  orCause 6 (jobWrite p g 4 at_ (ds.map (fun d => toBytes 64 d.toNat)).flatten)
  return ds

/-! ## All images of a record -/

structure Images where
  groups : List (List Nat)
  queues : List QueueEntry
  actorsA : List ActorEntry
  actorsX : List ActorEntry
  tensors : Assoc Tensor
  params : List Byte
  scratch : List Byte

/-- Reads and checks the images that a record names (R132). -/
def readImages (p g : Nat) (r : LaunchRecord) : Load Images := do
  let groups ← readGroups p g r.groups r.tileCount
  let queues ← readQueues p g r.queues r.tileCount groups
  let (as, xs) ← readActors p g r queues
  let tensors ← readTensors p g r.tensors
  let params ← readParams p g r.params
  let scratch ← readScratchImage p g r.scratchImage
  return ⟨groups, queues, as, xs, tensors, params, scratch⟩

/-! ## What a launch loads into a tile (R140) -/

/-- Clears the bytes of a tile: scratchpad, operand memory, split-row area, accumulators (R140, R211). -/
def clearTile (t : Nat) (m : Mem) : Mem :=
  (((m.clear (scratchKey t 0) (scratchKey t 0 + 2 ^ 20)).clear (slotKey t 0 0) (slotKey t 0 0 + 2 ^ 18)).clear
    (splitKey t 0 0) (splitKey t 0 0 + 2 ^ 12)).clear (accKey t 0 0) (accKey t 0 0 + 2 ^ 16)

/-- The bytes of a tile before its first instruction. -/
def loadBytes (t : Nat) (im : Images) (m : Mem) : Mem :=
  ((clearTile t m).setBytes (scratchKey t 0) im.scratch).setBytes (scratchKey t paramOffset) im.params

/-- A sequencer's actors, nests and handles as launched. `tile` is the primary and `tiles` the launch's. Where two entries of the queue
image bind one handle of the sequencer, the later one holds: the spec does not say which does (DESIGN CHOICE, log 20). -/
def launchSeq (now g tile : Nat) (tiles : List Nat) (es : List ActorEntry) (qs : List QueueEntry) : Seq :=
  let bound := fun (h : Nat) => ((qs.filter (fun q => q.handle == h)).getLast?).map (fun q =>
    QRef.tile (match q.home with
      | some i => tiles.getD i 0
      | none => tile) q.base)
  { Seq.reset with
    handles := Vector.ofFn (fun i : Fin 16 => bound i.val)
    actors := Vector.ofFn (fun i : Fin 16 => (es.getD i.val (Actor.absent, none)).1)
    nests := Vector.ofFn (fun i : Fin 4 =>
      match (es.getD i.val (Actor.absent, none)).2 with
      | some n => ⟨g, some n, some i.val, true, 0, 0, some now⟩
      | none => NestSlot.reset) }

/-- A tile as launched: `i` its launch-local index, `primary` the pair's primary or itself, `ring` its overflow ring (R120). -/
def launchTile (now g i primary ring : Nat) (member : Twin) (tiles : List Nat) (im : Images) : Tile :=
  { Tile.reset with
    gang := g
    index := i
    twin := member
    ringNo := ring
    a := launchSeq now g primary tiles im.actorsA (im.queues.filter (·.onA))
    x := launchSeq now g primary tiles im.actorsX (im.queues.filter (·.onX))
    queues := (queuesAt im.queues i).foldl (fun (m : Assoc Queue) q => m.set q.base ⟨q.lz, q.ls, 0, 0, false⟩) []
    tensors := im.tensors }

end Sys2Proof.Machine
end

