-- ==== Sys2Proof/Machine/Launch.lean ====
section
/-! DEFINITION. The launch unit: LAUNCH, the kick of a queue, the check of records, dependences, placement, blocking, the start
of a gang and its rendezvous, completion, re-execution and the watchdog (R104, R130-R145, R152-R155, R317, R318, R383, R445). -/

namespace Sys2Proof.Machine

/-! ## Completion records (R133-R135) -/

/-- A completion record's 64 bytes. -/
structure Report where
  status : Nat
  cause : Nat
  worst : Nat
  quarantined : Nat
  units : List (BitVec 16)
  start : Nat
  stop : Nat
  poison : Nat
  s1 : Nat
  rollbacks : Nat
  reexecutions : Nat
  clamps : Nat
  lastFault : Word

def Report.bytes (r : Report) : List Byte :=
  toBytes 2 r.status ++ toBytes 1 r.cause ++ toBytes 1 r.worst ++ toBytes 1 (min r.quarantined 255) ++ toBytes 3 0 ++
    ((List.range 4).map (fun i => toBytes 2 ((r.units.getD i 0xFFFF).toNat))).flatten ++
    toBytes 8 r.start ++ toBytes 8 r.stop ++ toBytes 4 (min r.poison (2 ^ 32 - 1)) ++ toBytes 4 (min r.s1 (2 ^ 32 - 1)) ++
    toBytes 2 (min r.rollbacks 65535) ++ toBytes 2 r.reexecutions ++ toBytes 4 (min r.clamps (2 ^ 32 - 1)) ++
    toBytes 8 r.lastFault.toNat ++ toBytes 8 0

/-- The report of a record that never ran. -/
def plainReport (s : State) (status cause : Nat) : Report :=
  ⟨status, cause, 0xFF, 0, [], 0, s.ticks, 0, 0, 0, 0, 0, 0⟩

/-- The cause byte of a status: kept for 1, 2, 3, 7 and 10, else 0 (R133). -/
def causeByte (status cause : Nat) : Nat := if [1, 2, 3, 7, 10].contains status then cause else 0

/-- The report of a gang that ends. -/
def gangReport (s : State) (u : Gang) (status cause : Nat) : Report :=
  ⟨status, causeByte status cause, u.worst, u.quarantined, u.units, u.start, s.ticks, u.poison, u.s1, u.rollbacks,
    u.reexecutions, u.clamps, u.lastFault⟩

/-- Changes an 8-byte word of job memory in one indivisible access. -/
def changeWord (p g : Nat) (a : Word) (f : Nat → Nat) : Exec Unit := do
  let (key, entry, _) ← jobKey p g a .write
  let (v, bad) ← fetchWord p g entry key 8
  storeBytes p g entry key (toBytes 8 (f v)) bad

/-- Raises MSI-X vector 1: several completion writes within one microsecond raise it once (R290). -/
def raiseCompletion (p : Nat) (s : State) : State :=
  s.modPart p (fun u =>
    match u.msixTime with
    | some t => if s.time < t + microsecond then u else { u with msix1 := true, msixTime := some s.time }
    | none => { u with msix1 := true, msixTime := some s.time })

/-- Writes a completion record and then adds 1 to the completion word (R135); where they cannot be reached the completion is
dropped, and counted in ERRCNT7 (R132). One whose miss is not answered yet is reported later (R188). -/
def sendReport (x : PendingReport) (s : State) : State :=
  let act : Exec Unit := do
    let _ ← jobKey x.part 0 x.record.completionWord .write
    jobWrite x.part 0 2 x.record.completionRecord x.bytes
    changeWord x.part 0 x.record.completionWord (· + 1)
  match act.run s with
  | .ok _ s' => if x.fromQueue then raiseCompletion x.part s' else s'
  | .error (.poison _) t => partitionFault x.part (keepFindings s t)
  | .error (.wait .miss register) _ => (register s).modLaunch (fun l => { l with reports := l.reports ++ [x] })
  | .error _ t => countError { s with parts := t.parts } x.part 7 1

/-- Reports a completion. -/
def report (p : Nat) (r : LaunchRecord) (rep : Report) (fromQueue : Bool) (s : State) : State := sendReport ⟨p, r, rep.bytes, fromQueue⟩ s

/-- A completion that waits is reported again. -/
def reportAgain (i : Nat) (s : State) : State :=
  match s.launch.reports[i]? with
  | some x => sendReport x (s.modLaunch (fun l => { l with reports := l.reports.eraseIdx i }))
  | none => s

/-! ## Records at queue heads and in the pool -/

/-- The record that a source holds, with its partition. -/
def recordAt (s : State) : RecordSource → Option (RecState × Nat)
  | .queue n =>
    let q := s.queue n
    if q.en then q.record.map (fun r => (r, q.owner.toNat)) else none
  | .pool k => ((s.launch.pool.find? (fun e => e.1 == k)).map (·.2)).map (fun r => (r, ((s.gang? r.parent).map (·.part)).getD 0))

/-- Changes the record of a source. -/
def modRecord (src : RecordSource) (f : RecState → RecState) (s : State) : State :=
  match src with
  | .queue n => s.modQueue n (fun q => { q with record := q.record.map f })
  | .pool k => s.modLaunch (fun l => { l with pool := l.pool.map (fun e => if e.1 = k then (k, f e.2) else e) })

/-- The number of a record among those whose dependences are polled. -/
def recordNumber : RecordSource → Nat
  | .queue n => 2 * n
  | .pool k => 2 * k + 1

/-- What the polls of a record have observed is forgotten. -/
def unobserve (record : Nat) (s : State) : State :=
  s.modUnseen (fun l => l.map (fun e => { e with marks := e.marks.filter (· != .observed record) }))

/-- Takes the record of a source away: HEAD passes it, or the pool entry is free (R136, R143). -/
def takeRecord (src : RecordSource) (s : State) : State :=
  let s := unobserve (recordNumber src) s
  match src with
  | .queue n => s.modQueue n (fun q => { q with record := none, head := q.head + 1 })
  | .pool k => s.modLaunch (fun l => { l with pool := Assoc.erase l.pool k })

def isQueue : RecordSource → Bool
  | .queue _ => true
  | .pool _ => false

/-- A record completes without being placed. -/
def finishRecord (src : RecordSource) (status cause : Nat) (s : State) : State :=
  match recordAt s src with
  | some (r, p) => takeRecord src (report p r.words (plainReport s status cause) (isQueue src) s)
  | none => s

/-- Whether a pool entry's parent has been killed or is gone (R144). -/
def orphaned (s : State) (src : RecordSource) : Bool :=
  match src with
  | .queue _ => false
  | .pool k => match s.launch.pool.find? (fun e => e.1 == k) with
    | some e => match s.gang? e.2.parent with
      | some u => u.killing.isSome
      | none => true
    | none => false

/-! ## LAUNCH (R143, R383) -/

/-- Records that a pair holds back on their way into the pool. -/
def heldLaunches (p : Pair) : Nat :=
  (p.held.filter (fun h =>
    match h with
    | .launch _ => true
    | _ => false)).length

/-- Pool entries that a launch holds, with those that its pairs hold back. -/
def poolHeld (s : State) (g : Nat) : Nat :=
  (s.launch.pool.filter (fun e => e.2.parent == g)).length + ((s.pairs.filter (fun e => e.2.gang == g)).map (heldLaunches ·.2)).sum

/-- Pool entries of the module that are taken, with those that pairs hold back. -/
def poolTaken (s : State) : Nat := s.launch.pool.length + (s.pairs.map (heldLaunches ·.2)).sum

/-- Entries of the pending-launch pool of a module. -/
def poolSize : Nat := 4096

/-- A child's record enters the pool. -/
def poolInsert (r : RecState) (s : State) : State :=
  let (k, s) := s.fresh
  s.modLaunch (fun l => { l with pool := l.pool.set k r })

/-- D of a LAUNCH of a record. -/
def launchAnswer (ws : List Word) : Exec Word := do
  let s ← get
  let g := s.gangOf s.focus
  let words : LaunchRecord := Vector.ofFn (fun i : Fin 24 => ws.getD i.val 0)
  let u : Option Gang := s.gang? g
  let depth := ((u.map (fun (u : Gang) => u.depth)).getD 0) + 1
  let st := if ((u.map (fun (u : Gang) => u.ldepth)).getD 24).toNat < depth then 9
    else if ((u.map (fun (u : Gang) => u.lpool)).getD 64).toNat ≤ poolHeld s g || poolSize ≤ poolTaken s then 8
    else 0
  if st = 0 then
    forkWait
    modify (fun s => releasesOn (launchObject (s.gangOf s.focus)) s.focus 5 s)
    let r : RecState := ⟨words, false, none, false, depth, g, (u.map (fun (u : Gang) => u.livelim)).getD 4096, (u.map (fun (u : Gang) => u.lpool)).getD 64,
      (u.map (fun (u : Gang) => u.ldepth)).getD 24⟩
    if (← myTwin) == .alone then modify (poolInsert r) else holdBack (.launch r)
  else if !words.fallback then
    if (← myTwin) == .alone then
      modify (fun s => report (s.partOf s.focus) words (plainReport s st 0) false s)
    else holdBack (.refused words (s.partOf s.focus) st)
  return BitVec.ofNat 64 st

/-- LAUNCH (R143): the record's words lie in the issuer's own scratchpad or in job memory. -/
def launchBody (f : F128C) : Exec Flow := do
  queueWaits [⟨f.d.toNat, 0, true, false⟩]
  let a ← useX f.a.toNat
  checkAddress a 192 64
  check (formOf a ≠ 1 || isOwnScratch (← get) a) 0x04 a
  let ws ← readTable a 24
  putDest f.d.toNat 0 (← echoed1 (launchAnswer ws)) false
  takeIn (encode (.launch f) ++ toBytes 8 a.toNat)
  closeAfter
  return .fall

/-- LAUNCH (R383). -/
def execLaunch (f : F128C) (s : State) : Host.Outcome State Fault Refusal := issueC (.launch f) f (launchBody f) s

/-! ## Queues and the checks of records (R132, R136, R137) -/

/-- Slots of a launch queue's ring. -/
def LaunchQueue.slots (q : LaunchQueue) : Nat := 2 ^ (q.log2n.toNat + 1)

/-- LAUNCH_QUEUE_KICK (R136): a value that passes the ring's slots is ignored. -/
def execLaunchQueueKick (queue : Nat) (tail : BitVec 32) (s : State) : Host.Outcome State Fault Refusal :=
  let q := s.queue queue
  .next (if queue < 64 ∧ (tail - q.head).toNat ≤ q.slots ∧ s.host.devstate ≠ 3 then s.modQueue queue (fun q => { q with tail := tail }) else s)

/-- What the checks of a record find: nothing, a cause of R132, or that its completion cannot be reached. -/
inductive Verdict where
  | fine
  | refuse (cause : Nat)
  | drop
  deriving DecidableEq, Repr

/-- Whether an address is mapped for an access. -/
def mapped (p : Nat) (a : Word) (acc : Access) : Exec Bool := fun s =>
  match jobKey p 0 a acc s with
  | .ok _ s' => .ok true s'
  | .error (.trap _ _ _) t => .ok false { s with parts := t.parts }
  | .error e s' => .error e s'

/-- Whether a record's rendezvous word lies on this module, which holds its part, or on one that the domain tells to hold a part of
the same launch (R132, R445). -/
def meetsAtPart (p : Nat) (r : LaunchRecord) : Exec Bool := fun s =>
  match jobKey p 0 (r.dependence 3) .write s with
  | .ok (key, _, _) s' =>
    .ok (key / 2 ^ 53 == 0 || s.fabric.peers.any (fun x => x.part == p && x.rendezvous == r.dependence 3 && x.tile / 2048 == key / 2 ^ 53)) s'
  | .error (.trap _ _ _) t => .ok false { s with parts := t.parts }
  | .error e s' => .error e s'

/-- The checks of a record at a queue head or entering the pool (R132). -/
def verdict (p : Nat) (child : Bool) (r : LaunchRecord) : Exec Verdict := do
  let s ← get
  if r.completionWord = 0 || r.completionRecord = 0 then return .drop
  if !(← mapped p r.completionWord .write) || !(← mapped p r.completionRecord .write) then return .drop
  if !recordOk s p child r then return .refuse 1
  if !saveAreaOk s r then return .refuse 5
  let deps ← ((List.range 4).filter (fun i => r.dependence i != 0)).mapM (fun i => mapped p (r.dependence i) .read)
  let meet ← if r.spans then meetsAtPart p r else pure true
  return if deps.all id && meet then .fine else .refuse 8

/-- An outcome of the launch unit's work for a partition: an uncorrectable word is a partition fault (R132, R273). -/
def launchOutcome (p : Nat) (s : State) (act : Exec Unit) : Host.Outcome State Fault Refusal :=
  match act.run s with
  | .ok _ s' => .next s'
  | .error (.poison _) t => .next (partitionFault p (keepFindings s t))
  | .error (.fault r) _ => .fault r
  | .error e t => .next (undone s t e)

/-- A record's checks, with what follows. -/
def judge (src : RecordSource) (p : Nat) (child : Bool) (r : LaunchRecord) : Exec Unit := do
  match ← verdict p child r with
  | .fine => modify (modRecord src (fun r => { r with checked := true }))
  | .refuse c => modify (finishRecord src 7 c)
  | .drop => modify (fun s => takeRecord src (countError s p 7 1))

/-- Reads the record at a queue's head. A slot that cannot be read is dropped and counted. -/
def readHead (n : Nat) : Exec Unit := do
  let q := (← get).queue n
  let p := q.owner.toNat
  let a := q.base + BitVec.ofNat 64 (256 * (q.head.toNat % q.slots))
  if !(← mapped p a .read) then modify (fun s => takeRecord (.queue n) (countError s p 7 1))
  else
    let bs ← ringRead p a 192
    let words : LaunchRecord := Vector.ofFn (fun i : Fin 24 => BitVec.ofNat 64 (numberAt bs (8 * i.val) 8))
    modify (fun s => s.modQueue n (fun q => { q with record := some ⟨words, false, none, false, 0, 0, 4096, 64, 24⟩ }))
    judge (.queue n) p false words

/-- LAUNCH_RECORD_CHECK (R132): the record at the head of an enabled queue is read and checked; one in the pool is checked, or
cancelled with its parent (R144). -/
def execLaunchRecordCheck (src : RecordSource) (s : State) : Host.Outcome State Fault Refusal :=
  if orphaned s src then .next (finishRecord src 5 0 s)
  else match src with
    | .queue n =>
      let q := s.queue n
      if q.en && q.record.isNone && q.head != q.tail then launchOutcome q.owner.toNat s (readHead n) else .next s
    | .pool _ => match recordAt s src with
      | some (r, p) => if r.checked then .next s else launchOutcome p s (judge src p true r.words)
      | none => .next s

/-! ## Dependences (R138, R317) -/

/-- Where the miss of an access to a part's rendezvous word is not answered yet, the state in which it pends (R188). -/
def rendezvousMiss (p : Nat) (r : LaunchRecord) (acc : Access) (s : State) : Option State :=
  match (jobKey p 0 (r.dependence 3) acc).run s with
  | .error (.wait .miss register) _ => some (register s)
  | _ => none

/-- A part's rendezvous word changes, where it can be reached. -/
def rendezvous (p : Nat) (r : LaunchRecord) (f : Nat → Nat) (s : State) : State :=
  match (changeWord p 0 (r.dependence 3) f).run s with
  | .ok _ s' => s'
  | .error _ _ => s

def goBit : Nat := 2 ^ 63
def abortBit : Nat := 2 ^ 62

/-- A part sets the abort bit of its rendezvous word (R142). -/
def abortParts (p : Nat) (r : LaunchRecord) (s : State) : State := rendezvous p r (fun v => if v.testBit 62 then v else v + abortBit) s

/-- Whether every start condition of a record holds. The poll that finds them all acquires what was released on their words (R144, R317). -/
def dependencesMet (record p : Nat) (r : LaunchRecord) : Exec Bool := do
  let vs ← r.waits.mapM (fun i => do
    let v ← jobWord p 0 (r.dependence i)
    let (key, _, _) ← jobKey p 0 (r.dependence i) .read
    return (key / 8, decide ((r.threshold i).toNat ≤ v.toNat)))
  if vs.all (·.2) then modify (observes record (vs.map (·.1)))
  return vs.all (·.2)

/-- Whether a record with a start tick has not been placed before it (R142). -/
def isLate (s : State) (r : LaunchRecord) : Bool := r.tickStart && r.startTick ≤ s.ticks

/-- A record that its start tick finds unplaced completes with status 5; one part of several sets the abort bit (R142). -/
def finishLate (src : RecordSource) (p : Nat) (r : LaunchRecord) (s : State) : State :=
  if r.spans then (rendezvousMiss p r .write s).getD (finishRecord src 5 0 (abortParts p r s)) else finishRecord src 5 0 s

/-- DEPENDENCE_POLL (R138): a checked record becomes eligible; a word that faults refuses it with cause 8, and a start tick that has come
ends it (R142). -/
def execDependencePoll (src : RecordSource) (s : State) : Host.Outcome State Fault Refusal :=
  if orphaned s src then .next (finishRecord src 5 0 s)
  else match recordAt s src with
    | none => .next s
    | some (r, p) =>
      if !r.checked then .next s
      else if isLate s r.words then .next (finishLate src p r.words s)
      else if r.eligible.isSome then .next s
      else match (dependencesMet (recordNumber src) p r.words).run s with
        | .ok true s' => .next (modRecord src (fun r => { r with eligible := some s.time }) s')
        | .ok false s' => .next s'
        | .error (.trap _ _ _) t => .next (finishRecord src 7 8 (keepFindings s t))
        | .error (.poison _) t => .next (partitionFault p (keepFindings s t))
        | .error (.fault r) _ => .fault r
        | .error e t => .next (undone s t e)

/-! ## Where a gang fits (R138-R140, R291, R444) -/

/-- Whether a partition may use a tile: its cluster is in the allowance and the tile is not quarantined. -/
def allowed (s : State) (p t : Nat) : Bool := (s.part p).allow.getLsbD (clusterOf t) && !(s.tile t).quarantined

/-- Whether a tile is free: it holds no gang and its rectangle is not fenced. -/
def isFree (s : State) (t : Nat) : Bool := (s.tile t).gang = 0 && !fenced s t

/-- Whether a tile may serve as a launch tile of a record, on an idle allowance or now; with flag 2 as the primary of a pair
that PAIRST lets serve (R279, R284). -/
def usable (s : State) (r : LaunchRecord) (idle : Bool) (t : Nat) : Bool :=
  allowed s r.part t && (idle || isFree s t) &&
    (!r.bridled || (t % 2 = 0 && (s.cluster (clusterOf t)).pairs.getLsbD (t % 4 / 2) && allowed s r.part (t + 1) &&
      (idle || isFree s (t + 1))))

/-- The region within which the tiles of a block lie, by policy (R130). -/
def regionOf (policy t : Nat) : Nat :=
  match policy with
  | 1 => clusterOf t
  | 2 => routerOf t
  | 3 => dieOf t
  | _ => 0

/-- Tiles of a module. -/
def tilesOfModule : Nat := 2048

/-- How many blocks of a record find place among usable tiles. -/
def blocksThatFit (s : State) (r : LaunchRecord) (idle : Bool) : Nat :=
  let units := (List.range tilesOfModule).filter (usable s r idle)
  ((units.map (regionOf r.policy)).dedup.map (fun g =>
    (units.filter (fun t => regionOf r.policy t == g)).length / max r.perBlock 1)).sum

/-- Whether a record fits on its partition's idle allowance. -/
def canEverFit (s : State) (r : LaunchRecord) : Bool := r.blocks ≤ blocksThatFit s r true

/-- Whether a record needs more rings than its partition's whole pool (R120). -/
def ringsNever (s : State) (r : LaunchRecord) : Bool := (s.part r.part).ringsize.toNat < r.placed

/-- Whether a record fits now. -/
def fitsNow (s : State) (r : LaunchRecord) : Bool :=
  r.blocks ≤ blocksThatFit s r false && (s.part r.part).ringsUsed + r.placed ≤ (s.part r.part).ringsize.toNat

/-- A record that may be placed: its source, what the launch unit knows, its priority, and its place in the round (R138). -/
structure Candidate where
  src : RecordSource
  rec_ : RecState
  prio : Nat
  place : Nat

/-- The eligible records, in the order of the round: queues in queue order, then the pool in arrival order. -/
def candidates (s : State) : List Candidate :=
  let queues := (s.launch.queues.filter (fun e => e.2.en)).filterMap (fun e => e.2.record.map (fun r =>
    (⟨.queue e.1, r, e.2.prio.toNat, e.1⟩ : Candidate)))
  let pool := s.launch.pool.filterMap (fun e =>
    if orphaned s (.pool e.1) then none else some (⟨.pool e.1, e.2, e.2.words.prio, 64 + e.1⟩ : Candidate))
  (queues ++ pool).filter (fun c => c.rec_.checked && c.rec_.eligible.isSome)

/-- Whether a blocking record keeps a candidate from being placed (R139). -/
def heldBack (s : State) (c : Candidate) : Bool :=
  (candidates s).any (fun b => b.rec_.blocking && b.src ≠ c.src && c.prio ≤ b.prio &&
    ((s.part b.rec_.words.part).allow &&& (s.part c.rec_.words.part).allow) != 0)

/-- The record that is placed next: of the highest priority at which one fits, the first in the round (R138). -/
def nextRecord (s : State) : Option Candidate :=
  let cs := candidates s
  let round := cs.filter (fun c => s.launch.turn ≤ c.place) ++ cs.filter (fun c => c.place < s.launch.turn)
  [7, 6, 5, 4, 3, 2, 1, 0].findSome? (fun l =>
    round.find? (fun c => c.prio == l && !heldBack s c && fitsNow s c.rec_.words))

/-- Whether two tiles stand at one router position or at positions next to each other in a row or a column of one die (R27, R140). -/
def nextTo (a b : Nat) : Bool :=
  let place := fun (t : Nat) => (dieOf t, routerOf t % 40 / 8, routerOf t % 8)
  let (d, r, c) := place a
  let (d', r', c') := place b
  d == d' && (r - r') + (r' - r) + ((c - c') + (c' - c)) ≤ 1

/-- The tiles on which a block may stand: a region of the policy among usable tiles not taken by earlier blocks that holds enough of
them, those next to the block before where there are such (R130, R140; log 20). -/
def blockRegions (s : State) (r : LaunchRecord) (earlier before : List Nat) : List (List Nat) :=
  let units := (List.range tilesOfModule).filter (fun t => usable s r false t && !earlier.contains t)
  let regions := fun (l : List Nat) => ((l.map (regionOf r.policy)).dedup.map (fun g => l.filter (fun t => regionOf r.policy t == g))).filter
    (fun l => r.perBlock ≤ l.length)
  let near := if before.isEmpty then [] else regions (units.filter (fun t => before.any (nextTo t)))
  if near.isEmpty then regions units else near

/-- Block `b` of tiles in launch-local order. -/
def recordBlock (r : LaunchRecord) (tiles : List Nat) (b : Nat) : List Nat := (tiles.drop (b * r.perBlock)).take r.perBlock

/-- Whether tiles in launch-local order are a placement of a record (R140). -/
def placementOk (s : State) (r : LaunchRecord) (tiles : List Nat) : Bool :=
  tiles.length = r.tileCount && tiles.Nodup && tiles.all (fun t => t < tilesOfModule && usable s r false t) &&
    (List.range r.blocks).all (fun b =>
      let block := recordBlock r tiles b
      rising block && block.all (fun t => regionOf r.policy t == regionOf r.policy (block.headD 0)) &&
        (b = 0 || (blockRegions s r (tiles.take (b * r.perBlock)) (recordBlock r tiles (b - 1))).any (fun l => block.all l.contains)))

/-! ## Placement (R140-R142, R317) -/

/-- The bytes that a checkpoint of a pair keeps: the accumulators of both members (R282). -/
def accCells (s : State) (t : Nat) : List Host.Cell :=
  s.mem.cells.filter (fun e => accKey t 0 0 ≤ e.1 && e.1 < accKey t 0 0 + 2 ^ 17)

/-- Takes a checkpoint of a pair: an interval begins with its fingerprints, its logs and its counts (R281, R282). -/
def takeCheckpoint (t : Nat) (s : State) : State :=
  let anew := fun (q : Seq) => { q with retired := 0, print := BitVec.allOnes 64, tail := [], echo := [], asked := 0, expects := [], told := [] }
  let start := fun (u : Tile) => { u with a := anew u.a, x := anew u.x }
  let s := (s.modTile t start).modTile (t + 1) start
  s.modPair t (fun p =>
    { p with
      undoPrimary := []
      undoTwin := []
      outside := []
      outsideFull := []
      held := []
      primary := s.tile t
      twin := s.tile (t + 1)
      stored := accCells s t
      boundary := none
      since := s.time
      disagreed := false })

/-- Loads launch-local tile `i` of a gang, with its twin if there is one. -/
def loadTile (g : Nat) (bridled : Bool) (tiles rings : List Nat) (im : Images) (i : Nat) (s : State) : State :=
  let t := tiles.getD i 0
  let put := fun (t primary ring : Nat) (w : Twin) (s : State) =>
    (s.modTile t (fun _ => launchTile s.time g i primary ring w tiles im)).modMem (loadBytes t im)
  if bridled then
    takeCheckpoint t ((put (t + 1) t (rings.getD (2 * i + 1) 0) .twin (put t t (rings.getD (2 * i) 0) .primary s)).modPair t
      (fun _ => { Pair.reset with gang := g }))
  else put t t (rings.getD i 0) .alone s

/-- Loads every tile of a gang, whose start there is a full acquire (R317). -/
def loadTiles (g : Nat) (u : Gang) (im : Images) (s : State) : State :=
  u.tiles.foldl (fun s t => startsOn g u.parent t s) ((List.range u.tiles.length).foldl (fun s i => loadTile g u.bridled u.tiles u.rings im i s) s)

/-- The `n` lowest rings of a pool that are not taken (R120; log 20). -/
def freeRings (taken : List Nat) (n : Nat) : List Nat := ((List.range (n + taken.length)).filter (fun k => !taken.contains k)).take n

/-- Ticks before the start tick at which parts commit (R142). -/
def commitLead : Nat := 64000
def commitTick (r : LaunchRecord) : Nat := r.startTick - commitLead

/-- Whether a part is placed in time: before the commit tick, or for a launch of one part before the start tick (R142). -/
def inTime (s : State) (r : LaunchRecord) : Bool := s.ticks < (if r.spans then commitTick r else r.startTick)

/-- The live limit with which a launch starts: a pre-emptible one has at most 4,096 (R145, R149). -/
def startLivelim (r : RecState) : BitVec 16 := if r.words.preemptible && 4096 < r.livelim.toNat then 4096 else r.livelim

/-- A gang part as it is placed. -/
def newGang (s : State) (r : RecState) (fromQueue : Bool) (tiles : List Nat) (groups : List (List Nat))
    (digests : List (BitVec 512)) : Gang where
  record := r.words
  part := r.words.part
  tiles := tiles
  bridled := r.words.bridled
  groups := groups
  depth := r.depth
  parent := r.parent
  fromQueue := fromQueue
  phase := if r.words.tickStart then .placed else .running
  added := inTime s r.words
  go := false
  abort := false
  start := if r.words.tickStart then 0 else s.ticks
  live := 0
  livelim := startLivelim r
  lpool := r.lpool
  ldepth := r.ldepth
  livelim0 := startLivelim r
  lpool0 := r.lpool
  ldepth0 := r.ldepth
  bindings := []
  period := (s.part r.words.part).wdog.toNat
  gvt := 0
  rings := freeRings (s.part r.words.part).ringsTaken r.words.placed
  digests := digests
  poison := 0
  s1 := 0
  rollbacks := 0
  reexecutions := 0
  clamps := 0
  worst := 0xFF
  quarantined := 0
  units := []
  lastFault := 0
  killing := none
  met := false
  consumed := none
  final := false
  saved := none

/-- What a launch unit reads before it places a record: its images, and the digests it writes. -/
def readLaunch (g : Nat) (r : LaunchRecord) : Load (Images × List (BitVec 512)) := do
  let im ← readImages r.part g r
  let ds ← takeDigests r.part g r
  return (im, ds)

/-- The gang stands on its tiles. -/
def placeGang (g : Nat) (c : Candidate) (tiles : List Nat) (im : Images) (ds : List (BitVec 512)) (s : State) : State :=
  let u := newGang s c.rec_ (isQueue c.src) tiles im.groups ds
  let s := takeRecord c.src (observedBy (recordNumber c.src) g s)
  let s := s.modLaunch (fun l => { l with gangs := l.gangs.set g u, turn := c.place + 1 })
  let s := s.modPart u.part (fun p => { p with ringsTaken := p.ringsTaken ++ u.rings })
  let s := loadTiles g u im s
  if u.record.spans && u.added then rendezvous u.part u.record (· + 1) s else s

/-- Places a record, or refuses it for its images. -/
def tryPlace (c : Candidate) (tiles : List Nat) (s : State) : Host.Outcome State Fault Refusal :=
  let (g, s1) := s.fresh
  match ((readLaunch g c.rec_.words).run).run s1 with
  | .ok (.ok (im, ds)) s2 =>
    .next (match if c.rec_.words.spans then rendezvousMiss c.rec_.words.part c.rec_.words .write s else none with
      | some s' => s'
      | none => placeGang g c tiles im ds s2)
  | .ok (.error cause) s2 => .next (finishRecord c.src 7 cause s2)
  | .error (.poison _) t => .next (partitionFault c.rec_.words.part (keepFindings s t))
  | .error (.fault r) _ => .fault r
  | .error e t => .next (undone s t e)

/-- GANG_PLACEMENT (R138, R140): the record is refused when it can never fit, or when it is fail-if-busy and does not fit now;
else it is placed on the tiles that the device chooses, when its turn has come. One whose start tick has come ends (R142). -/
def execGangPlacement (src : RecordSource) (tiles : List Nat) (s : State) : Host.Outcome State Fault Refusal :=
  if orphaned s src then .next (finishRecord src 5 0 s)
  else if s.host.stopped then .next s
  else match (candidates s).find? (fun c => c.src == src) with
    | none => .next s
    | some c =>
      if isLate s c.rec_.words then .next (finishLate src c.rec_.words.part c.rec_.words s)
      else if !canEverFit s c.rec_.words then .next (finishRecord src 7 7 s)
      else if ringsNever s c.rec_.words then .next (finishRecord src 7 9 s)
      else if c.rec_.words.failIfBusy && !fitsNow s c.rec_.words then .next (finishRecord src 5 0 s)
      else if (nextRecord s).map (·.src) = some src && placementOk s c.rec_.words tiles then tryPlace c tiles s
      else .next s

/-- Time after which a record that does not fit becomes blocking: 100 microseconds (R139). -/
def blockingAfter : Nat := 100 * microsecond

/-- RECORD_BLOCKING (R139). -/
def execRecordBlocking (src : RecordSource) (s : State) : Host.Outcome State Fault Refusal :=
  match (candidates s).find? (fun c => c.src == src) with
  | none => .next s
  | some c =>
    .next (if (c.rec_.eligible.getD s.time) + blockingAfter ≤ s.time && !c.rec_.words.failIfBusy && canEverFit s c.rec_.words &&
        !fitsNow s c.rec_.words
      then modRecord src (fun r => { r with blocking := true }) s else s)

/-! ## The rendezvous of parts and the start (R142) -/

/-- A launch's part on this module and its rendezvous word: the subject is 64 plus a gang, or the launch queue at whose head
the part's record stands. -/
def partNamed (s : State) (subject : Nat) : Option (Nat × LaunchRecord) :=
  if subject < 64 then (recordAt s (.queue subject)).map (fun r => (r.2, r.1.words))
  else (s.gang? (subject - 64)).map (fun u => (u.part, u.record))

/-- Reads the rendezvous word, with whether it lies on this module. -/
def readRendezvous (p : Nat) (r : LaunchRecord) : Exec (Nat × Bool) := do
  let (key, entry, _) ← jobKey p 0 (r.dependence 3) .read
  let (v, _) ← fetchWord p 0 entry key 8
  return (v, key / 2 ^ 53 == 0)

/-- The leader's decision at the commit tick. -/
def commit (p : Nat) (r : LaunchRecord) : Exec Unit := do
  let (v, here) ← readRendezvous p r
  if here && v < abortBit then
    changeWord p 0 (r.dependence 3) (fun v => v + (if v = (r.threshold 3).toNat then goBit else abortBit))

/-- RENDEZVOUS_COMMIT (R142): the launch unit of the word's module sets go or abort. -/
def execRendezvousCommit (s : State) : Host.Outcome State Fault Refusal :=
  match partNamed s s.subject with
  | some (p, r) =>
    if r.spans && commitTick r ≤ s.ticks then launchOutcome p s (commit p r) else .next s
  | none => .next s

/-- The bits of the rendezvous word, where it can be read. -/
def rendezvousBits (s : State) (u : Gang) : Bool × Bool :=
  match (readRendezvous u.part u.record).run s with
  | .ok (v, _) _ => (v.testBit 63, v.testBit 62)
  | .error _ _ => (false, false)

/-- RENDEZVOUS_READ (R142): the subject is the gang, a placed part before its start tick. -/
def execRendezvousRead (s : State) : Host.Outcome State Fault Refusal :=
  match s.gang? s.subject with
  | some u =>
    if u.phase = .placed && u.record.spans && u.killing.isNone && s.ticks < u.record.startTick then
      let (go, abort) := rendezvousBits s u
      .next ((rendezvousMiss u.part u.record .read s).getD (s.modGang s.subject (fun u => { u with go := u.go || go, abort := u.abort || abort })))
    else .next s
  | none => .next s

/-- START_TICK (R142): the subject is the gang. A part that has seen go, or a launch of one part placed in time, starts; any
other frees its tiles, sets the abort bit of its rendezvous word and ends with status 5. -/
def execStartTick (s : State) : Host.Outcome State Fault Refusal :=
  match s.gang? s.subject with
  | some u =>
    if u.phase ≠ .placed || u.killing.isSome || s.ticks < u.record.startTick then .next s
    else if (if u.record.spans then u.go else u.added) then
      .next (s.modGang s.subject (fun u => { u with phase := .running, start := s.ticks }))
    else
      .next (match if u.record.spans then rendezvousMiss u.part u.record .write s else none with
        | some s' => s'
        | none => endGang s.subject 5 0 (if u.record.spans then abortParts u.part u.record s else s))
  | none => .next s

/-- Ticks after the start tick at which a started part reads the word once more. -/
def recheckLag : Nat := 100000

/-- RENDEZVOUS_RECHECK (R142): the subject is the gang. -/
def execRendezvousRecheck (s : State) : Host.Outcome State Fault Refusal :=
  match s.gang? s.subject with
  | some u =>
    if u.go && u.phase ≠ .placed && u.killing.isNone && u.record.startTick + recheckLag ≤ s.ticks then
      let s' := s.modGang s.subject (fun u => { u with go := false })
      .next ((rendezvousMiss u.part u.record .read s).getD (if (rendezvousBits s u).2 then endGang s.subject 5 0 s' else s'))
    else .next s
  | none => .next s

/-! ## Completion (R104, R135, R144, R318) -/

/-- The children of a gang that run, and its entries in the pool. -/
def childrenOf (s : State) (g : Nat) : List Nat := (s.launch.gangs.filter (fun e => e.2.parent == g)).map (·.1)
def poolOf (s : State) (g : Nat) : List Nat := (s.launch.pool.filter (fun e => e.2.parent == g)).map (·.1)

/-- Whether a sequencer of a tile holds nothing that keeps its gang open: no firing, no claim, no ready entrant. -/
def seqIdle (s : State) (q : SeqId) : Bool :=
  (s.seq q).firing.isNone && (s.seq q).nests.toList.all (fun x => x.claiming.isNone) &&
    (List.range 17).all (fun n => !entrantReady s q n)

/-- Whether a tile's engines and matrix unit have nothing outstanding. -/
def tileIdle (s : State) (t : Nat) : Bool :=
  seqIdle s (.a t) && seqIdle s (.x t) && (s.tile t).copy.cmds.isEmpty && (s.tile t).coll.cmds.isEmpty &&
    (s.tile t).matrix.isEmpty && ((s.tile t).twin ≠ .primary || (s.pair t).held.isEmpty)

/-- Whether nothing of a gang is outstanding on the module, or on the modules of its other parts (R104, R445; an event
engine's open window is an engine operation). A deferred arrival of BARDEF is none: what it waits for is. -/
def gangIdle (s : State) (g : Nat) (u : Gang) : Bool :=
  (allTiles u).all (tileIdle s) && u.live = 0 && !s.launch.pushes.any (fun b => b.gang == g) &&
    !s.launch.multicasts.any (fun m => m.gang == g) && !s.fabric.requests.any (fun r => r.gang == g) &&
    !s.launch.tokens.any (fun x => x.gang == g) &&
    (enginesOf s g).all (fun e => e.2.item.isNone && e.2.window.isNone) &&
    s.fabric.peers.all (fun p => !(p.part == u.part && p.rendezvous == rendezvousOf u && rendezvousOf u != 0) || p.idle)

/-- Whether a gang that is killed is re-executed (R153, R155). -/
def toReexecute (u : Gang) : Bool :=
  match u.killing with
  | some (status, _) => mayReexecute u && !u.final && [1, 2, 3].contains status
  | none => false

/-- A gang completes: its record and word are written, its rings return, and with the last gang of its partition the job's key is
erased and its reduction tree is gone (R120, R135, R260, R262). -/
def completeGang (g : Nat) (u : Gang) (status cause : Nat) (s : State) : State :=
  let s := report u.part u.record (gangReport s u status cause) u.fromQueue s
  let s := s.modLaunch (fun l => { l with gangs := Assoc.erase l.gangs g })
  let last := !s.launch.gangs.any (fun e => e.2.part == u.part)
  s.modPart u.part (fun p =>
    { p with
      ringsTaken := p.ringsTaken.filter (fun k => !u.rings.contains k)
      key := if last then none else p.key
      tree := if last then [] else p.tree })

/-- The status of a gang that ends by itself (R153). -/
def okStatus (u : Gang) : Nat := if u.reexecutions = 0 then 0 else 6

/-- GANG_COMPLETION (R104, R144, R318): the subject is the gang. A gang with nothing outstanding frees its tiles and completes
once its last child has; a killed gang completes when its children have ended. A restartable gang that has met an error of S3 or worse
is killed (R153). Subjects from 2^64 on name the completions that wait for a miss (R188). -/
def execGangCompletion (s : State) : Host.Outcome State Fault Refusal :=
  let g := s.subject
  if 2 ^ 64 ≤ g then .next (reportAgain (g - 2 ^ 64) s) else
  match s.gang? g with
  | none => .next s
  | some u =>
    let alive := !(childrenOf s g).isEmpty || !(poolOf s g).isEmpty
    match u.killing with
    | some (status, cause) =>
      if toReexecute u then .next s
      else if alive then .next ((childrenOf s g).foldl (fun s c => endGang c 5 0 s) s)
      else .next (completeGang g u status cause s)
    | none =>
      if u.met then .next (endGang g 2 0x11 s)
      else match u.phase with
      | .running =>
        if !gangIdle s g u then .next s
        else
          let s' := (releaseGang g s).modGang g (fun u => { u with phase := .waiting })
          .next (if alive then s' else completeGang g u (okStatus u) 0 s')
      | .waiting => .next (if alive then s else completeGang g u (okStatus u) 0 s)
      | _ => .next s

/-! ## Re-execution (R153) -/

/-- Whether the digests of a gang's inputs are those taken at its launch. -/
def digestsMatch (g : Nat) (u : Gang) : Load Bool := do
  let (rs, _) ← readSnapshot u.part g u.record.snapshot
  let ds ← readDigests u.part g rs
  return ds == u.digests

/-- The gang begins once more on new tiles, with the rings it has. Its start tick is that of this execution, which its completion
record then gives: the spec does not say of which execution it is (DESIGN CHOICE, log 20). -/
def restart (g : Nat) (tiles : List Nat) (im : Images) (s : State) : State :=
  let s := s.modGang g (fun u =>
    { u with
      tiles := tiles
      groups := im.groups
      phase := .running
      start := s.ticks
      live := 0
      livelim := u.livelim0
      lpool := u.lpool0
      ldepth := u.ldepth0
      bindings := []
      period := (s.part u.part).wdog.toNat
      gvt := 0
      reexecutions := u.reexecutions + 1
      killing := none
      met := false
      saved := none })
  match s.gang? g with
  | some u => loadTiles g u im s
  | none => s

/-- The digests and the images of a gang read once more. -/
def readAgain (g : Nat) (u : Gang) : Load (Bool × Images) := do
  let same ← digestsMatch g u
  let im ← readImages u.part g u.record
  return (same, im)

/-- REEXECUTION (R153): a killed restartable gang whose children have ended is placed again on tiles that fit now, if the
digests match; else it completes with the status of the event that killed it. -/
def execReexecution (gang : Nat) (tiles : List Nat) (s : State) : Host.Outcome State Fault Refusal :=
  match s.gang? gang with
  | none => .next s
  | some u =>
    if !toReexecute u || s.host.stopped then .next s
    else if !(childrenOf s gang).isEmpty || !(poolOf s gang).isEmpty then
      .next ((childrenOf s gang).foldl (fun s c => endGang c 5 0 s)
        ((poolOf s gang).foldl (fun s k => finishRecord (.pool k) 5 0 s) s))
    else
      let stop := s.modGang gang (fun u => { u with final := true })
      if !canEverFit s u.record then .next stop
      else match ((readAgain gang u).run).run s with
        | .ok (.ok (true, im)) s' => .next (if placementOk s u.record tiles then restart gang tiles im s' else s)
        | .ok (.ok (false, _)) _ => .next stop
        | .ok (.error _) _ => .next stop
        | .error (.poison _) t => .next (partitionFault u.part (keepFindings stop t))
        | .error (.fault r) _ => .fault r
        | .error e t => .next (undone s t e)

/-! ## The watchdog (R155) -/

/-- Units of time in a millisecond. -/
def millisecond : Nat := 1000 * microsecond

/-- The waits at an instruction boundary that the watchdog times, a stream read that lacks elements among them as a queue wait and
a CHSEQ that waits for its command not (R155, log 34). -/
def isTimed : Why → Bool
  | .queue => true
  | .word => true
  | .sem => true
  | .barrier => true
  | .branch => true
  | .pending => true
  | .outstanding => true
  | .room => true
  | .limit => true
  | _ => false

/-- Since when a sequencer is in a timed wait; a firing that a trap suspends is not. -/
def timedWait (s : State) (q : SeqId) : List Nat :=
  let u := s.seq q
  if u.suspended || u.firing.isNone then []
  else
    (match u.wait with
     | some w => if isTimed w.why then [w.since] else []
     | none => []) ++
    (match u.hold with
     | some id => ((findRequest s id).map (·.way.since)).toList
     | none => [])

/-- Since when the timed waits of a tile last. -/
def tileWaits (s : State) (t : Nat) : List Nat :=
  let u := s.tile t
  let cmds := (u.copy.cmds ++ u.coll.cmds).filter (fun c => c.state == .published || c.state == .running)
  let claims := (u.a.nests.toList ++ u.x.nests.toList).filterMap (·.claiming)
  let ksteps := match u.matrix with
    | m :: _ => if m.steps ≤ m.p then [] else [u.kstep]
    | [] => []
  timedWait s (.a t) ++ timedWait s (.x t) ++ cmds.map (·.since) ++ claims ++ ksteps

/-- Memory cores on which a gondola of a gang fires. -/
def coresOf (s : State) (g : Nat) : List Nat :=
  (s.mcores.filter (fun e => ((e.2.m.firing.map (·.gang)).getD 0) == g && g != 0)).map (·.1)

/-- Since when the timed waits of a gang part last. -/
def partWaits (s : State) (g : Nat) (u : Gang) : List Nat :=
  match u.phase with
  | .preempted =>
    match u.saved with
    | some v => if v.complete || (coresOf s g).isEmpty then [] else [v.time]
    | none => []
  | .waiting => []
  | .placed => []
  | _ =>
    ((allTiles u).map (tileWaits s)).flatten ++
      (enginesOf s g).filterMap (fun e => e.2.item.bind (fun it => if 0 < it.unsettled then some it.since else none))

/-- The status and cause of a killed part of the same launch on another module. -/
def peerKilled (s : State) (u : Gang) : Option (Nat × Nat) :=
  s.fabric.peers.findSome? (fun p =>
    if p.part == u.part && p.rendezvous == rendezvousOf u && rendezvousOf u != 0 then p.killed else none)

/-- WATCHDOG_EXPIRY (R155): the subject is the gang. A wait that lasts the period ends the part with status 3, cause 0x13; a part
of its launch that is killed on another module ends it too (R155, R278). -/
def execWatchdogExpiry (s : State) : Host.Outcome State Fault Refusal :=
  let g := s.subject
  match s.gang? g with
  | none => .next s
  | some u =>
    match peerKilled s u with
    | some (status, cause) => .next (endGang g status cause s)
    | none =>
      .next (if (partWaits s g u).any (fun t => t + u.period * millisecond ≤ s.time) then endGang g 3 0x13 s else s)

end Sys2Proof.Machine
end

