-- ==== Sys2Proof/Machine/Power.lean ====
section
/-! DEFINITION. Monitors, the power cap and the droop response (R296-R300). -/

namespace Sys2Proof.Machine

/-! ## Monitors (R296, R297) -/

/-- Temperatures in 1/16 °C: ballast begins at 105 °C and ends below 100 °C; at 115 °C the module stops. -/
def hotAt : Int := 1680
def coolBelow : Int := 1600
def stopAt : Int := 1840

/-- The routers under ballast after a reading. -/
def hotAfter (hot : List Nat) (router : Nat) (t : Int) : List Nat :=
  if hotAt ≤ t then insertNat hot router else if t < coolBelow then hot.filter (· != router) else hot

/-- The greater of two readings. -/
def higher (a b : BitVec 16) : BitVec 16 := if a.toInt < b.toInt then b else a

/-- A gang that ends with the module: with status 4, cause 0, whatever it was ending with; no re-execution follows. -/
def stopGang (u : Gang) : Gang := { u with killing := some (4, 0), live := 0, phase := .waiting, saved := none, final := true }

/-- The module stops: every gang completes with status 4, cause 0. -/
def stopModule (s : State) : State :=
  let s := s.launch.gangs.foldl (fun s e => releaseGang e.1 s) s
  (s.modLaunch (fun l => { l with gangs := l.gangs.map (fun e => (e.1, stopGang e.2)) })).modHost (fun h => { h with stopped := true })

/-- A router's temperature is refreshed. -/
def refreshTemp (router : Nat) (v : BitVec 16) (s : State) : State :=
  let s := s.modHost (fun h =>
    { h with
      temp := h.temp.set router v
      peak := h.peak.set router (higher (h.peak.get 0 router) v)
      hot := hotAfter h.hot router v.toInt })
  if stopAt ≤ v.toInt then stopModule s else s

/-- MONITOR_REFRESH (R296). -/
def execMonitorRefresh (monitor : Monitor) (value : BitVec 16) (s : State) : Host.Outcome State Fault Refusal :=
  .next (match monitor with
    | .temp r => if r < 168 then refreshTemp r value s else s
    | .volt c => if c < 512 then s.modHost (fun h => { h with volt := h.volt.set c value }) else s
    | .proc c => if c < 512 then s.modHost (fun h => { h with proc := h.proc.set c value }) else s)

/-- The clusters run under ballast while the last estimate exceeds the cap (R297). -/
def judgePower (h : HostPort) : HostPort := { h with overPower := decide (h.pwrcap.toNat < h.estimate) }

/-- POWER_ESTIMATE (R297): the subject is the estimate in W. -/
def execPowerEstimate (s : State) : Host.Outcome State Fault Refusal :=
  .next (s.modHost (fun h => judgePower { h with estimate := s.subject }))

/-! ## The droop detector (R298-R300) -/

/-- Whether a source can trip: it is not disabled, and the step source has seen a step. -/
def sourceTrips (u : Cluster) (analog : Bool) : Bool := if analog then (u.drpth.extractLsb' 0 8) != 0 else u.stepTrip.isSome

/-- A cluster whose step of an earlier cycle than the one in hand has tripped. -/
def beforeTrip (s : State) (u : Cluster) : Cluster := settleTrip (State.edgesAt u s.time) u

/-- DROOP_TRIP (R298, R299). An analog trip comes in the cycle in hand, after a step of an earlier cycle has tripped; the step source
trips in the cycle of its step. -/
def execDroopTrip (cluster : Nat) (analog : Bool) (s : State) : Host.Outcome State Fault Refusal :=
  .next (if cluster < 512 && sourceTrips (s.cluster cluster) analog
    then s.modCluster cluster (fun u =>
      if analog then tripIn (State.edgesAt (beforeTrip s u) s.time) true (beforeTrip s u) else tripIn (u.stepTrip.getD 0) false u)
    else s)

/-- A cluster whose steps up to now have tripped. -/
def settled (now : Nat) (u : Cluster) : Cluster := settleTrip (State.edgesAt u now + 1) u

/-- A cluster whose stretch has lasted six cycles: ballast begins. -/
def endStretch (now : Nat) (u : Cluster) : Cluster :=
  let u := settled now u
  match u.droop with
  | .stretch b => if b + 6 ≤ State.edgesAt u now then { (rebase (b + 6) u) with droop := .ballast (b + 6) } else u
  | _ => u

/-- STRETCH_END (R299): the subject is the cluster. -/
def execStretchEnd (s : State) : Host.Outcome State Fault Refusal := .next (s.modCluster s.subject (endStretch s.time))

/-- A cluster whose ballast has lasted 64 cycles: normal issue resumes. -/
def endBallast (now : Nat) (u : Cluster) : Cluster :=
  let u := settled now u
  match u.droop with
  | .ballast b => if b + 64 ≤ State.edgesAt u now then { u with droop := .none } else u
  | _ => u

/-- BALLAST_END (R299): the subject is the cluster. -/
def execBallastEnd (s : State) : Host.Outcome State Fault Refusal := .next (s.modCluster s.subject (endBallast s.time))

end Sys2Proof.Machine
end

