-- ==== Sys2Proof/Machine/System.lean ====
section
/-! DEFINITION. Control and status registers, traps, waits for events and clocks: CSRR, CSRW, ERRQ, TSC, CYC, WFE, TRAP, ERET,
HALT, the delivery of traps, and what a fetch finds in place of an instruction (R67-R71, R77-R80, R97-R98, R120, R122, R145,
R180, R182, R284-R286, R298-R302, R354-R359, R381, R427, R428, R440, R441). -/

namespace Sys2Proof.Machine

/-! ## Control and status registers (R67) -/

/-- The CSRs of R67; the numbered ones carry their index. -/
inductive Csr where
  | status
  | cause
  | epc
  | tval
  | tvec
  | fprm
  | fpstat
  | tileid
  | devid
  | groups
  | partid
  | cspill
  | csplim
  | outstd
  | arrcap
  | livelim
  | lpool
  | ldepth
  | atbase
  | atcfg
  | fpival
  | pairst
  | drpth
  | drpst
  | evtmin (i : Nat)
  | errcnt (i : Nat)
  deriving DecidableEq, Repr

/-- The CSR of a number. -/
def Csr.ofNumber (n : Nat) : Option Csr :=
  if 0x090 ≤ n ∧ n < 0x098 then some (.evtmin (n - 0x090))
  else if 0x0A0 ≤ n ∧ n < 0x0A8 then some (.errcnt (n - 0x0A0))
  else match n with
    | 0x000 => some .status
    | 0x001 => some .cause
    | 0x002 => some .epc
    | 0x003 => some .tval
    | 0x004 => some .tvec
    | 0x010 => some .fprm
    | 0x011 => some .fpstat
    | 0x020 => some .tileid
    | 0x021 => some .devid
    | 0x022 => some .groups
    | 0x023 => some .partid
    | 0x030 => some .cspill
    | 0x031 => some .csplim
    | 0x040 => some .outstd
    | 0x050 => some .arrcap
    | 0x051 => some .livelim
    | 0x052 => some .lpool
    | 0x053 => some .ldepth
    | 0x060 => some .atbase
    | 0x061 => some .atcfg
    | 0x070 => some .fpival
    | 0x071 => some .pairst
    | 0x080 => some .drpth
    | 0x081 => some .drpst
    | _ => none

/-- Whether a CSR is present for a kind of sequencer. -/
def Csr.readable (k : Kind) : Csr → Bool
  | .cause => k = .s
  | .epc => k = .s
  | .tval => k = .s
  | .tvec => k = .s
  | .atbase => k = .s
  | .atcfg => k = .s
  | .evtmin _ => k ≠ .m
  | _ => true

/-- Whether a CSRW of a CSR raises no cause: tile sequencers and M do not write what only the service core may. -/
def Csr.writable (k : Kind) (c : Csr) : Bool :=
  c.readable k && (k = .s ||
    (match c with
     | .status => false
     | .pairst => false
     | .drpth => false
     | .drpst => false
     | .errcnt _ => false
     | _ => true))

/-- STATUS (R68); a service core holds no firing. -/
def statusWord (s : State) (q : SeqId) : Word :=
  let u := s.seq q
  let sup : Nat := if q.kind = .s then 2 ^ 9 else 0
  let paired : Nat := if tilePaired s q then 2 ^ 4 else 0
  let firing : Nat := match u.firing with
    | some f => 2 ^ 6 + (if f.gondola then 2 ^ 5 else f.actor)
    | none => 0
  BitVec.ofNat 64 (sup + (kindCode q).toNat * 2 ^ 7 + paired + firing)

/-- TILEID (R29). -/
def tileidWord : SeqId → Word
  | .a t => BitVec.ofNat 64 t
  | .x t => BitVec.ofNat 64 t
  | .m c => BitVec.ofNat 64 (2 ^ 62 + c)
  | .s c => BitVec.ofNat 64 (2 ^ 63 + c)

/-- GROUPS (R97): the groups of the reading tile in ascending order, at most four. -/
def groupsWord (s : State) (q : SeqId) : Word :=
  match State.tileOf q, s.gang? (s.gangOf q) with
  | some t, some u =>
    let gs := ((groupsOf s u t).getD []).take 4
    BitVec.ofNat 64 ((2 ^ gs.length - 1) * 2 ^ 32 + gs.foldr (fun g acc => g % 256 + 256 * acc) 0)
  | _, _ => 0

/-- The gang whose LIVELIM, LPOOL and LDEPTH a sequencer reaches: its own launch, or for a service core the launch of the
trap in hand (log 14). -/
def launchOf (s : State) (q : SeqId) : Nat :=
  match q with
  | .s c => (((s.cluster c).inHand).map (·.gang)).getD 0
  | q => s.gangOf q

/-- The tile whose ARRCAP a sequencer reaches: its own, or for a service core the tile of the trap in hand (log 14). -/
def arrcapTile (s : State) (q : SeqId) : Option Nat :=
  match q with
  | .s c => ((s.cluster c).inHand).bind (fun t => if t.unit.toNat < 2048 then some t.unit.toNat else none)
  | q => State.tileOf q

/-- The cluster of a sequencer, for a memory core the one that serves it (log 14). -/
def droopCluster (s : State) (q : SeqId) : Cluster := s.cluster (serverOf q)

/-- BAL and STR of DRPST at a cycle (R299, R300). -/
def droopBits (u : Cluster) (cycle : Nat) : Nat :=
  (if ballastAt u cycle then 2 else 0) + (if stretchedAt u cycle then 1 else 0)

/-- DRPST, with the trips of earlier cycles. -/
def drpstWord (s : State) (q : SeqId) : Word :=
  let u := settleTrip (State.edgesAt (droopCluster s q) s.time) (droopCluster s q)
  BitVec.ofNat 64 (u.trips.toNat * 2 ^ 32 + (if u.tripSource then 4 else 0) +
    droopBits u (State.edgesAt u s.time))

/-- PAIRST of a tile sequencer, a memory core or a service core (R284). -/
def pairstWord (s : State) (q : SeqId) : Word :=
  match q with
  | .s c => (s.cluster c).pairs.setWidth 64
  | q =>
    match State.tileOf q with
    | some t =>
      if s.paired t then
        BitVec.ofNat 64 (min (s.pair (s.primaryOf t)).rollbacks 65535 * 2 ^ 16 + (s.seq q).retired % 2 ^ 13)
      else 0
    | none => 0

/-- The value of a CSR for a sequencer. -/
def csrValue (s : State) (q : SeqId) (c : Csr) : Word :=
  let u := s.seq q
  let cl := s.cluster (serverOf q)
  let part := s.part (s.partOf q)
  let gang := s.gang? (launchOf s q)
  match c with
  | .status => statusWord s q
  | .cause => BitVec.ofNat 64 (cl.causeUnit.toNat * 2 ^ 48 + cl.causeKind.toNat * 2 ^ 46 + cl.causeCode.toNat)
  | .epc => cl.epc
  | .tval => cl.tval
  | .tvec => cl.tvec
  | .fprm => u.fprm.setWidth 64
  | .fpstat => u.fpstat.setWidth 64
  | .tileid => tileidWord q
  | .devid => s.host.devid.setWidth 64
  | .groups => groupsWord s q
  | .partid => BitVec.ofNat 64 (s.partOf q)
  | .cspill => u.cspill
  | .csplim => u.csplim.setWidth 64
  | .outstd => BitVec.ofNat 64 (64 * 256 + outstanding s q)
  | .arrcap => match arrcapTile s q with
    | some t => (s.tile t).arrcap.setWidth 64
    | none => 64
  | .livelim => match gang with
    | some g => g.livelim.setWidth 64
    | none => 4096
  | .lpool => match gang with
    | some g => g.lpool.setWidth 64
    | none => 64
  | .ldepth => match gang with
    | some g => g.ldepth.setWidth 64
    | none => 24
  | .atbase => part.atbase
  | .atcfg => part.atcfg.setWidth 64
  | .fpival => BitVec.ofNat 64 intervalLength
  | .pairst => pairstWord s q
  | .drpth => (droopCluster s q).drpth.setWidth 64
  | .drpst => drpstWord s q
  | .evtmin i => cl.evtmin.getD i 0
  | .errcnt i => part.errcnt.getD i 0

/-- Drops every TLB entry of a partition on the module (R182). -/
def dropPartition (p : Nat) (s : State) : State :=
  let keep := fun (t : Tlb) => { t with entries := t.entries.filter (fun e => e.part != p) }
  { s with
    clusters := s.clusters.map (fun e => (e.1, { e.2 with tlb := keep e.2.tlb }))
    mcores := s.mcores.map (fun e => (e.1, { e.2 with tlb := keep e.2.tlb })) }

/-- PAIRS takes the bits of pairs that hold no launch (R284). -/
def writePairs (s : State) (c : Nat) (v : BitVec 2) : BitVec 2 :=
  let busy := fun i => (s.tile (4 * c + 2 * i)).gang != 0 || (s.tile (4 * c + 2 * i + 1)).gang != 0
  let mask : BitVec 2 := (if busy 0 then 0 else 1) ||| (if busy 1 then 0 else 2)
  ((s.cluster c).pairs &&& ~~~mask) ||| (v &&& mask)

/-- Whether a class interval is accepted: not below zero, no NaN, not +infinity (R238). -/
def tminOk (v : Word) : Bool :=
  match f64.decode v.toNat with
  | .nan _ => false
  | .inf _ => false
  | .fin neg m _ => !neg || m == 0

/-- DRPTH with the fields of a write that the map accepts: STEP up to 32 (R298). -/
def writeDrpth (old : BitVec 24) (v : Word) : BitVec 24 :=
  if (v.extractLsb' 8 8).toNat ≤ 32 then v.extractLsb' 0 24
  else ((v.extractLsb' 16 8) ++ (old.extractLsb' 8 8) ++ (v.extractLsb' 0 8) : BitVec 24)

/-- ATCFG with the fields of a write that the map accepts: DEPTH from 1 (R182). -/
def writeAtcfg (old : BitVec 8) (v : Word) : BitVec 8 :=
  if v.extractLsb' 4 4 = 0 then ((old.extractLsb' 4 4) ++ (v.extractLsb' 0 4) : BitVec 8) else v.extractLsb' 0 8

/-- Writes the fields of a CSR that are RW, where the value is one the map accepts (R354). -/
def csrWrite (q : SeqId) (c : Csr) (v : Word) (s : State) : State :=
  let svc := fun (f : Cluster → Cluster) => s.modCluster (serverOf q) f
  let seq := fun (f : Seq → Seq) => s.modSeq q f
  let part := fun (f : Part → Part) => s.modPart (s.partOf q) f
  let gang := fun (f : Gang → Gang) => s.modGang (launchOf s q) f
  match c with
  | .cause => svc (fun u => { u with
      causeUnit := v.extractLsb' 48 16
      causeKind := v.extractLsb' 46 2
      causeCode := v.extractLsb' 0 8 })
  | .epc => svc (fun u => { u with epc := v })
  | .tval => svc (fun u => { u with tval := v })
  | .tvec => svc (fun u => { u with tvec := v &&& ~~~0x1F#64 })
  | .fprm => seq (fun u => { u with fprm := v.extractLsb' 0 2 })
  | .fpstat => seq (fun u => { u with fpstat := v.extractLsb' 0 5 })
  | .cspill => seq (fun u => { u with cspill := v })
  | .csplim => seq (fun u => { u with csplim := v.extractLsb' 0 40 })
  | .arrcap =>
    let n := (v.extractLsb' 0 7).toNat
    match q.kind, arrcapTile s q with
    | .x, _ => s
    | _, some t => if 1 ≤ n ∧ n ≤ 64 then s.modTile t (fun u => { u with arrcap := v.extractLsb' 0 7 }) else s
    | _, none => s
  | .livelim => gang (fun g =>
      let n := (v.extractLsb' 0 16).toNat
      if n = 0 ∨ (4096 < n ∧ (g.record[0]).getLsbD 19) then g else { g with livelim := v.extractLsb' 0 16 })
  | .lpool => gang (fun g =>
      let n := (v.extractLsb' 0 13).toNat
      if 1 ≤ n ∧ n ≤ 4096 then { g with lpool := v.extractLsb' 0 13 } else g)
  | .ldepth => gang (fun g =>
      let n := (v.extractLsb' 0 5).toNat
      if 1 ≤ n ∧ n ≤ 24 then { g with ldepth := v.extractLsb' 0 5 } else g)
  | .atbase => part (fun p => { p with atbase := v &&& 0x0000_FFFF_FFFF_FC00#64 })
  | .atcfg =>
    let s' := part (fun p => { p with atcfg := writeAtcfg p.atcfg v })
    if v.getLsbD 0 then s' else dropPartition (s.partOf q) s'
  | .pairst => match q with
    | .s k => s.modCluster k (fun u => { u with pairs := writePairs s k (v.extractLsb' 0 2) })
    | _ => s
  | .drpth => svc (fun u => { u with drpth := writeDrpth u.drpth v })
  | .drpst => svc (fun u => { u with trips := v.extractLsb' 32 32 })
  | .evtmin i => if tminOk v then svc (fun u => { u with evtmin := u.evtmin.setIfInBounds i v }) else s
  | .errcnt i => part (fun p => { p with errcnt := p.errcnt.setIfInBounds i v })
  | _ => s

/-- Whether a CSR is the sequencer's or the tile's own, so that both members of a pair write it. -/
def Csr.isOwn : Csr → Bool
  | .fprm => true
  | .fpstat => true
  | .cspill => true
  | .csplim => true
  | .arrcap => true
  | _ => false

def csrNumber (f : F64A) : Nat := f.imm16.toNat % 4096

/-- CSRR (R354): a twin takes its primary's value (R279). -/
def csrrBody (i : Instr) (f : F64A) : Exec Flow := do
  let k := (← me).kind
  match Csr.ofNumber (csrNumber f) with
  | none => trap 0x01 (lowBits i)
  | some c =>
    check (c.readable k) 0x01 (lowBits i)
    queueWaits [⟨f.d.toNat, 0, true, false⟩]
    let v ← echoed1 (do
      let s ← get
      return csrValue s s.focus c)
    putDest f.d.toNat 0 v false
    return .fall

/-- CSRR (R354). -/
def execCsrr (f : F64A) (s : State) : Host.Outcome State Fault Refusal := issueA (.csrr f) f (csrrBody (.csrr f) f) s

/-- CSRW (R354): a register that both members of a pair share is written by the primary (R279); the value it holds after the
write is taken in (R281). -/
def csrwBody (i : Instr) (f : F64A) : Exec Flow := do
  let k := (← me).kind
  match Csr.ofNumber (csrNumber f) with
  | none => trap 0x01 (lowBits i)
  | some c =>
    check (c.writable k) 0x01 (lowBits i)
    queueWaits [⟨f.a.toNat, 0, false, false⟩]
    let v ← useSource 3 f.a.toNat 0 0
    let write : Exec Word := do
      modify (fun s => csrWrite s.focus c v s)
      let s ← get
      return csrValue s s.focus c
    let after ← if c.isOwn then write else echoed1 write
    takeIn (0xF0#8 :: (toBytes 2 (csrNumber f) ++ toBytes 8 after.toNat))
    return .fall

/-- CSRW (R354). -/
def execCsrw (f : F64A) (s : State) : Host.Outcome State Fault Refusal := issueA (.csrw f) f (csrwBody (.csrw f) f) s

/-! ## ERRQ (R285, R359) -/

/-- The counter of an ERRQ selector; firmware has no gang, whose counts read 0 with worst severity 0xFF (log 14). -/
def errqValue (s : State) (q : SeqId) (n : Nat) : Nat :=
  if n < 8 then ((s.part (s.partOf q)).errcnt.getD n 0).toNat
  else match s.gang? (s.gangOf q) with
    | none => if n = 12 then 0xFF else 0
    | some g => match n with
      | 8 => g.poison
      | 9 => g.s1
      | 10 => g.rollbacks
      | 11 => g.reexecutions
      | 12 => g.worst
      | _ => g.quarantined

/-- ERRQ (R285). -/
def errqBody (f : F64A) : Exec Flow := do
  queueWaits [⟨f.d.toNat, 0, true, false⟩]
  let v ← echoed1 (do
    let s ← get
    return BitVec.ofNat 64 (errqValue s s.focus f.imm16.toNat))
  putDest f.d.toNat 0 v false
  return .fall

/-- ERRQ (R359). -/
def execErrq (f : F64A) (s : State) : Host.Outcome State Fault Refusal := issueA (.errq f) f (errqBody f) s

/-! ## TSC and CYC (R301, R302, R355, R428) -/

/-- The time at which the sequencer's present cycle began. -/
def cycleStart (s : State) (q : SeqId) : Nat :=
  match q with
  | .m _ => s.cycleOf q * State.cycleUnits
  | q => State.timeOfEdge (s.cluster (serverOf q)) (s.cycleOf q)

/-- TSC (R301). -/
def tscBody (f : F64A) : Exec Flow := do
  let v ← echoed1 (do
    let s ← get
    return BitVec.ofNat 64 (cycleStart s s.focus / State.tickUnits))
  putX f.d.toNat v false
  return .fall

/-- TSC (R301). -/
def execTsc (f : F64A) (s : State) : Host.Outcome State Fault Refusal := issueA (.tsc f) f (tscBody f) s

/-- CYC (R301, R302). -/
def cycBody (f : F64A) : Exec Flow := do
  let v ← echoed1 (do
    let s ← get
    let q := s.focus
    return BitVec.ofNat 64 (s.cycleOf q - (s.seq q).cycleBases.get 0 (s.gangOf q)))
  putX f.d.toNat v false
  return .fall

/-- CYC (R301). -/
def execCyc (f : F64A) (s : State) : Host.Outcome State Fault Refusal := issueA (.cyc f) f (cycBody f) s

/-! ## WFE (R440, R441) -/

/-- A service core takes the oldest queued trap, when it has none in hand (R357). -/
def takeOldest : Exec Flow := do
  let s ← get
  match s.focus with
  | .s c =>
    let u := s.cluster c
    if u.inHand.isNone && !u.traps.isEmpty then
      set (takeTrap c s)
      return .ended
    else return .fall
  | _ => return .fall

/-- WFE (R441): the wait is noted with the time at which it ends. -/
def wfeBody (f : F64A) : Exec Flow := do
  let q ← mySeq
  if q.latch = 0 then
    throw (.wait .wfe (fun s => s.modSeq s.focus (fun u =>
      { u with deadline :=
          if f.imm16 = 0 then none
          else some (u.deadline.getD (s.time + f.imm16.toNat * 64 * State.tickUnits)) })))
  putX f.d.toNat (q.latch.setWidth 64) false
  modMe (fun u => { u with latch := 0 })
  if q.latch.getLsbD 5 then takeOldest else return .fall

/-- WFE (R440). -/
def execWfe (f : F64A) (s : State) : Host.Outcome State Fault Refusal := issueA (.wfe f) f (wfeBody f) s

/-- WFE_TIMEOUT (R441): bit 7 of the issuer's latch is set when the time has passed with the latch still 0. -/
def execWfeTimeout (seq : SeqId) (s : State) : Host.Outcome State Fault Refusal :=
  let u := s.seq seq
  match u.wait, u.deadline with
  | some w, some d => if w.why = .wfe ∧ u.latch = 0 ∧ d ≤ s.time then .next (latch seq 0x80 s) else .next s
  | _, _ => .next s

/-! ## TRAP, ERET, HALT (R357, R358, R381, R427) -/

/-- TRAP (R427): the accesses of the firing are acknowledged first. -/
def trapBody (f : F64A) : Exec Flow := do
  release
  trap 0x14 (f.imm16.setWidth 64)

/-- TRAP (R427). -/
def execTrap (f : F64A) (s : State) : Host.Outcome State Fault Refusal := issueA (.trap f) f (trapBody f) s

/-- The sequencer that a service core's trap in hand suspends, if its twin, where it has one, has come to the same
instruction (R283). -/
def bothStopped (s : State) (c : Nat) : Bool :=
  match (s.cluster c).inHand with
  | some t => match t.origin with
    | .instruction q => twinStopped s q
    | _ => true
  | none => true

/-- ERET (R358): the trap in hand resumes, is skipped or stands; then the next is taken, or the core goes on. -/
def eretBody (f : F64A) : Exec Flow := do
  let s ← get
  match s.focus with
  | .s c =>
    if (s.cluster c).inHand.isSome then
      release
      waitUntil (f.imm16.toNat = 2 || bothStopped s c) .pair
      match f.imm16.toNat with
      | 0 => modify (resume c false)
      | 1 => modify (resume c true)
      | _ => modify (fun s => stand c (s.cluster c).causeCode.toNat s)
    takeOldest
  | _ => return .fall

/-- ERET (R358). -/
def execEret (f : F64A) (s : State) : Host.Outcome State Fault Refusal := issueA (.eret f) f (eretBody f) s

/-- HALT (R381). -/
def haltBody (i : Instr) : Exec Flow := do
  let s ← get
  match s.focus with
  | .s c =>
    check (s.cluster c).inHand.isNone 0x01 (lowBits i)
    release
    waitUntil (!(s.cluster c).traps.isEmpty) .wfe
    takeOldest
  | _ => return .fall

/-- HALT (R381). -/
def execHalt (f : F64A) (s : State) : Host.Outcome State Fault Refusal := issueA (.halt f) f (haltBody (.halt f)) s

/-- Traps that a service core's queue holds (R357). -/
def trapQueueLength : Nat := 64

/-- A trap enters its service core's queue and wakes the core; a core that waits without a trap in hand takes it (R357). -/
def deliverTrap (t : Trap) (s : State) : State :=
  let c := t.server
  let s := latch (.s c) 32 (s.modCluster c (fun u => { u with traps := u.traps ++ [t] }))
  if (s.cluster c).svc.suspended && (s.cluster c).inHand.isNone then takeTrap c s else s

/-- TRAP_DELIVERY (R357): the subject numbers the trap among those undelivered; it waits while the queue is full. -/
def execTrapDelivery (s : State) : Host.Outcome State Fault Refusal :=
  match s.launch.undelivered[s.subject]? with
  | some t =>
    if (s.cluster t.server).traps.length < trapQueueLength then
      .next (deliverTrap t (s.modLaunch (fun l => { l with undelivered := l.undelivered.eraseIdx s.subject })))
    else .next s
  | none => .next s

/-! ## What a fetch finds in place of an instruction (R53, R54, R71) -/

/-- PAD (R54): nothing happens, and nothing retires. -/
def execPad (s : State) : Host.Outcome State Fault Refusal := .next (setPc s.focus ((s.seq s.focus).pc + 4) s)

/-- ILLEGAL_FORMAT (R53, R71): 0x02 with the first word. -/
def execIllegalFormat (word : BitVec 32) (s : State) : Host.Outcome State Fault Refusal :=
  let q := s.focus
  .next (raiseTrap q 0x02 (word.setWidth 64) none ((s.seq q).pc + BitVec.ofNat 64 (wordLength word)) s)

/-- UNASSIGNED_OPCODE (R71): 0x01 with bits [63:0]. -/
def execUnassignedOpcode (bits : BitVec 128) (s : State) : Host.Outcome State Fault Refusal :=
  let q := s.focus
  .next (raiseTrap q 0x01 (bits.setWidth 64) none ((s.seq q).pc + BitVec.ofNat 64 (wordLength (bits.setWidth 32))) s)

/-- FETCH_TRANSLATION_FAULT (R71 step 1): 0x08 for a page without execute rights, else 0x07, a miss of the TLB (R188). -/
def execFetchTranslationFault (address : BitVec 64) (denied : Bool) (s : State) : Host.Outcome State Fault Refusal :=
  let q := s.focus
  if denied then .next (raiseTrap q 0x08 address none (s.seq q).pc s)
  else .next (raiseTrap q 0x07 address (some .fetch) (s.seq q).pc s)

end Sys2Proof.Machine
end

