-- ==== Sys2Proof/Machine/Host.lean ====
section
/-! DEFINITION. The host interface and the resets: BAR2, the registers of the functions and of the configuration windows, the
reset of a rectangle, of a function and of the module, bring-up and measurement (R30, R136, R252, R257, R269, R277, R278,
R289-R295, R297). -/

namespace Sys2Proof.Machine

def recoveryState : BitVec 3 := 3

/-! ## BAR2 (R289) -/

/-- A byte that the host reads: the byte stored, or a free byte where it is poison (log 3). -/
def hostByte (b : Byte × Bool) : Exec Byte := do
  if b.2 then
    let s ← get
    set { s with free := s.free + 1 }
    return Config.freeByte s.free
  else return b.1

/-- A BAR2 access that cannot be made: all-ones data, or no write, counted and marked in PFAULT. -/
def bar2Failed (p n : Nat) (write : Bool) (s : State) : State :=
  let s := setPfault (countError s p 7 1) p 4
  if write then s else s.modHost (fun h => { h with lastRead := List.replicate n 0xFF })

/-- A BAR2 access, translated in the owning memory core's TLB. -/
def bar2 (p : Nat) (write : Bool) (a : Word) (data : List Byte) : Exec Unit := do
  if write then jobWrite p 0 (data.length / 2 ^ 14 + 2) a data
  else
    let bs ← (← jobBytes p 0 false false (data.length / 2 ^ 14 + 2) a data.length).mapM hostByte
    modify (fun s => s.modHost (fun h => { h with lastRead := bs }))

/-- Bytes that BAR2 spans. -/
def bar2Size : Nat := 2 ^ 36

/-- BAR2_ACCESS (R289): a read of as many bytes as `data` has, or a write of them, at a job virtual address. One
whose miss is not answered yet waits for it, and is made again (R188). -/
def execBar2Access (partition : Nat) (write : Bool) (address : BitVec 64) (data : List (BitVec 8)) (s : State) :
    Host.Outcome State Fault Refusal :=
  if s.host.devstate = recoveryState || bar2Size < address.toNat + data.length || 16 ≤ partition then .next s
  else match (bar2 partition write address data).run s with
    | .ok _ s' => .next s'
    | .error (.poison _) t => .next (partitionFault partition (keepFindings s t))
    | .error (.fault r) _ => .fault r
    | .error (.wait .miss register) _ => .next (register s)
    | .error _ _ => .next (bar2Failed partition data.length write s)

/-! ## Features and faults (R290, R292) -/

/-- Features that the module offers: bits 0 to 7. -/
def offered : Word := 0xFF

/-- FEATCAP0 or FEATCAP1 of a function (R292, R294). -/
def featcap (s : State) (function : Nat) (upper : Bool) : Word :=
  if s.host.devstate = recoveryState then 0
  else if function = 0 then (if upper then 0 else offered)
  else if upper then (s.part 0).featacc1 else (s.part 0).featacc0

/-- FEATACC_WRITE (R292): the first write of each register after a function reset stands. -/
def execFeataccWrite (partition : Nat) (upper : Bool) (value : BitVec 64) (s : State) : Host.Outcome State Fault Refusal :=
  let v := value &&& featcap s partition upper
  .next (if 16 ≤ partition then s
    else s.modPart partition (fun u =>
      if upper then (if u.written1 then u else { u with featacc1 := v, written1 := true })
      else if u.written0 then u else { u with featacc0 := v, written0 := true }))

/-- PFAULT_CLEAR (R290): writing 1 clears a bit. -/
def execPfaultClear (partition : Nat) (value : BitVec 64) (s : State) : Host.Outcome State Fault Refusal :=
  .next (if 16 ≤ partition then s else s.modPart partition (fun u => { u with pfault := u.pfault &&& ~~~(value.extractLsb' 0 3) }))

/-! ## Rectangles (R277) -/

/-- CRECT_WRITE (R277). -/
def execCrectWrite (die : Nat) (rect : Nat) (value : BitVec 64) (s : State) : Host.Outcome State Fault Refusal :=
  .next (writeRect die rect value s)

/-- An event engine's cluster after the reset of its rectangle: the service core stays (R278). -/
def resetEngine (u : Cluster) : Cluster := { u with ev := EvEngine.reset, evtmin := Vector.replicate 8 0 }

/-- RECTANGLE_RESET (R278): once no tile inside holds a gang, tiles and event engines are reset and the fence lifts. -/
def execRectangleReset (die : Nat) (rect : Nat) (s : State) : Host.Outcome State Fault Refusal :=
  let k := die * 16 + rect
  if 4 ≤ die || 16 ≤ rect || s.fabric.rectState.get 0 k = 0 || rectBusy s die rect then .next s
  else
    let ts := tilesIn s die rect
    let s := ts.foldl (fun s t => (s.modTile t resetTile).modMem (clearTile t)) s
    let s := ((ts.map clusterOf).dedup).foldl (fun s c => s.modCluster c resetEngine) s
    .next (s.modFabric (fun u => { u with rectState := Assoc.set u.rectState k 0 }))

/-! ## The layout table (R269) -/

/-- LAYOUT_ENTRY_WRITE (R269). -/
def execLayoutEntryWrite (partition : Nat) (code : Nat) (value : BitVec 32) (s : State) : Host.Outcome State Fault Refusal :=
  .next (writeLayout partition code value s)

/-! ## The other registers (R7, R136, R252, R257, R290, R291, R297) -/

/-- LQBASE and LQCFG of a queue, written by its owner's function. -/
def writeLqBase (n : Nat) (v : Word) (s : State) : State :=
  s.modQueue n (fun q => if q.en then q else { q with base := v })

def writeLqCfg (n : Nat) (v : Word) (s : State) : State :=
  let may := (s.part (s.queue n).owner.toNat).featacc0 != 0 && s.host.devstate = 2
  s.modQueue n (fun q =>
    let q := if q.en then q else { q with log2n := v.extractLsb' 0 4 }
    if v.getLsbD 15 then (if may then { q with en := true } else q) else { q with en := false, record := none })

/-- LQOWN of a queue. -/
def writeLqOwn (n : Nat) (v : Word) (s : State) : State :=
  s.modQueue n (fun q => if q.en then q else { q with prio := v.extractLsb' 12 3, owner := v.extractLsb' 8 4 })

/-- The clusters in which a partition has a tile of a running or pre-empted gang. -/
def clustersOf (s : State) (p : Nat) : List Nat :=
  ((s.launch.gangs.filter (fun e => e.2.part == p && e.2.phase ≠ .waiting)).map (fun e => (allTiles e.2).map clusterOf)).flatten

/-- Word `i` of an allowance; a bit whose cluster is in use stays. -/
def writeAllow (p i : Nat) (v : Word) (s : State) : State :=
  let used := clustersOf s p
  s.modPart p (fun u => { u with allow := BitVec.ofFnLE (fun c : Fin 512 =>
    if c.val / 64 = i then v.getLsbD (c.val % 64) || (u.allow.getLsbD c.val && used.contains c.val)
    else u.allow.getLsbD c.val) })

/-- Whether a gang of a partition is placed. -/
def placedAny (s : State) (p : Nat) : Bool := s.launch.gangs.any (fun e => e.2.part == p)

/-- A write to a register, from the function named; the partition control block and PWRCAP are the physical function's, and the
configuration windows are mapped in the firmware's partition alone, which is partition 0 (log 12). -/
def writeRegister (function : Nat) (reg : HostReg) (v : Word) (s : State) : State :=
  match reg with
  | .wdog => if (v.extractLsb' 0 32) = 0 then s else s.modPart function (fun u => { u with wdog := v.extractLsb' 0 32 })
  | .readOnly _ => s
  | .timeout => if function = 0 then writeTimeout v s else s
  | .shadow router destination partition => if function = 0 then writeShadow router destination partition v s else s
  | .lqBase n => if n < 64 ∧ (s.queue n).owner.toNat = function then writeLqBase n v s else s
  | .lqCfg n => if n < 64 ∧ (s.queue n).owner.toNat = function then writeLqCfg n v s else s
  | .lqOwn n => if n < 64 ∧ function = 0 then writeLqOwn n v s else s
  | .allow p i => if p < 16 ∧ i < 8 ∧ function = 0 then writeAllow p i v s else s
  | .ringBase p =>
    if p < 16 ∧ function = 0 ∧ !placedAny s p then
      s.modPart p (fun u => { u with ringbase := v.extractLsb' 0 48 &&& 0xFFFF_FFFC_0000#48 })
    else s
  | .ringSize p =>
    if p < 16 ∧ function = 0 ∧ !placedAny s p then s.modPart p (fun u => { u with ringsize := v.extractLsb' 0 16 }) else s
  | .pwrCap =>
    let n := (v.extractLsb' 0 12).toNat
    if function = 0 ∧ 500 ≤ n ∧ n ≤ 3200 then s.modHost (fun h => judgePower { h with pwrcap := v.extractLsb' 0 12 }) else s

/-- What a read of a function's BAR0 gives at an 8-byte offset (R289-R291, R296): the identity and feature block, the launch queue blocks
of the queues that the function's partition owns, with zero for the write-only LQKICK (R7), and for the physical function the monitor block
and the partition control block. In recovery the identity block alone answers (R294); a block that does not answer reads zero (log 31). -/
def bar0Word (function offset : Nat) (s : State) : Word :=
  let u := s.part function
  if offset < 0x100000 then
    match offset with
    | 0x00 => s.host.devstate.setWidth 64
    | 0x10 => featcap s function false
    | 0x18 => featcap s function true
    | 0x20 => u.featacc0
    | 0x28 => u.featacc1
    | 0x30 => u.pfault.setWidth 64
    | 0x38 => u.wdog.setWidth 64
    | _ => 0
  else if s.host.devstate = recoveryState then 0
  else if offset < 0x101000 then
    let q := s.queue ((offset - 0x100000) / 0x40)
    if q.owner.toNat ≠ function then 0
    else match offset % 0x40 with
      | 0x00 => q.base
      | 0x08 => ((if q.en then 1#1 else 0#1) ++ (q.prio ++ (q.owner ++ (0#4 ++ q.log2n)))).setWidth 64
      | 0x10 => q.head.setWidth 64
      | _ => 0
  else if function ≠ 0 then 0
  else if 0x180000 ≤ offset && offset < 0x1C0000 then monitorWord s.host ((offset - 0x180000) / 8)
  else if 0x1C0000 ≤ offset then
    let o := offset - 0x1C0000
    if o < 0x200 then ((s.queue (o / 8)).prio ++ ((s.queue (o / 8)).owner ++ 0#8)).setWidth 64
    else if 0x1000 ≤ o && o < 0x1400 then ((s.part ((o - 0x1000) / 64)).allow.extractLsb' (o % 64 * 8) 64)
    else if 0x1400 ≤ o && o < 0x1500 then
      let v := s.part ((o - 0x1400) / 16)
      if o % 16 = 0 then v.ringbase.setWidth 64 else v.ringsize.setWidth 64
    else 0
  else 0

/-- Whether a register answers in recovery: of those a function writes, the identity block's (R294). -/
def answers (s : State) : HostReg → Bool
  | .wdog => true
  | .timeout => true
  | .shadow .. => true
  | _ => s.host.devstate ≠ recoveryState

/-- REGISTER_WRITE (R7). -/
def execRegisterWrite (function : Nat) (reg : HostReg) (value : BitVec 64) (s : State) : Host.Outcome State Fault Refusal :=
  .next (if function < 16 && answers s reg then writeRegister function reg value s else s)

/-! ## The resets (R293) -/

/-- Every launch queue of a partition is disabled, with HEAD at the last kicked TAIL; its other registers take their reset values (R7). -/
def disableQueues (p : Nat) (s : State) : State :=
  s.modLaunch (fun l => { l with queues := l.queues.map (fun e =>
    if e.2.owner.toNat = p then (e.1, { e.2 with base := 0, log2n := 0, en := false, head := e.2.tail, record := none }) else e) })

/-- The gangs of a partition. -/
def gangsOf (s : State) (p : Nat) : List (Nat × Gang) := s.launch.gangs.filter (fun e => e.2.part == p)

/-- The event engine of a cluster, which does not serve another gang, is reset with the cluster's tiles. -/
def resetIdleEngine (u : Cluster) : Cluster := if u.ev.gang = 0 then resetEngine u else u

/-- A gang is killed, the tiles that it holds and their event engines are reset, and it and its pool entries complete with status 5 (R278,
R293). -/
def resetGang (e : Nat × Gang) (s : State) : State :=
  let ts := (allTiles e.2).filter (fun t => (s.tile t).gang == e.1)
  let s := (poolOf s e.1).foldl (fun s k => finishRecord (.pool k) 5 0 s) (releaseGang e.1 s)
  let s := ts.foldl (fun s t => (s.modTile t resetTile).modMem (clearTile t)) s
  let s := ((ts.map clusterOf).dedup).foldl (fun s c => s.modCluster c resetIdleEngine) s
  completeGang e.1 e.2 5 0 s

/-- The registers of a partition that a function-level reset resets: those of R293, and the others that its function or its service cores
write (R7). What the physical function sets for it stays (R291). -/
def resetPart (p : Nat) (u : Part) : Part :=
  let r := Part.reset p
  { u with
    atbase := r.atbase
    atcfg := r.atcfg
    wdog := r.wdog
    layouts := r.layouts
    errcnt := r.errcnt
    featacc0 := r.featacc0
    featacc1 := r.featacc1
    written0 := false
    written1 := false
    pfault := 0
    key := none
    measured := []
    tree := [] }

/-- A function-level reset of a partition. -/
def functionReset (p : Nat) (s : State) : State :=
  let s := disableQueues p s
  let s := (gangsOf s p).foldl (fun s e => resetGang e s) s
  (dropPartition p s).modPart p (resetPart p)

/-- FUNCTION_RESET (R293): the subject is the partition. -/
def execFunctionReset (s : State) : Host.Outcome State Fault Refusal :=
  .next (if s.subject < 16 then functionReset s.subject s else s)

/-- The errors and layouts of external memory, and its bytes, survive a module reset (log 33). -/
def externalOnly (m : Mem) : Mem where
  cells := m.cells.filter (fun e => isExternal e.1)
  poison := m.poison.filter (fun u => isExternal (u / 2))
  flips := m.flips.filter (fun e => isExternal e.1)
  layouts := m.layouts
  areas := m.areas
  unseen := []
  watches := []

/-- The module after a hot reset or a power cycle: as at reset, but for the model's own turns and counters, the boot flash, and
external memory, and the calibrated rates that no reset changes (R7, R296). -/
def moduleReset (s : State) : State :=
  let s := (List.range 16).foldl (fun s p => functionReset p s) s
  { State.reset with
    agenda := s.agenda
    focus := s.focus
    subject := s.subject
    cursor := s.cursor
    time := s.time
    free := s.free
    next := s.next
    mem := externalOnly s.mem
    host := { HostPort.reset with flash := s.host.flash, proc := s.host.proc } }

/-- MODULE_RESET (R293). -/
def execModuleReset (s : State) : Host.Outcome State Fault Refusal := .next (moduleReset s)

/-! ## Bring-up (R294) and measurement (R295) -/

/-- A firmware image is measured and verified: firmware start, or recovery. -/
def verifyImage (image : List Byte) (s : State) : State :=
  let digest := Config.sha3 image
  s.modHost (fun h =>
    { h with
      devstate := if Config.imageVerifies image digest then 1 else recoveryState
      measured := #v[Config.sha3 Config.romBytes, digest, Config.sha3 Config.controllerBytes, Config.sha3 Config.fusedBytes] })

/-- BOOT_ROM_VERIFY (R294). -/
def execBootRomVerify (s : State) : Host.Outcome State Fault Refusal :=
  .next (if s.host.devstate = 0 then verifyImage s.host.flash s else s)

/-- RECOVERY_IMAGE (R294). -/
def execRecoveryImage (image : List (BitVec 8)) (s : State) : Host.Outcome State Fault Refusal :=
  .next (if s.host.devstate = recoveryState then verifyImage image (s.modHost (fun h => { h with recovery := image })) else s)

/-- Rings of partition 0's pool after bring-up. -/
def firstRings : BitVec 16 := 2048

/-- FIRMWARE_START_COMPLETE (R294): the router tables hold the minimal routes, and partition 0 has its ring pool, at an address
that firmware chooses. -/
def execFirmwareStartComplete (hbmTrained : Bool) (s : State) : Host.Outcome State Fault Refusal :=
  if s.host.devstate ≠ 1 then .next s
  else if !hbmTrained then .next (s.modHost (fun h => { h with devstate := recoveryState }))
  else
    let base : BitVec 48 := (Config.freeWord s.free).extractLsb' 0 48 &&& 0xFFFF_FFFC_0000#48
    let s := { s with free := s.free + 1 }
    let s := s.modPart 0 (fun u => { u with ringbase := base, ringsize := firstRings })
    let s := s.modFabric (fun u => { u with minimalActive := BitVec.allOnes 16 })
    .next (s.modHost (fun h => { h with devstate := 2 }))

/-- DEVICE_IDENTIFIER_ASSIGN (R30). -/
def execDeviceIdentifierAssign (device : BitVec 8) (s : State) : Host.Outcome State Fault Refusal :=
  .next (s.modHost (fun h => { h with devid := device, assigned := true }))

/-- What a measurement block holds: blocks 1 to 4 as taken at bring-up, block 5 the function's accepted features. -/
def measurement (s : State) (function index : Nat) : BitVec 512 :=
  if index = 5 then Config.sha3 (toBytes 8 (s.part function).featacc0.toNat ++ toBytes 8 (s.part function).featacc1.toNat)
  else s.host.measured.getD (index - 1) 0

/-- A function is answered with a measurement and its signature under the device identity key. -/
def answerSpdm (function : Nat) (d : BitVec 512) (h : HostPort) : HostPort :=
  { h with spdm := h.spdm.set function d, signature := h.signature.set function (Config.sign (toBytes 64 d.toNat)) }

/-- SPDM_REQUEST (R295): the answer to a function's request for a measurement block. -/
def execSpdmRequest (function : Nat) (index : Nat) (s : State) : Host.Outcome State Fault Refusal :=
  .next (if 1 ≤ index ∧ index ≤ 5 ∧ function < 16 then s.modHost (answerSpdm function (measurement s function index)) else s)

end Sys2Proof.Machine
end

