-- ==== Sys2Proof/Machine/Pair.lean ====
section
/-! DEFINITION. Bridled pairs: PAIR, UNPAIR and FPCK, the boundary of an interval with its release, rollback and quarantine, and
the pair watchdog (R279-R285, R375, R399, R430, R444). -/

namespace Sys2Proof.Machine

/-! ## PAIR, UNPAIR (R285, R399, R430) -/

/-- Whether a tile holds a launch or is quarantined. -/
def engaged (s : State) (t : Nat) : Bool := (s.tile t).gang ≠ 0 || (s.tile t).quarantined

/-- Sets or clears the PAIRS bit of a pair of the service core's cluster. -/
def setPairs (c i : Nat) (v : Bool) (s : State) : State :=
  s.modCluster c (fun u =>
    let m : BitVec 2 := 1#2 <<< i
    { u with pairs := if v then u.pairs ||| m else u.pairs &&& ~~~m })

/-- PAIR and UNPAIR: 2 when A is not tile 0 or 2 of this service core's cluster, 1 when either tile is engaged, else 0. -/
def pairBody (v : Bool) (f : F64A) : Exec Flow := do
  let a := (← useX f.a.toNat).toNat
  let s ← get
  let c := serverOf s.focus
  if a ≠ 4 * c ∧ a ≠ 4 * c + 2 then putX f.d.toNat 2 false
  else if engaged s a || engaged s (a + 1) then putX f.d.toNat 1 false
  else
    modify (setPairs c (a % 4 / 2) v)
    putX f.d.toNat 0 false
  return .fall

/-- PAIR (R399). -/
def execPair (f : F64A) (s : State) : Host.Outcome State Fault Refusal := issueA (.pair f) f (pairBody true f) s

/-- UNPAIR (R430). -/
def execUnpair (f : F64A) (s : State) : Host.Outcome State Fault Refusal := issueA (.unpair f) f (pairBody false f) s

/-- FPCK (R375): on a pair's tile it completes when its boundary has resolved, in a gondola's firing too, whose STATUS.PAIRED is 1 (R68,
R285). -/
def fpckBody : Exec Flow := do
  closeOnPair
  return .fall

/-- FPCK (R375). -/
def execFpck (f : F64A) (s : State) : Host.Outcome State Fault Refusal := issueA (.fpck f) f fpckBody s

/-! ## When a boundary is taken (R282, R283) -/

/-- The four sequencers of a pair. -/
def pairSeqs (t : Nat) : List SeqId := [.a t, .x t, .a (t + 1), .x (t + 1)]

/-- Cycles that a wait lasts before it asks for a boundary (R282). -/
def waitCycles : Nat := 16

/-- The waits that ask for a boundary (R282). -/
def Why.asks : Why → Bool
  | .queue => true
  | .word => true
  | .sem => true
  | .barrier => true
  | .limit => true
  | .chain => true
  | .memory => true
  | .wfe => true
  | _ => false

/-- Whether such a wait of a member has lasted 16 cycles while writes are held. -/
def waitTriggers (s : State) (t : Nat) : Bool :=
  !(s.pair t).held.isEmpty && (pairSeqs t).any (fun q =>
    match (s.seq q).wait with
    | some w => w.why.asks && w.since + waitCycles * State.cycleUnits ≤ s.time
    | none => false)

/-- Whether the twin's sequencer or its matrix unit trapped where its primary's did not (R283). -/
def astray (s : State) (t : Nat) : Bool :=
  let off := fun (p q : Seq) => q.suspended && !p.suspended && q.retired < p.retired
  let ahead := match (s.tile (t + 1)).matrix, (s.tile t).matrix with
    | m :: _, n :: _ => m.stopped && !n.stopped && m.p < n.p
    | m :: _, [] => m.stopped
    | [], _ => false
  off (s.tile t).a (s.tile (t + 1)).a || off (s.tile t).x (s.tile (t + 1)).x || ahead

/-- Whether both members stand at the counts of the boundary asked for. -/
def reached (s : State) (t : Nat) : Bool :=
  match (s.pair t).boundary with
  | some (a, x) => a ≤ (s.tile t).a.retired && a ≤ (s.tile (t + 1)).a.retired && x ≤ (s.tile t).x.retired &&
      x ≤ (s.tile (t + 1)).x.retired
  | none => false

/-- Whether a member's sequencer has every result that it has asked for, but for what it waits for at its boundary. A gondola's firing is
no member's (R328). -/
def seqSettled (s : State) (q : SeqId) : Bool :=
  isGondola (s.seq q) || (!s.fabric.requests.any (fun r => r.isOf q && !r.op.holdsBoundary) && (s.seq q).expects.isEmpty && (s.seq q).tail.isEmpty)

/-- Whether all sequencers of a pair are settled. -/
def allSettled (s : State) (t : Nat) : Bool := (pairSeqs t).all (seqSettled s)

/-- Whether the boundary asked for can be taken: both members stand at its counts, with empty matrix queues and no result
outstanding. -/
def boundaryReady (s : State) (t : Nat) : Bool :=
  reached s t && (s.tile t).matrix.isEmpty && (s.tile (t + 1)).matrix.isEmpty && allSettled s t

/-- Whether all fingerprints agree (R281). -/
def printsAgree (s : State) (t : Nat) : Bool :=
  (s.tile t).a.print == (s.tile (t + 1)).a.print && (s.tile t).x.print == (s.tile (t + 1)).x.print

/-! ## Release (R280, R282) -/

/-- A held full/empty store comes to its bank unit (R158); a fence drops it (R278). -/
def releaseFe (t g : Nat) (w : FeWaiter) (s : State) : State :=
  if fenced s g then dropWrite (s.partOf (.a t)) s else arriveWaiter g { w with released := true } s

/-- A held REL `.add`: one indivisible read and write; a poisoned word is consumed, and a fence drops it (R275, R276, R278, R408). -/
def releaseAdd (t key : Nat) (entry : BitVec 32) (v a : Word) (s : State) : State :=
  let p := s.partOf (.a t)
  let g := s.gangOf (.a t)
  if fencedKey s key then dropWrite p s
  else
    let d := readDecoded s.mem s.free entry key 8
    let s := afterFindings p g d s
    if d.poison.any id then consumePoison (.a t) (noteConsumed (.a t) a s)
    else
      let bytes := marked (toBytes 8 (ofBytes d.bytes + v.toNat)) false
      keepReleases s key
        (if spaceOf key = spaceScratch then writeScratch false p g (tileOfKey key) (key % 2 ^ 20) bytes s else writeBytes p g entry key bytes s)

/-- A held write leaves the pair, unless a fence keeps it out. -/
def releasePiece (t : Nat) (s : State) (w : Piece) : State :=
  let p := s.partOf (.a t)
  let g := s.gangOf (.a t)
  if fencedKey s w.key then s
  else if spaceOf w.key = spaceScratch then writeScratch false p g (tileOfKey w.key) (w.key % 2 ^ 20) w.bytes s
  else writeBytes p g w.entry w.key w.bytes s

/-- The held writes of an instruction leave the pair in order; what a fence drops is counted once (R278). -/
def releaseWrite (t : Nat) (ws : List Piece) (s : State) : State :=
  ws.foldl (releasePiece t) (if ws.any (fun w => fencedKey s w.key) then dropWrite (s.partOf (.a t)) s else s)

/-- A held FEST: it decodes its word, whose poison is consumed; a fence drops it (R159, R275, R276, R278). -/
def releaseState (t g w : Nat) (v : Bool) (s : State) : State :=
  let p := s.partOf (.a t)
  if fenced s g then dropWrite p s
  else
    let d := readDecoded s.mem s.free 0 (scratchKey g (8 * w)) 8
    let s := afterFindings p (s.gangOf (.a t)) d s
    if d.poison.any id then consumePoison (.a t) (noteConsumed (.a t) (scratchAddress s g (8 * w)) s)
    else changeState false g w v s

/-- A held move of a queue's counter, as from outside the queue's home; a fence drops it (R278). -/
def releaseMove (t : Nat) (r : QRef) (publish : Bool) (n : Nat) (s : State) : State :=
  let here := match r with
    | .tile g _ => fenced s g
    | .request _ => false
  if here then dropWrite (s.partOf (.a t)) s
  else { (moveCounter r (fun q => q.moved publish n) { s with focus := .s 0 }) with focus := s.focus }

/-- One entry of the hold buffer of the pair at primary `t` takes effect. -/
def releaseHeld (t : Nat) (s : State) (h : Held) : State :=
  match h with
  | .write ps => releaseWrite t ps s
  | .add key entry v a => releaseAdd t key entry v a s
  | .fe g w => releaseFe t g w s
  | .state g w v => releaseState t g w v s
  | .move r publish n => releaseMove t r publish n s
  | .gondola x d => [SeqId.a t, .a (t + 1)].foldl (fun s q => s.modSeq q (fun u => (u.setPending d.toNat false).setX d.toNat 0 false))
      (launchGondola (.a t) { x with way := Way.start (routerOfSeq (.a t)) s.time } s)
  | .publish e n => publishAll t e n s
  | .launch r => poolInsert r s
  | .refused words part status => report part words (plainReport s status 0) false s
  | .event k g c => announce k c false (applyEvent k g c s)
  | .barrier g c => applyBarrier t g c s

/-- A member's instruction that waits for the boundary completes when it resolves. -/
def grantPair (q : SeqId) (s : State) : State :=
  s.modSeq q (fun u =>
    match u.wait with
    | some w => if w.why = .pair then { u with wait := some { w with grant := some (0, false) } } else u
    | none => u)

/-- A boundary that agrees: held writes are released in order, and the next interval begins with a checkpoint. -/
def commitPair (t : Nat) (s : State) : State :=
  let s := (s.pair t).held.foldl (releaseHeld t) s
  takeCheckpoint t ((pairSeqs t).foldl (fun s q => grantPair q s) s)

/-! ## Rollback and quarantine (R282, R444) -/

/-- A sequencer as the checkpoint holds it. What the outside has latched stays, its clock goes on, and an instruction that
waits or is suspended asks anew. One that runs a gondola goes on with it (R328). -/
def restoreSeq (now old : Seq) : Seq :=
  if isGondola now then now
  else
    { old with
      latch := old.latch ||| now.latch
      lastIssue := now.lastIssue
      cycleBases := now.cycleBases
      wait := old.wait.bind (fun w => if w.grant.isSome then some w else none)
      suspended := false
      deadline := none }

/-- An engine keeps the commands that the checkpoint holds, those of unpaired firings among them (R328); what the pair has appended since
is gone. -/
def restoreEngine (now old : Engine) : Engine :=
  { now with next := old.next, last := old.last, cmds := now.cmds.filter (fun c => old.cmds.any (·.number == c.number)) }

/-- A member's tile as the checkpoint holds it; full/empty bits are restored from the undo log, and what agents outside have brought it
stays. -/
def restoreTile (now old : Tile) : Tile :=
  { old with
    a := restoreSeq now.a old.a
    x := restoreSeq now.x old.x
    full := now.full
    waiters := now.waiters
    arrivals := now.arrivals
    ring := now.ring
    ringNo := now.ringNo
    ringPut := now.ringPut
    staged := []
    copy := restoreEngine now.copy old.copy
    coll := restoreEngine now.coll old.coll
    quarantined := now.quarantined }

/-- What a rollback leaves in a word that the pair and an agent outside have written: the old word as the outside changed it
(R282). -/
def keepOutside (p : Pair) (e : Undo) : Undo :=
  let bytes : Marked := (toBytes 8 e.old.toNat).zipIdx.map (fun b => match p.outside.find? (fun o => o.1 == 8 * e.word + b.2) with
    | some o => o.2
    | none => (b.1, e.poison))
  { e with
    old := BitVec.ofNat 64 (ofBytes (bytes.map (·.1)))
    poison := bytes.any (·.2)
    full := Assoc.get e.full p.outsideFull e.word }

/-- Whether an agent outside has written a word, or its state, in the interval. -/
def touchedOutside (p : Pair) (w : Nat) : Bool := p.outside.any (fun o => o.1 / 8 == w) || p.outsideFull.any (fun o => o.1 == w)

/-- Restores one word of a member's scratchpad with its full/empty bit; one that an agent outside has written as well holds
either value (R282), by a free choice that is the same for both members. -/
def restoreWord (p : Pair) (free t : Nat) (s : State) (e : Undo) : State :=
  let e := if touchedOutside p e.word && (Config.freeByte (free + e.word)).getLsbD 0 then keepOutside p e else e
  let s := s.modMem (fun m => writeMarked m 0 (scratchKey t (8 * e.word)) (marked (toBytes 8 e.old.toNat) e.poison))
  s.modTile t (fun u => { u with full := if e.full then insertNat u.full e.word else u.full.filter (· != e.word) })

/-- The accumulators as the checkpoint holds them. -/
def restoreAcc (t : Nat) (cells : List Host.Cell) (m : Mem) : Mem :=
  cells.foldl (fun m e => m.setByte e.1 e.2) (m.clear (accKey t 0 0) (accKey t 0 0 + 2 ^ 17))

/-- Traps of the sequencers, reels and matrix units of a pair that no service core has in hand are withdrawn. -/
def dropPairTraps (t : Nat) (s : State) : State :=
  withdrawTraps (fun x => match x.origin with
    | .instruction q => (pairSeqs t).contains q && !isGondola (s.seq q)
    | .reel q _ => (pairSeqs t).contains q
    | .matrix u => u / 2 == t / 2
    | .device _ => false
    | .none => false) s

/-- What a pair has asked of event engines and not sent is asked no more. -/
def withdrawEvents (held : List Held) (s : State) : State :=
  held.foldl (fun s h => match h with
    | .event k _ c => announce k c false s
    | _ => s) s

/-- The context of a pair or a pre-empted gang is lost: the gang ends with status 4, and its rectangles are reset (R150). -/
def contextLost (g : Nat) (s : State) : State := killRectsOf g (endGang g 4 0 s)

/-- The live count without the gondolas that a pair has counted since its checkpoint and holds back (R328, R415). -/
def uncountHeld (t : Nat) (s : State) : State :=
  let p := s.pair t
  let held := (p.held.filter (fun h => match h with
    | .gondola .. => true
    | _ => false)).length
  let waiting := fun (u : Tile) => if u.a.spawned.isSome && !isGondola u.a then 1 else 0
  s.modGang p.gang (fun u => { u with live := u.live + waiting p.primary - (held + waiting (s.tile t)) })

/-- Both members go back to the checkpoint and execute the interval again. -/
def rollback (t : Nat) (s : State) : State :=
  let p := s.pair t
  if p.broken then contextLost p.gang s
  else
    let s := uncountHeld t (dropPairTraps t (withdrawWaits ((pairSeqs t).filter (fun q => !isGondola (s.seq q))) (withdrawEvents p.held s)))
    let free := s.free
    let s := p.undoTwin.foldl (restoreWord p free (t + 1)) (p.undoPrimary.foldl (restoreWord p free t) s)
    let s := { s with free := free + 2 ^ 17 }
    let s := s.modMem (restoreAcc t p.stored)
    let s := (s.modTile t (fun u => restoreTile u p.primary)).modTile (t + 1) (fun u => restoreTile u p.twin)
    let s := s.modPair t (fun p =>
      { p with
        undoPrimary := []
        undoTwin := []
        outside := []
        outsideFull := []
        held := []
        boundary := none
        since := s.time
        rollbacks := p.rollbacks + 1
        disagreed := true })
    s.modGang p.gang (fun u => { u with rollbacks := u.rollbacks + 1 })

/-- A disagreement: the first of an interval rolls back, the second quarantines both tiles and ends the gang. -/
def disagree (t : Nat) (s : State) : State :=
  let p := s.pair t
  if p.disagreed then endGang p.gang 1 0x12 (quarantineTile p.gang (t + 1) (quarantineTile p.gang t s)) else rollback t s

/-- PAIR_BOUNDARY (R282): the subject is the primary tile. A wait of 16 cycles asks for a boundary; one that both members have
reached is taken; a twin that trapped alone forces one that disagrees. -/
def execPairBoundary (s : State) : Host.Outcome State Fault Refusal :=
  let t := s.subject
  if (s.tile t).twin ≠ .primary then .next s
  else if astray s t then .next (if allSettled s t then disagree t s else s)
  else if boundaryReady s t then .next (if printsAgree s t then commitPair t s else disagree t s)
  else if (s.pair t).boundary.isNone && waitTriggers s t then .next (askBoundary t s)
  else .next s

/-! ## The pair watchdog (R282) -/

/-- Ticks that a member waits for its partner. -/
def partnerTicks : Nat := 1000000

/-- Whether a wait since a time has lasted longer than 1,000,000 ticks. -/
def overdue (s : State) (since : Nat) : Bool := since + partnerTicks * State.tickUnits < s.time

/-- Whether a twin's sequencer is held, or stalls, for a result that its primary has not asked for. -/
def heldForPrimary (s : State) (q : SeqId) : Bool :=
  let u := s.seq q
  isTwin s q && (u.hold.isSome || (u.wait.map (·.why)) == some .pending) &&
    u.expects.any (fun e => (s.seq (partnerSeq s q)).asked ≤ e.number && overdue s e.since)

/-- Whether a member's sequencer waits for its partner: it is stopped at the boundary's counts or 64 instructions ahead, while
the partner is on its way and not suspended by a trap, or as a twin it waits for a result that its primary does not itself wait for at
the same instruction (log 15). -/
def waitsForPartner (s : State) (t : Nat) (q : SeqId) : Bool :=
  let partner := s.seq (partnerSeq s q)
  !partner.suspended && !frozen s q &&
    (heldForPrimary s q ||
     (match (s.seq q).wait with
      | some w => w.why == .pair && w.grant.isNone && !reached s t && overdue s w.since &&
          (pairStalled s q || (isTwin s q && !(partner.wait.isSome && partner.retired == (s.seq q).retired)))
      | none => false))

/-- PAIR_WAIT_TIMEOUT (R282): the subject is the primary tile. -/
def execPairWaitTimeout (s : State) : Host.Outcome State Fault Refusal :=
  let t := s.subject
  .next (if (s.tile t).twin = .primary && (pairSeqs t).any (waitsForPartner s t) then endGang (s.pair t).gang 3 0x13 s else s)

end Sys2Proof.Machine
end

