-- ==== Sys2Proof/Machine/Pred.lean ====
section
/-! DEFINITION. The predicate instructions PLOG and PMOV with their queue-wait forms (R400, R401). -/

namespace Sys2Proof.Machine

/-- PLOG (R400). -/
def plogBody (f : F96Q) : Exec Flow := do
  let q ← mySeq
  let a := q.p f.base.a.toNat
  let b := q.p f.base.b.toNat
  let c := match f.base.fn5 with
    | 0 => a && b
    | 1 => a || b
    | 2 => a != b
    | _ => !a
  putP f.base.d.toNat c
  return .fall

/-- p7 ... p0 with p0 read as 1 (R401). -/
def allPredicates (q : Seq) : Word := (q.ps ||| 1#8).setWidth 64

/-- PMOV (R401): the form stands in FN[1:0]. -/
def pmovBody (f : F96Q) : Exec Flow := do
  let d := f.base.d.toNat
  match f.base.fn5 with
  | 0 =>
    queueWaits [⟨f.base.a.toNat, f.wa, false, false⟩]
    let v ← useSource 0 f.base.a.toNat f.base.imm16 f.wa
    putP d (v.getLsbD 0)
  | 1 =>
    queueWaits [⟨d, f.wd, true, false⟩]
    let q ← mySeq
    putDest d f.wd (if q.p f.base.a.toNat then 1 else 0) false
  | 2 =>
    queueWaits [⟨d, f.wd, true, false⟩]
    let q ← mySeq
    putDest d f.wd (allPredicates q) false
  | _ =>
    queueWaits [⟨f.base.a.toNat, f.wa, false, false⟩]
    let v ← useSource 0 f.base.a.toNat f.base.imm16 f.wa
    (List.range 8).forM (fun i => putP i (v.getLsbD i))
  return .fall

/-- PLOG (R400). -/
def execPlog (f : F64A) (s : State) : Host.Outcome State Fault Refusal := issueA (.plog f) f (plogBody (plain f)) s

/-- PLOG, queue-wait form (R64). -/
def execPlogQw (f : F96Q) (s : State) : Host.Outcome State Fault Refusal := issueQ (.plogQw f) f (plogBody f) s

/-- PMOV (R401). -/
def execPmov (f : F64A) (s : State) : Host.Outcome State Fault Refusal := issueA (.pmov f) f (pmovBody (plain f)) s

/-- PMOV, queue-wait form (R64). -/
def execPmovQw (f : F96Q) (s : State) : Host.Outcome State Fault Refusal := issueQ (.pmovQw f) f (pmovBody f) s

end Sys2Proof.Machine
end

