-- ==== Sys2Proof/Machine/Preempt.lean ====
section
/-! DEFINITION. Pre-emption of a gang part and its resumption (R127, R146-R150, R218, R249, R283, R302, R385). -/

namespace Sys2Proof.Machine

/-! ## The stop (R146, R149, R283) -/

/-- Whether the event engines of a gang have settled the items in hand. -/
def enginesSettled (s : State) (g : Nat) : Bool := (enginesOf s g).all (fun e => e.2.item.isNone)

/-- The primaries of a gang's pairs. -/
def pairsOf (s : State) (g : Nat) : List Nat := (s.pairs.filter (fun e => e.2.gang == g)).map (·.1)

/-- Every pair of a gang is to stop at its next boundary. -/
def freezePairs (g : Nat) (s : State) : State :=
  (pairsOf s g).foldl (fun s t => askBoundary t (s.modPair t (fun p => { p with freezing := true }))) s

/-- The gondolas of a gang in the memory cores' arrival queues, with the core of each. -/
def queuedGondolas (s : State) (g : Nat) : List (Nat × Gondola) :=
  (s.mcores.map (fun e => (e.2.arrivals.filter (fun x => x.gang == g)).map (fun x => (e.1, x)))).flatten

/-- The sequencers of a gang's tiles. -/
def partSeqs (u : Gang) : List SeqId := ((allTiles u).map (fun t => [SeqId.a t, SeqId.x t])).flatten

/-- Accesses to full/empty words and waits for a value that have not been performed are withdrawn: their instructions and commands will
ask anew (R385). -/
def withdrawAccesses (qs : List SeqId) (s : State) : State :=
  let open_ := fun (r : Request) => r.op.holdsBoundary && (match r.stage with
    | .answered _ _ => false
    | _ => true)
  { s with
    tiles := s.tiles.map (fun e => (e.1, { e.2 with waiters := e.2.waiters.filter (fun w => w.released || !qs.contains w.seq) }))
    fabric := { s.fabric with requests := s.fabric.requests.filter (fun r => !(qs.contains r.seq && open_ r)) }
    mem := { s.mem with watches := s.mem.watches.filter (fun w => !qs.contains w.seq) } }

/-- The sequencers stop and with them their cycle counts (R302), and the part's gondolas at memory cores are parked. -/
def stopPart (g : Nat) (s : State) : State :=
  let parked := queuedGondolas s g
  let seqs := ((s.gang? g).map partSeqs).getD []
  let s := seqs.foldl (fun s q => s.modSeq q (fun u => { u with cycleStop := some (s.cycleOf q) })) (withdrawAccesses seqs s)
  let keep := fun (c : MCore) => { c with arrivals := c.arrivals.filter (fun x => x.gang != g) }
  let s := { s with mcores := s.mcores.map (fun (e : Nat × MCore) => (e.1, keep e.2)) }
  s.modGang g (fun u => { u with phase := .preempted, saved := some ⟨[], [], [], [], parked, s.time, s.time, false, false⟩ })

/-- The part goes on towards its stop: its event engines settle, then its pairs take a boundary, then its sequencers stop. -/
def approachStop (g : Nat) (s : State) : State :=
  if !enginesSettled s g then s
  else if (pairsOf s g).any (fun t => !(s.pair t).freezing) then freezePairs g s
  else if (pairsOf s g).any (fun t => (s.pair t).boundary.isSome) then s
  else stopPart g s

/-! ## The save (R147, R150) -/

/-- Whether a command of an engine that must run to completion is over, and no request of it is out (R146). -/
def commandDrained (c : Cmd) : Bool :=
  c.awaiting = 0 &&
    (match c.op with
     | .puts .. => c.state ≠ .running
     | .coll .. => c.state ≠ .running
     | _ => true)

/-- Whether a tile's engines and reels have drained. -/
def tileDrained (u : Tile) : Bool :=
  (u.copy.cmds ++ u.coll.cmds).all commandDrained && (u.a.nests.toList ++ u.x.nests.toList).all (fun x => x.claiming.isNone)

/-- Whether a stopped part can be saved: no gondola of it fires on a memory core, its requests have returned, its engines and
reels have drained, and no service core has a trap of it in hand. -/
def partDrained (s : State) (g : Nat) (u : Gang) : Bool :=
  (coresOf s g).isEmpty && !s.fabric.requests.any (fun r => r.gang == g && (State.tileOf r.seq).isSome) &&
    (allTiles u).all (fun t => tileDrained (s.tile t)) &&
    !s.clusters.any (fun e => (e.2.inHand.map (fun t => t.gang == g)).getD false)

/-- The ranges of keys of a tile's bytes. -/
def tileRanges (t : Nat) : List (Nat × Nat) :=
  [(scratchKey t 0, 2 ^ 20), (slotKey t 0 0, 2 ^ 18), (splitKey t 0 0, 2 ^ 12), (accKey t 0 0, 2 ^ 16)]

/-- Whether a key lies in a tile's bytes. -/
def inTile (t key : Nat) : Bool := (tileRanges t).any (fun r => r.1 ≤ key && key < r.1 + r.2)

/-- The words of some tiles with flipped bits, and whether one of their words cannot be corrected (R275). -/
def flippedWords (s : State) (ts : List Nat) : List Nat :=
  ((s.mem.flips.map (fun e => e.1 / 8 * 8)).dedup).filter (fun k => ts.any (fun t => inTile t k))
def uncorrectable (s : State) (ts : List Nat) : Bool :=
  (flippedWords s ts).any (fun k => 2 ≤ (s.mem.flipsAt k).length) || s.mem.poison.any (fun u => ts.any (fun t => inTile t (u / 2)))

/-- A sequencer as it is saved: a trap or a wait in progress will be raised or begun again; an access that its bank unit has
performed is complete (R385). -/
def saveSeq (s : State) (q : SeqId) : Seq :=
  let u := s.seq q
  { u with
    suspended := false
    deadline := none
    wait := u.wait.bind (fun w => if w.grant.isSome then some w else none) }

def saveTile (s : State) (t : Nat) : Tile :=
  let u := s.tile t
  { u with
    a := saveSeq s (.a t)
    x := saveSeq s (.x t)
    matrix := u.matrix.map (fun m => { m with stopped := false, fault := none }) }

/-- The bytes of some tiles. -/
def tileCells (s : State) (ts : List Nat) : List Host.Cell := s.mem.cells.filter (fun e => ts.any (fun t => inTile t e.1))

/-- The key ranges of `n` bytes of a partition from an address on, page by page. -/
def areaSpans (s : State) (p : Nat) : Nat → Nat → Nat → List (Nat × Nat)
  | 0, _, _ => []
  | fuel + 1, a, n =>
    if n = 0 then []
    else match walk s p a with
      | .leaf l =>
        let take := min n (l.limit - a)
        let key := leafKey s.host.devid.toNat l.word (a - l.base)
        (key, key + take) :: areaSpans s p fuel (a + take) (n - take)
      | _ => []

/-- The bytes of a save area change with a save: they hold the part's state in a layout of the device's own (R147, R151; log 24). -/
def writeSaveArea (u : Gang) (s : State) : State :=
  let n := saveBytes u.record.placed
  s.modMem (fun m => { m with areas := m.areas ++ areaSpans s u.part (n / 2 ^ 14 + 2) u.record.saveArea.toNat n })

/-- The part's state goes to its save area, and its tiles and event engines are free. -/
def savePart (g : Nat) (u : Gang) (s : State) : State :=
  let ts := allTiles u
  if uncorrectable s ts then contextLost g s
  else
    let s := (flippedWords s ts).foldl (fun s _ => noteClass u.part g s 0) (keepReads g (spreadGang g s))
    let s := writeSaveArea u (dropTraps g s)
    let tiles := ts.map (fun t => (t, saveTile s t))
    let cells := tileCells s ts
    let engines := enginesOf s g
    let pairs := s.pairs.filter (fun e => e.2.gang == g)
    let s := s.modGang g (fun u => { u with saved := u.saved.map (fun v =>
      { v with tiles := tiles, cells := cells, pairs := pairs, engines := engines, savedAt := s.time, complete := true }) })
    let s := { s with pairs := s.pairs.filter (fun e => e.2.gang != g) }
    let s := ts.foldl (fun s t => (s.modTile t stopTile).modMem (clearTile t)) s
    freeEngines g s

/-- PREEMPT (R146): the subject is the gang. The first asks a gang that carries flag 3 to stop; each further one takes the part
on towards its stop and, once it has drained, saves it. A request against any other gang is refused. -/
def execPreempt (s : State) : Host.Outcome State Fault Refusal :=
  let g := s.subject
  match s.gang? g with
  | none => .next s
  | some u =>
    if u.killing.isSome || !u.record.preemptible then .next s
    else match u.phase, u.saved with
      | .running, _ => .next (approachStop g (s.modGang g (fun u => { u with phase := .stopping })))
      | .stopping, _ => .next (approachStop g s)
      | .preempted, some v => .next (if !v.complete && partDrained s g u then savePart g u s else s)
      | _, _ => .next s

/-! ## The resumption (R148, R149, R302) -/

/-- Whether a part's tiles, event engines and barrier contexts are free for it. -/
def canResume (s : State) (g : Nat) (v : Saved) : Bool :=
  v.tiles.all (fun e => isFree s e.1 && !(s.tile e.1).quarantined) && v.engines.all (fun e => (s.cluster e.1).ev.gang = 0) &&
    [0, 1, 2, 3].all (fun d => contextsUsed s d +
      (s.launch.barriers.filter (fun b => b.die == d && b.gang == g)).length ≤ barrierContexts)

/-- A sequencer as it resumes: its cycle count goes on from its saved value, its wake latch has bits 0 to 6 set (R441), and the clock of a
wait starts from zero. -/
def resumeSeq (s : State) (q : SeqId) (g : Nat) (u : Seq) : Seq :=
  let shift := s.cycleOf q - u.cycleStop.getD (s.cycleOf q)
  { u with
    lastIssue := none
    latch := u.latch ||| 0x7F
    cycleBases := u.cycleBases.map (fun e => if e.1 = g then (e.1, e.2 + shift) else e)
    cycleStop := none
    wait := u.wait.map (fun w => { w with since := s.time }) }

def resumeEngine (now : Nat) (e : Engine) : Engine := { e with cmds := e.cmds.map (fun c => { c with since := now }) }

/-- A tile as it resumes; gondolas of its ring take the free slots of its arrival area (R313). -/
def resumeTile (s : State) (g t : Nat) (u : Tile) : Tile :=
  refill u.ring.length
    { u with
      a := resumeSeq s (.a t) g u.a
      x := resumeSeq s (.x t) g u.x
      copy := resumeEngine s.time u.copy
      coll := resumeEngine s.time u.coll
      kstep := s.time
      quarantined := false }

/-- The cycle counts that memory cores keep for a gang have stood still since its save (R302). -/
def shiftCounts (g n : Nat) (c : MCore) : MCore :=
  { c with m := { c.m with cycleBases := c.m.cycleBases.map (fun e => if e.1 = g then (e.1, e.2 + n) else e) } }

/-- Everything saved is restored on the same tiles, and parked gondolas arrive anew at their memory cores, in their saved order. -/
def restorePart (g : Nat) (v : Saved) (s : State) : State :=
  let s := s.modMem (fun m => v.cells.foldl (fun m e => m.setByte e.1 e.2) ((v.tiles.map (·.1)).foldl (fun m t => clearTile t m) m))
  let s := v.tiles.foldl (fun r e => r.modTile e.1 (fun _ => resumeTile s g e.1 e.2)) s
  let s := v.pairs.foldl (fun r e => r.modPair e.1 (fun _ => { e.2 with freezing := false, since := s.time })) s
  let s := v.engines.foldl (fun r e =>
    r.modEvent e.1 (fun _ => { e.2 with item := e.2.item.map (fun it => { it with since := s.time }) })) s
  let shift := fun (e : Nat × MCore) => (e.1, shiftCounts g (s.time / State.cycleUnits - v.savedAt / State.cycleUnits) e.2)
  let s := { s with mcores := s.mcores.map shift }
  let arrive := fun (e : Nat × Gondola) =>
    (⟨e.2, .core e.1, true, { Way.start (routerOfCore e.1) s.time with hop := .router (routerOfCore e.1) }⟩ : Transit)
  let s := s.modLaunch (fun l => { l with transit := l.transit ++ v.parked.map arrive })
  s.modGang g (fun u => { u with phase := .running, saved := none })

/-- PREEMPT_RESUME (R148): the subject is the gang; a save area with an uncorrectable error loses the context (R150). -/
def execPreemptResume (s : State) : Host.Outcome State Fault Refusal :=
  let g := s.subject
  match s.gang? g with
  | none => .next s
  | some u =>
    match u.phase, u.saved with
    | .preempted, some v =>
      if !v.complete || !canResume s g v then .next s
      else if v.broken then .next (contextLost g s)
      else .next (restorePart g v s)
    | _, _ => .next s

end Sys2Proof.Machine
end

