-- ==== Sys2Proof/Machine/Translation.lean ====
section
/-! DEFINITION. The service core's TLB instructions TLBW and TLBINV (R187-R190, R424, R425). -/

namespace Sys2Proof.Machine

/-! ## TLBW (R189) -/

/-- The sequencer whose accesses use the TLB that a unit identifier names, if the service core serves it (R28, R187). -/
def tlbTarget (server : Nat) (unit : BitVec 16) : Option SeqId :=
  let id := (unit.extractLsb' 0 12).toNat
  match (unit.extractLsb' 12 4).toNat with
  | 1 => if id = server then some (.s id) else none
  | 3 => if id < 272 ∧ serverOfCore id = server then some (.m id) else none
  | _ => none

/-- The span of an entry of a size code (R189). -/
def spanOf (size : Nat) (a c : Word) : Nat × Nat :=
  match size with
  | 0 => (a.toNat, a.toNat + 2 ^ 14)
  | 1 => (a.toNat, a.toNat + 2 ^ 25)
  | 2 => (a.toNat, a.toNat + 2 ^ 36)
  | _ => (a.toNat, c.toNat)

/-- The checks of R189 on span and leaf, with the features of R292. -/
def installOk (s : State) (p size : Nat) (a c leaf : Word) : Bool :=
  let aligned := match size with
    | 0 => a.toNat % 2 ^ 14 = 0 && frameOf leaf % 2 ^ 14 = 0
    | 1 => a.toNat % 2 ^ 25 = 0 && frameOf leaf % 2 ^ 25 = 0
    | 2 => a.toNat % 2 ^ 36 = 0 && frameOf leaf % 2 ^ 36 = 0
    | _ => a.toNat % 2 ^ 14 = 0 && c.toNat % 2 ^ 14 = 0 && a.toNat < c.toNat
  aligned && leafValid leaf && leafIs leaf && resOf leaf ≠ 3 && (leaf.extractLsb' 48 6) == 0 &&
    (resOf leaf ≠ 1 || accepted s p 5) && (resOf leaf ≠ 2 || accepted s p 6)

/-- TLBW (R189). The misses it serves, or finds stale, are pending no more: each access is repeated when its trap resumes
(R358). -/
def tlbwBody (i : Instr) (f : F128C) : Exec Flow := do
  let a ← useX f.a.toNat
  let leaf ← useX f.b.toNat
  let c ← useX f.c.toNat
  let s ← get
  let p := (f.flags18.extractLsb' 0 4).toNat
  let size := f.sub8.toNat
  check (installOk s p size a c leaf) 0x01 (lowBits i)
  match tlbTarget (serverOf s.focus) (f.imm64.extractLsb' 0 16) with
  | none => trap 0x01 (lowBits i)
  | some q =>
    let (lo, hi) := spanOf size a c
    let here := missesIn (tlbOf s q) p lo hi
    let settle := fun (gone : Miss → Bool) (s : State) => modTlb q (fun t => { t with misses := t.misses.filter (fun m => !gone m) }) s
    let inSpan := fun (m : Miss) => m.part == p && lo ≤ m.va && m.va < hi
    if here.isEmpty then putX f.d.toNat 2 false
    else if here.any (·.isStale lo hi) then
      modify (settle (fun m => inSpan m && m.isStale lo hi))
      putX f.d.toNat 1 false
    else
      modify (fun s => settle inSpan (install q ⟨p, BitVec.ofNat 2 size, lo, hi, leaf.extractLsb' 0 62⟩ s))
      putX f.d.toNat 0 false
    return .fall

/-- TLBW (R189). -/
def execTlbw (f : F128C) (s : State) : Host.Outcome State Fault Refusal := issueC (.tlbw f) f (tlbwBody (.tlbw f) f) s

/-! ## TLBINV (R190) -/

/-- What a TLBINV drops: the entries of a partition that cover an address, all of the partition, or all. -/
def dropped (fn p va : Nat) (part lo hi : Nat) : Bool :=
  match fn with
  | 0 => part == p && lo ≤ va && va < hi
  | 1 => part == p
  | _ => true

/-- The clusters, and whether a memory core's TLB, lie in the scope of a service core's TLBINV. -/
def clusterInScope (sc server c : Nat) : Bool :=
  match sc with
  | 2 => c == server
  | 4 => c / 128 == server / 128
  | _ => true
def coreInScope (sc server core : Nat) : Bool :=
  match sc with
  | 2 => false
  | 4 => core < 256 && serverOfCore core / 128 == server / 128
  | _ => true

/-- Drops entries, and marks the pending misses whose entries the drop would have covered: those of the partition, and for an address
those whose span proves to hold it. -/
def invalidate (fn p va : Nat) (t : Tlb) : Tlb where
  entries := t.entries.filter (fun e => !dropped fn p va e.part e.base e.limit)
  misses := t.misses.map (fun m =>
    if fn = 0 then (if m.part = p then { m with cleared := va :: m.cleared } else m)
    else if dropped fn p va m.part 0 0 then { m with stale := true } else m)

/-- Whether a sequencer's TLB lies in the scope. -/
def seqInScope (sc server : Nat) : SeqId → Bool
  | .m c => coreInScope sc server c
  | q => clusterInScope sc server (serverOf q)

/-- Whether a sequencer's own request uses an entry that a TLBINV drops (R190): it touches bytes of its span, and has not been
performed. What a COPY or another command reads uses the translations that it took at issue (R175). -/
def usesDropped (s : State) (sc server fn p va : Nat) (r : Request) : Bool :=
  let underway : Bool := match r.stage with
    | .answered _ _ => false
    | _ => true
  r.engine.isNone && underway && seqInScope sc server r.seq &&
    (tlbOf s r.seq).entries.any (fun e =>
      e.part == r.part && dropped fn p va e.part e.base e.limit &&
        (let key := leafKey s.host.devid.toNat (e.leaf.setWidth 64) 0
         r.op.words.any (fun w => decide (key ≤ 8 * w) && decide (8 * w < key + (e.limit - e.base)))))

/-- The drop of a TLBINV at every TLB in its scope; the accesses that use a dropped entry are marked. -/
def invalidateAll (sc server fn p va : Nat) (s : State) : State :=
  let requests := s.fabric.requests.map (fun r => if usesDropped s sc server fn p va r then { r with dropped := server :: r.dropped } else r)
  { s with
    clusters := s.clusters.map (fun e =>
      if clusterInScope sc server e.1 then (e.1, { e.2 with tlb := invalidate fn p va e.2.tlb }) else e)
    mcores := s.mcores.map (fun e =>
      if coreInScope sc server e.1 then (e.1, { e.2 with tlb := invalidate fn p va e.2.tlb }) else e)
    fabric := { s.fabric with requests := requests } }

/-- Whether every access that used an entry that a service core has dropped has been performed (R190). -/
def accessesDone (server : Nat) (s : State) : Bool :=
  s.fabric.requests.all (fun r => !r.dropped.contains server ||
    (match r.stage with
     | .answered _ _ => true
     | _ => false))

/-- TLBINV (R190): the drop takes place when it first issues, then it waits for the accesses. -/
def tlbinvBody (f : F64M) : Exec Flow := do
  let p := (← useX f.d.toNat).toNat % 16
  let a ← baseAddress f
  let fn := f.fn3.toNat
  let sc := f.sc.toNat
  if fn = 0 then
    check (formOk a) 0x04 a
    match rangeCause a 1 with
    | some c => trap c a
    | none => pure ()
  let s ← get
  let server := serverOf s.focus
  let drop := invalidateAll sc server fn p a.toNat
  match (s.seq s.focus).wait with
  | some ⟨.outstanding, _, some _⟩ => waitUntil (accessesDone server s) .outstanding
  | _ =>
    if accessesDone server (drop s) then modify drop
    else throw (.wait .outstanding (fun s => (drop s).modSeq s.focus (fun u =>
      { u with wait := u.wait.map (fun w => { w with grant := some (0, false) }) })))
  return .fall
where
  /-- BASE + OFF22, the base consumed (R424). -/
  baseAddress (f : F64M) : Exec Word := do return (← useX f.base.toNat) + f.off22.signExtend 64

/-- TLBINV (R190). -/
def execTlbinv (f : F64M) (s : State) : Host.Outcome State Fault Refusal := issueM (.tlbinv f) f (tlbinvBody f) s

end Sys2Proof.Machine
end

