-- ==== Sys2Proof/Machine/Vector.lean ====
section
/-! DEFINITION. The vector instructions of opcodes 0x60 to 0x6A and their queue-wait forms (R90, R166, R195, R329,
R431-R438). -/

namespace Sys2Proof.Machine

/-! ## Within registers -/

/-- VBCAST consumes the selected element alone (R329, R431). -/
def vbcastBody (f : F96Q) : Exec Flow := do
  let w := tyWidth f.base.ty.toNat
  queueWaits (operands 1 f false true true false false)
  let a ← vsource f.base.ty.toNat f.base.a.toNat 0 f.wa
  let i := f.base.imm16.toNat
  if (a.poison &&& laneMask w i) != 0 then consumed a.tval
  putVDest f.base.d.toNat f.wd (splat w (element a.val w i)) 0
  return .fall

/-- The tree of R90: the list is halved, element i combined with element i + n/2, until one is left. -/
def treeReduce (op : Nat → Nat → FRes) : Nat → List Nat → Flags → FRes
  | 0, es, flags => ⟨es.headD 0, flags⟩
  | fuel + 1, es, flags =>
    if es.length ≤ 1 then ⟨es.headD 0, flags⟩
    else
      let h := es.length / 2
      let rs := (es.take h).zipWith op (es.drop h)
      treeReduce op fuel (rs.map (·.bits)) (rs.foldl (fun m r => m ||| r.flags) flags)

/-- What VRED combines with (R437). -/
def redOp (rm : Rm) (ty fn a b : Nat) : FRes :=
  let f := fmtOf ty
  match fn with
  | 0 => if tyFloat ty then f.addVal rm (f.decode a) (f.decode b) else ⟨addOp ty 0 a b 0, 0⟩
  | 1 => if tyFloat ty then f.pick false a b else ⟨minOp ty 0 a b 0, 0⟩
  | 2 => if tyFloat ty then f.pick true a b else ⟨maxOp ty 0 a b 0, 0⟩
  | 3 => ⟨a &&& b, 0⟩
  | 4 => ⟨a ||| b, 0⟩
  | _ => ⟨a ^^^ b, 0⟩

/-- VRED (R90, R437). -/
def vredBody (f : F96Q) : Exec Flow := do
  let ty := f.base.ty.toNat
  let w := tyWidth ty
  let fn := f.base.fn5
  queueWaits (operands 1 f false true true false false)
  let rm ← myRm
  let a ← useVSource ty f.base.a.toNat 0 f.wa
  let es := (List.range (elementsAt w)).map (element a w)
  let r : FRes := if fn = 6 then ⟨(es.filter (· != 0)).length, 0⟩ else treeReduce (redOp rm ty fn) 5 es 0
  putVDest f.base.d.toNat f.wd (packElements w [r.bits]) 0
  raiseFlags r.flags
  return .fall

/-- VSHUF: A's marks go with the elements, a marked index is consumed (R438). -/
def vshufBody (f : F96Q) : Exec Flow := do
  let ty := f.base.ty.toNat
  let w := tyWidth ty
  let n := elementsAt w
  queueWaits (operands 2 f false true true true false)
  let a ← vsource ty f.base.a.toNat 0 f.wa
  let b ← useVSource ty f.base.b.toNat 0 f.wb
  let pick := fun i => element b w i % n
  let marks := (List.range n).foldl
    (fun m i => if (a.poison &&& laneMask w (pick i)) != 0 then m ||| laneMask w i else m) (0 : BitVec 32)
  putVDest f.base.d.toNat f.wd (buildElements w (fun i => element a.val w (pick i))) marks
  return .fall

/-- VCOMP packs the elements of A whose mask element has a bit set (R432). -/
def vcompBody (f : F96Q) : Exec Flow := do
  let ty := f.base.ty.toNat
  let w := tyWidth ty
  queueWaits (operands 2 f false true true true false)
  let a ← useVSource ty f.base.a.toNat 0 f.wa
  let b ← useVSource ty f.base.b.toNat 0 f.wb
  let kept := (List.range (elementsAt w)).filter (fun i => element b w i != 0)
  putVDest f.base.d.toNat f.wd (packElements w (kept.map (element a w))) 0
  return .fall

/-- VIOTA (R435). -/
def viotaBody (f : F96Q) : Exec Flow := do
  let ty := f.base.ty.toNat
  let w := tyWidth ty
  queueWaits (operands 2 f false true false false false)
  let a ← useSource ty f.base.a.toNat f.base.imm16 f.wa
  let b ← useSource ty f.base.b.toNat f.base.imm16 f.wb
  putVDest f.base.d.toNat f.wd (buildElements w (fun i => a.toNat + i * b.toNat)) 0
  return .fall

/-- The index of VEXT and VINS: IMM16, or a consumed source modulo the element count (R433). -/
def elementIndex (f : F96Q) : Exec Nat := do
  if f.base.b = 60 then return f.base.imm16.toNat
  else return (← useSource 7 f.base.b.toNat 0 f.wb).toNat % elementsAt (tyWidth f.base.ty.toNat)

/-- VEXT carries the element's mark (R433). -/
def vextBody (f : F96Q) : Exec Flow := do
  let ty := f.base.ty.toNat
  let w := tyWidth ty
  queueWaits (operands 2 f false false true false false)
  let a ← vsource ty f.base.a.toNat 0 f.wa
  let i ← elementIndex f
  putDest f.base.d.toNat f.wd (extend ty (element a.val w i)) ((a.poison &&& laneMask w i) != 0)
  return .fall

/-- VINS: one element of D takes A with its mark, every other keeps its bits and marks (R433). -/
def vinsBody (f : F96Q) : Exec Flow := do
  let ty := f.base.ty.toNat
  let w := tyWidth ty
  queueWaits (operands 2 f false true false false false)
  let a ← source ty f.base.a.toNat f.base.imm16 f.wa
  let i ← elementIndex f
  let old ← oldVDest f
  let kept := if 32 ≤ w then old.poison &&& ~~~(laneMask w i) else old.poison
  putVDest f.base.d.toNat f.wd (buildElements w (fun j => if j = i then a.val.toNat else element old.val w j))
    (if a.poison then kept ||| laneMask w i else kept)
  return .fall

/-! ## Vector accesses to memory -/

/-- The place of a vector access by a sequencer with form 0b00 for M alone; an X-seq raises 0x09 untranslated (R193, R431). -/
def vectorPlace (a : Word) (n align : Nat) (acc : Access) : Exec Place := do
  let s ← get
  match s.focus with
  | .x _ =>
    checkAddress a n align
    if formOf a = 0 then trap 0x09 a
    return .scratch (mirrored s s.focus (gtileOf s a)) (offsetOf a)
  | _ => resolve a n align acc

/-- The aligned words that 128 bytes touch, as addresses with lengths and offsets: 16, or 17 with a part at each end. -/
def wordSpans (a : Word) : List (Word × Nat × Nat) :=
  let r := a.toNat % 8
  if r = 0 then (List.range 16).map (fun i => (a + BitVec.ofNat 64 (8 * i), 8, 8 * i))
  else
    (a, 8 - r, 0) ::
      ((List.range 15).map (fun i => (a + BitVec.ofNat 64 (8 - r + 8 * i), 8, 8 - r + 8 * i)) ++
        [(a + BitVec.ofNat 64 (128 - r), r, 128 - r)])

/-- A part of a vector access: its address and place, its length, and the offset of its bytes in the register. -/
structure Part1 where
  addr : Word
  place : Place
  len : Nat
  off : Nat
  deriving DecidableEq, Repr

/-- The parts of a contiguous access: checked whole, then translated in ascending order (R195, R436). -/
def contiguous (f : F96Q) (acc : Access) : Exec (List Part1) := do
  let a ← useSource 3 f.base.a.toNat f.base.imm16 f.wa
  let b ← useSource 3 f.base.b.toNat f.base.imm16 f.wb
  let at_ := a + b
  check (at_.toNat % (tyWidth f.base.ty.toNat / 8) = 0) 0x0A at_
  checkAddress at_ 128 1
  (wordSpans at_).mapM (fun p => do return ⟨p.1, ← vectorPlace p.1 p.2.1 1 acc, p.2.1, p.2.2⟩)

/-- The parts of an indexed access: one for each element, checked in ascending order (R434). -/
def indexed (f : F96Q) (acc : Access) : Exec (List Part1) := do
  let w := tyWidth f.base.ty.toNat
  let n := elementsAt w
  let a ← useSource 3 f.base.a.toNat f.base.imm16 f.wa
  let b ← vsource 6 f.base.b.toNat 0 f.wb
  if (List.range n).any (fun i => b.poison.getLsbD i) then consumed b.tval
  (List.range n).mapM (fun i => do
    let at_ := a + BitVec.ofNat 64 (element b.val 32 i)
    return ⟨at_, ← vectorPlace at_ (w / 8) (w / 8) acc, w / 8, i * (w / 8)⟩)

/-- The parts of an access that the issuing unit reaches itself, and those of each other home, in the order of their first parts. -/
def ownParts1 (s : State) (ps : List Part1) : List Part1 := ps.filter (fun p => isOwn s.focus p.place)
def farParts (s : State) (ps : List Part1) : List (List Part1) :=
  let far := ps.filter (fun p => !isOwn s.focus p.place)
  (far.map (fun p => homeOf p.place)).eraseDups.map (fun h => far.filter (fun p => homeOf p.place == h))

/-- Synchronous accesses wait for the agent's own requests to the same words (R198). -/
def ownOrders (ps : List Part1) : Exec Unit := ps.forM (fun p => ownOrder p.place p.len)

/-- What a vector access is to the order of memory: one to a strongly ordered page is a full acquire at SYS (R207). -/
def strongSync (isStrong : Bool) : Sync := ⟨none, none, if isStrong then some 8 else none, isStrong⟩

/-- The bytes of parts that the issuing unit reaches itself, with their offsets and marks; each line of external memory is read once
(R166). -/
def gatherBytes (ps : List Part1) : Exec (List (Nat × Marked)) := do
  let lines := (ps.filterMap (fun p => match p.place with
    | .ext key leaf => some (key / 64 * 64, leaf)
    | .scratch .. => none)).eraseDups
  let read ← lines.mapM (fun l => do return (l, ← heldAt (.ext l.1 l.2) 64))
  ps.mapM (fun p => do
    let bs ← match p.place with
      | .ext key leaf => pure ((((read.find? (fun e => e.1 == (key / 64 * 64, leaf))).map (·.2)).getD []).drop (key % 64) |>.take p.len)
      | .scratch .. => heldAt p.place p.len
    let q ← me
    if strong p.place then
      viewNewest q p.place.key p.len
      return (p.off, bs)
    else return (p.off, ← view q p.place.key bs))

/-- A register's image with the bytes of some parts in their places. -/
def imageOf (l : List (Nat × Marked)) : Marked :=
  l.foldl (fun im e => im.take e.1 ++ e.2 ++ im.drop (e.1 + e.2.length)) (marked (List.replicate 128 0) false)

/-- The leaf of a place's page; 0 for a scratchpad. -/
def leafOf : Place → Word
  | .ext _ leaf => leaf
  | .scratch .. => 0

/-- The 128 bytes of a contiguous access as one piece where its parts stand one after another in pages of one leaf's attributes (R268). -/
def joined : List Part1 → List Part1
  | a :: b :: rest =>
    match joined (b :: rest) with
    | c :: more =>
      if c.place.key = a.place.key + a.len ∧ c.off = a.off + a.len ∧ leafOf c.place &&& 0xFFF#64 = leafOf a.place &&& 0xFFF#64
        then { a with len := a.len + c.len } :: more
      else a :: c :: more
    | [] => [a]
  | l => l

/-- A vector load (R434, R436): the unit's own parts are read at once, those of each other home by a request to it, with D pending until
all have come, or with the sequencer held when D is a queue. The requests count as one (R166, R179). -/
def vectorLoad (f : F96Q) (ps : List Part1) : Exec Unit := do
  let s ← get
  let d := f.base.d.toNat
  let isStrong := ps.any (fun p => strong p.place)
  if isStrong then strongFence
  let own := ownParts1 s ps
  let far := farParts s ps
  ownOrders own
  if far.isEmpty then
    let im := answerOf (imageOf (← gatherBytes own))
    putVDest d f.wd im.1 im.2
  else
    let ops ← far.mapM (fun l => do
      let p ← match l.head? with
        | some p => pure p.place
        | none => pure (.scratch 0 0)
      return (ReqOp.vload (l.map (fun p => (p.off, reach s s.focus p.place p.len))) f.base.d, p))
    if d < 32 then
      waitUntil (!(s.seq s.focus).vPending.getLsbD d) .pending
      waitUntil (outstanding s s.focus < 64) .outstanding
      let bs ← gatherBytes own
      let im := answerOf (imageOf bs)
      modMe (fun q => q.setV d im.1 im.2)
      takeIn ((bs.map (fun e => e.2.bytes)).flatten)
      askAll (strongSync isStrong) isStrong none ops
    else
      let r ← boundQueue d
      let slot := (seenQueue s r).p + BitVec.ofNat 32 (waitOf f.wd).1
      waitUntil (outstanding s s.focus < 64) .outstanding
      let bs ← gatherBytes own
      for e in bs do writeSlotAt r slot 0 e.1 e.2
      takeIn ((bs.map (fun e => e.2.bytes)).flatten)
      askAll (strongSync isStrong) true (some slot) ops

/-- The bytes of a register's part, with the marks of the lanes they touch (R276). -/
def partBytes (v : VSrc) (off len : Nat) : Marked := ((laneBytes v.val v.poison).drop off).take len

/-- A vector store (R434, R436): in order of the parts, each write whole; the unit's own are written at once, those of each other home by
a request to it, which count as one (R166, R179), or held back by a pair (R280). A pair's member takes in a `whole` store once, and an
indexed one element by element (R281). -/
def vectorStore (f : F96Q) (whole : Bool) (ps : List Part1) : Exec Unit := do
  let d ← vsource f.base.ty.toNat f.base.d.toNat 0 f.wd
  let isStrong := ps.any (fun p => strong p.place)
  if isStrong then strongFence
  let s ← get
  let data := fun (p : Part1) => partBytes d p.off p.len
  let cut := fun (l : List Part1) => if whole then joined l else l
  let own := ownParts1 s ps
  let far := farParts s ps
  ownOrders own
  if isPaired s s.focus then
    if !far.isEmpty then holdBack (.write ((far.map cut).flatten.map (fun p => piece s s.focus p.place (data p))))
  else
    waitUntil (far.isEmpty || outstanding s s.focus < 64) .outstanding
    let first := s.next
    for x in far.zipIdx do
      let whole := if x.2 = 0 then none else some first
      match x.1.head? with
      | some p =>
        let op := ReqOp.store ((cut x.1).map (fun p => piece s s.focus p.place (data p)))
        sendSync (strongSync isStrong) op p.place false isStrong whole
      | none => pure ()
  for p in cut own do putPlain p.place (data p)
  if whole then takeIn (toBytes 8 ((ps.map (·.addr.toNat)).headD 0) ++ toBytes 128 d.val.toNat)
  else takeIn ((ps.map (fun p => toBytes 8 p.addr.toNat ++ (data p).bytes)).flatten)

def vldBody (f : F96Q) : Exec Flow := do
  queueWaits (operands 2 f false true false false false)
  vectorLoad f (← contiguous f .read)
  return .fall

def vstBody (f : F96Q) : Exec Flow := do
  queueWaits (operands 2 f true true false false false)
  vectorStore f true (← contiguous f .write)
  return .fall

def vgathBody (f : F96Q) : Exec Flow := do
  queueWaits (operands 2 f false true false true false)
  vectorLoad f (← indexed f .read)
  return .fall

def vscatBody (f : F96Q) : Exec Flow := do
  queueWaits (operands 2 f true true false true false)
  vectorStore f false (← indexed f .write)
  return .fall

/-! ## The instructions -/

/-- VBCAST (R329). -/
def execVbcast (f : F64A) (s : State) : Host.Outcome State Fault Refusal := issueA (.vbcast f) f (vbcastBody (plain f)) s

/-- VBCAST, queue-wait form (R64). -/
def execVbcastQw (f : F96Q) (s : State) : Host.Outcome State Fault Refusal := issueQ (.vbcastQw f) f (vbcastBody f) s

/-- VRED (R437). -/
def execVred (f : F64A) (s : State) : Host.Outcome State Fault Refusal := issueA (.vred f) f (vredBody (plain f)) s

/-- VRED, queue-wait form (R64). -/
def execVredQw (f : F96Q) (s : State) : Host.Outcome State Fault Refusal := issueQ (.vredQw f) f (vredBody f) s

/-- VSHUF (R438). -/
def execVshuf (f : F64A) (s : State) : Host.Outcome State Fault Refusal := issueA (.vshuf f) f (vshufBody (plain f)) s

/-- VSHUF, queue-wait form (R64). -/
def execVshufQw (f : F96Q) (s : State) : Host.Outcome State Fault Refusal := issueQ (.vshufQw f) f (vshufBody f) s

/-- VCOMP (R432). -/
def execVcomp (f : F64A) (s : State) : Host.Outcome State Fault Refusal := issueA (.vcomp f) f (vcompBody (plain f)) s

/-- VCOMP, queue-wait form (R64). -/
def execVcompQw (f : F96Q) (s : State) : Host.Outcome State Fault Refusal := issueQ (.vcompQw f) f (vcompBody f) s

/-- VIOTA (R435). -/
def execViota (f : F64A) (s : State) : Host.Outcome State Fault Refusal := issueA (.viota f) f (viotaBody (plain f)) s

/-- VIOTA, queue-wait form (R64). -/
def execViotaQw (f : F96Q) (s : State) : Host.Outcome State Fault Refusal := issueQ (.viotaQw f) f (viotaBody f) s

/-- VGATH (R434). -/
def execVgath (f : F64A) (s : State) : Host.Outcome State Fault Refusal := issueA (.vgath f) f (vgathBody (plain f)) s

/-- VGATH, queue-wait form (R64). -/
def execVgathQw (f : F96Q) (s : State) : Host.Outcome State Fault Refusal := issueQ (.vgathQw f) f (vgathBody f) s

/-- VSCAT (R434). -/
def execVscat (f : F64A) (s : State) : Host.Outcome State Fault Refusal := issueA (.vscat f) f (vscatBody (plain f)) s

/-- VSCAT, queue-wait form (R64). -/
def execVscatQw (f : F96Q) (s : State) : Host.Outcome State Fault Refusal := issueQ (.vscatQw f) f (vscatBody f) s

/-- VLD (R436). -/
def execVld (f : F64A) (s : State) : Host.Outcome State Fault Refusal := issueA (.vld f) f (vldBody (plain f)) s

/-- VLD, queue-wait form (R64). -/
def execVldQw (f : F96Q) (s : State) : Host.Outcome State Fault Refusal := issueQ (.vldQw f) f (vldBody f) s

/-- VST (R436). -/
def execVst (f : F64A) (s : State) : Host.Outcome State Fault Refusal := issueA (.vst f) f (vstBody (plain f)) s

/-- VST, queue-wait form (R64). -/
def execVstQw (f : F96Q) (s : State) : Host.Outcome State Fault Refusal := issueQ (.vstQw f) f (vstBody f) s

/-- VEXT (R433). -/
def execVext (f : F64A) (s : State) : Host.Outcome State Fault Refusal := issueA (.vext f) f (vextBody (plain f)) s

/-- VEXT, queue-wait form (R64). -/
def execVextQw (f : F96Q) (s : State) : Host.Outcome State Fault Refusal := issueQ (.vextQw f) f (vextBody f) s

/-- VINS (R433). -/
def execVins (f : F64A) (s : State) : Host.Outcome State Fault Refusal := issueA (.vins f) f (vinsBody (plain f)) s

/-- VINS, queue-wait form (R64). -/
def execVinsQw (f : F96Q) (s : State) : Host.Outcome State Fault Refusal := issueQ (.vinsQw f) f (vinsBody f) s

end Sys2Proof.Machine
end

