-- ==== Sys2Proof/Machine/Dispatch.lean ====
section
/-! DEFINITION. The dispatch of instructions and device steps to their meanings: one arm for every constructor. -/

namespace Sys2Proof.Machine

/-- Runs an instruction or device step at a state. -/
def exec (i : Instr) (s : State) : Host.Outcome State Fault Refusal :=
  match i with
  | .nop f => Sys2Proof.Machine.execNop f s
  | .nop96 f => Sys2Proof.Machine.execNop96 f s
  | .nop128 f => Sys2Proof.Machine.execNop128 f s
  | .add f => Sys2Proof.Machine.execAdd f s
  | .addImm f => Sys2Proof.Machine.execAddImm f s
  | .addQw f => Sys2Proof.Machine.execAddQw f s
  | .sub f => Sys2Proof.Machine.execSub f s
  | .subQw f => Sys2Proof.Machine.execSubQw f s
  | .mul f => Sys2Proof.Machine.execMul f s
  | .mulQw f => Sys2Proof.Machine.execMulQw f s
  | .mulh f => Sys2Proof.Machine.execMulh f s
  | .mulhQw f => Sys2Proof.Machine.execMulhQw f s
  | .div f => Sys2Proof.Machine.execDiv f s
  | .divQw f => Sys2Proof.Machine.execDivQw f s
  | .rem f => Sys2Proof.Machine.execRem f s
  | .remQw f => Sys2Proof.Machine.execRemQw f s
  | .and f => Sys2Proof.Machine.execAnd f s
  | .andImm f => Sys2Proof.Machine.execAndImm f s
  | .andQw f => Sys2Proof.Machine.execAndQw f s
  | .or f => Sys2Proof.Machine.execOr f s
  | .orImm f => Sys2Proof.Machine.execOrImm f s
  | .orQw f => Sys2Proof.Machine.execOrQw f s
  | .xor f => Sys2Proof.Machine.execXor f s
  | .xorImm f => Sys2Proof.Machine.execXorImm f s
  | .xorQw f => Sys2Proof.Machine.execXorQw f s
  | .shl f => Sys2Proof.Machine.execShl f s
  | .shlImm f => Sys2Proof.Machine.execShlImm f s
  | .shlQw f => Sys2Proof.Machine.execShlQw f s
  | .shr f => Sys2Proof.Machine.execShr f s
  | .shrImm f => Sys2Proof.Machine.execShrImm f s
  | .shrQw f => Sys2Proof.Machine.execShrQw f s
  | .sra f => Sys2Proof.Machine.execSra f s
  | .sraImm f => Sys2Proof.Machine.execSraImm f s
  | .sraQw f => Sys2Proof.Machine.execSraQw f s
  | .rot f => Sys2Proof.Machine.execRot f s
  | .rotQw f => Sys2Proof.Machine.execRotQw f s
  | .min f => Sys2Proof.Machine.execMin f s
  | .minQw f => Sys2Proof.Machine.execMinQw f s
  | .max f => Sys2Proof.Machine.execMax f s
  | .maxQw f => Sys2Proof.Machine.execMaxQw f s
  | .clz f => Sys2Proof.Machine.execClz f s
  | .clzQw f => Sys2Proof.Machine.execClzQw f s
  | .popc f => Sys2Proof.Machine.execPopc f s
  | .popcQw f => Sys2Proof.Machine.execPopcQw f s
  | .bfx f => Sys2Proof.Machine.execBfx f s
  | .bfxQw f => Sys2Proof.Machine.execBfxQw f s
  | .bfi f => Sys2Proof.Machine.execBfi f s
  | .bfiQw f => Sys2Proof.Machine.execBfiQw f s
  | .cmp f => Sys2Proof.Machine.execCmp f s
  | .cmpImm f => Sys2Proof.Machine.execCmpImm f s
  | .cmpQw f => Sys2Proof.Machine.execCmpQw f s
  | .sel f => Sys2Proof.Machine.execSel f s
  | .selQw f => Sys2Proof.Machine.execSelQw f s
  | .mov f => Sys2Proof.Machine.execMov f s
  | .movImm f => Sys2Proof.Machine.execMovImm f s
  | .movQw f => Sys2Proof.Machine.execMovQw f s
  | .lea f => Sys2Proof.Machine.execLea f s
  | .leaQw f => Sys2Proof.Machine.execLeaQw f s
  | .gaddr f => Sys2Proof.Machine.execGaddr f s
  | .gaddrQw f => Sys2Proof.Machine.execGaddrQw f s
  | .fadd f => Sys2Proof.Machine.execFadd f s
  | .faddQw f => Sys2Proof.Machine.execFaddQw f s
  | .fsub f => Sys2Proof.Machine.execFsub f s
  | .fsubQw f => Sys2Proof.Machine.execFsubQw f s
  | .fmul f => Sys2Proof.Machine.execFmul f s
  | .fmulQw f => Sys2Proof.Machine.execFmulQw f s
  | .fma f => Sys2Proof.Machine.execFma f s
  | .fmaQw f => Sys2Proof.Machine.execFmaQw f s
  | .fdiv f => Sys2Proof.Machine.execFdiv f s
  | .fdivQw f => Sys2Proof.Machine.execFdivQw f s
  | .fsqrt f => Sys2Proof.Machine.execFsqrt f s
  | .fsqrtQw f => Sys2Proof.Machine.execFsqrtQw f s
  | .fmin f => Sys2Proof.Machine.execFmin f s
  | .fminQw f => Sys2Proof.Machine.execFminQw f s
  | .fmax f => Sys2Proof.Machine.execFmax f s
  | .fmaxQw f => Sys2Proof.Machine.execFmaxQw f s
  | .fcmp f => Sys2Proof.Machine.execFcmp f s
  | .fcmpQw f => Sys2Proof.Machine.execFcmpQw f s
  | .fsgn f => Sys2Proof.Machine.execFsgn f s
  | .fsgnQw f => Sys2Proof.Machine.execFsgnQw f s
  | .fcvt f => Sys2Proof.Machine.execFcvt f s
  | .fcvtQw f => Sys2Proof.Machine.execFcvtQw f s
  | .frnd f => Sys2Proof.Machine.execFrnd f s
  | .frndQw f => Sys2Proof.Machine.execFrndQw f s
  | .fexp2 f => Sys2Proof.Machine.execFexp2 f s
  | .fexp2Qw f => Sys2Proof.Machine.execFexp2Qw f s
  | .flog2 f => Sys2Proof.Machine.execFlog2 f s
  | .flog2Qw f => Sys2Proof.Machine.execFlog2Qw f s
  | .vbcast f => Sys2Proof.Machine.execVbcast f s
  | .vbcastQw f => Sys2Proof.Machine.execVbcastQw f s
  | .vred f => Sys2Proof.Machine.execVred f s
  | .vredQw f => Sys2Proof.Machine.execVredQw f s
  | .vshuf f => Sys2Proof.Machine.execVshuf f s
  | .vshufQw f => Sys2Proof.Machine.execVshufQw f s
  | .vcomp f => Sys2Proof.Machine.execVcomp f s
  | .vcompQw f => Sys2Proof.Machine.execVcompQw f s
  | .viota f => Sys2Proof.Machine.execViota f s
  | .viotaQw f => Sys2Proof.Machine.execViotaQw f s
  | .vgath f => Sys2Proof.Machine.execVgath f s
  | .vgathQw f => Sys2Proof.Machine.execVgathQw f s
  | .vscat f => Sys2Proof.Machine.execVscat f s
  | .vscatQw f => Sys2Proof.Machine.execVscatQw f s
  | .vld f => Sys2Proof.Machine.execVld f s
  | .vldQw f => Sys2Proof.Machine.execVldQw f s
  | .vst f => Sys2Proof.Machine.execVst f s
  | .vstQw f => Sys2Proof.Machine.execVstQw f s
  | .vext f => Sys2Proof.Machine.execVext f s
  | .vextQw f => Sys2Proof.Machine.execVextQw f s
  | .vins f => Sys2Proof.Machine.execVins f s
  | .vinsQw f => Sys2Proof.Machine.execVinsQw f s
  | .plog f => Sys2Proof.Machine.execPlog f s
  | .plogQw f => Sys2Proof.Machine.execPlogQw f s
  | .pmov f => Sys2Proof.Machine.execPmov f s
  | .pmovQw f => Sys2Proof.Machine.execPmovQw f s
  | .ld f => Sys2Proof.Machine.execLd f s
  | .st f => Sys2Proof.Machine.execSt f s
  | .fest f => Sys2Proof.Machine.execFest f s
  | .feq f => Sys2Proof.Machine.execFeq f s
  | .atom f => Sys2Proof.Machine.execAtom f s
  | .acq f => Sys2Proof.Machine.execAcq f s
  | .rel f => Sys2Proof.Machine.execRel f s
  | .fence f => Sys2Proof.Machine.execFence f s
  | .waitseq f => Sys2Proof.Machine.execWaitseq f s
  | .bind f => Sys2Proof.Machine.execBind f s
  | .unbind f => Sys2Proof.Machine.execUnbind f s
  | .barinit f => Sys2Proof.Machine.execBarinit f s
  | .bararv f => Sys2Proof.Machine.execBararv f s
  | .barwait f => Sys2Proof.Machine.execBarwait f s
  | .bardef f => Sys2Proof.Machine.execBardef f s
  | .qbind f => Sys2Proof.Machine.execQbind f s
  | .qadv f => Sys2Proof.Machine.execQadv f s
  | .qpub f => Sys2Proof.Machine.execQpub f s
  | .qavail f => Sys2Proof.Machine.execQavail f s
  | .acton f => Sys2Proof.Machine.execActon f s
  | .actoff f => Sys2Proof.Machine.execActoff f s
  | .fend f => Sys2Proof.Machine.execFend f s
  | .spawn f => Sys2Proof.Machine.execSpawn f s
  | .migr f => Sys2Proof.Machine.execMigr f s
  | .nestcfg f => Sys2Proof.Machine.execNestcfg f s
  | .nestgo f => Sys2Proof.Machine.execNestgo f s
  | .alignh f => Sys2Proof.Machine.execAlignh f s
  | .b f => Sys2Proof.Machine.execB f s
  | .call f => Sys2Proof.Machine.execCall f s
  | .brq f => Sys2Proof.Machine.execBrq f s
  | .j f => Sys2Proof.Machine.execJ f s
  | .jr f => Sys2Proof.Machine.execJr f s
  | .ret f => Sys2Proof.Machine.execRet f s
  | .bopush f => Sys2Proof.Machine.execBopush f s
  | .omclaim f => Sys2Proof.Machine.execOmclaim f s
  | .omrel f => Sys2Proof.Machine.execOmrel f s
  | .accz f => Sys2Proof.Machine.execAccz f s
  | .accrd f => Sys2Proof.Machine.execAccrd f s
  | .accwr f => Sys2Proof.Machine.execAccwr f s
  | .mprog f => Sys2Proof.Machine.execMprog f s
  | .semwait f => Sys2Proof.Machine.execSemwait f s
  | .semsig f => Sys2Proof.Machine.execSemsig f s
  | .tfmt f => Sys2Proof.Machine.execTfmt f s
  | .tqry f => Sys2Proof.Machine.execTqry f s
  | .chseq f => Sys2Proof.Machine.execChseq f s
  | .chtail f => Sys2Proof.Machine.execChtail f s
  | .strbind f => Sys2Proof.Machine.execStrbind f s
  | .mcpoll f => Sys2Proof.Machine.execMcpoll f s
  | .tlook f => Sys2Proof.Machine.execTlook f s
  | .tins f => Sys2Proof.Machine.execTins f s
  | .tevict f => Sys2Proof.Machine.execTevict f s
  | .tlbinv f => Sys2Proof.Machine.execTlbinv f s
  | .probe f => Sys2Proof.Machine.execProbe f s
  | .evqld f => Sys2Proof.Machine.execEvqld f s
  | .evslope f => Sys2Proof.Machine.execEvslope f s
  | .evrun f => Sys2Proof.Machine.execEvrun f s
  | .evgvt f => Sys2Proof.Machine.execEvgvt f s
  | .evstat f => Sys2Proof.Machine.execEvstat f s
  | .pair f => Sys2Proof.Machine.execPair f s
  | .unpair f => Sys2Proof.Machine.execUnpair f s
  | .fpck f => Sys2Proof.Machine.execFpck f s
  | .errq f => Sys2Proof.Machine.execErrq f s
  | .trap f => Sys2Proof.Machine.execTrap f s
  | .eret f => Sys2Proof.Machine.execEret f s
  | .csrr f => Sys2Proof.Machine.execCsrr f s
  | .csrw f => Sys2Proof.Machine.execCsrw f s
  | .wfe f => Sys2Proof.Machine.execWfe f s
  | .tsc f => Sys2Proof.Machine.execTsc f s
  | .cyc f => Sys2Proof.Machine.execCyc f s
  | .halt f => Sys2Proof.Machine.execHalt f s
  | .li f => Sys2Proof.Machine.execLi f s
  | .mma f => Sys2Proof.Machine.execMma f s
  | .copy f => Sys2Proof.Machine.execCopy f s
  | .get f => Sys2Proof.Machine.execGet f s
  | .push f => Sys2Proof.Machine.execPush f s
  | .chapp f => Sys2Proof.Machine.execChapp f s
  | .launch f => Sys2Proof.Machine.execLaunch f s
  | .coll f => Sys2Proof.Machine.execColl f s
  | .puts f => Sys2Proof.Machine.execPuts f s
  | .tdef f => Sys2Proof.Machine.execTdef f s
  | .tdup f => Sys2Proof.Machine.execTdup f s
  | .tlbw f => Sys2Proof.Machine.execTlbw f s
  | .evdef f => Sys2Proof.Machine.execEvdef f s
  | .evdep f => Sys2Proof.Machine.execEvdep f s
  | .evsamp f => Sys2Proof.Machine.execEvsamp f s
  | .launchQueueKick queue tail => Sys2Proof.Machine.execLaunchQueueKick queue tail s
  | .launchRecordCheck src => Sys2Proof.Machine.execLaunchRecordCheck src s
  | .dependencePoll src => Sys2Proof.Machine.execDependencePoll src s
  | .gangPlacement src tiles => Sys2Proof.Machine.execGangPlacement src tiles s
  | .recordBlocking src => Sys2Proof.Machine.execRecordBlocking src s
  | .reexecution gang tiles => Sys2Proof.Machine.execReexecution gang tiles s
  | .actorSelection seq => Sys2Proof.Machine.execActorSelection seq s
  | .reelClaim seq slot => Sys2Proof.Machine.execReelClaim seq slot s
  | .alignhTimeout seq => Sys2Proof.Machine.execAlignhTimeout seq s
  | .deferredArrival gang index => Sys2Proof.Machine.execDeferredArrival gang index s
  | .commandStart tile engine => Sys2Proof.Machine.execCommandStart tile engine s
  | .commandCompletion tile engine number => Sys2Proof.Machine.execCommandCompletion tile engine number s
  | .putsSignal tile engine number => Sys2Proof.Machine.execPutsSignal tile engine number s
  | .switchCombine collective device offer values => Sys2Proof.Machine.execSwitchCombine collective device offer values s
  | .gvtReduction gang peers => Sys2Proof.Machine.execGvtReduction gang peers s
  | .linkCrcGroup port beats crc => Sys2Proof.Machine.execLinkCrcGroup port beats crc s
  | .linkRetrain port found remote => Sys2Proof.Machine.execLinkRetrain port found remote s
  | .switchAttestation slot number digest shown => Sys2Proof.Machine.execSwitchAttestation slot number digest shown s
  | .rectangleReset die rect => Sys2Proof.Machine.execRectangleReset die rect s
  | .bar2Access partition write address data => Sys2Proof.Machine.execBar2Access partition write address data s
  | .feataccWrite partition upper value => Sys2Proof.Machine.execFeataccWrite partition upper value s
  | .pfaultClear partition value => Sys2Proof.Machine.execPfaultClear partition value s
  | .crectWrite die rect value => Sys2Proof.Machine.execCrectWrite die rect value s
  | .layoutEntryWrite partition code value => Sys2Proof.Machine.execLayoutEntryWrite partition code value s
  | .registerWrite function reg value => Sys2Proof.Machine.execRegisterWrite function reg value s
  | .recoveryImage image => Sys2Proof.Machine.execRecoveryImage image s
  | .spdmRequest function index => Sys2Proof.Machine.execSpdmRequest function index s
  | .monitorRefresh monitor value => Sys2Proof.Machine.execMonitorRefresh monitor value s
  | .droopTrip cluster analog => Sys2Proof.Machine.execDroopTrip cluster analog s
  | .wfeTimeout seq => Sys2Proof.Machine.execWfeTimeout seq s
  | .illegalFormat word => Sys2Proof.Machine.execIllegalFormat word s
  | .unassignedOpcode bits => Sys2Proof.Machine.execUnassignedOpcode bits s
  | .fetchTranslationFault address denied => Sys2Proof.Machine.execFetchTranslationFault address denied s
  | .firmwareStartComplete hbmTrained => Sys2Proof.Machine.execFirmwareStartComplete hbmTrained s
  | .deviceIdentifierAssign device => Sys2Proof.Machine.execDeviceIdentifierAssign device s
  | .rendezvousCommit => Sys2Proof.Machine.execRendezvousCommit s
  | .rendezvousRead => Sys2Proof.Machine.execRendezvousRead s
  | .startTick => Sys2Proof.Machine.execStartTick s
  | .rendezvousRecheck => Sys2Proof.Machine.execRendezvousRecheck s
  | .gangCompletion => Sys2Proof.Machine.execGangCompletion s
  | .preempt => Sys2Proof.Machine.execPreempt s
  | .preemptResume => Sys2Proof.Machine.execPreemptResume s
  | .watchdogExpiry => Sys2Proof.Machine.execWatchdogExpiry s
  | .gondolaArrival => Sys2Proof.Machine.execGondolaArrival s
  | .ringReturn => Sys2Proof.Machine.execRingReturn s
  | .mcGondolaArrival => Sys2Proof.Machine.execMcGondolaArrival s
  | .mcRequestCompletion => Sys2Proof.Machine.execMcRequestCompletion s
  | .pushDelivery => Sys2Proof.Machine.execPushDelivery s
  | .mmaKstep => Sys2Proof.Machine.execMmaKstep s
  | .eventItem => Sys2Proof.Machine.execEventItem s
  | .remoteTokenAccept => Sys2Proof.Machine.execRemoteTokenAccept s
  | .gvtReceive => Sys2Proof.Machine.execGvtReceive s
  | .trapDelivery => Sys2Proof.Machine.execTrapDelivery s
  | .requestResponse => Sys2Proof.Machine.execRequestResponse s
  | .ownerAccess => Sys2Proof.Machine.execOwnerAccess s
  | .packetForward => Sys2Proof.Machine.execPacketForward s
  | .packetDelivery => Sys2Proof.Machine.execPacketDelivery s
  | .endToEndTimeout => Sys2Proof.Machine.execEndToEndTimeout s
  | .routingDrain => Sys2Proof.Machine.execRoutingDrain s
  | .routingSwap => Sys2Proof.Machine.execRoutingSwap s
  | .switchRevocation => Sys2Proof.Machine.execSwitchRevocation s
  | .pairBoundary => Sys2Proof.Machine.execPairBoundary s
  | .pairWaitTimeout => Sys2Proof.Machine.execPairWaitTimeout s
  | .functionReset => Sys2Proof.Machine.execFunctionReset s
  | .moduleReset => Sys2Proof.Machine.execModuleReset s
  | .bootRomVerify => Sys2Proof.Machine.execBootRomVerify s
  | .powerEstimate => Sys2Proof.Machine.execPowerEstimate s
  | .stretchEnd => Sys2Proof.Machine.execStretchEnd s
  | .ballastEnd => Sys2Proof.Machine.execBallastEnd s
  | .pad => Sys2Proof.Machine.execPad s
  | .linkDown => Sys2Proof.Machine.execLinkDown s

end Sys2Proof.Machine
end

