-- ==== Sys2Proof/Machine/Fetch.lean ====
section
/-! DEFINITION. Fetching an instruction (R52-R54, R68, R71, R168), and the shipped firmware serving the trap in hand in one
turn (R188, R443). -/

namespace Sys2Proof.Machine

/-! ## Fetch -/

/-- What a fetch comes to: an instruction to execute, with the state after the fetch; or the state after a fetch that finds
none; or a fault of the model. -/
inductive Fetched where
  | run (i : Instr) (s : State)
  | done (s : State)
  | fault (r : Fault)

/-- The state after the decode of code bytes: its findings are counted, and corrections are written back (R165, R273). -/
def afterDecode (q : SeqId) (d : Decoded) (s : State) : State := afterFindings (s.partOf q) (s.gangOf q) d s

/-- Whether code at an address lies past the installed memory. -/
def codeAbsent (s : State) (q : SeqId) (pc : Word) : Bool :=
  match codePlace s q pc with
  | .ok (key, _) => isExternal key && !installed key
  | .error _ => false

/-- The bytes that a fetch takes: those of the whole instruction, or the first word of one that has a wrong format or crosses
a 32-byte block. -/
def fetchLength (pc : Word) (first : BitVec 32) : Nat :=
  if pc.toNat % 32 + lengthOf first ≤ 32 then lengthOf first else 4

/-- The instruction of decoded code bytes; one that crosses a 32-byte block has a wrong format (R53). -/
def fetchedInstr (bs : List Byte) : Instr :=
  match decode bs with
  | .ok (i, _) => i
  | .error _ => .illegalFormat (BitVec.ofNat 32 (ofBytes (bs.take 4)))

/-- The fetch of the sequencer in focus (R71 steps 1 and 2): alignment, translation with the execute right, poison, format. A
misaligned target of ERET or entry of an actor is found here, at the first fetch of what it starts, before translation, with EPC and
TVAL the target: R54 does not say where it is raised (DESIGN CHOICE, log 12). -/
def fetch (s : State) : Fetched :=
  let q := s.focus
  let pc := (s.seq q).pc
  if pairStalled s q then .done (recordWait q .pair s)
  else if pc.toNat % 4 ≠ 0 then .done (raiseTrap q 0x0A pc none pc s)
  else if codeAbsent s q pc then .fault .absentMemory
  else match codeBytes s q pc 4 with
    | .error denied => .run (.fetchTranslationFault pc denied) s
    | .ok d =>
      match codeBytes s q pc (fetchLength pc (BitVec.ofNat 32 (ofBytes d.bytes))) with
      | .error denied => .run (.fetchTranslationFault pc denied) s
      | .ok e =>
        let s' := afterDecode q e s
        if e.poison.any id then .done (consumePoison q (noteConsumed q pc s')) else .run (fetchedInstr e.bytes) s'

/-- Whether a sequencer has an instruction to execute: its firing, or its service core's firmware, is not suspended, waits for
no response, and runs (R95, R142, R146, R149, R218, R297, R357). -/
def runnable (s : State) (q : SeqId) : Bool :=
  let u := s.seq q
  !s.host.stopped && !u.suspended && u.hold.isNone && !matrixStopped s q &&
    (match q with
     | .s _ => true
     | .m _ => u.firing.isSome
     | _ => u.firing.isSome && gangRuns s (s.gangOf q))

/-! ## The shipped firmware (R188, R443) -/

/-- Firmware installs a leaf for the misses that are pending in its span, with A and D set in the structure; a miss that has
become stale is taken anew (R189, R190). -/
def serveMiss (q : SeqId) (t : Trap) (l : Leaf) (s : State) : State :=
  let acc := t.miss.getD .read
  let here := missesIn (tlbOf s q) t.part l.base l.limit
  let inSpan := fun (m : Miss) => m.part == t.part && l.base ≤ m.va && m.va < l.limit
  let settle := fun (gone : Miss → Bool) (s : State) => modTlb q (fun b => { b with misses := b.misses.filter (fun m => !gone m) }) s
  let s := markLeaf t.part t.gang l acc s
  if here.isEmpty then s
  else if here.any (·.isStale l.base l.limit) then settle (fun m => inSpan m && m.isStale l.base l.limit) s
  else settle inSpan (install q (entryOf t.part l acc) s)

/-- Whether the shipped firmware walks for a trap (R443). -/
def isWalked (t : Trap) : Bool := t.code = 0x07 || (t.code = 0x10 && t.miss.isSome)

/-- The shipped firmware's whole handling of the trap in hand, with its ERET: a miss that the walk resolves resumes, an
uncorrectable error of the structures is a partition fault (R186), and every other trap stands. -/
def serveTrap (c : Nat) (s : State) : State :=
  match (s.cluster c).inHand with
  | none => s
  | some t =>
    let s := if isWalked t then noteWalk t.part t.gang t.tval.toNat s else s
    let stands := takeTrap c (stand c t.code.toNat s)
    if !isWalked t then stands
    else match trapSeq t, walk s t.part t.tval.toNat with
      | none, _ => stands
      | some _, .nothing => stands
      | some _, .broken => servicePoison c s
      | some q, .leaf l =>
        if !installable s t.part l then stands
        else if !bothStopped s c then s
        else takeTrap c (resume c false (serveMiss q t l s))

end Sys2Proof.Machine
end

