-- ==== Sys2Proof/Machine/Arbiter.lean ====
section
/-! DEFINITION. What happens next when no turn is given from outside (log 1): the device steps that the state allows, the
sequencers that can issue, the passing of time; and the turn of a step. -/

namespace Sys2Proof.Machine

/-! ## The device steps that the state may allow -/

/-- The tiles of `n` more blocks after those of the earlier ones, each on the first tiles of the first region where it may stand
(R140). -/
def chooseBlocks (s : State) (r : LaunchRecord) : Nat → List Nat → List Nat → List Nat
  | 0, earlier, _ => earlier
  | n + 1, earlier, before =>
    match (blockRegions s r earlier before).head? with
    | some l => chooseBlocks s r n (earlier ++ l.take r.perBlock) (l.take r.perBlock)
    | none => earlier

/-- The tiles that the device chooses for a record (R140; log 20). -/
def chooseTiles (s : State) (r : LaunchRecord) : List Nat := chooseBlocks s r r.blocks [] []

/-- A device step with its subject. -/
abbrev Act := Instr × Nat

/-- The steps of the launch unit for one record (R132, R138, R139, R140). -/
def recordActs (s : State) (src : RecordSource) : List Act :=
  [(.launchRecordCheck src, 0), (.dependencePoll src, 0), (.recordBlocking src, 0)] ++
    (match (candidates s).find? (fun c => c.src == src) with
     | some c => [(.gangPlacement src (chooseTiles s c.rec_.words), 0)]
     | none => [])

/-- Whether a gang has parts on other modules, whose least time the reduction of R239 also takes. -/
def hasPeers (s : State) (u : Gang) : Bool :=
  rendezvousOf u != 0 && s.fabric.peers.any (fun p => p.part == u.part && p.rendezvous == rendezvousOf u)

/-- The steps for one gang (R104, R142, R146, R153, R155, R239, R127); a gang that no engine serves has no reduction (log 43). -/
def gangActs (s : State) (g : Nat) (u : Gang) : List Act :=
  [(.watchdogExpiry, g), (.startTick, g), (.rendezvousRead, g), (.rendezvousRecheck, g), (.rendezvousCommit, 64 + g),
    (.gangCompletion, g)] ++
    (if toReexecute u then [(.reexecution g (chooseTiles s u.record), 0)] else []) ++
    (match u.phase, u.saved with
     | .stopping, _ => [(.preempt, g)]
     | .preempted, some v => if v.complete then [] else [(.preempt, g)]
     | _, _ => []) ++
    (if (enginesOf s g).isEmpty || hasPeers s u then [] else [(.gvtReduction g fInf, 0)]) ++
    (List.range (deferredOf s g).length).map (fun i => (.deferredArrival g i, 0))

/-- The steps for one sequencer (R103, R114, R124, R440). -/
def seqActs (q : SeqId) (u : Seq) : List Act :=
  (if u.firing.isNone then [(.actorSelection q, 0)] else []) ++
    ((List.range 4).filter (fun i => ((u.nests.toList.getD i NestSlot.reset).claiming).isSome)).map (fun i => (.reelClaim q i, 0)) ++
    (if u.deadline.isSome then [(.alignhTimeout q, 0), (.wfeTimeout q, 0)] else [])

/-- The steps for one engine of a tile (R171, R177). -/
def engineActs (t e : Nat) (g : Engine) : List Act :=
  if g.cmds.isEmpty then []
  else (.commandStart t e, 0) ::
    ((g.cmds.filter (fun c => c.state == .running)).map (fun c =>
      [(.commandStart t e, c.number), (.putsSignal t e c.number, 0), (.commandCompletion t e c.number, 0)])).flatten

/-- The steps for one tile (R217, R282, R313). -/
def tileActs (t : Nat) (u : Tile) : List Act :=
  seqActs (.a t) u.a ++ seqActs (.x t) u.x ++ engineActs t 0 u.copy ++ engineActs t 1 u.coll ++
    (if u.matrix.isEmpty then [] else [(.mmaKstep, t)]) ++
    (if u.arrivals.any (·.unread) then [(.ringReturn, t)] else []) ++
    (if u.twin = .primary then [(.pairBoundary, t), (.pairWaitTimeout, t)] else [])

/-- The steps for one cluster (R230, R239, R298, R299, R440). -/
def clusterActs (c : Nat) (u : Cluster) : List Act :=
  (if u.stepTrip.isSome then [(.droopTrip c false, 0)] else []) ++
    (match u.droop with
     | .none => []
     | .stretch _ => [(.stretchEnd, c)]
     | .ballast _ => [(.ballastEnd, c)]) ++
    (if u.ev.gang = 0 then [] else [(.eventItem, c), (.gvtReceive, c)]) ++
    (if u.svc.deadline.isSome then [(.wfeTimeout (.s c), 0)] else [])

/-- The steps for one memory core (R103, R169). -/
def coreActs (c : Nat) (u : MCore) : List Act :=
  seqActs (.m c) u.m ++ (if u.returning.isEmpty then [] else [(.mcRequestCompletion, c)])

/-- The steps for one request (R165, R179, R208). -/
def requestActs (r : Request) : List Act := [(.packetDelivery, r.id), (.ownerAccess, r.id), (.requestResponse, r.id)]

/-- The steps for one packet: its next hop, the next group of its beats on a tether, and its time-out (R250, R255, R256). -/
def packetActs (s : State) (c : Carrier) : List Act :=
  (match packetAt s c with
   | some p => (match p.way.hop with
     | .tether port acked =>
       let beats := groupOfBeats s p acked
       [(.linkCrcGroup port beats (crc32 beats), subjectOf c)]
     | _ => [(.packetForward, subjectOf c)])
   | none => []) ++ [(.endToEndTimeout, subjectOf c)]

/-- A step with each place of a list as its subject. -/
def each {α : Type} (l : List α) (i : Instr) : List Act := (List.range l.length).map (fun n => (i, n))

/-- Every device step that the state may allow; what the host, the firmware, a switch, a link or a peer decides is given from
outside. -/
def acts (s : State) : List Act :=
  (if s.host.devstate = 0 then [(.bootRomVerify, 0)] else []) ++
    (s.launch.queues.map (fun e => recordActs s (.queue e.1))).flatten ++
    (s.launch.pool.map (fun e => recordActs s (.pool e.1))).flatten ++
    (s.launch.gangs.map (fun e => gangActs s e.1 e.2)).flatten ++
    (s.tiles.map (fun e => tileActs e.1 e.2)).flatten ++
    (s.clusters.map (fun e => clusterActs e.1 e.2)).flatten ++
    (s.mcores.map (fun e => coreActs e.1 e.2)).flatten ++
    (s.fabric.requests.map requestActs).flatten ++ ((carriers s).map (packetActs s)).flatten ++
    each s.launch.transit .gondolaArrival ++ each s.launch.transit .mcGondolaArrival ++
    (pushSubjects s).map (fun n => (.pushDelivery, n)) ++ each s.launch.tokens .remoteTokenAccept ++
    each s.launch.undelivered .trapDelivery ++
    (List.range s.launch.reports.length).map (fun i => (.gangCompletion, 2 ^ 64 + i)) ++
    (s.launch.collectives.zipIdx.map (fun x => (.switchCombine x.2 s.host.devid.toNat ⟨x.1.what, false⟩ [], 0))) ++
    (s.fabric.rectState.filter (fun e => e.2 ≠ 0)).map (fun e => (.rectangleReset (e.1 / 16) (e.1 % 16), 0))

/-- Whether a device step would do anything. -/
def effective (s : State) (a : Act) : Bool :=
  let t := { s with subject := a.2 }
  match exec a.1 t with
  | .next t' => t' ≠ t
  | _ => true

/-! ## Sequencers -/

/-- Every sequencer with a firing, and every service core at work. -/
def sequencersOf (s : State) : List SeqId :=
  (s.tiles.map (fun e => [SeqId.a e.1, SeqId.x e.1])).flatten ++ s.mcores.map (fun e => SeqId.m e.1) ++
    s.clusters.map (fun e => SeqId.s e.1)

/-- Whether the instruction at which a sequencer waits would now go on. -/
def goesOn (s : State) (q : SeqId) : Bool :=
  match fetch { s with focus := q } with
  | .run i t => match exec i t with
    | .next t' =>
      let u := t'.seq q
      !(u.wait.isSome && u.pc == (s.seq q).pc && !u.suspended && u.firing == (s.seq q).firing)
    | _ => true
  | .done t => (t.seq q).wait.isNone
  | .fault _ => true

/-- Whether the shipped firmware, not an installed handler, serves a service core's trap: TVEC names none. -/
def shipped (s : State) : SeqId → Bool
  | .s c => (s.cluster c).tvec == 0
  | _ => false

/-- Whether a sequencer can issue now or later without a device step. -/
def canIssue (s : State) (q : SeqId) : Bool := runnable s q && !shipped s q && ((s.seq q).wait.isNone || goesOn s q)

/-- The sequencer that issues first, the first of the list among equals. -/
def earliest (s : State) : List SeqId → Option SeqId
  | [] => none
  | q :: qs => match earliest s qs with
    | some r => if s.issueTime q ≤ s.issueTime r then some q else some r
    | none => some q

/-- A list begun at place `n`. -/
def rotate {α : Type} (n : Nat) (l : List α) : List α := l.drop (n % max l.length 1) ++ l.take (n % max l.length 1)

/-! ## Turns -/

/-- The firmware's turns: a service core that has a trap in hand, a memory core that has a request. -/
def firmwareTurns (s : State) : List Turn :=
  (s.clusters.filter (fun e => e.2.inHand.isSome && shipped s (.s e.1) && (serveTrap e.1 s).clusters ≠ s.clusters)).map
      (fun e => Turn.firmware e.1) ++
    ((s.mcores.filter (fun e => loaderReady s e.1 && (List.range 17).all (fun n => !entrantReady s (.m e.1) n))).map
      (fun e => Turn.loader e.1))

/-- The next device step or firmware's turn, if there is one. -/
def nextEvent (s : State) : Option Turn :=
  match (rotate s.cursor (acts s)).find? (effective s) with
  | some a => some (.event a.1 a.2)
  | none => (rotate s.cursor (firmwareTurns s)).head?

/-- The next time, from now on, at which GVT is reduced, when an engine serves a gang (R239). -/
def nextReduction (s : State) : Option Nat :=
  if s.clusters.any (fun e => e.2.ev.gang ≠ 0) then some ((s.ticks / 1000 + 1) * 1000 * State.tickUnits) else none

/-- The sequencer that issues next, unless a reduction of GVT comes first. -/
def nextRun (s : State) : Option Turn :=
  match earliest s (rotate s.cursor ((sequencersOf s).filter (canIssue s))) with
  | none => none
  | some q => match nextReduction s with
    | some t => if t ≤ s.issueTime q then some (.pass t) else some (.run q)
    | none => some (.run q)

/-- The time of a cycle of a sequencer's clock. -/
def timeOfCycle (s : State) (q : SeqId) (n : Nat) : Nat :=
  match q with
  | .m _ => n * State.cycleUnits
  | q => State.timeOfEdge (s.cluster (serverOf q)) n

/-- The times at which a sequencer's waits end (R124, R440). -/
def seqTimes (s : State) (q : SeqId) : List Nat :=
  match (s.seq q).deadline, (s.seq q).wait with
  | some d, some w => [if w.why = .align then timeOfCycle s q d else d]
  | _, _ => []

/-- The times that concern a gang (R142, R155). -/
def gangTimes (s : State) (g : Nat) (u : Gang) : List Nat :=
  [u.record.startTick * State.tickUnits, commitTick u.record * State.tickUnits,
    (u.record.startTick + recheckLag) * State.tickUnits] ++ (partWaits s g u).map (· + u.period * millisecond)

/-- The times that concern a pair (R282). -/
def pairTimes (s : State) (t : Nat) : List Nat :=
  ((pairSeqs t).filterMap (fun q => (s.seq q).wait)).map (fun w => w.since + waitCycles * State.cycleUnits) ++
    ((pairSeqs t).filterMap (fun q => (s.seq q).wait)).map (fun w => w.since + partnerTicks * State.tickUnits + 1) ++
    ((pairSeqs t).flatMap (fun q => (s.seq q).expects)).map (fun e => e.since + partnerTicks * State.tickUnits + 1)

/-- The times at which a cluster's droop response changes (R299). -/
def droopTimes (u : Cluster) : List Nat :=
  match u.droop with
  | .none => []
  | .stretch b => [State.timeOfEdge u (b + 6)]
  | .ballast b => [State.timeOfEdge u (b + 64)]

/-- The times that concern a record with a start tick (R142). -/
def recordTimes (r : LaunchRecord) : List Nat :=
  if r.tickStart then [r.startTick * State.tickUnits, commitTick r * State.tickUnits] else []

/-- The times at which something may happen by itself. -/
def times (s : State) : List Nat :=
  ((sequencersOf s).map (seqTimes s)).flatten ++ (s.launch.gangs.map (fun e => gangTimes s e.1 e.2)).flatten ++
    ((candidates s).filterMap (fun c => c.rec_.eligible)).map (· + blockingAfter) ++
    ((s.launch.queues.filterMap (·.2.record)) ++ s.launch.pool.map (·.2)).flatMap (fun r => recordTimes r.words) ++
    (packetsOf s).map (fun p => p.way.sentAt + s.fabric.timeout.toNat * microsecond) ++
    (s.pairs.map (fun e => pairTimes s e.1)).flatten ++ (s.clusters.map (fun e => droopTimes e.2)).flatten ++
    (nextReduction s).toList

/-- Time goes on to the next of those times, or by a tick. -/
def nextPass (s : State) : Turn := .pass (((times s).filter (s.time < ·)).min?.getD (s.time + State.tickUnits))

/-- The turn that is taken when none is given: device steps and instructions by turns, and time goes on when neither can. -/
def chosen (s : State) : Turn :=
  if s.cursor % 2 = 0 then ((nextEvent s) <|> (nextRun s)).getD (nextPass s)
  else ((nextRun s) <|> (nextEvent s)).getD (nextPass s)

/-- The turn of a step, with the state that remains: the first given from outside, or the one chosen. -/
def turnOf (s : State) : Turn × State :=
  match s.agenda with
  | t :: rest => (t, { s with agenda := rest })
  | [] => (chosen s, { s with cursor := s.cursor + 1 })

/-! ## What a turn does before anything is executed -/

/-- A sequencer's turn: it fetches, if it has an instruction to execute. -/
def runTurn (q : SeqId) (s : State) : Fetched := if runnable s q then fetch { s with focus := q } else .done s

/-- The outcome of a turn that executes no instruction. -/
def outcomeFetched : Host.Outcome State Fault Refusal → Fetched
  | .next s => .done s
  | .fault r => .fault r
  | .refused _ => .fault .absentMemory

/-- What system software of the domain brings about. -/
def applyDomain (d : Domain) (s : State) : State :=
  match d with
  | .roots l => s.modFabric (fun u => { u with roots := l })
  | .accepted p l => if p < 16 then s.modPart p (fun u => { u with measured := l }) else s
  | .tree p l => if p < 16 then s.modPart p (fun u => { u with tree := l }) else s
  | .peers l => s.modFabric (fun u => { u with peers := l })
  | .bindings l => s.modFabric (fun u => { u with peerBindings := l })

/-- The instruction or device step that a turn executes, with the state it is executed at. -/
def takeTurn (t : Turn) (s : State) : Fetched :=
  match t with
  | .run q => runTurn q s
  | .event i n => .run i { s with subject := n }
  | .pass t => .done { s with time := max s.time t }
  | .firmware c => .done (serveTrap c s)
  | .loader c => outcomeFetched (runLoader c s)
  | .domain d => .done (applyDomain d s)
  | .slack w => .done { s with slack := w }
  | .settle n q => .done (markUnseen (.read q) (·.id == n) s)

/-- What a step executes. -/
def nextTurn (s : State) : Fetched := takeTurn (turnOf s).1 (turnOf s).2

/-! ## Placing an instruction where the next step fetches it -/

/-- The kinds of sequencer on which an instruction may stand, in the order in which one is chosen. -/
def seatOf (i : Instr) : SeqId :=
  if legalOn .x i then .x 0 else if legalOn .a i then .a 0 else if legalOn .m i then .m 0 else .s 0

/-- The first fetch block at or before an address. -/
def blockOf (pc : Word) : Word := pc &&& ~~~0x1F#64

/-- The number of the gang that stands on tile 0 when none does. -/
def placedGang : Nat := 1

/-- A running gang on a tile, for a placed instruction. -/
def gangAt (s : State) (t : Nat) : Gang :=
  { newGang s ⟨Vector.replicate 24 0, true, none, false, 0, 0, 4096, 64, 24⟩ true [t] [[0]] [] with phase := .running }

/-- The state with a gang that runs on a tile. -/
def seatGang (t : Nat) (s : State) : State :=
  if (s.tile t).gang != 0 && gangRuns s (s.tile t).gang then s
  else (s.modLaunch (fun l => { l with gangs := l.gangs.set placedGang (gangAt s t) })).modTile t (fun u => { u with gang := placedGang })

/-- A sequencer that has a firing with an instruction to execute. -/
def seatSeq (q : SeqId) (s : State) : State :=
  let g := match State.tileOf q with
    | some t => (s.tile t).gang
    | none => 0
  s.modSeq q (fun u =>
    { u with
      firing := match q with
        | .s _ => none
        | _ => some (u.firing.getD ⟨1, g, false, 0, []⟩)
      pc := blockOf u.pc
      suspended := false
      hold := none
      wait := none })

/-- A TLB entry under which a page can be read, written and fetched. -/
def codeEntry (s : State) (q : SeqId) (pc : Word) : TlbEntry :=
  ⟨s.partOf q, 0, pc.toNat / 2 ^ 14 * 2 ^ 14, (pc.toNat / 2 ^ 14 + 1) * 2 ^ 14, 0x7F#62⟩

/-- The page of a sequencer's code is translated. -/
def seatCode (q : SeqId) (s : State) : State :=
  match codePlace s q (s.seq q).pc with
  | .ok _ => s
  | .error _ => modTlb q (fun t => { t with entries := codeEntry s q (s.seq q).pc :: t.entries }) s

/-- The bytes of code at a sequencer's program counter. -/
def storeCode (q : SeqId) (bs : List Byte) (s : State) : State :=
  match codePlace s q (s.seq q).pc with
  | .ok (key, leaf) => s.modMem (fun m => writeDecoded m (leafEntry s (s.partOf q) leaf) key bs false)
  | .error _ => s

/-- The sequencer whose turn it will be. -/
def seat (s : State) (i : Instr) : SeqId := if runnable s s.focus && legalOn s.focus.kind i then s.focus else seatOf i

/-- The state with bytes of code at the sequencer whose turn comes next. -/
def withCode (s : State) (i : Instr) (bs : List Byte) : State :=
  let q := seat s i
  let s := match State.tileOf q with
    | some t => seatGang t s
    | none => s
  let s := storeCode q bs (seatCode q (seatSeq q s))
  { s with focus := q, agenda := .run q :: s.agenda }

end Sys2Proof.Machine
end

