-- ==== Sys2Proof/Machine/Step.lean ====
section
/-! DEFINITION. One step of the machine: the next turn, and the instruction or device step that it executes. -/

namespace Sys2Proof.Machine

/-- One step. -/
def step (s : State) : Host.Outcome State Fault Refusal :=
  match nextTurn s with
  | .run i t => exec i t
  | .done t => .next t
  | .fault r => .fault r

/-- The state with an opcode-table word stored where the next step fetches, its turn given (log 17). -/
def State.withFetchWord (s : State) (nbits w : Nat) : State :=
  withCode s ((decodeTableWord nbits w).getD .pad) (tableBytes nbits w)

end Sys2Proof.Machine
end

