-- ==== Sys2Proof/Claims.lean ====
section
/-! DEFINITION. The vocabulary of the statements: the state in which an instruction issues, what it needs to run, what an
operand specifier gives, what a register write leaves, and how an instruction ends. -/

namespace Sys2Proof.Claims

open Sys2Proof.Machine

/-! ## Issue and end -/

/-- The state in which the instruction of the sequencer in focus issues: the time is that of its cycle (R302, R303). -/
def issued (s : State) : State := atIssue s s.focus

/-- The instruction is not held by a pair's boundary, passes the decode checks, and its predicate holds (R38, R71). -/
def Ready (s : State) (i : Instr) (pred : BitVec 3) (pneg : BitVec 1) : Prop :=
  pairStalled s s.focus = false ∧ decodeOk s s.focus i = true ∧ predHolds (s.seq s.focus) pred pneg = true

/-- The instruction is over in `t` and the next one follows it. -/
def falls (s : State) (i : Instr) (t : State) : Host.Outcome State Fault Refusal :=
  .next (complete (isPaired s s.focus) s.focus i (nextPc s s.focus i) .fall t)

/-- The instruction is over in `t` and the program counter is at `target`. -/
def jumps (s : State) (i : Instr) (target : Word) (t : State) : Host.Outcome State Fault Refusal :=
  .next (complete (isPaired s s.focus) s.focus i (nextPc s s.focus i) (.jump target) t)

/-- The instruction is over in `t`, and with it the firing: no program counter moves. -/
def finishes (s : State) (i : Instr) (t : State) : Host.Outcome State Fault Refusal :=
  .next (complete (isPaired s s.focus) s.focus i (nextPc s s.focus i) .ended t)

/-- The instruction raises a cause without a miss, in the state at its issue. -/
def traps (s : State) (i : Instr) (code : Byte) (tval : Word) : Host.Outcome State Fault Refusal :=
  .next (raiseTrap s.focus code tval none (nextPc s s.focus i) (issued s))

/-! ## The sequencer in focus -/

/-- Its registers and marks. -/
def here (u : State) : Seq := u.seq u.focus

/-- Its tile. -/
def home (u : State) : Nat := (State.tileOf u.focus).getD 0

/-- Its pair role; a gondola's firing has none (R279, R328). -/
def role (u : State) : Twin := memberOf u u.focus

/-- Every agent sees every write, and plain accesses take no slack: memory's words have one value for all (R198, R203; log 42). -/
def Calm (u : State) : Prop := u.slack = 0 ∧ u.mem.unseen = []

/-- The sequencer's tile, if it has one, belongs to no bridled pair, and no hold buffer stands under it (R279, R280). -/
def Unpaired (u : State) : Prop :=
  ∀ t, State.tileOf u.focus = some t → (u.tile t).twin = .alone ∧ (u.pair (u.primaryOf t)).held = []

/-- The sequencer stands in no pair, and memory is calm. -/
def Solo (u : State) : Prop := Unpaired u ∧ Calm u

/-- Whether x[n] can be read at once and is not poisoned; x0 always can (R35, R179, R276). -/
def xOk (u : State) (n : Nat) : Bool := n == 0 || (!(here u).xPending.getLsbD n && !(here u).xPoison.getLsbD n)

/-- Whether x[n] can be written at once (R179). -/
def xFree (u : State) (n : Nat) : Bool := n == 0 || !(here u).xPending.getLsbD n

/-- Whether v[n] can be read at once and no lane of it is poisoned. -/
def vOk (u : State) (n : Nat) : Bool := !(here u).vPending.getLsbD n && (here u).vPoison.getD n 0 == 0

/-- Whether v[n] can be written at once. -/
def vFree (u : State) (n : Nat) : Bool := !(here u).vPending.getLsbD n

/-- A pair's member takes bytes into its fingerprint; no other sequencer has one (R281). -/
def noted (bs : List Byte) (u : State) : State :=
  if role u = .alone then u else u.modSeq u.focus (fun q => q.takes (.bytes bs))

/-- x[n] written; x0 discards (R35). -/
def withX (n : Nat) (v : Word) (poison : Bool) (u : State) : State :=
  if n = 0 then u else noted (BitVec.ofNat 8 n :: toBytes 8 v.toNat) (u.modSeq u.focus (fun q => q.setX n v poison))

/-- v[n] written. -/
def withV (n : Nat) (v : VReg) (poison : BitVec 32) (u : State) : State :=
  noted (BitVec.ofNat 8 (0x80 + n) :: toBytes 128 v.toNat) (u.modSeq u.focus (fun q => q.setV n v poison))

/-- p[n] written; p0 discards (R37). -/
def withP (n : Nat) (v : Bool) (u : State) : State :=
  if n = 0 then u
  else noted (BitVec.ofNat 8 (0xC0 + n) :: toBytes 8 (if v then 1 else 0)) (u.modSeq u.focus (fun q => q.setP n v))

/-- Flags raised in FPSTAT (R79). -/
def withFlags (f : Flags) (u : State) : State := u.modSeq u.focus (fun q => { q with fpstat := q.fpstat ||| f })

/-! ## Operands that are no queue and no stream -/

/-- The value of a scalar source: x[n], a constant k, or the immediate; none for another specifier, and for a register that
is pending or poisoned (R35, R36). -/
def scalarAt (u : State) (ty : Nat) (spec : BitVec 6) (imm : BitVec 16) : Option Word :=
  let n := spec.toNat
  if n < 32 then (if xOk u n then some ((here u).x n) else none)
  else if n < 56 then none
  else if n < 60 then some ((here u).ks.getD (n - 56) 0)
  else some (BitVec.ofNat 64 (immediate ty imm))

/-- The value of a vector source: v[n], or the immediate in every element. -/
def vectorAt (u : State) (ty : Nat) (spec : BitVec 6) (imm : BitVec 16) : Option VReg :=
  let n := spec.toNat
  if n < 32 then (if vOk u n then some ((here u).v n) else none)
  else if n < 60 then none
  else some (splat (tyWidth ty) (immediate ty imm))

/-- The first `n` of three scalar sources; the others count as 0. -/
def scalarsAt (u : State) (n ty : Nat) (f : F64A) : Option (Word × Word × Word) :=
  match scalarAt u ty f.a f.imm16, (if 2 ≤ n then scalarAt u ty f.b f.imm16 else some 0),
    (if 3 ≤ n then scalarAt u ty f.c f.imm16 else some 0) with
  | some a, some b, some c => some (a, b, c)
  | _, _, _ => none

/-- The first `n` of three vector sources. -/
def vectorsAt (u : State) (n ty : Nat) (f : F64A) : Option (VReg × VReg × VReg) :=
  match vectorAt u ty f.a f.imm16, (if 2 ≤ n then vectorAt u ty f.b f.imm16 else some 0),
    (if 3 ≤ n then vectorAt u ty f.c f.imm16 else some 0) with
  | some a, some b, some c => some (a, b, c)
  | _, _, _ => none

/-! ## Memory as a statement sees it -/

/-- Whether a word is neither poisoned nor holds a flipped bit (R273, R275). -/
def cleanWord (m : Mem) (w : Nat) : Bool := !m.isPoisoned (wordUnit (8 * w)) && (m.flipsAt (8 * w)).isEmpty

/-- Whether every word that `n` bytes at a key touch is clean. -/
def cleanBytes (m : Mem) (key n : Nat) : Bool := (List.range n).all (fun i => cleanWord m ((key + i) / 8))

/-- The little-endian word of `n` bytes at a key. -/
def wordAt (m : Mem) (key n : Nat) : Nat := ofBytes (m.bytes key n)

/-- Whether an address names `n` bytes of the issuing tile's own scratchpad, aligned, with no request of the issuer in flight
to their words (R156, R198). -/
def ownScratch (u : State) (a : Word) (n align : Nat) : Bool :=
  (State.tileOf u.focus).isSome && formOk a && formOf a == 1 && !shutOut u u.focus a && gtileOf u a == home u &&
    decide (offsetOf a + n ≤ 2 ^ 20) && decide (a.toNat % align = 0) &&
    !inFlight u u.focus (wordsOf (scratchKey (home u) (offsetOf a)) n)

/-- Whether `n` bytes at an address of form 0b01 lie, aligned, in a scratchpad of the issuing module that the issuer may reach (R156). -/
def scratchRange (u : State) (a : Word) (n align : Nat) : Bool :=
  formOk a && formOf a == 1 && deviceOf a == u.host.devid.toNat && (rangeCause a n).isNone && decide (a.toNat % align = 0) &&
    mayReach u u.focus (gtileOf u a)

/-- Whether a region of BIND passes its address checks (R206, R429). -/
def regionFits (u : State) (a len : Word) : Bool :=
  let unit := if formOf a = 0 then 2 ^ 14 else 64
  formOk a && !shutOut u u.focus a && decide (a.toNat % unit = 0) && decide (len.toNat % unit = 0) &&
    (if formOf a = 0 then decide (a.toNat + len.toNat ≤ 2 ^ 54)
     else decide (offsetOf a + len.toNat ≤ 2 ^ 20) && mayReach u u.focus (gtileOf u a))

/-- Whether a synchronisation object of BIND passes its address checks (R206, R429). -/
def objectFits (u : State) (c : Word) : Bool :=
  formOk c && !shutOut u u.focus c && (rangeCause c 8).isNone && decide (c.toNat % 8 = 0) &&
    (formOf c != 1 || mayReach u u.focus (gtileOf u c))

/-- The key of the byte at an offset of the issuing tile's own scratchpad. -/
def ownKey (u : State) (a : Word) : Nat := scratchKey (home u) (offsetOf a)

/-- Bytes written in a scratchpad by the sequencer in focus; a word that is written in part is read and corrected first (R272). -/
def withBytes (key : Nat) (bytes : List Byte) (poison : Bool) (u : State) : State :=
  writeBytes (u.partOf u.focus) (u.gangOf u.focus) 0 key (marked bytes poison) u

/-- The state after a request has left for its home, the oldest number for its flow taken (R179, R208, R261). -/
def sent (op : ReqOp) (p : Place) (ordered hold : Bool) (slot : Option (BitVec 32)) (u : State) : State :=
  let flow := flowOf u.focus (homeOf p) ordered * 4
  let number := u.fabric.flows.get 0 flow
  let r : Request := {
    id := u.next, seq := u.focus, engine := none, firing := u.firingOf u.focus, gang := u.gangOf u.focus, part := u.partOf u.focus
    op := op, home := homeOf p, ordered := ordered, flow := flow, number := number
    stage := .sent, way := Way.start (routerOfSeq u.focus) u.time, slot := slot, void := false, echo := none, whole := u.next }
  let t : State := { u with
    next := u.next + 1
    fabric := { u.fabric with requests := u.fabric.requests ++ [r], flows := u.fabric.flows.set flow (number + 1) } }
  if hold then t.modSeq t.focus (fun q => { q with hold := some r.id }) else t

/-- x[n] marked pending. -/
def pendingX (n : Nat) (u : State) : State := u.modSeq u.focus (fun q => q.setPending n true)

/-- BASE + OFF22 of an F64-M instruction (R41). -/
def addressOf (u : State) (f : F64M) : Word := (here u).x f.base.toNat + f.off22.signExtend 64

/-- What a release waits for is over (R201), and every agent sees every write. -/
def acknowledged (u : State) : Bool := allAcknowledged u u.focus && u.slack == 0 && u.mem.unseen.isEmpty

/-! ## Commands of the engines -/

/-- The command that an instruction appends to engine `e` of tile `t` (R171, R172). -/
def newCommand (u : State) (t e : Nat) (op : CmdOp) (wait : CmdWait) (record : Option Nat) (spans : List Span) : Cmd :=
  { number := (u.engine t e).next
    op := op
    wait := wait
    record := record
    firing := u.firingOf u.focus
    gang := u.gangOf u.focus
    state := .appended
    spans := spans
    sent := 0
    early := []
    awaiting := 0
    token := Config.freeWord u.free
    landed := false
    signalled := false
    poison := 0
    since := u.time }

/-- The state with that command appended, which its firing has begun (R127, R209, R266). -/
def withCommand (t e : Nat) (op : CmdOp) (wait : CmdWait) (record : Option Nat) (spans : List Span) (u : State) : State :=
  let n := (u.engine t e).next
  let v := { u with free := u.free + 1 }.modEngine t e (fun g =>
    { g with next := n + 1, cmds := g.cmds ++ [newCommand u t e op wait record spans] })
  v.modSeq v.focus (fun q => { q with firing := q.firing.map (fun f => { f with begun := f.begun ++ [(e, n)] }) })

/-! ## The two forms of an operation -/

/-- The instruction is the F64-A form or the queue-wait form of the same fields (R64). -/
def EitherForm (i : Instr) (short : F64A → Instr) (long : F96Q → Instr) (f : F96Q) : Prop :=
  i = short f.base ∨ i = long f

/-! ## Numbers of the integer types -/

/-- The number that a type reads from a pattern (R65, R82). -/
def numberOf (ty v : Nat) : Int :=
  if tySigned ty then (BitVec.ofNat (tyWidth ty) v).toInt else ((BitVec.ofNat (tyWidth ty) v).toNat : Int)

/-- The least and the greatest number of a type. -/
def leastOf (ty : Nat) : Int := if tySigned ty then -(2 ^ (tyWidth ty - 1)) else 0
def greatestOf (ty : Nat) : Int :=
  if tySigned ty then 2 ^ (tyWidth ty - 1) - 1 else 2 ^ tyWidth ty - 1

/-- The canonical NaN of a floating-point type (R72). -/
def canonicalNan (ty : Nat) : Nat :=
  match ty with
  | 8 => 0x7E00
  | 9 => 0x7FC0
  | 10 => 0x7FC00000
  | _ => 0x7FF8000000000000

/-! ## Rows of the table that one statement covers -/

/-- A row of integer arithmetic: how many sources it has, the type that extends its result, its operation, its fields. -/
structure IntRow where
  n : Nat
  ty : Nat
  op : IntOp
  f : F96Q

/-- The integer instructions of opcodes 0x01 to 0x18 that compute one result from up to three sources, in both forms (R60,
R61, R64). -/
def intRow : Instr → Option IntRow
  | .add f => some ⟨2, f.ty.toNat, addOp, plain f⟩
  | .addQw f => some ⟨2, f.base.ty.toNat, addOp, f⟩
  | .sub f => some ⟨2, f.ty.toNat, subOp, plain f⟩
  | .subQw f => some ⟨2, f.base.ty.toNat, subOp, f⟩
  | .mul f => some ⟨2, f.ty.toNat, mulOp, plain f⟩
  | .mulQw f => some ⟨2, f.base.ty.toNat, mulOp, f⟩
  | .mulh f => some ⟨2, f.ty.toNat, mulhOp, plain f⟩
  | .mulhQw f => some ⟨2, f.base.ty.toNat, mulhOp, f⟩
  | .div f => some ⟨2, f.ty.toNat, divOp, plain f⟩
  | .divQw f => some ⟨2, f.base.ty.toNat, divOp, f⟩
  | .rem f => some ⟨2, f.ty.toNat, remOp, plain f⟩
  | .remQw f => some ⟨2, f.base.ty.toNat, remOp, f⟩
  | .and f => some ⟨2, f.ty.toNat, andOp, plain f⟩
  | .andQw f => some ⟨2, f.base.ty.toNat, andOp, f⟩
  | .or f => some ⟨2, f.ty.toNat, orOp, plain f⟩
  | .orQw f => some ⟨2, f.base.ty.toNat, orOp, f⟩
  | .xor f => some ⟨2, f.ty.toNat, xorOp, plain f⟩
  | .xorQw f => some ⟨2, f.base.ty.toNat, xorOp, f⟩
  | .shl f => some ⟨2, f.ty.toNat, shlOp, plain f⟩
  | .shlQw f => some ⟨2, f.base.ty.toNat, shlOp, f⟩
  | .shr f => some ⟨2, f.ty.toNat, shrOp, plain f⟩
  | .shrQw f => some ⟨2, f.base.ty.toNat, shrOp, f⟩
  | .sra f => some ⟨2, f.ty.toNat, sraOp, plain f⟩
  | .sraQw f => some ⟨2, f.base.ty.toNat, sraOp, f⟩
  | .rot f => some ⟨2, f.ty.toNat, rotOp, plain f⟩
  | .rotQw f => some ⟨2, f.base.ty.toNat, rotOp, f⟩
  | .min f => some ⟨2, f.ty.toNat, minOp, plain f⟩
  | .minQw f => some ⟨2, f.base.ty.toNat, minOp, f⟩
  | .max f => some ⟨2, f.ty.toNat, maxOp, plain f⟩
  | .maxQw f => some ⟨2, f.base.ty.toNat, maxOp, f⟩
  | .clz f => some ⟨1, f.ty.toNat, clzOp, plain f⟩
  | .clzQw f => some ⟨1, f.base.ty.toNat, clzOp, f⟩
  | .popc f => some ⟨1, f.ty.toNat, popcOp, plain f⟩
  | .popcQw f => some ⟨1, f.base.ty.toNat, popcOp, f⟩
  | .bfx f => some ⟨2, f.ty.toNat, bfxOp, plain f⟩
  | .bfxQw f => some ⟨2, f.base.ty.toNat, bfxOp, f⟩
  | .bfi f => some ⟨3, f.ty.toNat, bfiOp, plain f⟩
  | .bfiQw f => some ⟨3, f.base.ty.toNat, bfiOp, f⟩
  | .lea f => some ⟨3, 3, leaOp, plain f⟩
  | .leaQw f => some ⟨3, 3, leaOp, f⟩
  | .gaddr f => some ⟨3, 3, gaddrOp, plain f⟩
  | .gaddrQw f => some ⟨3, 3, gaddrOp, f⟩
  | _ => none

/-- The F64-I forms of the integer instructions with a source and an immediate (R58, R60). -/
def immRow : Instr → Option (IntOp × F64I)
  | .addImm f => some (addOp, f)
  | .andImm f => some (andOp, f)
  | .orImm f => some (orOp, f)
  | .xorImm f => some (xorOp, f)
  | .shlImm f => some (shlOp, f)
  | .shrImm f => some (shrOp, f)
  | .sraImm f => some (sraOp, f)
  | _ => none

/-- A row of floating-point arithmetic: how many sources it has, its operation, its fields. -/
structure FltRow where
  n : Nat
  op : FltOp
  f : F96Q

/-- The floating-point instructions of opcodes 0x30 to 0x3D that compute one result of their own type (R60, R61, R64). -/
def fltRow : Instr → Option FltRow
  | .fadd f => some ⟨2, faddOp, plain f⟩
  | .faddQw f => some ⟨2, faddOp, f⟩
  | .fsub f => some ⟨2, fsubOp, plain f⟩
  | .fsubQw f => some ⟨2, fsubOp, f⟩
  | .fmul f => some ⟨2, fmulOp, plain f⟩
  | .fmulQw f => some ⟨2, fmulOp, f⟩
  | .fma f => some ⟨3, fmaOp, plain f⟩
  | .fmaQw f => some ⟨3, fmaOp, f⟩
  | .fdiv f => some ⟨2, fdivOp, plain f⟩
  | .fdivQw f => some ⟨2, fdivOp, f⟩
  | .fsqrt f => some ⟨1, fsqrtOp, plain f⟩
  | .fsqrtQw f => some ⟨1, fsqrtOp, f⟩
  | .fmin f => some ⟨2, fminOp, plain f⟩
  | .fminQw f => some ⟨2, fminOp, f⟩
  | .fmax f => some ⟨2, fmaxOp, plain f⟩
  | .fmaxQw f => some ⟨2, fmaxOp, f⟩
  | .fsgn f => some ⟨(if f.fn5 < 2 then 1 else 2), fsgnOp, plain f⟩
  | .fsgnQw f => some ⟨(if f.base.fn5 < 2 then 1 else 2), fsgnOp, f⟩
  | .frnd f => some ⟨1, frndOp, plain f⟩
  | .frndQw f => some ⟨1, frndOp, f⟩
  | .fexp2 f => some ⟨1, fexp2Op, plain f⟩
  | .fexp2Qw f => some ⟨1, fexp2Op, f⟩
  | .flog2 f => some ⟨1, flog2Op, plain f⟩
  | .flog2Qw f => some ⟨1, flog2Op, f⟩
  | _ => none

/-- PRED and PNEG of an encoded instruction; a device step has none (R37, R56). -/
def guardOf : Instr → Option (BitVec 3 × BitVec 1)
  | .nop f => some (f.pred, f.pneg)
  | .nop96 f => some (f.base.pred, f.base.pneg)
  | .nop128 f => some (f.pred, f.pneg)
  | .add f => some (f.pred, f.pneg)
  | .addImm f => some (f.pred, f.pneg)
  | .addQw f => some (f.base.pred, f.base.pneg)
  | .sub f => some (f.pred, f.pneg)
  | .subQw f => some (f.base.pred, f.base.pneg)
  | .mul f => some (f.pred, f.pneg)
  | .mulQw f => some (f.base.pred, f.base.pneg)
  | .mulh f => some (f.pred, f.pneg)
  | .mulhQw f => some (f.base.pred, f.base.pneg)
  | .div f => some (f.pred, f.pneg)
  | .divQw f => some (f.base.pred, f.base.pneg)
  | .rem f => some (f.pred, f.pneg)
  | .remQw f => some (f.base.pred, f.base.pneg)
  | .and f => some (f.pred, f.pneg)
  | .andImm f => some (f.pred, f.pneg)
  | .andQw f => some (f.base.pred, f.base.pneg)
  | .or f => some (f.pred, f.pneg)
  | .orImm f => some (f.pred, f.pneg)
  | .orQw f => some (f.base.pred, f.base.pneg)
  | .xor f => some (f.pred, f.pneg)
  | .xorImm f => some (f.pred, f.pneg)
  | .xorQw f => some (f.base.pred, f.base.pneg)
  | .shl f => some (f.pred, f.pneg)
  | .shlImm f => some (f.pred, f.pneg)
  | .shlQw f => some (f.base.pred, f.base.pneg)
  | .shr f => some (f.pred, f.pneg)
  | .shrImm f => some (f.pred, f.pneg)
  | .shrQw f => some (f.base.pred, f.base.pneg)
  | .sra f => some (f.pred, f.pneg)
  | .sraImm f => some (f.pred, f.pneg)
  | .sraQw f => some (f.base.pred, f.base.pneg)
  | .rot f => some (f.pred, f.pneg)
  | .rotQw f => some (f.base.pred, f.base.pneg)
  | .min f => some (f.pred, f.pneg)
  | .minQw f => some (f.base.pred, f.base.pneg)
  | .max f => some (f.pred, f.pneg)
  | .maxQw f => some (f.base.pred, f.base.pneg)
  | .clz f => some (f.pred, f.pneg)
  | .clzQw f => some (f.base.pred, f.base.pneg)
  | .popc f => some (f.pred, f.pneg)
  | .popcQw f => some (f.base.pred, f.base.pneg)
  | .bfx f => some (f.pred, f.pneg)
  | .bfxQw f => some (f.base.pred, f.base.pneg)
  | .bfi f => some (f.pred, f.pneg)
  | .bfiQw f => some (f.base.pred, f.base.pneg)
  | .cmp f => some (f.pred, f.pneg)
  | .cmpImm f => some (f.pred, f.pneg)
  | .cmpQw f => some (f.base.pred, f.base.pneg)
  | .sel f => some (f.pred, f.pneg)
  | .selQw f => some (f.base.pred, f.base.pneg)
  | .mov f => some (f.pred, f.pneg)
  | .movImm f => some (f.pred, f.pneg)
  | .movQw f => some (f.base.pred, f.base.pneg)
  | .lea f => some (f.pred, f.pneg)
  | .leaQw f => some (f.base.pred, f.base.pneg)
  | .gaddr f => some (f.pred, f.pneg)
  | .gaddrQw f => some (f.base.pred, f.base.pneg)
  | .fadd f => some (f.pred, f.pneg)
  | .faddQw f => some (f.base.pred, f.base.pneg)
  | .fsub f => some (f.pred, f.pneg)
  | .fsubQw f => some (f.base.pred, f.base.pneg)
  | .fmul f => some (f.pred, f.pneg)
  | .fmulQw f => some (f.base.pred, f.base.pneg)
  | .fma f => some (f.pred, f.pneg)
  | .fmaQw f => some (f.base.pred, f.base.pneg)
  | .fdiv f => some (f.pred, f.pneg)
  | .fdivQw f => some (f.base.pred, f.base.pneg)
  | .fsqrt f => some (f.pred, f.pneg)
  | .fsqrtQw f => some (f.base.pred, f.base.pneg)
  | .fmin f => some (f.pred, f.pneg)
  | .fminQw f => some (f.base.pred, f.base.pneg)
  | .fmax f => some (f.pred, f.pneg)
  | .fmaxQw f => some (f.base.pred, f.base.pneg)
  | .fcmp f => some (f.pred, f.pneg)
  | .fcmpQw f => some (f.base.pred, f.base.pneg)
  | .fsgn f => some (f.pred, f.pneg)
  | .fsgnQw f => some (f.base.pred, f.base.pneg)
  | .fcvt f => some (f.pred, f.pneg)
  | .fcvtQw f => some (f.base.pred, f.base.pneg)
  | .frnd f => some (f.pred, f.pneg)
  | .frndQw f => some (f.base.pred, f.base.pneg)
  | .fexp2 f => some (f.pred, f.pneg)
  | .fexp2Qw f => some (f.base.pred, f.base.pneg)
  | .flog2 f => some (f.pred, f.pneg)
  | .flog2Qw f => some (f.base.pred, f.base.pneg)
  | .vbcast f => some (f.pred, f.pneg)
  | .vbcastQw f => some (f.base.pred, f.base.pneg)
  | .vred f => some (f.pred, f.pneg)
  | .vredQw f => some (f.base.pred, f.base.pneg)
  | .vshuf f => some (f.pred, f.pneg)
  | .vshufQw f => some (f.base.pred, f.base.pneg)
  | .vcomp f => some (f.pred, f.pneg)
  | .vcompQw f => some (f.base.pred, f.base.pneg)
  | .viota f => some (f.pred, f.pneg)
  | .viotaQw f => some (f.base.pred, f.base.pneg)
  | .vgath f => some (f.pred, f.pneg)
  | .vgathQw f => some (f.base.pred, f.base.pneg)
  | .vscat f => some (f.pred, f.pneg)
  | .vscatQw f => some (f.base.pred, f.base.pneg)
  | .vld f => some (f.pred, f.pneg)
  | .vldQw f => some (f.base.pred, f.base.pneg)
  | .vst f => some (f.pred, f.pneg)
  | .vstQw f => some (f.base.pred, f.base.pneg)
  | .vext f => some (f.pred, f.pneg)
  | .vextQw f => some (f.base.pred, f.base.pneg)
  | .vins f => some (f.pred, f.pneg)
  | .vinsQw f => some (f.base.pred, f.base.pneg)
  | .plog f => some (f.pred, f.pneg)
  | .plogQw f => some (f.base.pred, f.base.pneg)
  | .pmov f => some (f.pred, f.pneg)
  | .pmovQw f => some (f.base.pred, f.base.pneg)
  | .ld f => some (f.pred, f.pneg)
  | .st f => some (f.pred, f.pneg)
  | .fest f => some (f.pred, f.pneg)
  | .feq f => some (f.pred, f.pneg)
  | .atom f => some (f.pred, f.pneg)
  | .acq f => some (f.pred, f.pneg)
  | .rel f => some (f.pred, f.pneg)
  | .fence f => some (f.pred, f.pneg)
  | .waitseq f => some (f.pred, f.pneg)
  | .bind f => some (f.pred, f.pneg)
  | .unbind f => some (f.pred, f.pneg)
  | .barinit f => some (f.pred, f.pneg)
  | .bararv f => some (f.pred, f.pneg)
  | .barwait f => some (f.pred, f.pneg)
  | .bardef f => some (f.pred, f.pneg)
  | .qbind f => some (f.pred, f.pneg)
  | .qadv f => some (f.pred, f.pneg)
  | .qpub f => some (f.pred, f.pneg)
  | .qavail f => some (f.pred, f.pneg)
  | .acton f => some (f.pred, f.pneg)
  | .actoff f => some (f.pred, f.pneg)
  | .fend f => some (f.pred, f.pneg)
  | .spawn f => some (f.pred, f.pneg)
  | .migr f => some (f.pred, f.pneg)
  | .nestcfg f => some (f.pred, f.pneg)
  | .nestgo f => some (f.pred, f.pneg)
  | .alignh f => some (f.pred, f.pneg)
  | .b f => some (f.pred, f.pneg)
  | .call f => some (f.pred, f.pneg)
  | .brq f => some (f.pred, f.pneg)
  | .j f => some (f.pred, f.pneg)
  | .jr f => some (f.pred, f.pneg)
  | .ret f => some (f.pred, f.pneg)
  | .bopush f => some (f.pred, f.pneg)
  | .omclaim f => some (f.pred, f.pneg)
  | .omrel f => some (f.pred, f.pneg)
  | .accz f => some (f.pred, f.pneg)
  | .accrd f => some (f.pred, f.pneg)
  | .accwr f => some (f.pred, f.pneg)
  | .mprog f => some (f.pred, f.pneg)
  | .semwait f => some (f.pred, f.pneg)
  | .semsig f => some (f.pred, f.pneg)
  | .tfmt f => some (f.pred, f.pneg)
  | .tqry f => some (f.pred, f.pneg)
  | .chseq f => some (f.pred, f.pneg)
  | .chtail f => some (f.pred, f.pneg)
  | .strbind f => some (f.pred, f.pneg)
  | .mcpoll f => some (f.pred, f.pneg)
  | .tlook f => some (f.pred, f.pneg)
  | .tins f => some (f.pred, f.pneg)
  | .tevict f => some (f.pred, f.pneg)
  | .tlbinv f => some (f.pred, f.pneg)
  | .probe f => some (f.pred, f.pneg)
  | .evqld f => some (f.pred, f.pneg)
  | .evslope f => some (f.pred, f.pneg)
  | .evrun f => some (f.pred, f.pneg)
  | .evgvt f => some (f.pred, f.pneg)
  | .evstat f => some (f.pred, f.pneg)
  | .pair f => some (f.pred, f.pneg)
  | .unpair f => some (f.pred, f.pneg)
  | .fpck f => some (f.pred, f.pneg)
  | .errq f => some (f.pred, f.pneg)
  | .trap f => some (f.pred, f.pneg)
  | .eret f => some (f.pred, f.pneg)
  | .csrr f => some (f.pred, f.pneg)
  | .csrw f => some (f.pred, f.pneg)
  | .wfe f => some (f.pred, f.pneg)
  | .tsc f => some (f.pred, f.pneg)
  | .cyc f => some (f.pred, f.pneg)
  | .halt f => some (f.pred, f.pneg)
  | .li f => some (f.pred, f.pneg)
  | .mma f => some (f.pred, f.pneg)
  | .copy f => some (f.pred, f.pneg)
  | .get f => some (f.pred, f.pneg)
  | .push f => some (f.pred, f.pneg)
  | .chapp f => some (f.pred, f.pneg)
  | .launch f => some (f.pred, f.pneg)
  | .coll f => some (f.pred, f.pneg)
  | .puts f => some (f.pred, f.pneg)
  | .tdef f => some (f.pred, f.pneg)
  | .tdup f => some (f.pred, f.pneg)
  | .tlbw f => some (f.pred, f.pneg)
  | .evdef f => some (f.pred, f.pneg)
  | .evdep f => some (f.pred, f.pneg)
  | .evsamp f => some (f.pred, f.pneg)
  | _ => none

end Sys2Proof.Claims
end

