-- ==== Sys2Proof/Safety.lean ====
section
/-! DEFINITION. What a safe step is: it answers a next state, and the bytes of memory stay in their canonical form. -/

namespace Sys2Proof.Machine

/-- Whether a state's memory is in canonical form. -/
def State.memOk (s : State) : Bool := s.mem.wf

/-- Whether an outcome is a next state with its memory in canonical form. -/
def safeOutcome : Host.Outcome State Fault Refusal → Bool
  | .next s => s.memOk
  | .fault _ => false
  | .refused _ => false

/-- Whether the next step of a state is safe. -/
def State.stepsSafely (s : State) : Bool := safeOutcome (step s)

end Sys2Proof.Machine
end

