-- ==== Sys2Proof/Certificates/Slice0/Obligations.lean ====
section
/-! DEFINITION. The statements about the machine, from the rules of the spec. -/

open Sys2Proof Sys2Proof.Machine Sys2Proof.Claims

/-! ## Steps, fetch and decode -/

/-- A step takes the first turn given from outside, or the one chosen. When that turn is a sequencer's and the bytes at its
program counter decode to an instruction, the step is that instruction's meaning at the fetched state; a device step given
as a turn is executed at its subject (R52, R71). Which turn is taken, the first of those given from outside or else that of the round
and its cursor, is the model's choice (log 1). -/
def Obligations.StepRunsDecodedInstruction : Prop :=
  (∀ (s : State) (t : Turn) (rest : List Turn), s.agenda = t :: rest → turnOf s = (t, { s with agenda := rest })) ∧
  (∀ s : State, s.agenda = [] → turnOf s = (chosen s, { s with cursor := s.cursor + 1 })) ∧
  (∀ (s : State) (q : SeqId) (d e : Decoded) (i : Instr) (tail : List Byte),
    let t := { (turnOf s).2 with focus := q }
    let pc := (t.seq q).pc
    (turnOf s).1 = .run q → runnable (turnOf s).2 q = true → pairStalled t q = false → pc.toNat % 4 = 0 →
    codeAbsent t q pc = false → codeBytes t q pc 4 = .ok d →
    codeBytes t q pc (fetchLength pc (BitVec.ofNat 32 (ofBytes d.bytes))) = .ok e → e.poison.any id = false →
    decode e.bytes = .ok (i, tail) → step s = exec i (afterDecode q e t)) ∧
  (∀ (s : State) (i : Instr) (n : Nat), (turnOf s).1 = .event i n → step s = exec i { (turnOf s).2 with subject := n })

/-- Decoding the encoding of an instruction, whatever bytes follow, gives the instruction and those bytes (R52-R64). -/
def Obligations.DecodeInvertsEncode : Prop :=
  ∀ (i : Instr) (rest : List Byte), hasWords i = true → decode (encode i ++ rest) = .ok (i, rest)

/-- Encoding what a list of bytes decodes to gives its first bytes back: no two words of an instruction mean the same, and no
bit of a word is dropped (R52-R64). -/
def Obligations.EncodeInvertsDecode : Prop :=
  ∀ (bs rest : List Byte) (i : Instr), decode bs = .ok (i, rest) → encode i ++ rest = bs

/-- Words written out from the spec's encodings decode to the instructions they stand for: the examples of R35, R36
and R37, PAD, and one word of each format built from its field table (R56, R60-R62). -/
def Obligations.WrittenWordsDecode : Prop :=
  decodeTableWord 64 0x000000C00810C005 =
    some (.add { pred := 0, pneg := 0, d := 3, a := 1, b := 2, c := 0, ty := 3, fn := 0, imm16 := 0 }) ∧
  decodeTableWord 64 0x000000C00810E805 =
    some (.add { pred := 2, pneg := 1, d := 3, a := 1, b := 2, c := 0, ty := 3, fn := 0, imm16 := 0 }) ∧
  decodeTableWord 64 0x000800C0F0410005 =
    some (.add { pred := 0, pneg := 0, d := 4, a := 4, b := 60, c := 0, ty := 3, fn := 0, imm16 := 8 }) ∧
  decodeTableWord 64 0x000082800C2040C1 =
    some (.fadd { pred := 0, pneg := 0, d := 1, a := 2, b := 3, c := 0, ty := 10, fn := 0x20, imm16 := 0 }) ∧
  decodeTableWord 32 0xFFFFFFFC = some .pad ∧
  decodeTableWord 32 0x00000010 = some (.illegalFormat 0x00000010) ∧
  decodeTableWord 64 (1 + 0x70 * 2 ^ 2 + 5 * 2 ^ 14 + 6 * 2 ^ 20 + 3 * 2 ^ 26 + 1 * 2 ^ 34 + 16 * 2 ^ 42) =
    some (.ld { pred := 0, pneg := 0, d := 5, base := 6, ty := 3, sc := 0, ord := 1, fe := 0, fn3 := 0, off22 := 16 }) ∧
  decodeTableWord 64 (1 + 0x98 * 2 ^ 2 + 1 * 2 ^ 14 + 2 * 2 ^ 20 + 2 * 2 ^ 26 + (2 ^ 34 - 2) * 2 ^ 30) =
    some (.b { pred := 0, pneg := 0, a := 1, b := 2, cc := 2, disp34 := BitVec.ofNat 34 (2 ^ 34 - 2) }) ∧
  decodeTableWord 64 (1 + 0x20 * 2 ^ 2 + 7 * 2 ^ 14 + 8 * 2 ^ 20 + 2 * 2 ^ 26 + 9 * 2 ^ 30) =
    some (.addImm { pred := 0, pneg := 0, d := 7, a := 8, ty := 2, imm34 := 9 }) ∧
  decodeTableWord 96 (2 + 0x81 * 2 ^ 2 + 3 * 2 ^ 14 + 32 * 2 ^ 20 + 2 * 2 ^ 26 + 3 * 2 ^ 38 + 1 * 2 ^ 64) =
    some (.addQw { base := { pred := 0, pneg := 0, d := 3, a := 32, b := 2, c := 0, ty := 3, fn := 0, imm16 := 0 },
                   wa := 1, wb := 0, wc := 0, wd := 0 }) ∧
  decodeTableWord 96 (2 + 0x10 * 2 ^ 2 + 2 * 2 ^ 38 + 1 * 2 ^ 46 + 7 * 2 ^ 64) =
    some (.mma { pred := 0, pneg := 0, d := 0, a := 0, b := 0, c := 0, tida := 2, tidb := 1, tidc := 0, zero := 0, aux32 := 7 }) ∧
  decodeTableWord 96 (2 + 0x01 * 2 ^ 2 + 4 * 2 ^ 14 + 0x123456789ABCDEF0 * 2 ^ 32) =
    some (.li { pred := 0, pneg := 0, d := 4, zero1 := 0, ty := 0, zero2 := 0, imm64 := 0x123456789ABCDEF0 }) ∧
  decodeTableWord 128 (3 + 0x06 * 2 ^ 2 + 1 * 2 ^ 20 + 2 * 2 ^ 26 + 3 * 2 ^ 32 + 1 * 2 ^ 38) =
    some (.tlbw { pred := 0, pneg := 0, d := 0, a := 1, b := 2, c := 3, sub8 := 1, flags18 := 0, imm64 := 0 })

/-- What a fetch finds in place of an instruction: a first word with L = 0 is PAD if it is 0xFFFFFFFC, which does nothing
while fetch goes on 4 bytes later; any other raises 0x02 with the word; an unassigned opcode raises 0x01 with the
instruction's low 64 bits; a fetch that the translation denies raises 0x08, one that it misses 0x07, both with the address
(R53, R54, R63, R71). A fetch block is 32 bytes: an instruction that crosses its end is read as its first word alone, which
then has a wrong format; a program counter that is not 4-byte aligned raises 0x0A; a fetch from poisoned bytes consumes them
(R54, R71, R276). That a misaligned program counter raises 0x0A at the fetch, before translation, with EPC and TVAL the counter, is the
model's choice (log 12).
Completion, by equalities exec i s = next t under conditions on state and operands alone, for illegalFormat,
unassignedOpcode, fetchTranslationFault, pad. -/
def Obligations.FetchFindings : Prop :=
  (∀ s : State,
     (∀ w : BitVec 32, w.extractLsb' 0 2 = 0 →
       decode (toBytes 4 w.toNat) = .ok (if w = 0xFFFFFFFC then .pad else .illegalFormat w, [])) ∧
     exec .pad s = .next (setPc s.focus ((s.seq s.focus).pc + 4) s) ∧
     (∀ w : BitVec 32, ∃ after, exec (.illegalFormat w) s = .next (raiseTrap s.focus 0x02 (w.setWidth 64) none after s)) ∧
     (∀ w : BitVec 128, ∃ after, exec (.unassignedOpcode w) s = .next (raiseTrap s.focus 0x01 (w.setWidth 64) none after s)) ∧
     (∀ a : Word, ∃ after, exec (.fetchTranslationFault a true) s = .next (raiseTrap s.focus 0x08 a none after s)) ∧
     (∀ a : Word, ∃ after, exec (.fetchTranslationFault a false) s = .next (raiseTrap s.focus 0x07 a (some .fetch) after s))) ∧
  (∀ (s : State), pairStalled s s.focus = false →
     let q := s.focus
     let pc := (s.seq q).pc
     (pc.toNat % 4 ≠ 0 → fetch s = .done (raiseTrap q 0x0A pc none pc s)) ∧
     (pc.toNat % 4 = 0 → codeAbsent s q pc = false → ∀ d, codeBytes s q pc 4 = .ok d →
       let first : BitVec 32 := BitVec.ofNat 32 (ofBytes d.bytes)
       (32 < pc.toNat % 32 + lengthOf first → d.poison.any id = false → d.bytes.length = 4 → first.extractLsb' 0 2 ≠ 0 →
         fetch s = .run (.illegalFormat first) (afterDecode q d s)) ∧
       (∀ e, codeBytes s q pc (fetchLength pc first) = .ok e → e.poison.any id = true →
         fetch s = .done (consumePoison q (noteConsumed q pc (afterDecode q e s))))) ∧
     (pc.toNat % 4 = 0 → codeAbsent s q pc = false → ∀ denied, codeBytes s q pc 4 = .error denied →
       fetch s = .run (.fetchTranslationFault pc denied) s))

/-- Bytes of memory keep their canonical form, keys rising and no zero byte listed, over every step from every state that
has it. -/
def Obligations.MemoryStaysCanonical : Prop :=
  ∀ s t : State, s.memOk = true → step s = .next t → t.memOk = true

/-- After reset memory lists nothing and has its canonical form, and a byte that nothing has written reads 0; that it reads 0
is the model's choice (log 11). The CSRs that every sequencer reads at reset as their maps state: STATUS by kind, the trap
registers and TVEC of a service core zero but for CAUSE.UNIT, GROUPS, PARTID, the spill registers, OUTSTD, ARRCAP, LIVELIM,
LPOOL, LDEPTH, ATBASE, ATCFG, FPIVAL, PAIRST, DRPTH, DRPST, EVTMIN and ERRCNT (R67-R69, R97, R98, R120, R122, R145, R180,
R182, R238, R284, R286, R300). -/
def Obligations.ResetState : Prop :=
  (State.reset.memOk = true ∧ State.reset.mem.cells = [] ∧ ∀ k, State.reset.mem.byte k = 0) ∧
  (∀ n : Nat,
     csrValue State.reset (.a n) .status = 0 ∧ csrValue State.reset (.x n) .status = 0x80 ∧
     csrValue State.reset (.m n) .status = 0x100 ∧ csrValue State.reset (.s n) .status = 0x380 ∧
     csrValue State.reset (.s n) .cause = 0xFFFF000000000000 ∧
     csrValue State.reset (.s n) .epc = 0 ∧ csrValue State.reset (.s n) .tval = 0 ∧ csrValue State.reset (.s n) .tvec = 0 ∧
     csrValue State.reset (.a n) .groups = 0 ∧ csrValue State.reset (.a n) .partid = 0 ∧
     csrValue State.reset (.a n) .fprm = 0 ∧ csrValue State.reset (.x n) .fpstat = 0 ∧
     csrValue State.reset (.a n) .cspill = 0 ∧ csrValue State.reset (.a n) .csplim = 0 ∧
     csrValue State.reset (.a n) .outstd = 0x4000 ∧ csrValue State.reset (.a n) .arrcap = 64 ∧
     csrValue State.reset (.a n) .livelim = 4096 ∧ csrValue State.reset (.a n) .lpool = 64 ∧
     csrValue State.reset (.a n) .ldepth = 24 ∧ csrValue State.reset (.s n) .atbase = 0 ∧
     csrValue State.reset (.s n) .atcfg = 0 ∧ csrValue State.reset (.a n) .fpival = 4096 ∧
     csrValue State.reset (.a n) .pairst = 0 ∧ csrValue State.reset (.s n) .pairst = 3 ∧
     csrValue State.reset (.s n) .drpth = 0x04182D ∧ csrValue State.reset (.s n) .drpst = 0 ∧
     (∀ i, i < 8 → csrValue State.reset (.x n) (.evtmin i) = 0 ∧ csrValue State.reset (.s n) (.errcnt i) = 0))

/-! ## Issue and end of an instruction -/

/-- The state at an instruction's issue differs from the one before it only in the time, which does not go back, in the cycle that the
issuing sequencer notes, and where the step source of its cluster's droop detector tripped in an earlier cycle, in that trip; the end of an
instruction that goes on at the next changes, outside a bridled pair, only its program counter, its wait and deadline, and what the
droop detector of its cluster sees of a vector instruction. Every register, mark, queue, byte of memory and unit not named is as the
instruction's effect left it (R298, R302, R303). -/
def Obligations.IssueAndEndFrame : Prop :=
  (∀ s : State, s.time ≤ (issued s).time ∧
    (let r := settleBefore s s.focus
     (issued s) = { (r.modSeq s.focus (fun u => { u with lastIssue := (here (issued s)).lastIssue, cycleBases := (here (issued s)).cycleBases })) with
       time := (issued s).time } ∧
     r = { s with clusters := r.clusters } ∧ (∀ c, c ≠ serverOf s.focus → r.cluster c = s.cluster c) ∧
     ((s.cluster (serverOf s.focus)).stepTrip = none → r = s) ∧
     (∀ q, r.seq q = s.seq q))) ∧
  (∀ (t : State) (q : SeqId) (i : Instr) (pc : Word) (f : Flow),
    let seen := noteLanes q i t
    complete false q i pc f t = seen.modSeq q (fun u => { u with
      wait := none, deadline := none
      pc := match f with
        | .fall => pc
        | .jump target => target
        | .ended => u.pc }) ∧
    (seen = t ∨ seen = t.modCluster (serverOf q) (fun u => { u with
      vectorCycles := (seen.cluster (serverOf q)).vectorCycles, stepTrip := (seen.cluster (serverOf q)).stepTrip })))

/-- An encoded instruction whose predicate does not hold is over with no other effect than the program counter's advance: no
wait, no access, no register, no trap (R37, R38). An encoded instruction that fails a decode check raises 0x01 with its low 64
bits, whether or not its predicate holds, and nothing else of the state at its issue changes before the trap; so does a word
of an unassigned opcode, and one that breaks the length framing or crosses its fetch block raises 0x02, whatever their
predicates (R38, R71). That the checks of specifiers, wait bytes, ORD, FE, SC and CC are decode checks, made whether or not the predicate
holds, is the model's choice (log 25). -/
def Obligations.PredicatesAndDecodeChecks : Prop :=
  (∀ (s : State) (i : Instr) (p : BitVec 3) (n : BitVec 1), guardOf i = some (p, n) → pairStalled s s.focus = false →
     decodeOk s s.focus i = true → predHolds (s.seq s.focus) p n = false →
     exec i s = .next (setPc s.focus (nextPc s s.focus i) (retire (isPaired s s.focus) s.focus (issued s)))) ∧
  (∀ s : State,
     (∀ (i : Instr) (g : BitVec 3 × BitVec 1), guardOf i = some g → pairStalled s s.focus = false →
       decodeOk s s.focus i = false → exec i s = traps s i 0x01 (lowBits i)) ∧
     (∀ w : BitVec 128, ∃ after, exec (.unassignedOpcode w) s = .next (raiseTrap s.focus 0x01 (w.setWidth 64) none after s)) ∧
     (∀ w : BitVec 32, ∃ after, exec (.illegalFormat w) s = .next (raiseTrap s.focus 0x02 (w.setWidth 64) none after s)))

/-! ## Integer instructions -/

/-- Integer arithmetic on patterns of a type's width: sums, differences and products wrap, or a sum and a difference clamp to
the type's range with FN[4:0] = 1; MULH is the high half of the exact product; a division by 0 gives all ones and the
least value by -1 gives itself; a remainder by 0 gives the dividend; quotients truncate; MIN and MAX compare as the type
says (R82, R83, R337, R356, R388, R394, R409, R419). -/
def Obligations.IntegerArithmeticValues : Prop :=
  ∀ (ty a b c : Nat), ty < 8 →
    let w := tyWidth ty
    let x := BitVec.ofNat w a
    let y := BitVec.ofNat w b
    let p := numberOf ty a
    let q := numberOf ty b
    let low := fun (v : Nat) => BitVec.ofNat w v
    low (addOp ty 0 a b c) = x + y ∧ low (subOp ty 0 a b c) = x - y ∧ low (mulOp ty 0 a b c) = x * y ∧
    low (addOp ty 1 a b c) = BitVec.ofInt w (max (leastOf ty) (min (greatestOf ty) (p + q))) ∧
    low (subOp ty 1 a b c) = BitVec.ofInt w (max (leastOf ty) (min (greatestOf ty) (p - q))) ∧
    low (mulhOp ty 0 a b c) =
      (if tySigned ty then (x.signExtend (2 * w) * y.signExtend (2 * w)).extractLsb' w w
       else (x.setWidth (2 * w) * y.setWidth (2 * w)).extractLsb' w w) ∧
    low (divOp ty 0 a b c) = (if y = 0 then BitVec.allOnes w else if tySigned ty then x.sdiv y else x / y) ∧
    low (remOp ty 0 a b c) = (if y = 0 then x else if tySigned ty then x.srem y else x % y) ∧
    low (minOp ty 0 a b c) = (if p ≤ q then x else y) ∧ low (maxOp ty 0 a b c) = (if p ≤ q then y else x)

/-- Logic, shifts by the whole of B with zeros or sign bits beyond the width, rotation by B modulo the width, and the counts
of leading zeros and of ones, on patterns of a type's width (R339, R350, R398, R402, R411, R414, R442). BFX takes the field of
B[12:6] bits at B[5:0], cut at bit 63, sign-extended for i64; BFI puts A's low bits in that place of C; LEA adds A, B shifted
left by FN[2:0], and C; GADDR puts the device, the tile and the offset together under 0b01 (R344, R379, R386). -/
def Obligations.IntegerFieldValues : Prop :=
  (∀ (ty a b c : Nat), ty < 8 →
     let w := tyWidth ty
     let x := BitVec.ofNat w a
     let y := BitVec.ofNat w b
     let low := fun (v : Nat) => BitVec.ofNat w v
     low (andOp ty 0 a b c) = x &&& y ∧ low (orOp ty 0 a b c) = x ||| y ∧ low (xorOp ty 0 a b c) = x ^^^ y ∧
     low (shlOp ty 0 a b c) = x <<< b ∧ low (shrOp ty 0 a b c) = x >>> b ∧ low (sraOp ty 0 a b c) = x.sshiftRight b ∧
     low (rotOp ty 0 a b c) = x.rotateLeft b ∧
     clzOp ty 0 a b c = ((List.range w).takeWhile (fun i => !x.getLsbD (w - 1 - i))).length ∧
     popcOp ty 0 a b c = ((List.range w).filter (fun i => x.getLsbD i)).length) ∧
  (∀ (a b c : Word) (ty fn : Nat),
     let pos := (b.extractLsb' 0 6).toNat
     let len := min (b.extractLsb' 6 7).toNat (64 - pos)
     (∀ i, i < 64 → (BitVec.ofNat 64 (bfxOp ty 0 a.toNat b.toNat c.toNat)).getLsbD i =
       (if i < len then a.getLsbD (pos + i) else (ty = 3 && 0 < len && a.getLsbD (pos + len - 1)))) ∧
     (∀ i, i < 64 → (BitVec.ofNat 64 (bfiOp ty 0 a.toNat b.toNat c.toNat)).getLsbD i =
       (if pos ≤ i ∧ i < pos + len then a.getLsbD (i - pos) else c.getLsbD i)) ∧
     BitVec.ofNat 64 (leaOp ty fn a.toNat b.toNat c.toNat) = a + (b <<< fn) + c ∧
     BitVec.ofNat 64 (gaddrOp ty 0 a.toNat b.toNat c.toNat) =
       1#2 ++ a.extractLsb' 0 8 ++ b.extractLsb' 0 11 ++ 0#23 ++ c.extractLsb' 0 20)

/-- A scalar integer instruction of opcodes 0x01 to 0x18, in either form, whose sources are registers, constants and
immediates and whose D is an x register, writes D with its operation's result extended from its type and nothing else (R35,
R36, R75, R82). The vector class of the same instructions writes v register D with the operation's result in every element
(R57, R76).
Completion, by equalities exec i s = next t under conditions on state and operands alone, for add, addQw, sub, subQw, mul,
mulQw, mulh, mulhQw, div, divQw, rem, remQw, and, andQw, or, orQw, xor, xorQw, shl, shlQw, shr, shrQw, sra, sraQw, rot,
rotQw, min, minQw, max, maxQw, clz, clzQw, popc, popcQw, bfx, bfxQw, bfi, bfiQw, lea, leaQw, gaddr, gaddrQw. -/
def Obligations.IntegerResults : Prop :=
  (∀ (s : State) (i : Instr) (r : IntRow) (a b c : Word),
     let f := r.f.base
     let d := f.d.toNat
     intRow i = some r → Ready s i f.pred f.pneg → f.isVec = false →
     scalarsAt (issued s) r.n r.ty f = some (a, b, c) → d < 32 → xFree (issued s) d = true →
     exec i s = falls s i (withX d (extend r.ty (r.op r.ty f.fn5 a.toNat b.toNat c.toNat)) false (issued s))) ∧
  (∀ (s : State) (i : Instr) (r : IntRow) (a b c : VReg),
     let f := r.f.base
     let d := f.d.toNat
     let w := tyWidth r.ty
     intRow i = some r → Ready s i f.pred f.pneg → f.isVec = true →
     vectorsAt (issued s) r.n r.ty f = some (a, b, c) → d < 32 → vFree (issued s) d = true →
     exec i s = falls s i (withV d
       (buildElements w (fun j => r.op r.ty f.fn5 (element a w j) (element b w j) (element c w j))) 0 (issued s)))

/-- The F64-I forms take IMM34, sign-extended, for B; MOV of it and LI write the immediate itself (R58, R333, R387). CMP
writes the truth of its condition to the predicate D in its three forms, FCMP that of its own with the flags it raises; p0
discards (R351, R366).
Completion, by equalities exec i s = next t under conditions on state and operands alone, for addImm, andImm, orImm, xorImm,
shlImm, shrImm, sraImm, movImm, li, cmp, cmpQw, cmpImm, fcmp, fcmpQw. -/
def Obligations.ImmediateFormsAndCompares : Prop :=
  ((∀ (s : State) (i : Instr) (op : IntOp) (f : F64I) (a : Word),
     immRow i = some (op, f) → Ready s i f.pred f.pneg → scalarAt (issued s) f.ty.toNat f.a 0 = some a →
     f.d.toNat < 32 → xFree (issued s) f.d.toNat = true →
     exec i s = falls s i (withX f.d.toNat
       (extend f.ty.toNat (op f.ty.toNat 0 a.toNat (f.imm34.signExtend 64).toNat 0)) false (issued s))) ∧
   (∀ (s : State) (f : F64I), Ready s (.movImm f) f.pred f.pneg → f.d.toNat < 32 → xFree (issued s) f.d.toNat = true →
     exec (.movImm f) s = falls s (.movImm f)
       (withX f.d.toNat (extend f.ty.toNat (f.imm34.signExtend 64).toNat) false (issued s))) ∧
   (∀ (s : State) (f : F96I), Ready s (.li f) f.pred f.pneg → f.d.toNat < 32 → xFree (issued s) f.d.toNat = true →
     exec (.li f) s = falls s (.li f) (withX f.d.toNat f.imm64 false (issued s)))) ∧
  ((∀ (s : State) (i : Instr) (f : F96Q) (a b c : Word), EitherForm i .cmp .cmpQw f →
     Ready s i f.base.pred f.base.pneg → scalarsAt (issued s) 2 f.base.ty.toNat f.base = some (a, b, c) →
     exec i s = falls s i
       (withP f.base.d.toNat (cmpHolds f.base.ty.toNat f.base.fn5 a.toNat b.toNat) (issued s))) ∧
   (∀ (s : State) (f : F64I) (a : Word), Ready s (.cmpImm f) f.pred f.pneg →
     scalarAt (issued s) f.ty.toNat f.a 0 = some a →
     exec (.cmpImm f) s = falls s (.cmpImm f)
       (withP (f.d.toNat % 8) (cmpHolds f.ty.toNat (f.d.toNat / 8) a.toNat (f.imm34.signExtend 64).toNat) (issued s))) ∧
   (∀ (s : State) (i : Instr) (f : F96Q) (a b c : Word), EitherForm i .fcmp .fcmpQw f →
     Ready s i f.base.pred f.base.pneg → scalarsAt (issued s) 2 f.base.ty.toNat f.base = some (a, b, c) →
     let r := fcmp f.base.fn5 ((fmtOf f.base.ty.toNat).decode a.toNat) ((fmtOf f.base.ty.toNat).decode b.toNat)
     exec i s = falls s i (withFlags r.2 (withP f.base.d.toNat r.1 (issued s)))) ∧
   (∀ (ty cc : Nat) (a b : Word), ty < 8 →
     let x := BitVec.ofNat (tyWidth ty) a.toNat
     let y := BitVec.ofNat (tyWidth ty) b.toNat
     cmpHolds ty cc a.toNat b.toNat = (match cc with
       | 0 => x == y
       | 1 => x != y
       | 2 => x.slt y
       | 3 => !x.slt y
       | 4 => x.ult y
       | _ => !x.ult y)))

/-- MOV and SEL carry the value and the poison mark of the source they take, without consuming it: MOV that of A, SEL that of
A where its predicate holds and of B otherwise; a scalar is extended from the type, a vector goes lane by lane (R276, R392,
R412).
Completion, by equalities exec i s = next t under conditions on state and operands alone, for mov, movQw, sel, selQw. -/
def Obligations.MoveAndSelectCarryPoison : Prop :=
  (∀ (s : State) (i : Instr) (f : F96Q), EitherForm i .mov .movQw f →
    Ready s i f.base.pred f.base.pneg → f.base.a.toNat < 32 → f.base.d.toNat < 32 →
    let u := issued s
    let a := f.base.a.toNat
    let d := f.base.d.toNat
    (f.base.isVec = false → xFree u a = true → xFree u d = true →
      exec i s = falls s i (withX d (extend f.base.ty.toNat ((here u).x a).toNat) (a != 0 && (here u).xPoison.getLsbD a) u)) ∧
    (f.base.isVec = true → vFree u a = true → vFree u d = true →
      exec i s = falls s i (withV d ((here u).v a) ((here u).vPoison.getD a 0) u))) ∧
  (∀ (s : State) (i : Instr) (f : F96Q) (v : Word), EitherForm i .mov .movQw f →
    Ready s i f.base.pred f.base.pneg → f.base.isVec = false → f.base.d.toNat < 32 → xFree (issued s) f.base.d.toNat = true →
    scalarAt (issued s) f.base.ty.toNat f.base.a f.base.imm16 = some v →
    exec i s = falls s i (withX f.base.d.toNat (extend f.base.ty.toNat v.toNat) false (issued s))) ∧
  (∀ (s : State) (i : Instr) (f : F96Q) (v w : Word), EitherForm i .sel .selQw f →
    Ready s i f.base.pred f.base.pneg → f.base.isVec = false → f.base.d.toNat < 32 → xFree (issued s) f.base.d.toNat = true →
    scalarAt (issued s) f.base.ty.toNat f.base.a f.base.imm16 = some v →
    scalarAt (issued s) f.base.ty.toNat f.base.b f.base.imm16 = some w →
    exec i s = falls s i (withX f.base.d.toNat
      (extend f.base.ty.toNat (if (here (issued s)).p (f.base.fn5 % 8) then v else w).toNat) false (issued s))) ∧
  (∀ (s : State) (i : Instr) (f : F96Q), EitherForm i .sel .selQw f →
    Ready s i f.base.pred f.base.pneg → f.base.a.toNat < 32 → f.base.b.toNat < 32 → f.base.d.toNat < 32 →
    let u := issued s
    let a := f.base.a.toNat
    let b := f.base.b.toNat
    let d := f.base.d.toNat
    let n := if (here u).p (f.base.fn5 % 8) then a else b
    (f.base.isVec = false → xFree u a = true → xFree u b = true → xFree u d = true →
      exec i s = falls s i (withX d (extend f.base.ty.toNat ((here u).x n).toNat) (n != 0 && (here u).xPoison.getLsbD n) u)) ∧
    (f.base.isVec = true → vFree u a = true → vFree u b = true → vFree u d = true →
      exec i s = falls s i (withV d ((here u).v n) ((here u).vPoison.getD n 0) u)))

/-- A NOP of 64, 96 or 128 bits with every bit zero except L, OPC, PRED and PNEG executes as nothing: the next instruction follows, it has
issued in its cycle, it is retired, which in a paired firing counts, and its fingerprint stays; a nonzero bit anywhere else raises 0x01 with
the instruction's low 64 bits (R396).
Completion, by equalities exec i s = next t under conditions on state and operands alone, for nop, nop96, nop128. -/
def Obligations.NopsChangeNothing : Prop :=
  (∀ s : State,
    (∀ f, Ready s (.nop f) f.pred f.pneg → exec (.nop f) s = falls s (.nop f) (issued s)) ∧
    (∀ f, Ready s (.nop96 f) f.base.pred f.base.pneg → exec (.nop96 f) s = falls s (.nop96 f) (issued s)) ∧
    (∀ f, Ready s (.nop128 f) f.pred f.pneg → exec (.nop128 f) s = falls s (.nop128 f) (issued s))) ∧
  (∀ (s : State) (i : Instr) (p : BitVec 3) (n : BitVec 1), pairStalled s s.focus = false →
    ((∃ f, i = .nop f ∧ p = f.pred ∧ n = f.pneg) ∨ (∃ f, i = .nop96 f ∧ p = f.base.pred ∧ n = f.base.pneg) ∨
      (∃ f, i = .nop128 f ∧ p = f.pred ∧ n = f.pneg)) →
    ((encodeBits i).2 >>> 14 ≠ 0 → exec i s = traps s i 0x01 (lowBits i)) ∧
    ((encodeBits i).2 >>> 14 = 0 → predHolds (s.seq s.focus) p n = true →
      ∃ t, exec i s = .next t ∧ (here t).pc = nextPc s s.focus i ∧ t.focus = s.focus ∧ t.mem = s.mem ∧
        (here t).lastIssue = some ((issued s).cycleOf s.focus) ∧
        (here t).retired = (here s).retired + (if isPaired s s.focus = true ∧ (State.tileOf s.focus).isSome = true then 1 else 0) ∧
        (here t).print = (here s).print ∧ (here t).tail = (here s).tail ∧
        (here t).xs = (here s).xs ∧ (here t).vs = (here s).vs ∧ (here t).ps = (here s).ps))

/-- An integer instruction of register operands, of A alone, of A and B, or of A, B and C: with a source that is poisoned, and none
of its registers pending, the poison is consumed: the instruction has none of its effect and its unit is contained. With a source or
D pending, and no source poisoned, it stalls, which leaves the state as before it (R179, R276, R278). -/
def Obligations.SourceMarksStopIntegers : Prop :=
  ∀ (s : State) (i : Instr) (r : IntRow),
    let f := r.f.base
    let u := issued s
    let sources := ([f.a, f.b, f.c].take r.n).map (·.toNat)
    let poisoned := fun (k : Nat) => k ≠ 0 ∧ (here u).xPoison.getLsbD k = true
    intRow i = some r → Ready s i f.pred f.pneg → f.isVec = false → (∀ k ∈ sources, k < 32) → f.d.toNat < 32 →
    ((∀ k ∈ sources, xFree u k = true) → xFree u f.d.toNat = true → (∃ k ∈ sources, poisoned k) →
      exec i s = .next (consumePoison s.focus (noteConsumed s.focus 0 u))) ∧
    ((∀ k ∈ sources, ¬ poisoned k) → ((∃ k ∈ sources, xFree u k = false) ∨ xFree u f.d.toNat = false) →
      exec i s = .next (recordWait s.focus .pending s))

/-! ## Floating-point instructions -/

/-- The worked values of the spec's tables: sums, differences, products and quotients of R365, powers and logarithms of R372,
conversions of R368, with the flags each raises. The special results of R363 for every pattern of the four types and every
rounding mode: a NaN operand gives the canonical NaN, with NV for a signalling one; infinity less infinity, 0 times infinity,
0 by 0 and infinity by infinity give it with NV; a finite nonzero number by 0 gives infinity with the XOR of the signs, and
DZ. -/
def Obligations.FloatValues : Prop :=
  (faddOp .rne 10 0 0x7F7FFFFF 0x7F7FFFFF 0 = ⟨0x7F800000, flagOF ||| flagNX⟩ ∧
   faddOp .rtz 10 0 0x7F7FFFFF 0x7F7FFFFF 0 = ⟨0x7F7FFFFF, flagOF ||| flagNX⟩ ∧
   fsubOp .rdn 11 0 0x3FF0000000000000 0x3FF0000000000000 0 = ⟨0x8000000000000000, 0⟩ ∧
   fmulOp .rne 10 0 0x0D800000 0x26800000 0 = ⟨0, flagUF ||| flagNX⟩ ∧
   fdivOp .rne 10 0 0x3F800000 0x40400000 0 = ⟨0x3EAAAAAB, flagNX⟩ ∧
   fdivOp .rne 10 0 0x3F800000 0x80000000 0 = ⟨0xFF800000, flagDZ⟩ ∧
   fexp2Op .rne 10 0 0x40400000 0 0 = ⟨0x41000000, 0⟩ ∧ fexp2Op .rne 10 0 0x43000000 0 0 = ⟨0x7F800000, flagOF ||| flagNX⟩ ∧
   flog2Op .rne 10 0 0x41000000 0 0 = ⟨0x40400000, 0⟩ ∧
   convert .rne (Nf.ofWord 0) false 2 11 (2 ^ 32 - 7) = ⟨0xC01C000000000000, 0⟩ ∧
   convert .rne (Nf.ofWord 0) true 11 2 0xC00599999999999A = ⟨2 ^ 32 - 2, flagNX⟩ ∧
   convert .rne (Nf.ofWord 0) false 11 2 0x41E65A0BC0000000 = ⟨0x7FFFFFFF, flagNV⟩ ∧
   convert .rne (Nf.ofWord 0) false 10 4 0xBF800000 = ⟨0, flagNV⟩ ∧
   convert .rne (Nf.ofWord 0) false 10 9 0x3F808000 = ⟨0x3F80, flagNX⟩ ∧
   convert .rne (Nf.ofWord 0) false 3 1 70000 = ⟨4464, 0⟩) ∧
  (∀ (rm : Rm) (ty a b : Nat), 8 ≤ ty → ty < 12 →
     let f := fmtOf ty
     let x := f.decode a
     let y := f.decode b
     let nan := fun (nv : Bool) => (⟨canonicalNan ty, if nv then flagNV else 0⟩ : FRes)
     ((x.isNan || y.isNan) = true →
       faddOp rm ty 0 a b 0 = nan (x.isSignalling || y.isSignalling) ∧ fsubOp rm ty 0 a b 0 = nan (x.isSignalling || y.isSignalling) ∧
       fmulOp rm ty 0 a b 0 = nan (x.isSignalling || y.isSignalling) ∧ fdivOp rm ty 0 a b 0 = nan (x.isSignalling || y.isSignalling)) ∧
     (∀ m n, x = .inf m → y = .inf n →
       (m ≠ n → faddOp rm ty 0 a b 0 = nan true) ∧ (m = n → fsubOp rm ty 0 a b 0 = nan true) ∧ fdivOp rm ty 0 a b 0 = nan true) ∧
     (∀ m n e, x = .fin m 0 e → (y = .inf n → fmulOp rm ty 0 a b 0 = nan true) ∧ (∀ e', y = .fin n 0 e' → fdivOp rm ty 0 a b 0 = nan true)) ∧
     (∀ m n k e e', x = .fin m k e → k ≠ 0 → y = .fin n 0 e' → fdivOp rm ty 0 a b 0 = ⟨f.inf (m != n), flagDZ⟩))

/-- A scalar floating-point instruction of opcodes 0x30 to 0x3D, in either form, whose sources are registers, constants and
immediates and whose D is an x register, writes its operation's result, taken under FPRM, with the bits above the type zero,
and ORs the flags it raises into FPSTAT, and nothing else (R75, R79, R362). The vector class of the same instructions computes
every element on its own and ORs the union of their flags (R76, R79, R362).
Completion, by equalities exec i s = next t under conditions on state and operands alone, for fadd, faddQw, fsub, fsubQw,
fmul, fmulQw, fma, fmaQw, fdiv, fdivQw, fsqrt, fsqrtQw, fmin, fminQw, fmax, fmaxQw, fsgn, fsgnQw, frnd, frndQw, fexp2,
fexp2Qw, flog2, flog2Qw. -/
def Obligations.FloatResults : Prop :=
  (∀ (s : State) (i : Instr) (r : FltRow) (a b c : Word),
     let f := r.f.base
     let d := f.d.toNat
     let v := r.op (Rm.ofCode (here (issued s)).fprm.toNat) f.ty.toNat f.fn5 a.toNat b.toNat c.toNat
     fltRow i = some r → Ready s i f.pred f.pneg → f.isVec = false →
     scalarsAt (issued s) r.n f.ty.toNat f = some (a, b, c) → d < 32 → xFree (issued s) d = true →
     exec i s = falls s i (withFlags v.flags (withX d (BitVec.ofNat 64 v.bits) false (issued s)))) ∧
  (∀ (s : State) (i : Instr) (r : FltRow) (a b c : VReg),
     let f := r.f.base
     let d := f.d.toNat
     let w := tyWidth f.ty.toNat
     let vs := (List.range (elementsAt w)).map (fun j => r.op (Rm.ofCode (here (issued s)).fprm.toNat) f.ty.toNat f.fn5
       (element a w j) (element b w j) (element c w j))
     fltRow i = some r → Ready s i f.pred f.pneg → f.isVec = true →
     vectorsAt (issued s) r.n f.ty.toNat f = some (a, b, c) → d < 32 → vFree (issued s) d = true →
     exec i s = falls s i (withFlags (vs.foldl (fun m v => m ||| v.flags) 0)
       (withV d (packElements w (vs.map (·.bits))) 0 (issued s))))

/-- FCVT: a scalar is converted between its two types; a vector element by element where the counts agree, from part h of A
where A has more elements, and into part h of D, whose other elements stay, where D has more, with their marks. The tile's narrow format is
used where a type is nf (R76, R367, R368). That an immediate of FCVT is read at the source type, FN[3:0], is the model's choice (log 35).
Completion, by equalities exec i s = next t under conditions on state and operands alone, for fcvt, fcvtQw. -/
def Obligations.ConversionResult : Prop :=
  ∀ (s : State) (i : Instr) (f : F96Q), EitherForm i .fcvt .fcvtQw f → Ready s i f.base.pred f.base.pneg →
    let u := issued s
    let d := f.base.d.toNat
    let src := f.base.fn5 % 16
    let dst := f.base.ty.toNat
    let narrow := decide (src = 12 ∨ dst = 12)
    let nf := Nf.ofWord (if narrow then (u.tile (home u)).fmt else 0)
    let conv := convert (Rm.ofCode (here u).fprm.toNat) nf (f.base.fn5 / 16 = 1) src dst
    (narrow = true → nfValid (u.tile (home u)).fmt = true) → d < 32 →
    (∀ a : Word, f.base.isVec = false → scalarAt u src f.base.a f.base.imm16 = some a → xFree u d = true →
      exec i s = falls s i (withFlags (conv a.toNat).flags
        (withX d (if dst < 12 then extend dst (conv a.toNat).bits else BitVec.ofNat 64 (conv a.toNat).bits) false u))) ∧
    (∀ x : VReg, f.base.isVec = true → vectorAt u src f.base.a (if f.base.a = 60 then f.base.imm16 else 0) = some x →
      vFree u d = true →
      let es := elementsAt (tyWidth src)
      let ed := elementsAt (tyWidth dst)
      let h := if f.base.b = 60 then f.base.imm16.toNat else 0
      let first := if ed < es then h * ed else 0
      let place := if es < ed then h * es else 0
      let vs := (List.range (min es ed)).map (fun j => conv (element x (tyWidth src) (first + j)))
      exec i s = falls s i (withFlags (vs.foldl (fun m v => m ||| v.flags) 0)
        (withV d (buildElements (tyWidth dst) (fun j =>
          if place ≤ j ∧ j < place + min es ed then (vs.getD (j - place) ⟨0, 0⟩).bits
          else if es < ed then element ((here u).v d) (tyWidth dst) j else 0))
          (if es < ed then clearLanes (tyWidth dst) ((List.range (min es ed)).map (place + ·)) ((here u).vPoison.getD d 0) else 0) u)))

/-! ## Predicates and vectors -/

/-- PLOG combines two predicates, read before D is written, as FN says, and raises 0x01 for a number above 7, a bit of FN[5:2], a B with FN 3
or a wait byte other than zero; PMOV copies between p[n] and bit 0 of a scalar, or all eight predicates at once, and a write to p0
is discarded (R400).
Completion, by equalities exec i s = next t under conditions on state and operands alone, for plog, plogQw, pmov, pmovQw. -/
def Obligations.PredicateInstructions : Prop :=
  (∀ (s : State) (i : Instr) (f : F96Q), Ready s i f.base.pred f.base.pneg →
    let u := issued s
    let d := f.base.d.toNat
    let a := (here u).p f.base.a.toNat
    let b := (here u).p f.base.b.toNat
    (EitherForm i .plog .plogQw f →
      exec i s = falls s i (withP d (match f.base.fn5 with
        | 0 => a && b
        | 1 => a || b
        | 2 => a != b
        | _ => !a) u)) ∧
    (EitherForm i .pmov .pmovQw f →
      (∀ v : Word, f.base.fn5 = 0 → scalarAt u 0 f.base.a f.base.imm16 = some v →
        exec i s = falls s i (withP d (v.getLsbD 0) u)) ∧
      (f.base.fn5 = 1 → d < 32 → xFree u d = true → exec i s = falls s i (withX d (if a then 1 else 0) false u)) ∧
      (f.base.fn5 = 2 → d < 32 → xFree u d = true →
        exec i s = falls s i (withX d (((here u).ps ||| 1#8).setWidth 64) false u)) ∧
      (∀ v : Word, f.base.fn5 = 3 → scalarAt u 0 f.base.a f.base.imm16 = some v →
        exec i s = falls s i ((List.range 8).foldl (fun t n => withP n (v.getLsbD n) t) u)))) ∧
  (∀ (s : State) (i : Instr) (f : F96Q), pairStalled s s.focus = false → predHolds (s.seq s.focus) f.base.pred f.base.pneg = true →
    (EitherForm i .plog .plogQw f →
      (7 < f.base.d.toNat ∨ 7 < f.base.a.toNat ∨ 7 < f.base.b.toNat ∨ 3 < f.base.fn.toNat ∨ (f.base.fn = 3 ∧ f.base.b ≠ 0)) →
      exec i s = traps s i 0x01 (lowBits i)) ∧
    (i = .plogQw f → (f.wa ≠ 0 ∨ f.wb ≠ 0 ∨ f.wc ≠ 0 ∨ f.wd ≠ 0) → exec i s = traps s i 0x01 (lowBits i)))

/-- Vector instructions within registers: VBCAST copies the element IMM16 names to every element, VRED folds the elements by
halving, VSHUF takes A's elements in B's order with their marks, VCOMP packs those whose mask is not zero with zeros above,
VIOTA counts from A by B, VEXT extracts an element with its mark, VINS replaces one and keeps the others (R90, R329, R431,
R432, R433, R435, R437, R438).
Completion, by equalities exec i s = next t under conditions on state and operands alone, for vbcast, vbcastQw, vred,
vredQw, vshuf, vshufQw, vcomp, vcompQw, viota, viotaQw, vext, vextQw, vins, vinsQw. -/
def Obligations.VectorRegisterResult : Prop :=
  ∀ (s : State) (i : Instr) (f : F96Q), Ready s i f.base.pred f.base.pneg →
    let u := issued s
    let ty := f.base.ty.toNat
    let w := tyWidth ty
    let n := elementsAt w
    let a := f.base.a.toNat
    let b := f.base.b.toNat
    let d := f.base.d.toNat
    let x := (here u).v a
    let y := (here u).v b
    let marks := (here u).vPoison.getD a 0
    let rm := Rm.ofCode (here u).fprm.toNat
    let es := (List.range n).map (element x w)
    let red : FRes := if f.base.fn5 = 6 then ⟨(es.filter (· != 0)).length, 0⟩ else treeReduce (redOp rm ty f.base.fn5) 5 es 0
    d < 32 →
    (EitherForm i .vbcast .vbcastQw f → a < 32 → vFree u a = true → vFree u d = true →
      (marks &&& laneMask w f.base.imm16.toNat) = 0 →
      exec i s = falls s i (withV d (splat w (element x w f.base.imm16.toNat)) 0 u)) ∧
    (EitherForm i .vred .vredQw f → a < 32 → vOk u a = true → vFree u d = true →
      exec i s = falls s i (withFlags red.flags (withV d (packElements w [red.bits]) 0 u))) ∧
    (EitherForm i .vshuf .vshufQw f → a < 32 → b < 32 → vFree u a = true → vOk u b = true → vFree u d = true →
      exec i s = falls s i (withV d (buildElements w (fun j => element x w (element y w j % n)))
        ((List.range n).foldl (fun m j =>
          if (marks &&& laneMask w (element y w j % n)) != 0 then m ||| laneMask w j else m) 0) u)) ∧
    (EitherForm i .vcomp .vcompQw f → a < 32 → b < 32 → vOk u a = true → vOk u b = true → vFree u d = true →
      exec i s = falls s i (withV d
        (packElements w (((List.range n).filter (fun j => element y w j != 0)).map (element x w))) 0 u)) ∧
    (EitherForm i .viota .viotaQw f → ∀ p q : Word, scalarAt u ty f.base.a f.base.imm16 = some p →
      scalarAt u ty f.base.b f.base.imm16 = some q → vFree u d = true →
      exec i s = falls s i (withV d (buildElements w (fun j => p.toNat + j * q.toNat)) 0 u)) ∧
    (∀ k : Nat, ((f.base.b = 60 ∧ k = f.base.imm16.toNat) ∨
        (f.base.b ≠ 60 ∧ ∃ q : Word, scalarAt u 7 f.base.b 0 = some q ∧ k = q.toNat % n)) →
      (EitherForm i .vext .vextQw f → a < 32 → vFree u a = true → xFree u d = true →
        exec i s = falls s i (withX d (extend ty (element x w k)) ((marks &&& laneMask w k) != 0) u)) ∧
      (EitherForm i .vins .vinsQw f → vFree u d = true → ∀ p : Word, scalarAt u ty f.base.a f.base.imm16 = some p →
        let old := (here u).vPoison.getD d 0
        exec i s = falls s i (withV d (buildElements w (fun j => if j = k then p.toNat else element ((here u).v d) w j))
          (if 32 ≤ w then old &&& ~~~(laneMask w k) else old) u)))

/-! ## Operands in queues and streams -/

/-- A queue specifier, shown on MOV with one queue operand: an unbound handle raises 0x0E with the specifier; a source waits
until COUNT slots are filled and takes 8 bytes of the slot at offset o from C, a destination until COUNT are free and writes
the slot at o from P; neither moves a counter, and no other byte changes, and a counter word that is poison is consumed (R39, R40,
R106, R275). A stream register as a source takes
one element of its bound type from the head of its FIFO, waits while the FIFO is short, and raises 0x15 when it is not bound;
when none of its COUNT is left it is unbound (R163). -/
def Obligations.QueueAndStreamOperands : Prop :=
  (∀ (s : State) (f : F96Q), Ready s (.movQw f) f.base.pred f.base.pneg → f.base.isVec = false →
     let u := issued s
     let a := f.base.a.toNat
     let d := f.base.d.toNat
     let ty := f.base.ty.toNat
     let ordinary := fun (n : Nat) => 32 ≤ n ∧ n < 48 ∧ ∀ c, u.focus = .m c → n ≠ 47
     Solo u →
     (ordinary a → (here u).handles.getD (a - 32) none = none →
       exec (.movQw f) s = traps s (.movQw f) 0x0E (BitVec.ofNat 64 a)) ∧
     (a < 32 → ordinary d → (here u).handles.getD (d - 32) none = none →
       exec (.movQw f) s = traps s (.movQw f) 0x0E (BitVec.ofNat 64 d)) ∧
     (∀ t base, ordinary a → d < 32 → (here u).handles.getD (a - 32) none = some (.tile t base) →
       let q := seenQueue u (.tile t base)
       let key := scratchKey t (base + q.slotOffset q.c (waitOf f.wa).1)
       (q.poison = true → exec (.movQw f) s = .next (consumePoison s.focus (noteConsumed s.focus 0 u))) ∧
       (q.poison = false → q.filled < (waitOf f.wa).2 → exec (.movQw f) s = .next (recordWait s.focus .queue s)) ∧
       (q.poison = false → (waitOf f.wa).2 ≤ q.filled → xFree u d = true → inFlight u u.focus (wordsOf key 8) = false → pushesToward u u.focus t = false →
         base + q.slotOffset q.c (waitOf f.wa).1 + 8 ≤ 2 ^ 20 → (State.tileOf u.focus = some t ∨ fencedKey u key = false) →
         cleanBytes u.mem key 8 = true →
         exec (.movQw f) s = falls s (.movQw f) (withX d (extend ty (wordAt u.mem key 8)) false u))) ∧
     (∀ t base, ordinary d → a < 32 → (here u).handles.getD (d - 32) none = some (.tile t base) →
       (t < 2048 → (u.tile t).twin = .alone) →
       let q := seenQueue u (.tile t base)
       let key := scratchKey t (base + q.slotOffset q.p (waitOf f.wd).1)
       (q.poison = false → q.free < (waitOf f.wd).2 → exec (.movQw f) s = .next (recordWait s.focus .queue s)) ∧
       (q.poison = false → (waitOf f.wd).2 ≤ q.free → xFree u a = true → inFlight u u.focus (wordsOf key 8) = false → pushesToward u u.focus t = false →
         base + q.slotOffset q.p (waitOf f.wd).1 + 8 ≤ 2 ^ 20 → (State.tileOf u.focus = some t ∨ fenced u t = false) →
         cleanBytes u.mem key 8 = true →
         let r := withBytes key (toBytes 8 (extend ty ((here u).x a).toNat).toNat) (a != 0 && (here u).xPoison.getLsbD a) u
         exec (.movQw f) s = falls s (.movQw f) r ∧ ∀ k, k < key ∨ key + 8 ≤ k → r.mem.byte k = s.mem.byte k))) ∧
  (∀ (s : State) (f : F64A), Ready s (.mov f) f.pred f.pneg → f.isVec = false → 48 ≤ f.a.toNat → f.a.toNat < 56 →
     f.d.toNat < 32 → xFree (issued s) f.d.toNat = true →
     let u := issued s
     let k := f.a.toNat - 48
     let r := (here u).sds.getD k Stream.reset
     let n := tyWidth r.ty.toNat / 8
     (r.bound = false → exec (.mov f) s = traps s (.mov f) 0x15 0) ∧
     (r.bound = true → r.fifo.length < n → exec (.mov f) s = .next (recordWait s.focus .queue s)) ∧
     (r.bound = true → n ≤ r.fifo.length →
       let v := extend r.ty.toNat (ofBytes ((r.fifo.take n).map (·.1)))
       exec (.mov f) s = falls s (.mov f) (withX f.d.toNat (extend f.ty.toNat v.toNat) ((r.fifo.take n).any (·.2))
         (u.modSeq u.focus (fun q =>
           let rest : Stream := { r with fifo := r.fifo.drop n, left := r.left - 1, bound := (r.left - 1) != 0 }
           { q with sds := q.sds.setIfInBounds k rest })))))

/-- Every integer instruction takes its operands in every form as MOV does: once its queue waits hold, its result is its
operation on what its sources give, written as its destination writes (R35, R39, R40, R64). -/
def Obligations.IntegerOperandsInEveryForm : Prop :=
  ∀ (s t v : State) (i : Instr) (r : IntRow) (a b c : Word),
    let f := r.f.base
    intRow i = some r → Ready s i f.pred f.pneg → f.isVec = false →
    (queueWaits (operands r.n r.f false false false false false)).run (issued s) = .ok () (issued s) →
    (useABC r.n r.ty r.f).run (issued s) = .ok (a, b, c) t →
    (putDest f.d.toNat r.f.wd (extend r.ty (r.op r.ty f.fn5 a.toNat b.toNat c.toNat)) false).run t = .ok () v →
    exec i s = falls s i v

/-! ## Memory instructions -/

/-- LD of a tile's own scratchpad, FE = 0: D takes the value at the address, extended from its type, with the word's poison
mark; every byte of memory reads as before (R75, R276, R384). ST to a tile's own scratchpad, FE = 0: the low bytes of D stand
at the address, poisoned as D is; every other byte of memory and every register is as before where the word holds no flipped bit
to correct (R272, R276, R416).
Where writes are not seen by all: a plain LD that takes its slack returns what the word held before the oldest write that its agent need not
see, else the last value, before which it will not go back; a plain ST that takes its slack stands in memory, and only its own agent must
see it (R198, R203; the slack is the model's choice, log 42).
Completion, by equalities exec i s = next t under conditions on state and operands alone, for ld, st. -/
def Obligations.LoadAndStoreOwnScratchpad : Prop :=
  (∀ (s : State) (f : F64M), Ready s (.ld f) f.pred f.pneg → f.fe = 0 →
     let u := issued s
     let ty := f.ty.toNat
     let n := tyWidth ty / 8
     let d := f.d.toNat
     let a := addressOf u f
     let key := ownKey u a
     Solo u → xOk u f.base.toNat = true → ownScratch u a n n = true → d < 32 → xFree u d = true →
     (cleanBytes u.mem key n = true →
       exec (.ld f) s = falls s (.ld f) (withX d (extend ty (wordAt u.mem key n)) false u)) ∧
     (u.mem.isPoisoned (wordUnit key) = true →
       exec (.ld f) s = falls s (.ld f) (withX d (extend ty (wordAt u.mem key n)) true u)) ∧
     (∀ k, (withX d (extend ty (wordAt u.mem key n)) false u).mem.byte k = s.mem.byte k)) ∧
  (∀ (s : State) (f : F64M), Ready s (.st f) f.pred f.pneg → f.fe = 0 →
     let u := issued s
     let n := tyWidth f.ty.toNat / 8
     let d := f.d.toNat
     let a := addressOf u f
     let key := ownKey u a
     Solo u → xOk u f.base.toNat = true → ownScratch u a n n = true → d < 32 → xFree u d = true →
     (f.ord = 2 → acknowledged u = true) →
     let t := withBytes key (toBytes n ((here u).x d).toNat) (d != 0 && (here u).xPoison.getLsbD d) u
     exec (.st f) s = falls s (.st f) t ∧ t.mem.bytes key n = toBytes n ((here u).x d).toNat ∧
     (cleanBytes u.mem key n = true →
       (∀ k, k < key ∨ key + n ≤ k → t.mem.byte k = s.mem.byte k) ∧ t = { u with mem := t.mem })) ∧
  (∀ (s : State) (f : F64M), f.fe = 0 →
     let u := issued s
     let q := u.focus
     let ty := f.ty.toNat
     let n := tyWidth ty / 8
     let d := f.d.toNat
     let a := addressOf u f
     let key := ownKey u a
     Unpaired u → xOk u f.base.toNat = true → ownScratch u a n n = true → d < 32 → cleanBytes u.mem key n = true →
     (Ready s (.ld f) f.pred f.pneg → f.ord ≠ 1 → xFree u d = true →
       let back := if u.slack.getLsbD 0 then u.mem.oldest (Unseen.known q) (key / 8) else none
       (∀ e, back = some e → e.old.length = 8 →
         exec (.ld f) s = falls s (.ld f) (withX d (extend ty (ofBytes ((e.old.drop (key % 8)).take n))) false u)) ∧
       (back = none → exec (.ld f) s = falls s (.ld f) (withX d (extend ty (wordAt u.mem key n)) false (reads q [key / 8] u)))) ∧
     (Ready s (.st f) f.pred f.pneg → f.ord ≠ 2 → xOk u d = true →
       let t := withBytes key (toBytes n ((here u).x d).toNat) false u
       let v := hidePlain u q key n t
       exec (.st f) s = falls s (.st f) v ∧ v.mem.bytes key n = t.mem.bytes key n ∧
       (u.mem.unseen = [] → u.slack.getLsbD 0 = true → canHide u (key / 8) (virtualsOf u q (8 * (key / 8))) = true →
         ∃ e, v.mem.unseen = [e] ∧ e.word = key / 8 ∧ e.old = u.mem.bytes (8 * (key / 8)) 8 ∧ e.marks = [.seen q])))

/-- The waiting full/empty forms at a tile's own scratchpad: LD `.wf` of a full word takes it and leaves it full, LD `.wfe`
leaves it empty; ST `.we` to an empty word writes it and leaves it empty, ST `.wef` leaves it full; a word in the other state
makes the instruction wait at the bank unit, which keeps its access (R41, R158, R384, R416). FEST sets a word of a tile's own
scratchpad full or empty, which wakes its waiters, and FEQ writes 1 to D for a full word, 0 for an empty one; neither changes
a stored byte itself (R159, R371).
Completion, by equalities exec i s = next t under conditions on state and operands alone, for ld, st, fest, feq. -/
def Obligations.FullEmptyInstructions : Prop :=
  (∀ (s : State),
     let u := issued s
     Solo u →
     (∀ w t, (here u).wait = some w → w.grant = some t → w.why ≠ .word) →
     (∀ (f : F64M), Ready s (.ld f) f.pred f.pneg → (f.fe = 1 ∨ f.fe = 2) →
       let ty := f.ty.toNat
       let n := tyWidth ty / 8
       let d := f.d.toNat
       let a := addressOf u f
       let key := ownKey u a
       let op := if f.fe = 1 then FeOp.wf else .wfe
       xOk u f.base.toNat = true → ownScratch u a n n = true → cleanBytes u.mem key n = true → d < 32 → xFree u d = true →
       (isFull u (home u) (offsetOf a / 8) = true → f.fe = 1 →
         exec (.ld f) s = falls s (.ld f) (withX d (extend ty (wordAt u.mem key n)) false u)) ∧
       (isFull u (home u) (offsetOf a / 8) = true → f.fe = 2 → xFree (changeState false (home u) (offsetOf a / 8) false u) d = true →
         exec (.ld f) s = falls s (.ld f) (withX d (extend ty (wordAt u.mem key n)) false
           (changeState false (home u) (offsetOf a / 8) false u))) ∧
       (isFull u (home u) (offsetOf a / 8) = false →
         (∀ x ∈ (s.tile (home u)).waiters, x.seq ≠ s.focus) →
         exec (.ld f) s = .next ((recordWait s.focus .word s).modTile (home u) (fun v =>
           { v with waiters := v.waiters ++ [⟨s.focus, op, offsetOf a, n, 0, false, false, none, if f.fe = 2 ∨ f.ord = 1 then some f.sc.toNat else none⟩] })))) ∧
     (∀ (f : F64M), Ready s (.st f) f.pred f.pneg → (f.fe = 1 ∨ f.fe = 2) →
       let n := tyWidth f.ty.toNat / 8
       let d := f.d.toNat
       let a := addressOf u f
       let key := ownKey u a
       xOk u f.base.toNat = true → ownScratch u a n n = true → cleanBytes u.mem key n = true → d < 32 → xOk u d = true →
       ((f.ord = 2 ∨ f.fe = 2) → acknowledged u = true) →
       let t := withBytes key (toBytes n ((here u).x d).toNat) false u
       (isFull u (home u) (offsetOf a / 8) = false →
         (f.fe = 1 → exec (.st f) s = falls s (.st f) t) ∧
         (f.fe = 2 → exec (.st f) s = falls s (.st f) (changeState false (home u) (offsetOf a / 8) true t))) ∧
       (isFull u (home u) (offsetOf a / 8) = true →
         (∀ x ∈ (s.tile (home u)).waiters, x.seq ≠ s.focus) →
         exec (.st f) s = .next ((recordWait s.focus .word s).modTile (home u) (fun v =>
           { v with waiters := v.waiters ++ [⟨s.focus, if f.fe = 1 then .we else .wef, offsetOf a, n, (here u).x d, false, false, none,
             if f.ord = 2 ∨ f.fe = 2 then some f.sc.toNat else none⟩] }))))) ∧
  (∀ (s : State) (f : F64M),
     let u := issued s
     let a := addressOf u f
     let w := offsetOf a / 8
     Solo u → xOk u f.base.toNat = true → ownScratch u a 8 8 = true →
     cleanBytes u.mem (ownKey u a) 8 = true →
     (Ready s (.fest f) f.pred f.pneg → (f.ord = 2 → acknowledged u = true) →
       exec (.fest f) s = falls s (.fest f) (changeState false (home u) w (f.fn3.getLsbD 0) u)) ∧
     (Ready s (.feq f) f.pred f.pneg → f.d.toNat < 32 → xFree u f.d.toNat = true →
       exec (.feq f) s = falls s (.feq f) (withX f.d.toNat (if isFull u (home u) w then 1 else 0) false u)))

/-- An access to another tile's scratchpad that the launch may reach leaves as one request: LD and FEQ mark D pending, ST
and FEST do not wait, and neither changes a byte of memory or another register before its home answers (R99, R179, R384, R416). -/
def Obligations.RemoteAccessesAreRequests : Prop :=
  ∀ (s : State) (g : Nat) (a : Word),
    let u := issued s
    let p := Place.scratch g (offsetOf a)
    let reaches := fun (n : Nat) => formOk a && formOf a == 1 && !shutOut u u.focus a && gtileOf u a == g &&
      mayReach u u.focus g && decide (offsetOf a + n ≤ 2 ^ 20) && decide (a.toNat % n = 0)
    Solo u → (State.tileOf u.focus).isSome = true → g ≠ home u →
    outstanding u u.focus < 64 →
    (∀ f : F64M, Ready s (.ld f) f.pred f.pneg → f.fe = 0 → f.ord ≠ 1 → addressOf u f = a → xOk u f.base.toNat = true →
      reaches (tyWidth f.ty.toNat / 8) = true → f.d.toNat < 32 → xFree u f.d.toNat = true →
      exec (.ld f) s = falls s (.ld f) (pendingX f.d.toNat
        (sent (.load ⟨p.key, 0, tyWidth f.ty.toNat / 8⟩ f.ty f.d) p false false none u))) ∧
    (∀ f : F64M, Ready s (.st f) f.pred f.pneg → f.fe = 0 → f.ord ≠ 2 → addressOf u f = a → xOk u f.base.toNat = true →
      reaches (tyWidth f.ty.toNat / 8) = true → f.d.toNat < 32 → xOk u f.d.toNat = true →
      exec (.st f) s = falls s (.st f)
        (sent (.store [⟨p.key, 0, marked (toBytes (tyWidth f.ty.toNat / 8) ((here u).x f.d.toNat).toNat) false⟩]) p false false none u)) ∧
    (∀ f : F64M, Ready s (.fest f) f.pred f.pneg → f.ord ≠ 2 → addressOf u f = a → xOk u f.base.toNat = true →
      reaches 8 = true →
      exec (.fest f) s = falls s (.fest f) (sent (.setState g (offsetOf a / 8) (f.fn3.getLsbD 0)) p true false none u)) ∧
    (∀ f : F64M, Ready s (.feq f) f.pred f.pneg → f.ord ≠ 1 → addressOf u f = a → xOk u f.base.toNat = true →
      reaches 8 = true → f.d.toNat < 32 → xFree u f.d.toNat = true →
      exec (.feq f) s = falls s (.feq f) (pendingX f.d.toNat
        (sent (.getState g (offsetOf a / 8) f.d) p true false none u)))

/-- The address checks of LD and ST in their order: form 0x04, range 0x05 under form 0b00 and 0x04 under 0b01, alignment 0x0A,
group 0x0B, each with the address (R70, R156). -/
def Obligations.AddressChecksInOrder : Prop :=
  ∀ (s : State) (i : Instr) (f : F64M), (i = .ld f ∨ i = .st f) → Ready s i f.pred f.pneg → f.fe = 0 → f.d.toNat < 32 →
    let u := issued s
    let n := tyWidth f.ty.toNat / 8
    let a := addressOf u f
    xOk u f.base.toNat = true →
    let form := formOk a && !shutOut u u.focus a
    (form = false → exec i s = traps s i 0x04 a) ∧
    (form = true → formOf a = 0 → 2 ^ 54 < a.toNat + n → exec i s = traps s i 0x05 a) ∧
    (form = true → formOf a = 1 → 2 ^ 20 < offsetOf a + n → exec i s = traps s i 0x04 a) ∧
    (form = true → rangeCause a n = none → a.toNat % n ≠ 0 → exec i s = traps s i 0x0A a) ∧
    (form = true → rangeCause a n = none → a.toNat % n = 0 → formOf a = 1 → mayReach u u.focus (gtileOf u a) = false →
      exec i s = traps s i 0x0B a)

/-- A memory core's translated LD and ST of bytes it owns: through the TLB entry that covers the address, a load takes the
bytes and a store writes them at the leaf's frame; a page without the right raises 0x08, an address that no entry covers 0x07
with its miss (R156, R165, R188, R384, R416). -/
def Obligations.TranslatedAccessesOfTheOwner : Prop :=
  ∀ (s : State) (c : Nat) (i : Instr) (f : F64M), s.focus = .m c → (i = .ld f ∨ i = .st f) → Ready s i f.pred f.pneg → f.fe = 0 →
    let u := issued s
    let n := tyWidth f.ty.toNat / 8
    let d := f.d.toNat
    let a := addressOf u f
    let acc := if i = .ld f then Access.read else .write
    let key := fun (e : TlbEntry) => leafKey u.host.devid.toNat (e.leaf.setWidth 64) (a.toNat - e.base)
    let entry := fun (e : TlbEntry) => leafEntry u (u.partOf u.focus) (e.leaf.setWidth 64)
    xOk u f.base.toNat = true → d < 32 → xFree u d = true → formOk a = true → formOf a = 0 → rangeCause a n = none →
    a.toNat % n = 0 →
    (lookup (u.mcore c).tlb (u.partOf u.focus) a.toNat acc = .denied → exec i s = traps s i 0x08 a) ∧
    (lookup (u.mcore c).tlb (u.partOf u.focus) a.toNat acc = .miss →
      exec i s = .next (raiseTrap s.focus 0x07 a (some acc) (nextPc s s.focus i) u)) ∧
    (∀ e, lookup (u.mcore c).tlb (u.partOf u.focus) a.toNat acc = .hit e → e.leaf.getLsbD 7 = false →
      isOwn u.focus (.ext (key e) (e.leaf.setWidth 64)) = true → installed (key e) = true →
      inFlight u u.focus (wordsOf (key e) n) = false →
      (∀ bs, Calm u → i = .ld f → readDecoded u.mem u.free (entry e) (key e) n = ⟨bs, List.replicate n false, [], u.mem, u.free⟩ →
        exec i s = falls s i (withX d (extend f.ty.toNat (ofBytes bs)) false u)) ∧
      (Calm u → i = .st f → (f.ord = 2 → acknowledged u = true) →
        exec i s = falls s i (writeBytes (u.partOf u.focus) (u.gangOf u.focus) (entry e) (key e)
          (marked (toBytes n ((here u).x d).toNat) (d != 0 && (here u).xPoison.getLsbD d)) u)))

/-- ATOM at a tile's own scratchpad: D takes the old value and the operation's result stands in memory, a compare that fails
writing nothing; every byte outside the operand is as before (R340).
Completion, by equalities exec i s = next t under conditions on state and operands alone, for atom. -/
def Obligations.AtomicAtOwnScratchpad : Prop :=
  ∀ (s : State) (f : F64M), Ready s (.atom f) f.pred f.pneg →
    let u := issued s
    let ty := f.ty.toNat
    let w := tyWidth ty
    let n := w / 8
    let d := f.d.toNat
    let fn := f.fn3.toNat
    let a := addressOf u f
    let key := ownKey u a
    let old := wordAt u.mem key n
    let v := ((here u).x d).toNat % 2 ^ w
    let c := if fn = 7 then ((here u).x (d + 1)).toNat % 2 ^ w else 0
    Solo u → xOk u f.base.toNat = true → ownScratch u a n n = true →
    cleanBytes u.mem (key / 8 * 8) 8 = true → d < 32 → xOk u d = true → (fn = 7 → xOk u (d + 1) = true) →
    ((f.ord = 2 ∨ f.ord = 3) → acknowledged u = true) →
    let t := if fn = 7 ∧ old ≠ c then u else withBytes key (toBytes n (atomOp ty fn old v c)) false u
    exec (.atom f) s = falls s (.atom f) (withX d (extend ty old) false t) ∧
    (∀ k, k < key ∨ key + n ≤ k → t.mem.byte k = s.mem.byte k)

/-- The synchronising accesses at a tile's own scratchpad: ACQ takes the word, with `.ge` once it is at least D, WAITSEQ once it is, or has
been since the wait began; both wait while it is less; REL waits for earlier accesses and writes, or adds with `.add`; FENCE `.acq` waits
for loads, `.rel` for every access, `.full` for both (R201, R205, R370, R408, R439).
A scope holds the agents that its row names (R197). A release covers the writes that its agent sees in the regions bound to its object, and
an acquire in the other's scope, each in the other's, brings them to its agent; without the binding, or where a scope is too narrow, the
write stays as it was (R201, R202). A releasing fence covers every write that its agent sees: a word that the agent then writes takes them
along, and an acquiring fence in scope after a read of that word brings them, one without such a read does not; a full fence brings what
the full fences in scope before it saw (R202, R204); and FENCE makes these edges. How a write that not every agent sees is kept, and that
the full fences stand in the order in which they issue, is the model's choice (logs 2, 42).
Completion, by equalities exec i s = next t under conditions on state and operands alone, for acq, rel, fence, waitseq. -/
def Obligations.SynchronisingAccesses : Prop :=
  (∀ (s : State) (f : F64M),
    let u := issued s
    let d := f.d.toNat
    let a := addressOf u f
    let key := ownKey u a
    let word : Word := BitVec.ofNat 64 (wordAt u.mem key 8)
    Solo u → xOk u f.base.toNat = true → ownScratch u a 8 8 = true →
    cleanBytes u.mem key 8 = true → d < 32 → (∀ w g, (here u).wait = some w → w.grant = some g → w.why ≠ .memory) →
    (Ready s (.acq f) f.pred f.pneg → f.fn3 ≠ 1 → xFree u d = true →
      exec (.acq f) s = falls s (.acq f) (withX d word false (unwatch s.focus u))) ∧
    (∀ i, ((i = .acq f ∧ f.fn3 = 1) ∨ i = .waitseq f) → Ready s i f.pred f.pneg → xOk u d = true →
      let least := ((here u).x d).toNat
      ((least ≤ word.toNat ∨ valueCame u u.focus key least = true) →
        exec i s = falls s i (withX d word false (unwatch s.focus u))) ∧
      (word.toNat < least → valueCame u u.focus key least = false →
        exec i s = .next (watch s.focus key least (recordWait s.focus .memory s)))) ∧
    (Ready s (.rel f) f.pred f.pneg → xOk u d = true →
      (acknowledged u = false → exec (.rel f) s = .next (recordWait s.focus .outstanding s)) ∧
      (acknowledged u = true → exec (.rel f) s = falls s (.rel f) (withBytes key
        (toBytes 8 (if f.fn3 = 1 then word.toNat + ((here u).x d).toNat else ((here u).x d).toNat)) false u))) ∧
    (Ready s (.fence f) f.pred f.pneg →
      let waits := f.sc ≠ 0 ∧ ((f.fn3 ≠ 1 ∧ readsPending u u.focus = true) ∨ (f.fn3 ≠ 0 ∧ allAcknowledged u u.focus = false))
      (waits → exec (.fence f) s = .next (recordWait s.focus .outstanding s)) ∧
      (¬ waits → exec (.fence f) s = falls s (.fence f) u))) ∧
  (∀ (s : State) (f : F64M),
    let u := issued s
    (Unpaired u → f.sc ≠ 0 → Ready s (.fence f) f.pred f.pneg →
      let q := u.focus
      let sc := f.sc.toNat
      (f.fn3 = 0 → readsPending u q = false →
        exec (.fence f) s = falls s (.fence f) (fenceAcquire q sc u)) ∧
      (f.fn3 = 1 → allAcknowledged u q = true → exec (.fence f) s = falls s (.fence f) (fenceRelease q sc u)) ∧
      (f.fn3 = 2 → readsPending u q = false → allAcknowledged u q = true →
        exec (.fence f) s = falls s (.fence f) (fenceAcquire q sc (fenceOrder q sc (fenceRelease q sc u)))))) ∧
  (∀ (u : State) (q b : SeqId) (sc sc' word : Nat) (e : Unseen), e ∈ u.mem.unseen → e.seenBy q = true →
    let edge := acquired b sc' word (released q sc word u)
    let fences := fenceAcquire b sc' (reads b [word / 8] (wrote q [word / 8] (fenceRelease q sc u)))
    let full := fenceOrder b sc' (fenceOrder q sc u)
    let covered := bound u q (u.gangOf q) word e
    let bare := (∀ w c r x, Mark.released w c r x ∉ e.marks) ∧ (∀ c a r, Mark.noticed c a r ∉ e.marks)
    isTwin u q = false → isTwin u b = false → leadWord u (word / 8) = word / 8 →
    (covered = true → pairs u q sc b sc' = true → ∃ x ∈ edge.mem.unseen, x.id = e.id ∧ x.word = e.word ∧ x.seenBy b = true) ∧
    (covered = false → bare → e ∈ edge.mem.unseen) ∧
    (pairs u q sc b sc' = false → bare → ∃ x ∈ edge.mem.unseen, x.id = e.id ∧ x.seenBy b = e.seenBy b) ∧
    (pairs u q sc b sc' = true →
      (∃ x ∈ fences.mem.unseen, x.id = e.id ∧ x.word = e.word ∧ x.seenBy b = true) ∧
      (∃ x ∈ full.mem.unseen, x.id = e.id ∧ x.word = e.word ∧ x.seenBy b = true)) ∧
    (bare → e ∈ (fenceAcquire b sc' u).mem.unseen)) ∧
  (∀ (u : State) (t c : Nat) (b : SeqId),
    (inScope u (.a t) 0 b = true ↔ b = .a t) ∧
    (inScope u (.a t) 1 b = true ↔ b = .a t ∨ b = .x t) ∧
    (inScope u (.a t) 2 b = true ↔ b = .s (t / 4) ∨ ∃ t', t' / 4 = t / 4 ∧ (b = .a t' ∨ b = .x t')) ∧
    (inScope u (.a t) 3 b = true ↔ b = .a t ∨ ∃ t', (b = .a t' ∨ b = .x t') ∧ groupShared u (u.gangOf (.a t)) t t' = true) ∧
    (inScope u (.a t) 4 b = true ↔ dieOfSeq b = t / 512) ∧
    (inScope u (.a t) 6 b = true ↔ b = .a t ∨ sameJob u (u.gangOf (.a t)) (u.gangOf b) = true) ∧
    (∀ n, (n = 5 ∨ n = 7 ∨ n = 8) → inScope u (.a t) n b = true) ∧
    (∀ n, n < 4 → (inScope u (.m c) n b = true ↔ b = .m c) ∧ (inScope u (.s c) n b = true ↔ b = .s c)))

/-- BIND gives 0 and adds the binding, or 1 for a full table or no launch, or 2 for a region that meets another binding; UNBIND
gives 0 and drops the bindings with that base, or 1 when there is none; status 1 for no launch is the model's choice (log 25). PROBE gives
what an access to the address would find, and changes nothing else: a miss is served as any miss is (R188), and one that the shipped
firmware would find not mapped is reported (R192, R206, R345, R403, R429; log 13).
Completion, by equalities exec i s = next t under conditions on state and operands alone, for bind, unbind, probe. -/
def Obligations.BindUnbindProbe : Prop :=
  ∀ s : State,
    let u := issued s
    let g := u.gangOf u.focus
    let table := (u.gang? g).map (bindingTable u)
    Solo u →
    (∀ f : F64A, Ready s (.bind f) f.pred f.pneg → xOk u f.a.toNat = true → xOk u f.c.toNat = true → xFree u f.d.toNat = true →
      ∀ len : Word, scalarAt u 3 f.b f.imm16 = some len →
      regionFits u ((here u).x f.a.toNat) len = true → objectFits u ((here u).x f.c.toNat) = true →
      let a := (here u).x f.a.toNat
      let c := (here u).x f.c.toNat
      let meets : Bool := match table with
        | some t => t.any (fun b => b.meets a.toNat len.toNat)
        | none => false
      let known : Bool := match table with
        | some t => t.contains ⟨a, len.toNat, c⟩
        | none => false
      let full : Bool := match table with
        | some t => decide (256 ≤ t.length)
        | none => true
      exec (.bind f) s = falls s (.bind f) (
        if len = 0 ∨ known = true then withX f.d.toNat 0 false u
        else if meets then withX f.d.toNat 2 false u
        else if full then withX f.d.toNat 1 false u
        else withX f.d.toNat 0 false (u.modGang g (fun v => { v with bindings := v.bindings ++ [⟨a, len.toNat, c⟩] })))) ∧
    (∀ f : F64A, Ready s (.unbind f) f.pred f.pneg → xOk u f.a.toNat = true → xFree u f.d.toNat = true →
      let a := (here u).x f.a.toNat
      exec (.unbind f) s = falls s (.unbind f) (withX f.d.toNat (if (table.getD []).any (fun b => b.base == a) then 0 else 1) false
        (removeBinding g a u))) ∧
    (∀ f : F64M, Ready s (.probe f) f.pred f.pneg → xOk u f.base.toNat = true → xFree u f.d.toNat = true →
      (∀ w g, (here u).wait = some w → w.grant = some g → w.why ≠ .memory) →
      let a := addressOf u f
      let acc := if f.fn3.getLsbD 0 then Access.write else .read
      let gives := fun (v : Word) => exec (.probe f) s = falls s (.probe f) (withX f.d.toNat v false u)
      ((formOk a && !shutOut u u.focus a) = false → gives 0x8000000000000004) ∧
      ((formOk a && !shutOut u u.focus a) = true → formOf a = 1 → gives
        (if mayReach u u.focus (gtileOf u a) then 0x4000000000000000 else 0x800000000000000B)) ∧
      ((formOk a && !shutOut u u.focus a) = true → formOf a = 0 →
        (lookup (tlbOf u u.focus) (u.partOf u.focus) a.toNat acc = .denied → gives 0x8000000000000008) ∧
        (∀ e, lookup (tlbOf u u.focus) (u.partOf u.focus) a.toNat acc = .hit e →
          gives (probeWord (u.focus.kind == .s) e)) ∧
        (lookup (tlbOf u u.focus) (u.partOf u.focus) a.toNat acc = .miss → u.focus.kind ≠ .s →
          (ownHandler u u.focus = false → walk u (u.partOf u.focus) a.toNat = .nothing → gives 0x8000000000000007) ∧
          (ownHandler u u.focus = true →
            exec (.probe f) s = .next (raiseTrap s.focus 0x07 a (some acc) (nextPc s s.focus (.probe f)) u)))))

/-- Contiguous vector accesses of an X-seq to its own scratchpad: VLD takes the 128 bytes at A + B, VST writes them there and
leaves every other byte as before; an address of form 0b00 raises 0x09 (R195, R431, R436). Indexed vector accesses of an X-seq
to its own scratchpad: VGATH takes one element at A plus each unsigned 32-bit offset of B, VSCAT writes D's elements there in
ascending order and nothing else (R434).
Completion, by equalities exec i s = next t under conditions on state and operands alone, for vld, vldQw, vst, vstQw, vgath,
vgathQw, vscat, vscatQw. -/
def Obligations.VectorAccesses : Prop :=
  (∀ (s : State) (i : Instr) (f : F96Q) (a b : Word), Ready s i f.base.pred f.base.pneg →
     let u := issued s
     let d := f.base.d.toNat
     let at_ := a + b
     let key := ownKey u at_
     (∃ t, u.focus = .x t) → Solo u → d < 32 →
     scalarAt u 3 f.base.a f.base.imm16 = some a → scalarAt u 3 f.base.b f.base.imm16 = some b →
     (ownScratch u at_ 128 (tyWidth f.base.ty.toNat / 8) = true →
       (EitherForm i .vld .vldQw f → vFree u d = true → cleanBytes u.mem key 128 = true →
         exec i s = falls s i (withV d (BitVec.ofNat 1024 (wordAt u.mem key 128)) 0 u)) ∧
       (EitherForm i .vst .vstQw f → vOk u d = true →
         cleanBytes u.mem key 128 = true →
         ∃ m : Mem, exec i s = falls s i { u with mem := m } ∧ m.bytes key 128 = toBytes 128 ((here u).v d).toNat ∧
           ∀ k, k < key ∨ key + 128 ≤ k → m.byte k = s.mem.byte k)) ∧
     ((EitherForm i .vld .vldQw f ∨ (EitherForm i .vst .vstQw f)) → formOk at_ = true →
       shutOut u u.focus at_ = false → formOf at_ = 0 → at_.toNat + 128 ≤ 2 ^ 54 →
       at_.toNat % (tyWidth f.base.ty.toNat / 8) = 0 → exec i s = traps s i 0x09 at_)) ∧
  (∀ (s : State) (i : Instr) (f : F96Q) (a : Word), Ready s i f.base.pred f.base.pneg →
     let u := issued s
     let d := f.base.d.toNat
     let w := tyWidth f.base.ty.toNat
     let n := elementsAt w
     let at_ := fun (j : Nat) => a + BitVec.ofNat 64 (element ((here u).v f.base.b.toNat) 32 j)
     (∃ t, u.focus = .x t) → Solo u → d < 32 → f.base.b.toNat < 32 →
     vOk u f.base.b.toNat = true → scalarAt u 3 f.base.a f.base.imm16 = some a →
     (∀ j, j < n → ownScratch u (at_ j) (w / 8) (w / 8) = true) →
     (EitherForm i .vgath .vgathQw f → vFree u d = true →
       (∀ j, j < n → cleanBytes u.mem (ownKey u (at_ j)) (w / 8) = true) →
       exec i s = falls s i (withV d (BitVec.ofNat 1024
         (ofBytes ((List.range n).map (fun j => u.mem.bytes (ownKey u (at_ j)) (w / 8))).flatten)) 0 u)) ∧
     (EitherForm i .vscat .vscatQw f → vOk u d = true →
       exec i s = falls s i ((List.range n).foldl (fun t j => withBytes (ownKey u (at_ j))
         (toBytes (w / 8) (element ((here u).v d) w j)) false t) u)))

/-! ## What a register write leaves -/

/-- Writing x, v or p registers and flags, outside a bridled pair, changes that register with its poison mark, or the flags, and
nothing else: every other register and mark, every byte of memory, every other sequencer, and every queue, tag, semaphore, claim, engine and
other field of the tiles, the clusters and the memory cores is as before; x0 and p0 discard the write, and a written register that another reads holds the value (R35, R37, R75, R276). -/
def Obligations.RegisterWritesFrame : Prop :=
  ∀ (u : State) (n : Nat) (v : Word) (w : VReg) (b m : Bool) (k : BitVec 32) (fl : Flags), role u = .alone → n < 32 →
    withX 0 v m u = u ∧ withP 0 b u = u ∧
    (n ≠ 0 →
      (here (withX n v m u)).x n = v ∧ (here (withX n v m u)).xPoison.getLsbD n = m ∧
      (∀ j, j ≠ n → (here (withX n v m u)).x j = (here u).x j ∧ (here (withX n v m u)).xPoison.getLsbD j = (here u).xPoison.getLsbD j)) ∧
    (here (withV n w k u)).v n = w ∧ (here (withV n w k u)).vPoison.getD n 0 = k ∧
    (∀ j, j ≠ n → (here (withV n w k u)).v j = (here u).v j ∧ (here (withV n w k u)).vPoison.getD j 0 = (here u).vPoison.getD j 0) ∧
    (n ≠ 0 → n < 8 → (here (withP n b u)).p n = b ∧ ∀ j, j ≠ n → (here (withP n b u)).p j = (here u).p j) ∧
    (here (withFlags fl u)).fpstat = (here u).fpstat ||| fl ∧
    (∀ t, (t = withX n v m u ∨ t = withV n w k u ∨ t = withP n b u ∨ t = withFlags fl u) →
      t = { u with tiles := t.tiles, clusters := t.clusters, mcores := t.mcores } ∧
      (∀ q, q ≠ u.focus → t.seq q = u.seq q) ∧
      (∀ k, t.tile k = { u.tile k with a := (t.tile k).a, x := (t.tile k).x }) ∧
      (∀ k, t.cluster k = { u.cluster k with svc := (t.cluster k).svc }) ∧
      (∀ k, t.mcore k = { u.mcore k with m := (t.mcore k).m }) ∧
      (here t) = { here u with
        xs := (here t).xs, xPoison := (here t).xPoison, vs := (here t).vs, vPoison := (here t).vPoison, ps := (here t).ps
        fpstat := (here t).fpstat })

/-! ## Control flow -/

/-- B compares as CC says and goes to the instruction's own address plus four times the displacement, or on; J goes to x[A]
plus the immediate, JR to x[A] with the return address in D; a target that is no multiple of 4 raises 0x0A and leaves D (R44,
R341, R382). BOPUSH adds p[A] at the tail of the outcome queue toward the tile's other sequencer and waits while its 64 places
are taken; BRQ takes the oldest outcome sent to its own sequencer, waits while there is none, and branches on 1 with CC 7, on
0 with CC 8; a field outside its range raises 0x01, and a BRQ whose predicate does not hold takes nothing (R111, R346). That the
field checks come whether or not the predicate holds is the model's choice (log 25).
Completion, by equalities exec i s = next t under conditions on state and operands alone, for b, brq, j, jr, bopush. -/
def Obligations.BranchesAndJumps : Prop :=
  (∀ s : State,
     let u := issued s
     (∀ f : F64B, Ready s (.b f) f.pred f.pneg →
       let a := f.a.toNat
       let b := f.b.toNat
       let x := (here u).x a
       let y := (here u).x b
       let goes := fun (taken : Bool) => exec (.b f) s =
         if taken then jumps s (.b f) ((here u).pc + (f.disp34.signExtend 64 <<< 2)) u else falls s (.b f) u
       (f.cc = 6 → goes true) ∧ (f.cc = 7 → goes ((here u).p a)) ∧ (f.cc = 8 → goes (!(here u).p a)) ∧
       (xOk u a = true → xOk u b = true →
         (f.cc = 0 → goes (decide (x = y))) ∧ (f.cc = 1 → goes (decide (x ≠ y))) ∧
         (f.cc = 2 → goes (decide (x.toInt < y.toInt))) ∧ (f.cc = 3 → goes (decide (y.toInt ≤ x.toInt))) ∧
         (f.cc = 4 → goes (decide (x.toNat < y.toNat))) ∧ (f.cc = 5 → goes (decide (y.toNat ≤ x.toNat))))) ∧
     (∀ f : F64I, Ready s (.j f) f.pred f.pneg → xOk u f.a.toNat = true →
       let t := (here u).x f.a.toNat + f.imm34.signExtend 64
       (t.toNat % 4 = 0 → exec (.j f) s = jumps s (.j f) t u) ∧
       (t.toNat % 4 ≠ 0 → exec (.j f) s = traps s (.j f) 0x0A t)) ∧
     (∀ f : F64A, Ready s (.jr f) f.pred f.pneg → xOk u f.a.toNat = true → xFree u f.d.toNat = true →
       let t := (here u).x f.a.toNat
       (t.toNat % 4 = 0 → exec (.jr f) s = jumps s (.jr f) t (withX f.d.toNat ((here u).pc + 8) false u)) ∧
       (t.toNat % 4 ≠ 0 → exec (.jr f) s = traps s (.jr f) 0x0A t))) ∧
  (∀ (s : State) (t : Nat),
     let u := issued s
     (∀ f : F64A, pairStalled s s.focus = false → 7 < f.a.toNat → exec (.bopush f) s = traps s (.bopush f) 0x01 (lowBits (.bopush f))) ∧
     (∀ f : F64B, pairStalled s s.focus = false → ((f.cc ≠ 7 ∧ f.cc ≠ 8) ∨ f.a ≠ 0 ∨ f.b ≠ 0) →
       exec (.brq f) s = traps s (.brq f) 0x01 (lowBits (.brq f))) ∧
     (∀ f : F64B, pairStalled s s.focus = false → decodeOk s s.focus (.brq f) = true → predHolds (s.seq s.focus) f.pred f.pneg = false →
       exec (.brq f) s = .next (setPc s.focus (nextPc s s.focus (.brq f)) (retire (isPaired s s.focus) s.focus u))) ∧
     (∀ f : F64A, Ready s (.bopush f) f.pred f.pneg →
       let v := (here u).p f.a.toNat
       (u.focus = .a t →
         ((u.tile t).toX.length < 64 → exec (.bopush f) s = falls s (.bopush f) (u.modTile t (fun w => { w with toX := w.toX ++ [v] }))) ∧
         (64 ≤ (u.tile t).toX.length → exec (.bopush f) s = .next (recordWait s.focus .branch s))) ∧
       (u.focus = .x t →
         ((u.tile t).toA.length < 64 → exec (.bopush f) s = falls s (.bopush f) (u.modTile t (fun w => { w with toA := w.toA ++ [v] }))) ∧
         (64 ≤ (u.tile t).toA.length → exec (.bopush f) s = .next (recordWait s.focus .branch s)))) ∧
     (∀ f : F64B, Ready s (.brq f) f.pred f.pneg →
       let goes := fun (bit : Bool) (v : State) => exec (.brq f) s =
         if bit = decide (f.cc = 7) then jumps s (.brq f) ((here v).pc + (f.disp34.signExtend 64 <<< 2)) v else falls s (.brq f) v
       (u.focus = .a t →
         ((u.tile t).toA = [] → exec (.brq f) s = .next (recordWait s.focus .branch s)) ∧
         (∀ bit rest, (u.tile t).toA = bit :: rest → goes bit (u.modTile t (fun w => { w with toA := rest })))) ∧
       (u.focus = .x t →
         ((u.tile t).toX = [] → exec (.brq f) s = .next (recordWait s.focus .branch s)) ∧
         (∀ bit rest, (u.tile t).toX = bit :: rest → goes bit (u.modTile t (fun w => { w with toX := rest }))))))

/-- CALL puts its return address on the store of 16, RET takes the newest; a CALL on a full store first spills the oldest at
CSPILL, which moves up by 8, and raises 0x0D past the limit; a RET on an empty store takes the word below CSPILL, which moves down
by 8, and raises 0x0C at the base (R122, R347, R348, R410).
Completion, by equalities exec i s = next t under conditions on state and operands alone, for call, ret. -/
def Obligations.CallsAndReturns : Prop :=
  ∀ s : State,
    let u := issued s
    let q := here u
    let limit := (q.csplim.extractLsb' 0 20).toNat
    let base := (q.csplim.extractLsb' 20 20).toNat
    (∀ f : F64B, Ready s (.call f) f.pred f.pneg →
      let target := q.pc + (f.disp34.signExtend 64 <<< 2)
      (q.returns.length < 16 → exec (.call f) s =
        jumps s (.call f) target (u.modSeq u.focus (fun v => { v with returns := (q.pc + 8) :: v.returns }))) ∧
      (16 ≤ q.returns.length → limit < offsetOf q.cspill + 8 →
        exec (.call f) s = traps s (.call f) 0x0D (q.csplim.setWidth 64)) ∧
      (16 ≤ q.returns.length → offsetOf q.cspill + 8 ≤ limit → Solo u → ownScratch u q.cspill 8 8 = true →
        exec (.call f) s = jumps s (.call f) target
          (((withBytes (ownKey u q.cspill) (toBytes 8 (q.returns.getLastD 0).toNat) false u).modSeq u.focus (fun v =>
            { v with returns := v.returns.dropLast, cspill := v.cspill + 8 })).modSeq u.focus (fun v =>
            { v with returns := (q.pc + 8) :: v.returns })))) ∧
    (∀ f : F64A, Ready s (.ret f) f.pred f.pneg →
      (∀ t rest, q.returns = t :: rest →
        (t.toNat % 4 = 0 → exec (.ret f) s = jumps s (.ret f) t (u.modSeq u.focus (fun v => { v with returns := rest }))) ∧
        (t.toNat % 4 ≠ 0 → exec (.ret f) s = traps s (.ret f) 0x0A t)) ∧
      (q.returns = [] → offsetOf q.cspill ≤ base → exec (.ret f) s = traps s (.ret f) 0x0C 0) ∧
      (q.returns = [] → base < offsetOf q.cspill → Solo u → (State.tileOf u.focus).isSome = true → formOf q.cspill = 1 →
        formOk q.cspill = true → gtileOf u q.cspill = home u → q.cspill.toNat % 8 = 0 →
        let key := scratchKey (home u) (offsetOf q.cspill - 8)
        let t : Word := BitVec.ofNat 64 (wordAt u.mem key 8)
        inFlight u u.focus (wordsOf key 8) = false → cleanBytes u.mem key 8 = true →
        (t.toNat % 4 = 0 → exec (.ret f) s =
          jumps s (.ret f) t (u.modSeq u.focus (fun v => { v with cspill := v.cspill - 8 }))) ∧
        (t.toNat % 4 ≠ 0 → exec (.ret f) s = traps s (.ret f) 0x0A t)))

/-! ## Queues and barriers -/

/-- QBIND binds the handle to the queue at the address, which it creates with both counters 0 unless one stands there; a geometry
outside the limits or an overlap raises 0x0E and leaves the handle unbound; QADV and QPUB move C and P by B once that many slots
are filled or free and the agent's accesses to them are over: at once and waking the tile where the issuer's own unit keeps the counters,
else by a request to the queue's tile; QAVAIL gives the filled or free count; a counter word that is poison is consumed (R106-R109, R170,
R275, R406, R407).
Completion, by equalities exec i s = next t under conditions on state and operands alone, for qbind, qadv, qpub, qavail. -/
def Obligations.QueueInstructions : Prop :=
  ∀ (s : State) (f : F64A),
    let u := issued s
    let n := fun (v : Word) => v.toNat
    Solo u →
    (Ready s (.qbind f) f.pred f.pneg → ((∀ c, u.focus ≠ .m c) ∨ f.d ≠ 47) → xOk u f.a.toNat = true →
      ∀ g : Word, scalarAt u 3 f.b f.imm16 = some g →
      let a := (here u).x f.a.toNat
      let t := gtileOf u a
      let base := offsetOf a
      let lz := n g % 16
      let ls := n g / 16 % 16
      let sound := n g < 256 ∧ 3 ≤ lz ∧ lz ≤ 12 ∧ 1 ≤ ls ∧ ls ≤ 12 ∧ lz + ls ≤ 19
      let unfit := exec (.qbind f) s = .next (raiseTrap s.focus 0x0E (BitVec.ofNat 64 f.d.toNat) none
        (nextPc s s.focus (.qbind f)) (bindHandle f.d.toNat none u))
      (formOf a ≠ 1 → exec (.qbind f) s = traps s (.qbind f) 0x04 a) ∧
      (formOf a = 1 → formOk a = true → shutOut u u.focus a = false → mayReach u u.focus t = true →
        (¬ sound → unfit) ∧
        (sound → base % 2 ^ (lz + ls) ≠ 0 → exec (.qbind f) s = traps s (.qbind f) 0x0A a) ∧
        (sound → base % 2 ^ (lz + ls) = 0 → queueFits (u.tile t).queues base lz ls = false → unfit) ∧
        (sound → base % 2 ^ (lz + ls) = 0 → queueFits (u.tile t).queues base lz ls = true → (u.tile t).twin ≠ .primary →
          exec (.qbind f) s = falls s (.qbind f) (bindHandle f.d.toNat (some (.tile t base)) (u.modTile t (fun w =>
            if w.queues.any (fun e => e.1 == base) then w else { w with queues := w.queues.set base ⟨lz, ls, 0, 0, false⟩ })))))) ∧
    (∀ (t base : Nat) (b : Word) (i : Instr) (publish : Bool),
      ((i = .qadv f ∧ publish = false) ∨ (i = .qpub f ∧ publish = true)) → Ready s i f.pred f.pneg →
      (∀ c, u.focus = .m c → f.a ≠ 47) → (here u).handles.getD (f.a.toNat - 32) none = some (.tile t base) →
      scalarAt u 3 f.b f.imm16 = some b →
      let r := QRef.tile t base
      let q := seenQueue u r
      let ready := if publish then q.free else q.filled
      let words := slotWords r q (if publish then q.p else q.c) (n b)
      (q.poison = true → exec i s = .next (consumePoison s.focus (noteConsumed s.focus 0 u))) ∧
      (q.poison = false → (n b = 0 ∨ q.slots < n b) → exec i s = traps s i 0x01 (lowBits i)) ∧
      (q.poison = false → 1 ≤ n b → n b ≤ q.slots →
        (ready < n b → exec i s = .next (recordWait s.focus .queue s)) ∧
        (n b ≤ ready → (inFlight u u.focus words = true ∨ (pushedWords u u.focus).any words.contains = true) →
          exec i s = .next (recordWait s.focus .outstanding s)) ∧
        (n b ≤ ready → inFlight u u.focus words = false → (pushedWords u u.focus).any words.contains = false →
          (ownQueue u.focus r = true → (u.tile t).twin ≠ .primary → exec i s = falls s i (latchTile t 1 (u.modTile t (fun w =>
            { w with queues := w.queues.set base ((w.queues.get Queue.reset base).moved publish (n b)) })))) ∧
          (ownQueue u.focus r = false → outstanding u u.focus < 64 →
            exec i s = falls s i (sent (.move r publish (n b)) (.scratch t base) true false none u))))) ∧
    (∀ t base : Nat, Ready s (.qavail f) f.pred f.pneg → (∀ c, u.focus = .m c → f.a ≠ 47) →
      (here u).handles.getD (f.a.toNat - 32) none = some (.tile t base) → f.d.toNat < 32 → xFree u f.d.toNat = true →
      let q := seenQueue u (.tile t base)
      (q.poison = true → exec (.qavail f) s = .next (consumePoison s.focus (noteConsumed s.focus 0 u))) ∧
      (q.poison = false → exec (.qavail f) s = falls s (.qavail f)
        (withX f.d.toNat (BitVec.ofNat 64 (if f.fn.getLsbD 0 then q.free else q.filled)) false u)))

/-- The barriers of a die: BARINIT starts a context with the group's tiles of the die, phase 0 and no arrival, and releases its
waiters; BARARV arrives, waits when the tile has arrived in the phase, and the last arrival starts the next phase; BARDEF arrives
once the firing's commands have landed, at once when there is none; BARWAIT gives 0 once the phase of the tile's arrival is over, 1
after a release, 2 without an arrival; a barrier that the tile does not belong to raises 0x0B (R125-R127, R342). TVAL 0 with that
cause (log 25), and COLL among the commands of a firing (log 40), are the model's choices.
Completion, by equalities exec i s = next t under conditions on state and operands alone, for barinit, bararv, bardef,
barwait. -/
def Obligations.BarrierInstructions : Prop :=
  ∀ (s : State) (f : F64A) (t : Nat), (s.focus = .a t ∨ s.focus = .x t) →
    let u := issued s
    let die := dieOf t
    let gang := u.gangOf u.focus
    let name := f.imm16.toNat
    Solo u →
    (Ready s (.barinit f) f.pred f.pneg → xOk u f.a.toNat = true → ∀ g : Gang, u.gang? gang = some g →
      let k := ((here u).x f.a.toNat).toNat
      let own := decide (k < g.groups.length) && ((groupsOf u g t).getD []).contains k
      (own = false → exec (.barinit f) s = traps s (.barinit f) 0x0B 0) ∧
      (own = true → ((findBarrier u die gang name).isSome = true ∨ contextsUsed u die < 128) →
        let freed := ((findBarrier u die gang name).map (fun b => b.released ++ b.waiting)).getD []
        exec (.barinit f) s = falls s (.barinit f) (u.modLaunch (fun l =>
          { l with
            barriers := l.barriers.filter (fun b => !isBarrier die gang name b) ++
              [⟨die, gang, name, groupOnDie g k die, 0, [], [], [], freed⟩]
            deferred := l.deferred.filter (fun d => !(d.gang == gang && d.name == name && dieOf d.tile == die)) })))) ∧
    (∀ i, (i = .bararv f ∨ i = .bardef f) → Ready s i f.pred f.pneg → findBarrier u die gang name = none →
      exec i s = traps s i 0x0B 0) ∧
    (∀ b : Barrier, findBarrier u die gang name = some b →
      let arrived := insertNat b.arrived t
      let last := b.last.set t b.phase
      let after := if b.members.all arrived.contains then
          (b.members.flatMap (stateTiles u false)).foldl (fun v m => latchTile m 8 v)
            (modBarrier die gang name (fun c => { c with phase := c.phase + 1, arrived := [], last := last }) u)
        else modBarrier die gang name (fun c => { c with arrived := arrived, last := last }) u
      (∀ i, (i = .bararv f ∨ i = .bardef f) → Ready s i f.pred f.pneg → b.members.contains t = false →
        exec i s = traps s i 0x0B 0) ∧
      (Ready s (.bararv f) f.pred f.pneg → b.members.contains t = true →
        (b.arrived.contains t = true → exec (.bararv f) s = .next (recordWait s.focus .barrier s)) ∧
        (b.arrived.contains t = false → acknowledged u = true → exec (.bararv f) s = falls s (.bararv f) after)) ∧
      (Ready s (.bardef f) f.pred f.pneg → b.members.contains t = true → acknowledged u = true →
        let cmds := ((here u).firing.map (·.begun)).getD []
        (cmds.all (landed u t) = true → b.arrived.contains t = false → exec (.bardef f) s = falls s (.bardef f) after) ∧
        ((cmds.all (landed u t) = false ∨ b.arrived.contains t = true) → exec (.bardef f) s = falls s (.bardef f)
          (u.modLaunch (fun l => { l with deferred := l.deferred ++ [⟨gang, t, name, cmds⟩] })))) ∧
      (Ready s (.barwait f) f.pred f.pneg → f.d.toNat < 32 → xFree u f.d.toNat = true →
        let left := modBarrier die gang name (fun c =>
          { c with waiting := c.waiting.filter (· != s.focus), released := c.released.filter (· != s.focus) }) u
        (b.released.contains s.focus = true → xFree left f.d.toNat = true → role left = .alone →
          exec (.barwait f) s = falls s (.barwait f) (withX f.d.toNat 1 false left)) ∧
        (b.released.contains s.focus = false → b.members.contains t = true → b.last.find? (fun e => e.1 == t) = none →
          exec (.barwait f) s = falls s (.barwait f) (withX f.d.toNat 2 false u)) ∧
        (∀ e, b.released.contains s.focus = false → b.members.contains t = true → b.last.find? (fun e => e.1 == t) = some e →
          (e.2 < b.phase → xFree left f.d.toNat = true →
            exec (.barwait f) s = falls s (.barwait f) (withX f.d.toNat 0 false left)) ∧
          (b.phase ≤ e.2 → exec (.barwait f) s = .next (modBarrier b.die b.gang b.name (fun c =>
            if c.waiting.contains s.focus then c else { c with waiting := c.waiting ++ [s.focus] })
            (recordWait s.focus .barrier s))))))

/-! ## Actors, firings and the reel -/

/-- ACTON and ACTOFF set the enable of the actor that IMM16 names, in the tile's A-seq or X-seq table, or the core's one
table, and change nothing else (R105, R336). NESTCFG reads a nest descriptor of 64 bytes and raises 0x01 when it breaks its
limits, else the slot holds it, disarmed; NESTGO binds an actor to a slot that holds a nest of its launch, armed, and starts its claim, and
raises 0x01 for an empty slot or another launch's; ALIGNH waits, for 256 cycles at most, while its tile's sequencer is more than N fetch blocks
ahead of another of its cluster (R112, R113, R124, R395).
Completion, by equalities exec i s = next t under conditions on state and operands alone, for acton, actoff, nestcfg,
nestgo, alignh. -/
def Obligations.ActorsReelAndAlignment : Prop :=
  (∀ (s : State) (i : Instr) (f : F64A) (v : Bool), ((i = .acton f ∧ v = true) ∨ (i = .actoff f ∧ v = false)) →
     Ready s i f.pred f.pneg →
     let u := issued s
     let n := f.imm16.toNat % 16
     let x := f.imm16.getLsbD 4
     let enabled := fun (q : Seq) => { q with actors := q.actors.setIfInBounds n { q.actors.getD n Actor.absent with enabled := v } }
     (∀ t, (u.focus = .a t ∨ u.focus = .x t) → exec i s = falls s i
       (u.modTile t (fun w => if x then { w with x := enabled w.x } else { w with a := enabled w.a }))) ∧
     (∀ c, u.focus = .m c → x = false → exec i s = falls s i (u.modMCore c (fun w => { w with m := enabled w.m }))) ∧
     (∀ c, u.focus = .m c → x = true → exec i s = traps s i 0x01 (lowBits i))) ∧
  (∀ (s : State) (f : F64A),
     let u := issued s
     let q := here u
     Solo u →
     (Ready s (.nestcfg f) f.pred f.pneg → xOk u f.a.toNat = true →
       let a := q.x f.a.toNat
       let ws := (List.range 8).map (fun k => (BitVec.ofNat 64 (wordAt u.mem (ownKey u a + 8 * k) 8) : Word))
       ownScratch u a 64 8 = true → cleanBytes u.mem (ownKey u a) 64 = true → pushesToward u u.focus (home u) = false →
       (nestOk ws = false → exec (.nestcfg f) s = traps s (.nestcfg f) 0x01 (lowBits (.nestcfg f))) ∧
       (nestOk ws = true → (q.nest f.imm16.toNat).claiming = none →
         exec (.nestcfg f) s = falls s (.nestcfg f) (u.modSeq u.focus (fun w => w.modNest f.imm16.toNat (fun n =>
           { n with gang := u.gangOf u.focus, nest := some (nestOf ws), armed := false, lo := 0, hi := 0 }))))) ∧
     (Ready s (.nestgo f) f.pred f.pneg →
       let slot := f.imm16.toNat % 4
       let n := f.imm16.toNat / 4 % 16
       (((q.nest slot).nest = none ∨ (q.nest slot).gang ≠ u.gangOf u.focus) →
         exec (.nestgo f) s = traps s (.nestgo f) 0x01 (lowBits (.nestgo f))) ∧
       ((q.nest slot).nest.isSome = true → (q.nest slot).gang = u.gangOf u.focus → (q.nest slot).claiming = none →
         (q.nests.toList.any (fun x => x.actor == some n && x.claiming.isSome)) = false → acknowledged u = true →
         exec (.nestgo f) s = falls s (.nestgo f) (u.modSeq u.focus (bindReel u.time slot n)))) ∧
     (Ready s (.alignh f) f.pred f.pneg →
       (isAhead u u.focus f.imm16.toNat = false → exec (.alignh f) s = falls s (.alignh f) u) ∧
       (∀ since g, q.wait = some ⟨.align, since, some g⟩ → exec (.alignh f) s = falls s (.alignh f) u) ∧
       (isAhead u u.focus f.imm16.toNat = true → (∀ w, q.wait = some w → w.grant = none) →
         exec (.alignh f) s = .next ((recordWait s.focus .align s).modSeq s.focus (fun w =>
           { w with deadline := some (w.deadline.getD ((recordWait s.focus .align s).cycleOf s.focus + 256)) })))))

/-- FEND waits for every outstanding access of its firing and every pending register, raises 0x15 while the firing holds an unpublished command record,
and ends the firing, with one live gondola fewer when it was a gondola's and the request given back on a memory core; SPAWN gives 1 at LIVELIM, else sends
a gondola with x1 to x7 and gives 0; MIGR sends its own gondola on and ends the firing, and raises 0x01 in an actor's (R117, R118,
R369, R390, R415).
Completion, by equalities exec i s = next t under conditions on state and operands alone, for fend, spawn, migr. -/
def Obligations.FiringsAndGondolas : Prop :=
  ∀ (s : State) (f : F64A),
    let u := issued s
    let q := here u
    let gondola := (q.firing.map (·.gondola)).getD false
    let idle := firingRequests u u.focus = [] ∧ q.xPending = 0 ∧ q.vPending = 0
    let ended := fun (v : State) => v.modSeq u.focus (fun w =>
      { w with firing := none, wait := none, hold := none, spawned := none, xPending := 0, vPending := 0 })
    let oneLess := fun (v : State) => if gondola then v.modGang (u.gangOf u.focus) (fun g => { g with live := g.live - 1 }) else v
    Solo u →
    (Ready s (.fend f) f.pred f.pneg →
      (∀ t r, State.tileOf u.focus = some t → q.firing = some r →
        (∀ c, unpublished (u.tile t) r = some c →
          exec (.fend f) s = traps s (.fend f) 0x15 (BitVec.ofNat 64 (c.record.getD 0))) ∧
        (unpublished (u.tile t) r = none →
          (idle → exec (.fend f) s = finishes s (.fend f) (ended (oneLess u))) ∧
          (¬ idle → exec (.fend f) s = .next (recordWait s.focus .outstanding s)))) ∧
      (∀ c, u.focus = .m c → idle →
        ((u.mcore c).taken = none → exec (.fend f) s = finishes s (.fend f) (ended (oneLess u))) ∧
        ((u.mcore c).taken.isSome = true → requestServed u c = true →
          exec (.fend f) s = finishes s (.fend f) (ended (oneLess (returnRequest c u)))))) ∧
    (∀ p, xOk u f.a.toNat = true → xOk u f.b.toNat = true → (q.x f.a.toNat).toNat % 4 = 0 →
      (gondolaPlace (q.x f.b.toNat)).run u = .ok p u →
      let pc := q.x f.a.toNat
      let settled := (q.xPending.extractLsb' 1 7) = 0
      let room := roomFor u (u.gangOf u.focus) (destOf u p) = true
      (Ready s (.spawn f) f.pred f.pneg → q.spawned = none → ∀ g : Gang, u.gang? (u.gangOf u.focus) = some g →
        (g.livelim.toNat ≤ g.live → xFree u f.d.toNat = true →
          exec (.spawn f) s = falls s (.spawn f) (withX f.d.toNat 1 false u)) ∧
        (g.live < g.livelim.toNat → settled → acknowledged u = true → room → xFree u f.d.toNat = true →
          let counted := (u.modSeq u.focus (fun w => { w with spawned := some (destOf u p) })).modGang (u.gangOf u.focus)
            (fun g => { g with live := g.live + 1 })
          let w : State := { counted with next := u.next + 1 }
          exec (.spawn f) s = falls s (.spawn f) (withX f.d.toNat 0 false
            (launchGondola u.focus (transitOf u.focus (packet w u.focus u.next pc) (destOf u p) w)
              (w.modSeq u.focus (fun w => { w with spawned := none })))))) ∧
      (Ready s (.migr f) f.pred f.pneg → gondola = true → settled → writesAcknowledged u u.focus = true → room →
        (∀ c, u.focus = .m c → (u.mcore c).taken = none) →
        exec (.migr f) s = finishes s (.migr f)
          (ended (launchGondola u.focus (transitOf u.focus (packet u u.focus (u.firingOf u.focus) pc) (destOf u p) u)
            (voidRequests u.focus (u.firingOf u.focus) u))))) ∧
    (formOf (q.x f.b.toNat) = 1 → formOk (q.x f.b.toNat) = true → shutOut u u.focus (q.x f.b.toNat) = false →
      mayReach u u.focus (gtileOf u (q.x f.b.toNat)) = true →
      (gondolaPlace (q.x f.b.toNat)).run u = .ok (.scratch (gtileOf u (q.x f.b.toNat)) 0) u) ∧
    (Ready s (.spawn f) f.pred f.pneg → xOk u f.a.toNat = true → xOk u f.b.toNat = true → (q.x f.a.toNat).toNat % 4 ≠ 0 →
      exec (.spawn f) s = traps s (.spawn f) 0x0A (q.x f.a.toNat)) ∧
    (Ready s (.migr f) f.pred f.pneg → gondola = false → exec (.migr f) s = traps s (.migr f) 0x01 (lowBits (.migr f)))

/-! ## Tags, semaphores, streams and the TLB -/

/-- TLOOK gives the slot that holds an address's tag, or all ones; TINS puts the tag into a slot, taking it from any other, and gives
the address of the slot's former tag; TEVICT empties a slot and gives its former tag's address; an address that is not form 0b00
raises 0x04 (R161, R162, R421, R422). SEMWAIT takes one from a semaphore, with an acquire at TILE, and waits at 0, SEMSIG adds one after a release at TILE
and waits at 255 (R222, R413). STRBIND binds a stream register to a type and a count from 1 to 65535 and keeps its bytes (R163, R418).
Completion, by equalities exec i s = next t under conditions on state and operands alone, for tlook, tins, tevict, semwait,
semsig, strbind. -/
def Obligations.TagsSemaphoresStreams : Prop :=
  ∀ (s : State) (f : F64A),
    let u := issued s
    let t := home u
    let tags := (u.tile t).tags
    let a := (here u).x f.a.toNat
    let tag : BitVec 44 := a.extractLsb' 10 44
    let address := fun (l : Assoc (BitVec 44)) (n : Nat) => match l.find? (fun e => e.1 == n) with
      | some e => (e.2.setWidth 64 : Word) <<< 10
      | none => BitVec.allOnes 64
    (∀ b : Word, f.d.toNat < 32 → xFree u f.d.toNat = true → xOk u f.a.toNat = true →
      let valid := formOf a = 0 ∧ formOk a = true
      (Ready s (.tlook f) f.pred f.pneg →
        (valid → exec (.tlook f) s = falls s (.tlook f) (withX f.d.toNat (match (tags.find? (fun e => e.2 == tag)).map (·.1) with
          | some n => BitVec.ofNat 64 n
          | none => BitVec.allOnes 64) false u)) ∧
        (¬ valid → exec (.tlook f) s = traps s (.tlook f) 0x04 a)) ∧
      (Ready s (.tins f) f.pred f.pneg → scalarAt u 3 f.b f.imm16 = some b →
        let rest := tags.filter (fun e => e.2 != tag)
        let v := u.modTile t (fun w => { w with tags := Assoc.set rest (b.toNat % 512) tag })
        (valid → xFree v f.d.toNat = true →
          exec (.tins f) s = falls s (.tins f) (withX f.d.toNat (address rest (b.toNat % 512)) false v)) ∧
        (¬ valid → exec (.tins f) s = traps s (.tins f) 0x04 a))) ∧
    (∀ b : Word, Ready s (.tevict f) f.pred f.pneg → scalarAt u 3 f.a f.imm16 = some b → f.d.toNat < 32 →
      let v := u.modTile t (fun w => { w with tags := Assoc.erase w.tags (b.toNat % 512) })
      xFree v f.d.toNat = true →
      exec (.tevict f) s = falls s (.tevict f) (withX f.d.toNat (address tags (b.toNat % 512)) false v)) ∧
    (let n := f.imm16.toNat
     let k := (u.tile t).sems.getD n 0
     (Ready s (.semwait f) f.pred f.pneg →
       (k = 0 → exec (.semwait f) s = .next (recordWait s.focus .sem s)) ∧
       (k ≠ 0 → exec (.semwait f) s = falls s (.semwait f) (acquiresOn (semObject (u.primaryOf t) n) u.focus 1 (u.modTile t (fun w =>
         { w with sems := w.sems.setIfInBounds n (w.sems.getD n 0 - 1) }))))) ∧
     (Ready s (.semsig f) f.pred f.pneg →
       (k = 255 → exec (.semsig f) s = .next (recordWait s.focus .sem s)) ∧
       (k ≠ 255 → outstanding u u.focus = 0 → exec (.semsig f) s = falls s (.semsig f) (latchTile t 4
         ((releasesOn (semObject (u.primaryOf t) n) u.focus 1 u).modTile t (fun w => { w with sems := w.sems.setIfInBounds n (w.sems.getD n 0 + 1) })))))) ∧
    (∀ b : Word, Ready s (.strbind f) f.pred f.pneg → scalarAt u 3 f.b f.imm16 = some b →
      let k := f.a.toNat - 48
      (1 ≤ b.toNat → b.toNat ≤ 65535 → exec (.strbind f) s = falls s (.strbind f) (u.modSeq u.focus (fun q =>
        { q with sds := q.sds.setIfInBounds k { q.sds.getD k Stream.reset with bound := true, ty := f.ty, left := b.toNat } }))) ∧
      ((b = 0 ∨ 65535 < b.toNat) → exec (.strbind f) s = traps s (.strbind f) 0x01 (lowBits (.strbind f))))

/-- TLBW gives 2 for a span without a pending miss, 1 for one that a TLBINV has overtaken, else installs the entry and gives 0; a
span or leaf outside the rules or a unit that the core does not serve raises 0x01; TLBINV drops, within its scope, the entries of the address, the
partition or all, marks their misses, and waits for the accesses (R188-R190, R424, R425).
Completion, by equalities exec i s = next t under conditions on state and operands alone, for tlbw, tlbinv. -/
def Obligations.TranslationInstructions : Prop :=
  ∀ (s : State) (c : Nat), s.focus = .s c →
    let u := issued s
    (∀ f : F128C, Ready s (.tlbw f) f.pred f.pneg → xOk u f.a.toNat = true → xOk u f.b.toNat = true → xOk u f.c.toNat = true →
      let a := (here u).x f.a.toNat
      let leaf := (here u).x f.b.toNat
      let k := (here u).x f.c.toNat
      let p := (f.flags18.extractLsb' 0 4).toNat
      let size := f.sub8.toNat
      (installOk u p size a k leaf = false → exec (.tlbw f) s = traps s (.tlbw f) 0x01 (lowBits (.tlbw f))) ∧
      (tlbTarget c (f.imm64.extractLsb' 0 16) = none → exec (.tlbw f) s = traps s (.tlbw f) 0x01 (lowBits (.tlbw f))) ∧
      (∀ q, installOk u p size a k leaf = true → tlbTarget c (f.imm64.extractLsb' 0 16) = some q →
        let lo := (spanOf size a k).1
        let hi := (spanOf size a k).2
        let met := fun (m : Miss) => m.part == p && decide (lo ≤ m.va) && decide (m.va < hi)
        let pending := (tlbOf u q).misses.filter met
        let without := fun (gone : Miss → Bool) (v : State) =>
          modTlb q (fun t => { t with misses := t.misses.filter (fun m => !gone m) }) v
        let done := fun (n : Word) (v : State) => xFree v f.d.toNat = true →
          exec (.tlbw f) s = falls s (.tlbw f) (withX f.d.toNat n false v)
        (pending = [] → done 2 u) ∧
        (pending ≠ [] → pending.any (·.isStale lo hi) = true → done 1 (without (fun m => met m && m.isStale lo hi) u)) ∧
        (pending ≠ [] → pending.any (·.isStale lo hi) = false →
          done 0 (without met (install q ⟨p, BitVec.ofNat 2 size, lo, hi, leaf.extractLsb' 0 62⟩ u))))) ∧
    (∀ f : F64M, Ready s (.tlbinv f) f.pred f.pneg → xOk u f.d.toNat = true → xOk u f.base.toNat = true →
      let p := ((here u).x f.d.toNat).toNat % 16
      let a := addressOf u f
      let fn := f.fn3.toNat
      let drop := invalidateAll f.sc.toNat c fn p a.toNat
      (fn = 0 → formOk a = false → exec (.tlbinv f) s = traps s (.tlbinv f) 0x04 a) ∧
      ((fn = 0 → formOk a = true ∧ rangeCause a 1 = none) → ∀ w g, (here u).wait = some w → w.why = .outstanding → w.grant = some g →
        (accessesDone c u = true → exec (.tlbinv f) s = falls s (.tlbinv f) u) ∧
        (accessesDone c u = false → exec (.tlbinv f) s = .next (recordWait s.focus .outstanding s))) ∧
      ((fn = 0 → formOk a = true ∧ rangeCause a 1 = none) → (∀ w, (here u).wait = some w → w.grant = none) →
        (accessesDone c (drop u) = true → exec (.tlbinv f) s = falls s (.tlbinv f) (drop u)) ∧
        (accessesDone c (drop u) = false → exec (.tlbinv f) s =
          .next ((drop (recordWait s.focus .outstanding s)).modSeq s.focus (fun v =>
            { v with wait := v.wait.map (fun w => { w with grant := some (0, false) }) })))))

/-! ## Control and status registers, clocks, waits -/

/-- CSRR gives a register's value, CSRW writes the fields that may be written, both raise 0x01 for a register that the
sequencer does not have; FPRM, FPSTAT, CSPILL and CSPLIM read as written in their bits, EPC, TVAL and TVEC of a service core
too, the last with its low five bits 0; no write of a CSR changes memory (R67, R69, R70, R77, R79, R354). ERRQ gives a counter
(R285, R359). TSC gives the ticks at which the cycle of its issue began, CYC the cycles since the sequencer's first of the
gang; WFE gives the wake latch and clears it, and waits while it is 0, until the time it names; HALT waits for a trap and
raises 0x01 with one in hand; a service core that either leaves with a trap queued takes it (R301, R302, R355, R381, R440,
R441).
Completion, by equalities exec i s = next t under conditions on state and operands alone, for csrr, csrw, errq, tsc, cyc,
wfe, halt. -/
def Obligations.ControlRegistersAndClocks : Prop :=
  (∀ (s : State) (f : F64A),
     let u := issued s
     let n := f.imm16.toNat % 4096
     let d := f.d.toNat
     role u = .alone →
     (∀ i, (i = .csrr f ∨ i = .csrw f) → Ready s i f.pred f.pneg → Csr.ofNumber n = none → exec i s = traps s i 0x01 (lowBits i)) ∧
     (∀ c : Csr, Csr.ofNumber n = some c →
       (Ready s (.csrr f) f.pred f.pneg → d < 32 → xFree u d = true →
         (c.readable u.focus.kind = true → exec (.csrr f) s = falls s (.csrr f) (withX d (csrValue u u.focus c) false u)) ∧
         (c.readable u.focus.kind = false → exec (.csrr f) s = traps s (.csrr f) 0x01 (lowBits (.csrr f)))) ∧
       (Ready s (.csrw f) f.pred f.pneg →
         (c.writable u.focus.kind = false → exec (.csrw f) s = traps s (.csrw f) 0x01 (lowBits (.csrw f))) ∧
         (∀ v : Word, c.writable u.focus.kind = true → scalarAt u 3 f.a 0 = some v →
           let t := csrWrite u.focus c v u
           let reads := csrValue t u.focus c
           exec (.csrw f) s = falls s (.csrw f) t ∧ t.mem = s.mem ∧
           (c = .fprm → reads = v &&& 3) ∧ (c = .fpstat → reads = v &&& 31) ∧ (c = .cspill → reads = v) ∧
           (c = .csplim → reads = v &&& 0xFFFFFFFFFF) ∧ (c = .epc → reads = v) ∧ (c = .tval → reads = v) ∧
           (c = .tvec → reads = v &&& ~~~31#64)))) ∧
     (Ready s (.errq f) f.pred f.pneg → d < 32 → xFree u d = true →
       exec (.errq f) s = falls s (.errq f) (withX d (BitVec.ofNat 64 (errqValue u u.focus f.imm16.toNat)) false u))) ∧
  (∀ (s : State) (f : F64A),
     let u := issued s
     let d := f.d.toNat
     role u = .alone →
     (Ready s (.tsc f) f.pred f.pneg → xFree u d = true →
       exec (.tsc f) s = falls s (.tsc f) (withX d (BitVec.ofNat 64 (cycleStart u u.focus / State.tickUnits)) false u)) ∧
     (Ready s (.cyc f) f.pred f.pneg → xFree u d = true →
       exec (.cyc f) s = falls s (.cyc f)
         (withX d (BitVec.ofNat 64 (u.cycleOf u.focus - (here u).cycleBases.get 0 (u.gangOf u.focus))) false u)) ∧
     (Ready s (.wfe f) f.pred f.pneg → xFree u d = true →
       let bits := (here u).latch
       let left := (withX d (bits.setWidth 64) false u).modSeq u.focus (fun q => { q with latch := 0 })
       (bits = 0 → ∃ t, exec (.wfe f) s = .next t ∧ t.mem = s.mem ∧
         t.seq s.focus = { (recordWait s.focus .wfe s).seq s.focus with
           deadline := if f.imm16 = 0 then none
             else some ((s.seq s.focus).deadline.getD (s.time + f.imm16.toNat * 64 * State.tickUnits)) }) ∧
       (bits ≠ 0 → ((∀ c, u.focus ≠ .s c) ∨ bits.getLsbD 5 = false) → exec (.wfe f) s = falls s (.wfe f) left) ∧
       (∀ c, u.focus = .s c → bits.getLsbD 5 = true → (u.cluster c).inHand = none → (u.cluster c).traps ≠ [] →
         exec (.wfe f) s = finishes s (.wfe f) (takeTrap c left))) ∧
     (∀ c, u.focus = .s c → Ready s (.halt f) f.pred f.pneg →
       ((u.cluster c).inHand.isSome = true → exec (.halt f) s = traps s (.halt f) 0x01 (lowBits (.halt f))) ∧
       ((u.cluster c).inHand = none → acknowledged u = true →
         ((u.cluster c).traps = [] → exec (.halt f) s = .next (recordWait s.focus .wfe s)) ∧
         ((u.cluster c).traps ≠ [] → exec (.halt f) s = finishes s (.halt f) (takeTrap c u)))))

/-- Taking a trap. TRAP raises 0x14 with its immediate once its accesses are acknowledged. A cause raised by a tile's or a memory
core's instruction suspends the firing and gives the service core a trap with the unit, the kind, the cause, the instruction's
address and TVAL; TRAP_DELIVERY queues it, 64 at most; a service core that takes it holds CAUSE, EPC and TVAL of it and goes to TVEC.
ERET resumes the trapped instruction, resumes past it, or lets the trap stand, and takes the next trap or goes on (R69, R70, R71, R357, R358, R427).
Completion, by equalities exec i s = next t under conditions on state and operands alone, for trap, eret, trapDelivery. -/
def Obligations.TrapEntryAndReturn : Prop :=
  (∀ (s : State) (f : F64A), Ready s (.trap f) f.pred f.pneg →
    (isPaired (issued s) (issued s).focus = false → acknowledged (issued s) = true → exec (.trap f) s = traps s (.trap f) 0x14 (f.imm16.setWidth 64)) ∧
    (allAcknowledged (issued s) s.focus = false → exec (.trap f) s = .next (recordWait s.focus .outstanding s))) ∧
  (∀ (s : State) (q : SeqId) (code : Byte) (tval after : Word), (∀ c, q ≠ .s c) → isTwin s q = false →
    let t := raiseTrap q code tval none after s
    t.launch.undelivered = s.launch.undelivered ++
      [⟨unitOf q, kindCode q, code, (s.seq q).pc, tval, s.gangOf q, s.partOf q, .instruction q, none⟩] ∧
    t.seq q = { s.seq q with suspended := true, wait := none } ∧ t.mem = s.mem) ∧
  (∀ (s : State) (t : Trap), s.launch.undelivered[s.subject]? = some t →
    (64 ≤ (s.cluster t.server).traps.length → exec .trapDelivery s = .next s) ∧
    ((s.cluster t.server).traps.length < 64 → ∃ v, exec .trapDelivery s = .next v ∧
      v.launch.undelivered = s.launch.undelivered.eraseIdx s.subject ∧ v.mem = s.mem ∧
      ((s.cluster t.server).svc.suspended = false → (v.cluster t.server).traps = (s.cluster t.server).traps ++ [t]))) ∧
  (∀ (s : State) (c : Nat) (t : Trap) (rest : List Trap), (s.cluster c).traps = t :: rest →
    let v := takeTrap c s
    csrValue v (.s c) .epc = t.epc ∧ csrValue v (.s c) .tval = t.tval ∧
    csrValue v (.s c) .cause = BitVec.ofNat 64 (t.unit.toNat * 2 ^ 48 + t.kind.toNat * 2 ^ 46 + t.code.toNat) ∧
    csrValue v (.s c) .partid = BitVec.ofNat 64 (t.part % 16) ∧
    (v.cluster c).traps = rest ∧ (v.cluster c).inHand = some t ∧ (v.cluster c).svc.pc = (s.cluster c).tvec ∧
    (v.cluster c).svc.suspended = false ∧ v.mem = s.mem) ∧
  (∀ (s : State) (c : Nat) (f : F64A), s.focus = .s c → Ready s (.eret f) f.pred f.pneg →
    let u := issued s
    let next := fun (t : State) => exec (.eret f) s =
      if (t.cluster c).traps = [] then falls s (.eret f) t else finishes s (.eret f) (takeTrap c t)
    ((u.cluster c).inHand = none → next u) ∧
    ((u.cluster c).inHand.isSome = true → acknowledged u = true →
      (f.imm16 = 0 → bothStopped u c = true → next (resume c false u)) ∧
      (f.imm16 = 1 → bothStopped u c = true → next (resume c true u)) ∧
      (f.imm16 = 2 → next (stand c (u.cluster c).causeCode.toNat u)))) ∧
  (∀ (s : State) (c t : Nat) (tr : Trap) (q : SeqId), (s.cluster c).inHand = some tr → tr.origin = .instruction q →
    (q = .a t ∨ q = .x t) → (s.tile t).twin = .alone → (s.seq q).suspended = true →
    let v := resume c false s
    (v.cluster c).inHand = none ∧ (v.seq q).suspended = false ∧ (v.seq q).pc = (s.cluster c).epc ∧ v.mem = s.mem)

/-! ## The matrix unit -/

/-- Operand memory and tensors: OMCLAIM claims the slot named, or the lowest free one, and gives 0 or its number, else 1 or all
ones; OMREL frees a slot that no incomplete MMA names; TDEF reads an image of 64 bytes, raises 0x16 for one that breaks the rules
and puts it into its entry, TDUP attaches the channels of A's map or, without a map, none; TQRY gives a word of an entry; TFMT sets the
narrow format and gives the old one (R91, R212, R214, R322, R323, R397, R420, R423, R426).
Completion, by equalities exec i s = next t under conditions on state and operands alone, for omclaim, omrel, tdef, tdup,
tqry, tfmt. -/
def Obligations.OperandMemoryAndTensors : Prop :=
  ∀ s : State,
    let u := issued s
    let t := home u
    let w := u.tile t
    let free := fun (n : Nat) => w.claims.getLsbD n = false
    let claim := fun (n : Nat) => u.modTile t (fun v => { v with claims := v.claims ||| (1#32 <<< n) })
    Solo u →
    (∀ f : F64A, Ready s (.omclaim f) f.pred f.pneg →
      let d := f.d.toNat
      (f.imm16.getLsbD 5 = false →
        (free f.imm16.toNat → xFree (claim f.imm16.toNat) d = true →
          exec (.omclaim f) s = falls s (.omclaim f) (withX d 0 false (claim f.imm16.toNat))) ∧
        (¬ free f.imm16.toNat → xFree u d = true → exec (.omclaim f) s = falls s (.omclaim f) (withX d 1 false u))) ∧
      (f.imm16.getLsbD 5 = true →
        (∀ n, n < 32 → free n → (∀ m, m < n → ¬ free m) → xFree (claim n) d = true →
          exec (.omclaim f) s = falls s (.omclaim f) (withX d (BitVec.ofNat 64 n) false (claim n))) ∧
        ((∀ m, m < 32 → ¬ free m) → xFree u d = true →
          exec (.omclaim f) s = falls s (.omclaim f) (withX d (BitVec.allOnes 64) false u)))) ∧
    (∀ f : F64A, Ready s (.omrel f) f.pred f.pneg →
      let n := f.imm16.toNat
      (w.matrix.any (fun m => m.slots.contains n) = true → exec (.omrel f) s = .next (recordWait s.focus .matrix s)) ∧
      (w.matrix.any (fun m => m.slots.contains n) = false → exec (.omrel f) s = falls s (.omrel f)
        (u.modTile t (fun v => { v with claims := v.claims &&& ~~~(1#32 <<< n) })))) ∧
    (∀ f : F128C, Ready s (.tdef f) f.pred f.pneg → xOk u f.a.toNat = true →
      let a := (here u).x f.a.toNat
      let key := ownKey u a
      let n := f.sub8.toNat
      let e : Tensor := Vector.ofFn (fun k : Fin 8 => BitVec.ofNat 64 (wordAt u.mem (key + 8 * k.val) 8))
      ownScratch u a 64 64 = true → cleanBytes u.mem key 64 = true →
      (e.kind ≠ 0 → tensorOk e = false → exec (.tdef f) s = traps s (.tdef f) 0x16 (BitVec.ofNat 64 n)) ∧
      ((e.kind = 0 ∨ tensorOk e = true) →
        (namesTensor w n = true → exec (.tdef f) s = .next (recordWait s.focus .matrix s)) ∧
        (namesTensor w n = false → exec (.tdef f) s = falls s (.tdef f) (u.modTile t (setTensor n e))))) ∧
    (∀ f : F128C, Ready s (.tdup f) f.pred f.pneg →
      let ta := f.sub8.toNat
      let tb := (f.flags18.extractLsb' 0 8).toNat
      let ea := w.tensor ta
      let others := w.attached.filter (fun x => !(x.1 == ta && x.2.1 == tb))
      let n := wordAt u.mem (ownKey u ea.map) 2
      let cs := mapChannels (u.mem.bytes (ownKey u ea.map) (2 + 2 * n)) n
      (ea.kind = 0 → exec (.tdup f) s = traps s (.tdup f) 0x16 (BitVec.ofNat 64 ta)) ∧
      (ea.kind ≠ 0 → (w.tensor tb).kind = 0 → exec (.tdup f) s = traps s (.tdup f) 0x16 (BitVec.ofNat 64 tb)) ∧
      (ea.kind ≠ 0 → (w.tensor tb).kind ≠ 0 → namesTensor w ta = false → namesTensor w tb = false →
        (ea.map = 0 → exec (.tdup f) s = falls s (.tdup f) (u.modTile t (fun v => { v with attached := others }))) ∧
        (ea.map ≠ 0 → ownScratch u ea.map (2 + 2 * n) 2 = true → cleanBytes u.mem (ownKey u ea.map) (2 + 2 * n) = true → n ≤ 48 →
          rising cs = true → cs.all (fun c => decide (c < ea.columns)) = true → others.length < 16 →
          exec (.tdup f) s = falls s (.tdup f) (u.modTile t (fun v => { v with attached := others ++ [(ta, tb, cs)] }))))) ∧
    (∀ f : F64A, Ready s (.tqry f) f.pred f.pneg → f.d.toNat < 32 → xFree u f.d.toNat = true →
      exec (.tqry f) s = falls s (.tqry f)
        (withX f.d.toNat ((w.tensor (f.imm16.toNat % 256)).getD (f.imm16.toNat / 256 % 8) 0) false u)) ∧
    (∀ f : F64A, Ready s (.tfmt f) f.pred f.pneg → xOk u f.a.toNat = true →
      let v := (here u).x f.a.toNat
      let set := u.modTile t (fun y => { y with fmt := v.setWidth 32 })
      (v.toNat < 2 ^ 32 → nfValid (v.setWidth 32) = true → xFree set f.d.toNat = true →
        exec (.tfmt f) s = falls s (.tfmt f) (withX f.d.toNat (w.fmt.setWidth 64) false set)) ∧
      ((2 ^ 32 ≤ v.toNat ∨ nfValid (v.setWidth 32) = false) →
        exec (.tfmt f) s = traps s (.tfmt f) 0x01 (lowBits (.tfmt f))))

/-- Accumulators: ACCZ makes every byte of one 0, ACCWR fills it with 16 KiB of scratchpad, ACCRD writes it there, or its elements
times the scale of a result tensor, rounded to the tensor's type, where they lie in the tensor; each waits for the MMAs on it. MPROG gives
the progress of the running MMA (R88, R219, R221, R334, R393).
Completion, by equalities exec i s = next t under conditions on state and operands alone, for accz, accwr, accrd, mprog. -/
def Obligations.Accumulators : Prop :=
  ∀ (s : State) (f : F64A),
    let u := issued s
    let t := home u
    let w := u.tile t
    let acc := f.imm16.toNat % 4
    let a := (here u).x f.a.toNat
    let idle := w.matrix.any (fun m => m.acc == acc) = false
    Solo u →
    (∀ i, (i = .accz f ∨ ((i = .accwr f ∨ i = .accrd f) ∧ xOk u f.a.toNat = true)) → Ready s i f.pred f.pneg → ¬ idle →
      exec i s = .next (recordWait s.focus .matrix s)) ∧
    (Ready s (.accz f) f.pred f.pneg → idle → ∃ m : Mem,
      exec (.accz f) s = falls s (.accz f) ({ u with mem := m }.modTile t (setAccTag acc (f.imm16.getLsbD 2))) ∧
      ∀ k, m.byte k = if accKey t acc 0 ≤ k ∧ k < accKey t acc 16384 then 0 else s.mem.byte k) ∧
    (Ready s (.accwr f) f.pred f.pneg → idle → xOk u f.a.toNat = true → ownScratch u a 16384 64 = true →
      cleanBytes u.mem (ownKey u a) 16384 = true → ∃ m : Mem,
      exec (.accwr f) s = falls s (.accwr f) ({ u with mem := m }.modTile t (setAccTag acc (f.imm16.getLsbD 2))) ∧
      m.bytes (accKey t acc 0) 16384 = u.mem.bytes (ownKey u a) 16384 ∧
      ∀ k, k < accKey t acc 0 ∨ accKey t acc 0 + 16384 ≤ k → m.byte k = s.mem.byte k) ∧
    (Ready s (.accrd f) f.pred f.pneg → idle → xOk u f.a.toNat = true →
      (f.imm16.getLsbD 10 = true → ownScratch u a 16384 64 = true →
        exec (.accrd f) s = falls s (.accrd f) (withBytes (ownKey u a) (u.mem.bytes (accKey t acc 0) 16384) false u)) ∧
      (f.imm16.getLsbD 10 = false →
        let n := f.imm16.toNat / 4 % 256
        let e := w.tensor n
        let r := a.toNat % 2 ^ 20
        let c := a.toNat / 2 ^ 20 % 2 ^ 20
        let sound := e.kind = 2 ∧ 8 ≤ e.ty ∧ r < e.rows ∧ c < e.columns ∧ a.toNat < 2 ^ 40
        let rows := if isFp64 w acc then 32 else 64
        let inside := (List.range rows).flatMap (fun i => ((List.range 64).map (fun j => (i, j))).filter (fun p =>
          decide (r + p.1 < e.rows) && decide (c + p.2 < e.columns)))
        let at_ := fun (p : Nat × Nat) => e.base + BitVec.ofNat 64 ((r + p.1) * e.stride + (c + p.2) * e.size)
        let value := fun (p : Nat × Nat) => mulExact (accElement u t acc p.1 p.2) (f32.decode e.scale)
        let bits := fun (p : Nat × Nat) => if e.ty = 12 then ((Nf.ofWord e.fmt).ofVal (value p)).bits else ((fmtOf e.ty).ofVal .rne (value p)).bits
        (¬ sound → exec (.accrd f) s = traps s (.accrd f) 0x16 (BitVec.ofNat 64 n)) ∧
        (sound → e.nibbles = false → e.ty ≤ 12 → gtileOf u e.base = t → (∀ p ∈ inside, ownScratch u (at_ p) e.size e.size = true) →
          exec (.accrd f) s = falls s (.accrd f)
            (inside.foldl (fun v p => withBytes (ownKey u (at_ p)) (toBytes e.size (bits p)) false v) u)))) ∧
    (Ready s (.mprog f) f.pred f.pneg → f.d.toNat < 32 → xFree u f.d.toNat = true →
      (f.imm16.getLsbD 0 = true → w.matrix ≠ [] → exec (.mprog f) s = .next (recordWait s.focus .matrix s)) ∧
      ((f.imm16.getLsbD 0 = false ∨ w.matrix = []) →
        exec (.mprog f) s = falls s (.mprog f) (withX f.d.toNat (match w.matrix with
          | m :: _ => BitVec.ofNat 64 (2 ^ 63 + m.acc * 2 ^ 61 + m.p)
          | [] => BitVec.ofNat 64 w.lastSteps) false u)))

/-- MMA is queued behind at most one other once its operands pass their checks: 0x16 for an absent tensor, 0x01 for an accumulator
tagged for the other kind, 0x0F for a slot that is not claimed; a k-step of the running MMA accumulates and counts, the last one ends it,
wakes the tile and adds one to the semaphore named (R210, R214-R217, R219, R391).
Completion, by equalities exec i s = next t under conditions on state and operands alone, for mma, mmaKstep. -/
def Obligations.MatrixMultiply : Prop :=
  (∀ (s : State) (f : F96E), Ready s (.mma f) f.pred f.pneg →
    let u := issued s
    let t := home u
    let w := u.tile t
    let ta := f.tida.toNat
    let tb := f.tidb.toNat
    let ea := w.tensor ta
    let eb := w.tensor tb
    let slotForm := f.aux32.getLsbD 16
    let aslot := (f.aux32.extractLsb' 6 5).toNat
    let bslot := (f.aux32.extractLsb' 11 5).toNat
    let acc := (f.aux32.extractLsb' 0 2).toNat
    let sig := if f.aux32.getLsbD 2 then some (f.aux32.extractLsb' 3 3).toNat else none
    let a := (here u).x f.a.toNat
    let b := (here u).x f.b.toNat
    let cs := attachedTo w ta tb
    Solo u → (slotForm = false → xOk u f.a.toNat = true ∧ xOk u f.b.toNat = true) →
    (ea.kind = 0 → exec (.mma f) s = traps s (.mma f) 0x16 (BitVec.ofNat 64 ta)) ∧
    (ea.kind ≠ 0 → eb.kind = 0 → exec (.mma f) s = traps s (.mma f) 0x16 (BitVec.ofNat 64 tb)) ∧
    (∀ mode, ea.kind ≠ 0 → eb.kind ≠ 0 → modeOf ea eb = some mode → (mode = .four → accepted u (u.partOf u.focus) 4 = true) →
      let tag := w.accTag.getLsbD acc
      let queued := fun (m : Mma) =>
        (2 ≤ w.matrix.length → exec (.mma f) s = .next (recordWait s.focus .matrix s)) ∧
        (w.matrix.length < 2 → acknowledged u = true →
          exec (.mma f) s = falls s (.mma f) (u.modTile t (fun v => { v with matrix := v.matrix ++ [m], kstep := if v.matrix.isEmpty then u.time else v.kstep })))
      (tag ≠ decide (mode = .fp64) → exec (.mma f) s = traps s (.mma f) 0x01 (lowBits (.mma f))) ∧
      (tag = decide (mode = .fp64) → slotForm = true → (mode = .four → aslot ≠ 31 ∧ bslot ≠ 31) →
        let m : Mma := ⟨u.gangOf u.focus, mode, true, ta, tb, ea, eb, 0, 0, aslot, bslot, acc, sig,
          if mode = .fp64 then 2 else 1, 0, [], [], 0, false, none⟩
        (∀ n, m.slots.find? (fun n => !w.claims.getLsbD n) = some n →
          exec (.mma f) s = traps s (.mma f) 0x0F (BitVec.ofNat 64 n)) ∧
        (m.slots.all w.claims.getLsbD = true → queued m)) ∧
      (tag = decide (mode = .fp64) → slotForm = false →
        let sound := decide (a.toNat < ea.rows) && decide (a.toNat % stripRows mode = 0) && decide (b.toNat < eb.columns) &&
          decide (b.toNat % 64 = 0) && decide (ea.columns = eb.rows) && slotsOk ea eb mode
        (sound = false → exec (.mma f) s = traps s (.mma f) 0x16 (BitVec.ofNat 64 ta)) ∧
        (sound = true → (ea.kind = 2 → formOf ea.base = 1 → mayReach u u.focus (gtileOf u ea.base) = true) →
          (eb.kind = 2 → formOf eb.base = 1 → mayReach u u.focus (gtileOf u eb.base) = true) →
          queued ⟨u.gangOf u.focus, mode, false, ta, tb, ea, eb, a.toNat, b.toNat, aslot, bslot, acc, sig,
            (ea.columns + cs.length + kstepOf mode - 1) / kstepOf mode, 0, cs, [], 0, false, none⟩)))) ∧
  (∀ s : State,
    let t := s.subject
    let u := s.tile t
    let ends := fun (m : Mma) (v : State) =>
      latchTile t 16 (v.modTile t (fun y => { y with matrix := y.matrix.drop 1, lastSteps := m.steps, kstep := v.time }))
    (faultDue s t = none → mmaReady s t = false → exec .mmaKstep s = .next s) ∧
    (∀ m rest, u.matrix = m :: rest → mmaReady s t = true → u.twin = .alone →
      (m.steps ≤ m.p → m.sig = none → exec .mmaKstep s = .next (ends m s)) ∧
      (∀ n, m.steps ≤ m.p → m.sig = some n → exec .mmaKstep s = .next (semIncrement t n (ends m s))) ∧
      (∀ m' as bs v, m.p < m.steps → (fetchStep m).run.run { s with focus := .x t } = .ok (.ok (m', as, bs)) v → m'.upsets = 0 →
        let stepped := stepDone t (modHead t (fun _ => { m' with p := m'.p + 1, upsets := 0 }) (accumulateStep t m' as bs v))
        (m'.p + 1 < m'.steps → exec .mmaKstep s = .next { stepped with focus := s.focus }) ∧
        (m'.steps ≤ m'.p + 1 → m'.sig = none → exec .mmaKstep s = .next { ends m' stepped with focus := s.focus }) ∧
        (∀ n, m'.steps ≤ m'.p + 1 → m'.sig = some n → exec .mmaKstep s = .next
          { (if (stepped.tile t).sem n = 255 then stepped else semIncrement t n (ends m' stepped)) with focus := s.focus }))))

/-! ## Copies, chains and collectives -/

/-- COPY, GET, PUTS and COLL pass their checks, wait while the engine holds 64 commands, and append their command, published with every
earlier one of the engine; D is its number. CHAPP appends a record of the issuer's scratchpad and links it, CHTAIL publishes what is appended,
CHSEQ waits until CS reaches B and gives CS, and raises 0x15 for a number not yet given (R171-R177, R263, R349, R353, R380, R405).
Completion, by equalities exec i s = next t under conditions on state and operands alone, for copy, get, puts, coll, chapp,
chtail, chseq. -/
def Obligations.EngineCommands : Prop :=
  ∀ (s : State) (t : Nat), s.focus = .a t → Solo (issued s) →
    let u := issued s
    let x := (here u).x
    let held := fun (e : Nat) => ((u.engine t e).cmds.filter (fun c => c.state != .complete)).length
    let appends := fun (i : Instr) (e d : Nat) (op : CmdOp) (spans : List Span) =>
      let n := (u.engine t e).next
      let v := publishAll t e n (withCommand t e op .none none spans u)
      held e < 64 → acknowledged u = true → xFree v d = true → exec i s = falls s i (withX d (BitVec.ofNat 64 n) false v)
    let gives := fun (i : Instr) (e d : Nat) (op : CmdOp) (prepare : Exec (CmdOp × List Span)) =>
      (∀ spans, prepare.run u = .ok (op, spans) u →
        appends i e d op spans ∧ (64 ≤ held e → exec i s = .next (recordWait s.focus .limit s))) ∧
      (∀ code tval miss, prepare.run u = .error (.trap code tval miss) u → code ≠ 0x01 →
        exec i s = .next (raiseTrap s.focus code tval miss (nextPc s s.focus i) u))
    (∀ f : F96E, xOk u f.a.toNat = true → xOk u f.b.toNat = true → xOk u f.c.toNat = true →
      (Ready s (.copy f) f.pred f.pneg → gives (.copy f) 0 f.d.toNat
        (.copy (x f.a.toNat) (x f.b.toNat) (x f.c.toNat) (f.aux32.setWidth 64))
        (prepareCopy (x f.a.toNat) (x f.b.toNat) (x f.c.toNat) f.aux32)) ∧
      (Ready s (.get f) f.pred f.pneg → gives (.get f) 0 f.d.toNat (.get (x f.a.toNat) (x f.b.toNat) (x f.c.toNat))
        (prepareGet (x f.a.toNat) (x f.b.toNat) (x f.c.toNat))) ∧
      (let n := (x f.c.toNat).toNat
       n < 2 ^ 40 → scratchRange u (x f.a.toNat) n 1 = true → scratchRange u (x f.b.toNat) n 1 = true →
       (Ready s (.copy f) f.pred f.pneg → f.aux32 = 0 →
         appends (.copy f) 0 f.d.toNat (.copy (x f.a.toNat) (x f.b.toNat) (x f.c.toNat) 0) []) ∧
       (Ready s (.get f) f.pred f.pneg → gtileOf u (x f.a.toNat) = t →
         appends (.get f) 0 f.d.toNat (.get (x f.a.toNat) (x f.b.toNat) (x f.c.toNat)) []))) ∧
    (∀ f : F128C, xOk u f.a.toNat = true → xOk u f.b.toNat = true → xOk u f.c.toNat = true →
      (Ready s (.puts f) f.pred f.pneg → xOk u f.d.toNat = true → gives (.puts f) 0 f.d.toNat
        (.puts (x f.a.toNat) (x f.b.toNat) (x f.c.toNat) f.imm64 f.sub8)
        (preparePuts (x f.a.toNat) (x f.b.toNat) (x f.c.toNat) f.imm64 f.sub8)) ∧
      (Ready s (.coll f) f.pred f.pneg → ∀ tag ranks, gives (.coll f) 1 f.d.toNat
        (.coll (x f.a.toNat) (x f.b.toNat) (x f.c.toNat).toNat (f.sub8.toNat % 4) (f.sub8.toNat / 4 % 4) (f.sub8.toNat / 16)
          (f.flags18.extractLsb' 0 12).toNat (f.flags18.getLsbD 12) f.imm64.toNat tag ranks)
        (prepareColl f (x f.a.toNat) (x f.b.toNat) (x f.c.toNat))) ∧
      (Ready s (.puts f) f.pred f.pneg → f.sub8 = 0 → f.imm64 = 0 → xOk u f.d.toNat = true →
        let n := (x f.c.toNat).toNat
        n < 2 ^ 40 → scratchRange u (x f.a.toNat) n 1 = true → scratchRange u (x f.b.toNat) n 1 = true → gtileOf u (x f.b.toNat) = t →
        appends (.puts f) 0 f.d.toNat (.puts (x f.a.toNat) (x f.b.toNat) (x f.c.toNat) 0 0) []) ∧
      (Ready s (.coll f) f.pred f.pneg →
        let kind := f.sub8.toNat % 4
        let ty := f.sub8.toNat / 16
        let root := (f.flags18.extractLsb' 0 12).toNat
        let n := (x f.c.toNat).toNat
        let off := f.imm64.toNat
        let head := wordAt u.mem (scratchKey t off) 8
        let m := head % 2 ^ 16
        let key := scratchKey t (off + 8)
        let members := (List.range m).map (fun k => wordAt u.mem (key + 4 * k) 4)
        let ranks := members.map (fun w => (w % 256, w / 256 % 2048))
        let bytes := fun (k : Nat) => k * n * (tyWidth ty / 8)
        1 ≤ n → n ≤ 65536 → 2 ≤ m → m ≤ 4096 → head / 2 ^ 24 % 2 ^ 8 = 0 → off + 8 + 4 * m ≤ 2 ^ 20 →
        (∀ l, inFlight u u.focus l = false) → cleanBytes u.mem (scratchKey t off) (8 + 8 * ((m + 1) / 2)) = true →
        members.all (fun w => decide (w < 2 ^ 19)) = true → ranks.Nodup → (u.host.devid.toNat, (u.tile t).index) ∈ ranks →
        (if kind = 1 ∨ kind = 2 then root < m else root = 0) →
        scratchRange u (x f.b.toNat) (bytes 1) (tyWidth ty / 8) = true → gtileOf u (x f.b.toNat) = t →
        scratchRange u (x f.a.toNat) (bytes (if kind = 3 then m else 1)) (tyWidth ty / 8) = true → gtileOf u (x f.a.toNat) = t →
        appends (.coll f) 1 f.d.toNat (.coll (x f.a.toNat) (x f.b.toNat) n kind (f.sub8.toNat / 4 % 4) ty root (f.flags18.getLsbD 12) off
          (BitVec.ofNat 32 (head / 2 ^ 32)) ranks) [])) ∧
    (∀ f : F96E, Ready s (.chapp f) f.pred f.pneg → xOk u f.a.toNat = true →
      let e := f.aux32.toNat % 2
      let a := x f.a.toNat
      let ws := (List.range 6).map (fun k => (BitVec.ofNat 64 (wordAt u.mem (ownKey u a + 8 * k) 8) : Word))
      let free := ∀ l, inFlight u u.focus l = false
      (ownScratch u a 64 64 = true → cleanBytes u.mem (ownKey u a) 64 = true → free →
        ∀ op wt spans, (asChain a (readRecord ws)).run u = .ok (op, wt, spans) u → held e < 64 →
        let v := (withCommand t e op wt (some a.toNat) spans u).modEngine t e (fun g => { g with last := some (offsetOf a) })
        let linked := match (u.engine t e).last with
          | some p => withBytes (scratchKey t (p + 48)) (toBytes 8 a.toNat) false v
          | none => v
        let closed := withBytes (scratchKey t (offsetOf a + 56))
          (toBytes 4 (BitVec.ofNat 64 (u.engine t e).next : Word).toNat ++ toBytes 4 0) false
          (withBytes (scratchKey t (offsetOf a + 48)) (toBytes 8 0) false linked)
        xFree closed f.d.toNat = true → (∀ p, (u.engine t e).last = some p → p < 2 ^ 20) →
          exec (.chapp f) s = falls s (.chapp f) (withX f.d.toNat 0 false closed)) ∧
      (ws.getD 0 0 = 1 → (ws.getD 3 0).toNat < 2 ^ 40 → scratchRange u (ws.getD 1 0) (ws.getD 3 0).toNat 1 = true →
        scratchRange u (ws.getD 2 0) (ws.getD 3 0).toNat 1 = true →
        (asChain a (readRecord ws)).run u = .ok (.copy (ws.getD 1 0) (ws.getD 2 0) (ws.getD 3 0) 0, .none, []) u) ∧
      (formOf a ≠ 1 → exec (.chapp f) s = traps s (.chapp f) 0x15 a)) ∧
    (∀ f : F64A, Ready s (.chtail f) f.pred f.pneg →
      let e := f.imm16.toNat % 2
      let some_ := (u.engine t e).cmds.any (fun c => c.state == .appended)
      (some_ = false → exec (.chtail f) s = falls s (.chtail f) u) ∧
      (some_ = true → acknowledged u = true →
        exec (.chtail f) s = falls s (.chtail f) (publishAll t e ((u.engine t e).next - 1) u)) ∧
      (some_ = true → acknowledged u = false → exec (.chtail f) s = .next (recordWait s.focus .outstanding s))) ∧
    (∀ f : F64A, Ready s (.chseq f) f.pred f.pneg → xOk u f.b.toNat = true → xFree u f.d.toNat = true →
      let g := u.engine t (f.imm16.toNat % 2)
      let b := (x f.b.toNat).toNat
      (g.next ≤ b → exec (.chseq f) s = traps s (.chseq f) 0x15 0) ∧
      (b < g.next → g.cs < b → exec (.chseq f) s = .next (recordWait s.focus .chain s)) ∧
      (b < g.next → b ≤ g.cs →
        exec (.chseq f) s = falls s (.chseq f) (withX f.d.toNat (BitVec.ofNat 64 g.cs) false u)))

/-- The life of a command: the oldest published one starts, its record showing state 2; once PUTS's data has landed its signal goes to
the counter's home, which subtracts the decrement; a running one that has landed and signalled completes, its record showing the
poison count and state 3, CS counting, and the tile's sequencers waking; a device's value joins its collective, and a device that
asks for another operation ends the gang with status 10, cause 0x15; a switch combines its arrivals in their order, each switch of a
tree its own (R171, R172, R177, R264, R265, R405, R440).
The memory core's part of a copy: MCPOLL takes the oldest request into x8 to x15 and returns the one taken before, and waits
while there is none; PUSH sends packed rows toward a tile once what others own of them has come, PUSH_DELIVERY writes a block there,
each word with its mark, or a slot's next row; a request returns once the blocks of its loader are delivered (R163, R169, R170, R389, R404).
Completion, by equalities exec i s = next t under conditions on state and operands alone, for commandStart,
commandCompletion, putsSignal, switchCombine, mcpoll, push, pushDelivery, mcRequestCompletion. -/
def Obligations.CommandsAndMemoryCoreCopies : Prop :=
  (∀ (s : State) (t e n : Nat),
     (enginesRun s t = false → finishes s t e (s.subject % actBase) = false → exec (.commandStart t e) s = .next s) ∧
     (∀ c, enginesRun s t = true → s.subject = 0 → ((s.engine t e).cmds.filter (fun c => c.state == .running)).length < 8 →
       (s.engine t e).nextToStart = some c → c.isColl = false → c.wait = .none →
       exec (.commandStart t e) s = .next (noteLanded t e c.number
         (markRecord t c (toBytes 2 2) 62 (modCmd t e c.number (fun d => { d with state := .running }) s)))) ∧
     (findCmd s t e n = none → exec (.commandCompletion t e n) s = .next s ∧ exec (.putsSignal t e n) s = .next s) ∧
     (∀ c, findCmd s t e n = some c →
       (c.finished = false → exec (.commandCompletion t e n) s = .next s) ∧
       (c.finished = true → exec (.commandCompletion t e n) s = .next (completeCmd t e c s)) ∧
       (∀ a b len ctr dec key entry home, c.op = .puts a b len ctr dec → c.state = .running → c.landed = true → c.signalled = false →
         c.awaiting = 0 → placeAt s c ctr = some (key, entry) → homeAt s c ctr = some home →
         exec (.putsSignal t e n) s = .next (modCmd t e n (fun d => { d with awaiting := 1 })
           (addRequest (.a t) (some (e, n)) 0 c.gang (partOfGang s c.gang) (.add ⟨key, entry, 8⟩ (0 - dec.setWidth 64) ctr) home true
             none none s)))) ∧
     (∀ d offer values, s.launch.collectives[n]? = none → exec (.switchCombine n d offer values) s = .next s) ∧
     (∀ (x : Collective) (d : Nat) (offer : CollOffer) (values : List Word), s.launch.collectives[n]? = some x →
       x.settled = none → x.devices.contains d = true → x.values.any (fun v => v.1 == d) = false →
       (draining s (partOfGang s x.gang) = true → exec (.switchCombine n d offer values) s = .next s) ∧
       (draining s (partOfGang s x.gang) = false →
         (d ≠ s.host.devid.toNat → offer.what ≠ x.what → exec (.switchCombine n d offer values) s = .next (endGang x.gang 10 0x15 s)) ∧
         (d ≠ s.host.devid.toNat → offer.what = x.what → values.length = x.valueLength d →
           exec (.switchCombine n d offer values) s = .next (takeValue n x d offer.inNetwork values s)) ∧
         (∀ vs v, d = s.host.devid.toNat → x.sending = none → x.ready d = true → (deviceStage x d).run s = .ok vs v →
           let inNetwork := x.started.all (fun e => e.2.2.2)
           let first := routerOf ((x.started.map (fun e => e.2.1)).headD 0)
           exec (.switchCombine n d offer values) s = .next (if x.leaves d inNetwork vs = true then
               putCollective n { x with sending := some ⟨inNetwork, vs, 0, Way.start first s.time⟩ } v
             else takeValue n x d inNetwork vs v)) ∧
         (∀ w, d = s.host.devid.toNat → x.sending = some w →
           (w.way.hop ≠ .across → exec (.switchCombine n d offer values) s = .next s) ∧
           (w.way.hop = .across → (x.bytesOf w.values).length ≤ w.done + 256 →
             exec (.switchCombine n d offer values) s = .next (takeValue n { x with sending := none } d w.inNetwork w.values s))))) ∧
     (∀ (fn ty : Nat) (a b c d : List Word), combineTree fn ty [a, b, c] = combineAll fn ty (combineAll fn ty a b) c ∧
       combineSwitches fn ty [⟨0, [1, 2, 3], []⟩] [(2, a), (1, b), (3, c)] = combineAll fn ty (combineAll fn ty a b) c ∧
       (combineAll fn ty a b ≠ [] → combineAll fn ty c d ≠ [] →
         combineSwitches fn ty [⟨0, [], [1, 2]⟩, ⟨1, [1, 2], []⟩, ⟨2, [3, 4], []⟩] [(1, a), (2, b), (3, c), (4, d)] =
           combineAll fn ty (combineAll fn ty a b) (combineAll fn ty c d)))) ∧
  ((∀ (s : State) (c : Nat) (f : F64A), s.focus = .m c → Ready s (.mcpoll f) f.pred f.pneg →
     let u := issued s
     let m := u.mcore c
     let r := m.slots.getD (m.c.toNat % 64) (Vector.replicate 8 0)
     (m.taken.isSome = true → requestServed u c = true) →
     (m.p = m.c → exec (.mcpoll f) s = .next (returnRequest c (recordWait s.focus .queue s))) ∧
     (m.p ≠ m.c → (∀ k, k < 8 → xFree u (8 + k) = true) →
       exec (.mcpoll f) s = falls s (.mcpoll f) (((List.range 8).foldl (fun v k => withX (8 + k) (r.getD k 0) (m.slotMarks.getLsbD (8 * (m.c.toNat % 64) + k)) v)
         (returnRequest c u)).modMCore c (fun v => { v with c := v.c + 1, taken := some r, takenPoison := 0 })))) ∧
   (∀ (s : State) (c : Nat) (f : F96E), s.focus = .m c → Ready s (.push f) f.pred f.pneg →
     let u := issued s
     let x := (here u).x
     let dst := x f.d.toNat
     let rows := (x f.c.toNat).toNat
     let t := gtileOf u dst
     let k := pushKind f.aux32
     let reaches := decide (formOf dst = 1) && formOk dst && decide (deviceOf dst = u.host.devid.toNat) && mayReach u u.focus t
     xOk u f.a.toNat = true → xOk u f.b.toNat = true → xOk u f.c.toNat = true → xOk u f.d.toNat = true →
     (pushFits f.aux32 rows = false → exec (.push f) s = traps s (.push f) 0x01 (lowBits (.push f))) ∧
     (pushFits f.aux32 rows = true → reaches = false → exec (.push f) s = traps s (.push f) 0x04 dst) ∧
     (pushFits f.aux32 rows = true → reaches = true → (k = 0 → rangeCause dst (rows * pushRow f.aux32) = none) →
       ((k = 1 ∨ k = 3) → claimed (u.tile t) (pushSlot f.aux32) = true) →
       ∀ parts bs, (sourceRows (x f.a.toNat) (x f.b.toNat) (pushRow f.aux32) rows).run u = .ok parts u → parts.all (fun e => !strong e.1) = true →
         (ownParts parts).run u = .ok bs u →
         let asked := pulls u parts
         let block : Pushed :=
           { id := u.next, core := c, firing := u.firingOf u.focus, gang := (u.tile t).gang, kind := f.aux32.extractLsb' 30 2, tile := t
             offset := offsetOf dst, slot := if k = 2 then pushSlot f.aux32 % 8 else pushSlot f.aux32, seqX := (pushSlot f.aux32).testBit 4
             bytes := bs, rows := [], pending := asked.length, way := Way.start (routerOfSeq u.focus) u.time, cmd := none }
         let leaves : State := { (u.modLaunch (fun l => { l with pushes := l.pushes ++ [block] })) with next := u.next + 1 }
         (asked = [] ∨ outstanding u u.focus + asked.length ≤ 64) →
         exec (.push f) s = falls s (.push f) (asked.foldl (fun v rs => addRequest v.focus none (v.firingOf v.focus) (v.gangOf v.focus)
           (v.partOf v.focus) (.pull rs u.next) (homeOfKey ((rs.map (·.2.key)).headD 0)) false none none v) leaves)) ∧
     (let a := x f.a.toNat
      let n := pushRow f.aux32
      let part : Place × Nat := (.scratch (gtileOf u a) (offsetOf a), n)
      scratchRange u a n 1 = true →
        (sourceRows a (x f.b.toNat) n 1).run u = .ok [part] u ∧
        (ownParts [part]).run u = .ok (marked (List.replicate n 0) false) u)) ∧
   (∀ s : State,
     let i := s.subject % 2 ^ 32
     let row := s.subject / 2 ^ 32
     (s.launch.pushes[i]? = none → exec .pushDelivery s = .next s) ∧
     (∀ b, s.launch.pushes[i]? = some b →
       (pushReady s i row b = false → exec .pushDelivery s = .next s) ∧
       (pushReady s i row b = true → fenced s b.tile = false → b.kind = 0 → b.cmd = none → (s.tile b.tile).twin = .alone →
         cleanBytes s.mem (scratchKey b.tile b.offset) b.bytes.length = true →
         b.offset + b.bytes.length ≤ 2 ^ 20 → ∃ v, exec .pushDelivery s = .next v ∧
           v.launch.pushes = s.launch.pushes.eraseIdx i ∧
           v.mem.bytes (scratchKey b.tile b.offset) b.bytes.length = b.bytes.map (·.1) ∧
           (∀ key, key < scratchKey b.tile b.offset ∨ scratchKey b.tile b.offset + b.bytes.length ≤ key → v.mem.byte key = s.mem.byte key)) ∧
       (pushReady s i row b = true → fenced s b.tile = false → b.kind = 1 → b.cmd = none → b.rows.length + 1 < b.rowParts.length →
         ∃ v, exec .pushDelivery s = .next v ∧
           v.launch.pushes = s.launch.pushes.set i { b with rows := b.rows ++ [row], way := { b.way with copies := 0 } }) ∧
       (pushReady s i row b = true → fenced s b.tile = true →
         exec .pushDelivery s = .next (dropWrite (partOfGang s b.gang) ((countError s (partOfGang s b.gang) 6 b.way.copies).modLaunch
           (fun l => { l with pushes := l.pushes.eraseIdx i }))))) ∧
     ((s.mcore s.subject).returning = [] → exec .mcRequestCompletion s = .next s) ∧
     (∀ r n rest, (s.mcore s.subject).returning = (r, n) :: rest →
       let waits := s.launch.pushes.any (fun b => b.core == s.subject && b.firing == 0)
       (waits = true → exec .mcRequestCompletion s = .next s) ∧
       (waits = false → exec .mcRequestCompletion s =
         .next (returnToken r n (s.modMCore s.subject (fun v => { v with returning := rest })))))))

/-! ## The event engine -/

/-- The instructions of the event engine: EVDEF defines a variable and tells whether it was defined, EVDEP gives it its list, EVSLOPE new
slopes and tells whether it settled a wake, EVQLD reads, EVRUN opens a window, EVSAMP a sample, EVGVT and EVSTAT give the
engine's values; a variable that is not the launch's raises 0x17 (R228, R235, R236, R239, R240, R243, R248).
Completion, by equalities exec i s = next t under conditions on state and operands alone, for evdef, evdep, evslope, evqld,
evrun, evsamp, evgvt, evstat. -/
def Obligations.EventInstructions : Prop :=
  ∀ (s : State) (t : Nat), (s.focus = .a t ∨ s.focus = .x t) → Solo (issued s) →
    let u := issued s
    let x := (here u).x
    let k := clusterOf t
    let g := u.gangOf u.focus
    let e := engineAt u k
    let mine := e.gang = 0 ∨ e.gang = g
    let own := fun (v : Word) => namesOwn u k v = true ∧ e.gang = g ∧ e.defined (refIndex v) = true
    let gives := fun (i : Instr) (d : Nat) (v : Word) (r : State) => xFree r d = true → exec i s = falls s i (withX d v false r)
    let refused := fun (i : Instr) (v : Word) => exec i s = traps s i 0x17 (BitVec.ofNat 64 (refIndex v))
    (∀ f : F128C, Ready s (.evdef f) f.pred f.pneg → xOk u f.a.toNat = true → xOk u f.b.toNat = true →
      let v := x f.a.toNat
      let b := x f.b.toNat
      let image : Vector Word 8 := Vector.ofFn (fun j : Fin 8 => BitVec.ofNat 64 (wordAt u.mem (ownKey u b + 8 * j.val) 8))
      let sound := namesOwn u k v = true ∧ mine ∧ e.window = none ∧ (e.rec_ (refIndex v)).pend = false ∧
        imageOk u k g ⟨image, 0, 0, []⟩ = true
      ownScratch u b 64 64 = true → cleanBytes u.mem (ownKey u b) 64 = true →
      (namesOwn u k v = true → mine → (e.rec_ (refIndex v)).marked [7] = false) →
      (sound → gives (.evdef f) f.d.toNat (if e.defined (refIndex v) then 1 else 0) 
        (applyEvent k g (.define (refIndex v) image) (takeEngine k g u))) ∧
      (¬ sound → refused (.evdef f) v)) ∧
    (∀ f : F128C, Ready s (.evdep f) f.pred f.pneg → xOk u f.a.toNat = true → xOk u f.b.toNat = true → xOk u f.c.toNat = true →
      let v := x f.a.toNat
      let b := (x f.b.toNat).toNat
      let c := (x f.c.toNat).toNat
      let sound := own v ∧ e.window = none ∧ (e.rec_ (refIndex v)).pend = false ∧ b < 2 ^ 24 ∧ c < 4096
      (f.imm64 = 0 ∨ (formOk f.imm64 = true ∧ formOf f.imm64 = 0)) → f.imm64.toNat % 4 = 0 →
      (own v → (e.rec_ (refIndex v)).marked [7] = false) →
      (sound → exec (.evdep f) s = falls s (.evdep f) (applyEvent k g (.depend (refIndex v) b c f.imm64) u)) ∧
      (¬ sound → refused (.evdep f) v)) ∧
    (∀ (f : F64A) (b c : Word), Ready s (.evslope f) f.pred f.pneg → xOk u f.a.toNat = true →
      scalarAt u 11 f.b f.imm16 = some b → scalarAt u 11 f.c f.imm16 = some c →
      let v := x f.a.toNat
      let sound := own v ∧ fFinite b = true ∧ fFinite c = true
      (sound → (e.rec_ (refIndex v)).marked ((e.rec_ (refIndex v)).slopeWords b c) = false →
        gives (.evslope f) f.d.toNat (if (e.rec_ (refIndex v)).pend then 0 else 1) (applySlope k (refIndex v) b c u)) ∧
      (¬ sound → refused (.evslope f) v)) ∧
    (∀ (f : F64A) (b : Word), Ready s (.evqld f) f.pred f.pneg → xOk u f.a.toNat = true → scalarAt u 11 f.b f.imm16 = some b →
      xFree u f.d.toNat = true → namesOwn u k (x f.a.toNat) = true → k < 512 → placeOfDevice u (refDevice (x f.a.toNat)) = 0 →
      (u.gang? g).isSome = true →
      (¬ own (x f.a.toNat) → e.gang = g → refused (.evqld f) (x f.a.toNat)) ∧
      (let r := e.rec_ (refIndex (x f.a.toNat))
       own (x f.a.toNat) → r.marked (r.quantWords (f.fn.getLsbD 0) b) = false →
         gives (.evqld f) f.d.toNat (quantised r (f.fn.getLsbD 0) b) u)) ∧
    (∀ (f : F64A) (b : Word) (y : EvEngine), Ready s (.evqld f) f.pred f.pneg → xOk u f.a.toNat = true → scalarAt u 11 f.b f.imm16 = some b →
      xFree u f.d.toNat = true →
      let v := x f.a.toNat
      let m := engineOfRef u v
      m ≠ k → servingEngine u g m = some y → (u.gang? g).isSome = true → v.toNat < 2 ^ 29 → outstanding u u.focus < 64 →
      (y.defined (refIndex v) = false → refused (.evqld f) v) ∧
      (y.defined (refIndex v) = true → exec (.evqld f) s = falls s (.evqld f) (pendingX f.d.toNat
        (sent (.record m (refIndex v) b (f.fn.getLsbD 0) f.d) (.scratch (m / 512 * 2048 + m % 512 * 4) 0) false false none u)))) ∧
    (∀ (f : F64A) (h : Word), Ready s (.evrun f) f.pred f.pneg → xOk u f.a.toNat = true → scalarAt u 11 f.b f.imm16 = some h →
      f.c = 0 → mine →
      let least := x f.a.toNat
      let taken := takeEngine k g u
      let bad := (fLt least 0 || fNan least || fNan h) = true
      (bad → gives (.evrun f) f.d.toNat 2 taken) ∧
      (¬ bad → ((engineAt taken k).window.isSome || (engineAt taken k).opening) = true → gives (.evrun f) f.d.toNat 1 taken) ∧
      (¬ bad → ((engineAt taken k).window.isSome || (engineAt taken k).opening) = false → acknowledged u = true →
        gives (.evrun f) f.d.toNat 0 (applyEvent k g (.run ⟨least, h, none⟩) taken))) ∧
    (∀ f : F128C, Ready s (.evsamp f) f.pred f.pneg → xOk u f.a.toNat = true → xOk u f.b.toNat = true → mine →
      let a := x f.a.toNat
      let ts := x f.b.toNat
      let taken := takeEngine k g u
      ownScratch u a 32832 64 = true →
      let armed := (engineAt taken k).sample.isSome || (engineAt taken k).arming
      (armed = true → gives (.evsamp f) f.d.toNat 1 taken) ∧
      (armed = false → (fNan ts || fLt ts (engineAt taken k).lvt) = true → gives (.evsamp f) f.d.toNat 2 taken) ∧
      (armed = false → (fNan ts || fLt ts (engineAt taken k).lvt) = false →
        gives (.evsamp f) f.d.toNat 0 (applyEvent k g (.sample a ts) taken))) ∧
    (∀ f : F64A, mine →
      (Ready s (.evgvt f) f.pred f.pneg → gives (.evgvt f) f.d.toNat (if e.gang = 0 then 0 else e.gvt) u) ∧
      (Ready s (.evstat f) f.pred f.pneg →
        gives (.evstat f) f.d.toNat (statOf (if e.gang = 0 then EvEngine.reset else e) (f.imm16.toNat % 16)) u)) ∧
    (∀ (f : F64A) (i : Instr), (i = .evgvt f ∨ i = .evstat f) → Ready s i f.pred f.pneg → ¬ mine → exec i s = traps s i 0x17 0)

/-- The engine's own steps: with no item in hand the earliest one begins only when it is due, at the later of its time and LVT, so that
LVT never falls; a token from another engine is accepted into a queue with room, and its sender's wake settles; the reduction at a
multiple of 1,000 ticks raises a launch's GVT to the least contribution of its engines, if that is larger, and tells them; an
engine that receives it closes a window that has been reached; poison that a choice, a capture or a reduction reads is consumed (R230, R237,
R239-R241, R244, R245, R249).
Completion, by equalities exec i s = next t under conditions on state and operands alone, for eventItem, remoteTokenAccept,
gvtReduction, gvtReceive. -/
def Obligations.EventEngineSteps : Prop :=
  ∀ s : State,
    let k := s.subject
    let e := engineAt s k
    let chooses := e.item = none ∧ engineRuns s k = true ∧ e.window.isSome = true
    (chooses → nextPoisoned e = true → exec .eventItem s = .next (enginePoison k s)) ∧
    (e.item = none → (chooses → nextPoisoned e = false) →
      (firstItem e = none → exec .eventItem s = .next s) ∧
      (∀ f, firstItem e = some f →
        ((engineRuns s k = false ∨ due e f.time = false) → exec .eventItem s = .next s) ∧
        (engineRuns s k = true → due e f.time = true → capturePoisoned s k f.time = true → exec .eventItem s = .next (enginePoison k s)) ∧
        (engineRuns s k = true → due e f.time = true → capturePoisoned s k f.time = false →
          let u := captureAbove k f.time s
          let y := engineAt u k
          (∀ tk, f = .token tk →
            let late := fLt tk.time y.lvt
            let t := fMax y.lvt tk.time
            exec .eventItem s = .next (makeWakes k 2 (u.modEvent k (fun z => { z with
              lvt := t, tokens := z.tokens.erase tk
              lateTokens := if late then z.lateTokens + 1 else z.lateTokens
              lateness := if late then fMax z.lateness (fSub t tk.time) else z.lateness
              item := some ⟨t, [⟨BitVec.ofNat 29 (u.host.devid.toNat * 2 ^ 21 + k * 2 ^ 12 + tk.index), false,
                if late then some tk.time else none, false⟩], 0, u.time⟩ })))) ∧
          (∀ time i, f = .event time i →
            let r := y.rec_ i
            let t := fMax y.lvt r.tNext
            let moved := chooseQ (reanchor t r)
            let clamped := clampNext (u.cluster k).evtmin (crossing t moved) moved
            let v := countClamp k clamped.2 ((u.modEvent k (fun z => { z with lvt := t, events := z.events + 1 })).modEvent k
              (fun z => z.putRec i { clamped.1 with tprev := t }))
            (r.marked r.eventWords = true → exec .eventItem s = .next (enginePoison k u)) ∧
            (r.marked r.eventWords = false → ∀ l w,
              readList k i (y.listBase + BitVec.ofNat 64 (4 * clamped.1.didx)) clamped.1.dcnt 0 v = (.ok l, w) →
              exec .eventItem s = .next (makeWakes k (l.length + 1) (w.modEvent k (fun z => { z with item := some ⟨t, l, 0, w.time⟩ })))))))) ∧
    (∀ a b : Word, fLt (fMax a b) a = false) ∧
    (∀ it, e.item = some it → exec .eventItem s = .next (makeWakes k (it.todo.length + 1) s)) ∧
    (s.launch.tokens[s.subject]? = none → exec .remoteTokenAccept s = .next s) ∧
    (∀ x, s.launch.tokens[s.subject]? = some x →
      let rest := (countError s (partOfGang s x.gang) 6 x.way.copies).modLaunch (fun l => { l with tokens := l.tokens.eraseIdx s.subject })
      let cached := (s.fabric.cache.filter (fun c => c.home == 4 * x.engine)).length
      (x.there = false → exec .remoteTokenAccept s = .next s) ∧
      (x.there = true → servingEngine s x.gang x.engine = none → exec .remoteTokenAccept s = .next (settleSent x rest)) ∧
      (∀ r, x.there = true → servingEngine s x.gang x.engine = some r →
        ((1024 ≤ r.tokens.length ∨ 256 ≤ cached) → exec .remoteTokenAccept s = .next s) ∧
        (r.tokens.length < 1024 → cached < 256 → exec .remoteTokenAccept s = .next (settleSent x (modServing x.gang x.engine (fun y =>
          { y with tokens := y.tokens ++ [x.token], received := y.received + 1 }) rest))))) ∧
    (∀ gang peers, (s.gang? gang = none ∨ s.ticks % 1000 ≠ 0) → exec (.gvtReduction gang peers) s = .next s) ∧
    (∀ (g : Gang) (gang : Nat) (peers : Word), s.gang? gang = some g → s.ticks % 1000 = 0 →
      let members := enginesOf s gang
      (∀ m, members.find? (fun m => nextPoisoned m.2) = some m → exec (.gvtReduction gang peers) s = .next (reductionPoison gang m.1 s)) ∧
      (members.all (fun m => !nextPoisoned m.2) = true →
        let gvt := fMax g.gvt (members.foldl (fun v m => fMin v (contribution s gang m.1 m.2)) peers)
        ∃ t h, exec (.gvtReduction gang peers) s = .next t ∧ t.gang? gang = some h ∧ t.mem = s.mem ∧
          h.gvt = gvt ∧ fLt h.gvt g.gvt = false ∧
          (∀ c, c < 512 → gang ≠ 0 → (engineAt s c).gang = gang → engineAt t c = { engineAt s c with
            incoming := if fLt (engineAt s c).gvt gvt then some gvt else (engineAt s c).incoming }) ∧
          (∀ c, c < 512 → gang ≠ 0 → (engineAt s c).gang ≠ gang → engineAt t c = engineAt s c))) ∧
    (e.incoming = none → exec .gvtReceive s = .next s) ∧
    (∀ v, e.incoming = some v →
      let t := s.modEvent k (fun y => { y with gvt := fMax y.gvt v, incoming := none })
      (capturePoisoned t k (engineAt t k).gvt = true → exec .gvtReceive s = .next (enginePoison k t)) ∧
      (capturePoisoned t k (engineAt t k).gvt = false →
        exec .gvtReceive s = .next (settleSample k (closeWindow k (captureAbove k (engineAt t k).gvt t)))))

/-! ## Pairs and launches -/

/-- PAIR and UNPAIR give 2 for a tile that is no primary of the service core's cluster, 1 while either tile of the pair holds a
launch or is quarantined, else 0 with the pair's PAIRS bit set or clear. FPCK completes at once on a tile of no pair, and on a pair's when
its boundary has resolved. LAUNCH gives 9 past LDEPTH, 8 with the pool full, each with a completion record unless flag 6, else 0 with the
record in the pool. A boundary at which the fingerprints agree opens an interval with a checkpoint; a first disagreement restores
the checkpoint's registers, a second one quarantines both tiles; a wait of 16 cycles asks for a boundary, and a partner's
absence ends the gang with status 3, cause 0x13 (R143, R279-R282, R285, R375, R383, R399, R430, R444).
Completion, by equalities exec i s = next t under conditions on state and operands alone, for pair, unpair, fpck, launch,
pairBoundary, pairWaitTimeout. -/
def Obligations.PairsAndChildLaunches : Prop :=
  (∀ (s : State) (c : Nat) (f : F64A) (i : Instr) (v : Bool), ((i = .pair f ∧ v = true) ∨ (i = .unpair f ∧ v = false)) →
    s.focus = .s c → Ready s i f.pred f.pneg →
    let u := issued s
    let a := ((here u).x f.a.toNat).toNat
    let held := fun (t : Nat) => (u.tile t).gang ≠ 0 ∨ (u.tile t).quarantined = true
    let bit : BitVec 2 := 1#2 <<< (a % 4 / 2)
    xOk u f.a.toNat = true → xFree u f.d.toNat = true →
    (a ≠ 4 * c → a ≠ 4 * c + 2 → exec i s = falls s i (withX f.d.toNat 2 false u)) ∧
    ((a = 4 * c ∨ a = 4 * c + 2) → (held a ∨ held (a + 1)) → exec i s = falls s i (withX f.d.toNat 1 false u)) ∧
    ((a = 4 * c ∨ a = 4 * c + 2) → ¬ held a → ¬ held (a + 1) →
      exec i s = falls s i (withX f.d.toNat 0 false (u.modCluster c (fun w =>
        { w with pairs := if v then w.pairs ||| bit else w.pairs &&& ~~~bit }))))) ∧
  (∀ (s : State) (f : F64A), Ready s (.fpck f) f.pred f.pneg →
    let u := issued s
    (tilePaired u u.focus = false → exec (.fpck f) s = falls s (.fpck f) u) ∧
    (∀ t, State.tileOf s.focus = some t → tilePaired u u.focus = true →
      ((here s).wait = none → exec (.fpck f) s = .next (askBoundary (s.primaryOf t) (recordWait s.focus .pair s))) ∧
      (∀ since v p, (here s).wait = some ⟨.pair, since, some (v, p)⟩ → exec (.fpck f) s = falls s (.fpck f) u))) ∧
  (∀ (s : State) (f : F128C), Ready s (.launch f) f.pred f.pneg → Solo (issued s) →
    let u := issued s
    let a := (here u).x f.a.toNat
    let g := u.gangOf u.focus
    xOk u f.a.toNat = true → f.d.toNat < 32 →
    ((formOk a = false) → exec (.launch f) s = traps s (.launch f) 0x04 a) ∧
    (∀ ws v, (do checkAddress a 192 64; readTable a 24 : Exec (List Word)).run u = .ok ws v →
      (formOf a = 1 → gtileOf u a = home u ∧ (State.tileOf u.focus).isSome) →
      let words : LaunchRecord := Vector.ofFn (fun j : Fin 24 => ws.getD j.val 0)
      ∀ w, v.gang? g = some w → v.focus = u.focus → role v = .alone → xFree v f.d.toNat = true → v.gangOf u.focus = g →
        let deep := w.ldepth.toNat < w.depth + 1
        let full := w.lpool.toNat ≤ poolHeld v g ∨ 4096 ≤ poolTaken v
        let refused := fun (d : Nat) =>
          if words.fallback then v else report (v.partOf u.focus) words (plainReport v d 0) false v
        (deep → xFree (refused 9) f.d.toNat = true → (refused 9).focus = u.focus → role (refused 9) = .alone →
          exec (.launch f) s = falls s (.launch f) (withX f.d.toNat 9 false (refused 9))) ∧
        (¬ deep → full → xFree (refused 8) f.d.toNat = true → (refused 8).focus = u.focus → role (refused 8) = .alone →
          exec (.launch f) s = falls s (.launch f) (withX f.d.toNat 8 false (refused 8))) ∧
        (¬ deep → ¬ full → allAcknowledged v u.focus = true →
          let told := releasesOn (launchObject g) u.focus 5 v
          exec (.launch f) s = falls s (.launch f) (withX f.d.toNat 0 false ({ told with next := told.next + 1 }.modLaunch (fun l =>
            { l with pool := l.pool.set told.next ⟨words, false, none, false, w.depth + 1, g, w.livelim, w.lpool, w.ldepth⟩ }))))) ∧
    (ownScratch u a 192 64 = true → cleanBytes u.mem (ownKey u a) 192 = true → pushesToward u u.focus (home u) = false →
      (do checkAddress a 192 64; readTable a 24 : Exec (List Word)).run u =
        .ok ((List.range 24).map (fun j => BitVec.ofNat 64 (wordAt u.mem (ownKey u a + 8 * j) 8))) u)) ∧
  (∀ s : State,
    let t := s.subject
    let p := s.pair t
    ((s.tile t).twin ≠ .primary → exec .pairBoundary s = .next s ∧ exec .pairWaitTimeout s = .next s) ∧
    ((s.tile t).twin = .primary →
      (astray s t = false → boundaryReady s t = true → printsAgree s t = true → ∃ v, exec .pairBoundary s = .next v ∧
        (v.pair t).held = [] ∧ (v.pair t).undoPrimary = [] ∧ (v.pair t).undoTwin = [] ∧ (v.pair t).boundary = none ∧
        (v.pair t).disagreed = false ∧ (v.pair t).primary = v.tile t ∧ (v.pair t).twin = v.tile (t + 1) ∧
        (v.tile t).a.retired = 0 ∧ (v.tile (t + 1)).x.retired = 0) ∧
      (astray s t = true → allSettled s t = false → exec .pairBoundary s = .next s) ∧
      (((astray s t = true ∧ allSettled s t = true) ∨ (astray s t = false ∧ boundaryReady s t = true ∧ printsAgree s t = false)) →
        (p.disagreed = true → exec .pairBoundary s =
          .next (endGang p.gang 1 0x12 (quarantineTile p.gang (t + 1) (quarantineTile p.gang t s)))) ∧
        (p.disagreed = false → p.broken = true → exec .pairBoundary s = .next (contextLost p.gang s)) ∧
        (p.disagreed = false → p.broken = false → (pairSeqs t).all (fun q => !isGondola (s.seq q)) = true → ∃ v, exec .pairBoundary s = .next v ∧
          (v.pair t).held = [] ∧ (v.pair t).disagreed = true ∧ (v.pair t).rollbacks = p.rollbacks + 1 ∧
          (v.tile t).a.xs = p.primary.a.xs ∧ (v.tile t).a.pc = p.primary.a.pc ∧ (v.tile t).x.vs = p.primary.x.vs ∧
          (v.tile (t + 1)).a.xs = p.twin.a.xs ∧ (v.tile (t + 1)).x.pc = p.twin.x.pc)) ∧
      (astray s t = false → boundaryReady s t = false → exec .pairBoundary s =
        .next (if p.boundary.isNone && waitTriggers s t then askBoundary t s else s)) ∧
      ((pairSeqs t).any (waitsForPartner s t) = true → exec .pairWaitTimeout s = .next (endGang p.gang 3 0x13 s)) ∧
      ((pairSeqs t).any (waitsForPartner s t) = false → exec .pairWaitTimeout s = .next s)))

/-! ## The launch unit -/

/-- The life of a record: a kick sets TAIL unless it passes the ring; the record at the head of an enabled queue is read and checked,
a refused one completing with status 7 and its cause, one whose completion cannot be reached dropped and counted in ERRCNT7; a checked record
becomes eligible when its dependences reach their thresholds; an eligible one is refused with cause 7 or 9 when it can never
fit, with status 5 when it is fail-if-busy and does not fit now, or placed in its turn; one that its start tick finds unplaced ends with status 5,
a part of several setting the abort bit; after 100 microseconds without a place it becomes blocking; a child whose parent ends completes with status 5 (R132, R136-R141, R143, R144).
That a record whose completion word or record address is 0 is dropped, and the order of the causes, is the model's choice (log 19).
Completion, by equalities exec i s = next t under conditions on state and operands alone, for launchQueueKick,
launchRecordCheck, dependencePoll, gangPlacement, recordBlocking. -/
def Obligations.RecordsAndPlacement : Prop :=
  (∀ (s : State) (n : Nat) (tail : BitVec 32), exec (.launchQueueKick n tail) s = .next
    (if n < 64 ∧ (tail - (s.queue n).head).toNat ≤ (s.queue n).slots ∧ s.host.devstate ≠ 3
      then s.modQueue n (fun q => { q with tail := tail }) else s)) ∧
  (∀ (s : State) (src : RecordSource), orphaned s src = true →
    exec (.launchRecordCheck src) s = .next (finishRecord src 5 0 s) ∧
    exec (.dependencePoll src) s = .next (finishRecord src 5 0 s) ∧
    (∀ ts, exec (.gangPlacement src ts) s = .next (finishRecord src 5 0 s))) ∧
  (∀ (s : State) (n : Nat),
    let q := s.queue n
    let p := q.owner.toNat
    let a := q.base + BitVec.ofNat 64 (256 * (q.head.toNat % q.slots))
    ((q.en = false ∨ q.head = q.tail ∨ q.record.isSome = true) → exec (.launchRecordCheck (.queue n)) s = .next s) ∧
    (q.en = true → q.head ≠ q.tail → q.record = none →
      (∀ w, (mapped p a .read).run s = .ok false w →
        exec (.launchRecordCheck (.queue n)) s = .next (takeRecord (.queue n) (countError w p 7 1))) ∧
      (∀ w bs t, (mapped p a .read).run s = .ok true w → (ringRead p a 192).run w = .ok bs t →
        let words : LaunchRecord := Vector.ofFn (fun i : Fin 24 => BitVec.ofNat 64 (numberAt bs (8 * i.val) 8))
        let v := t.modQueue n (fun q => { q with record := some ⟨words, false, none, false, 0, 0, 4096, 64, 24⟩ })
        ∀ r w, (verdict p false words).run v = .ok r w → exec (.launchRecordCheck (.queue n)) s = .next (match r with
          | .fine => modRecord (.queue n) (fun r => { r with checked := true }) w
          | .refuse cause => finishRecord (.queue n) 7 cause w
          | .drop => takeRecord (.queue n) (countError w p 7 1))) ∧
      (∀ at_ w t, (mapped p a .read).run s = .ok true w → (ringRead p a 192).run w = .error (.poison at_) t →
        exec (.launchRecordCheck (.queue n)) s = .next (partitionFault p (keepFindings s t))))) ∧
  (∀ (s : State) (k p : Nat) (r : RecState), orphaned s (.pool k) = false → recordAt s (.pool k) = some (r, p) →
    (r.checked = true → exec (.launchRecordCheck (.pool k)) s = .next s) ∧
    (r.checked = false → ∀ x w, (verdict p true r.words).run s = .ok x w → exec (.launchRecordCheck (.pool k)) s = .next (match x with
      | .fine => modRecord (.pool k) (fun r => { r with checked := true }) w
      | .refuse cause => finishRecord (.pool k) 7 cause w
      | .drop => takeRecord (.pool k) (countError w p 7 1)))) ∧
  (∀ (s : State) (p : Nat) (child : Bool) (r : LaunchRecord),
    ((r.completionWord = 0 ∨ r.completionRecord = 0) → (verdict p child r).run s = .ok .drop s) ∧
    (∀ v w, r.completionWord ≠ 0 → r.completionRecord ≠ 0 → (mapped p r.completionWord .write).run s = .ok true v →
      (mapped p r.completionRecord .write).run v = .ok true w →
      let named := (List.range 4).filter (fun i => r.dependence i != 0)
      (recordOk s p child r = false → (verdict p child r).run s = .ok (.refuse 1) w) ∧
      (recordOk s p child r = true → saveAreaOk s r = false → (verdict p child r).run s = .ok (.refuse 5) w) ∧
      (recordOk s p child r = true → saveAreaOk s r = true → named = [] → r.spans = false → (verdict p child r).run s = .ok .fine w) ∧
      (∀ x y here, recordOk s p child r = true → saveAreaOk s r = true → named = [3] → r.spans = true →
        (mapped p (r.dependence 3) .read).run w = .ok true x → (meetsAtPart p r).run x = .ok here y →
        (verdict p child r).run s = .ok (if here then .fine else .refuse 8) y))) ∧
  (∀ (s : State) (src : RecordSource), orphaned s src = false →
    (recordAt s src = none → exec (.dependencePoll src) s = .next s) ∧
    (∀ r p, recordAt s src = some (r, p) →
      (r.checked = false → exec (.dependencePoll src) s = .next s) ∧
      (r.checked = true → isLate s r.words = true →
        (r.words.spans = false → exec (.dependencePoll src) s = .next (finishRecord src 5 0 s)) ∧
        (r.words.spans = true → rendezvousMiss p r.words .write s = none →
          exec (.dependencePoll src) s = .next (finishRecord src 5 0 (abortParts p r.words s)))) ∧
      (r.checked = true → isLate s r.words = false → r.eligible.isSome = true → exec (.dependencePoll src) s = .next s) ∧
      (r.checked = true → isLate s r.words = false → r.eligible = none →
        let met := dependencesMet (recordNumber src) p r.words
        (∀ w, met.run s = .ok true w → exec (.dependencePoll src) s = .next (modRecord src (fun r => { r with eligible := some s.time }) w)) ∧
        (∀ w, met.run s = .ok false w → exec (.dependencePoll src) s = .next w) ∧
        (∀ code tval miss w, met.run s = .error (.trap code tval miss) w →
          exec (.dependencePoll src) s = .next (finishRecord src 7 8 (keepFindings s w))) ∧
        (r.words.waits = [] → met.run s = .ok true (observes (recordNumber src) [] s))))) ∧
  (∀ (s : State) (src : RecordSource) (tiles : List Nat), orphaned s src = false →
    let found := (candidates s).find? (fun c => c.src == src)
    (s.host.stopped = true → exec (.gangPlacement src tiles) s = .next s) ∧
    (found = none → exec (.gangPlacement src tiles) s = .next s ∧ exec (.recordBlocking src) s = .next s) ∧
    (∀ c, found = some c → s.host.stopped = false →
      let r := c.rec_.words
      (isLate s r = true →
        (r.spans = false → exec (.gangPlacement src tiles) s = .next (finishRecord src 5 0 s)) ∧
        (r.spans = true → rendezvousMiss r.part r .write s = none →
          exec (.gangPlacement src tiles) s = .next (finishRecord src 5 0 (abortParts r.part r s)))) ∧
      (isLate s r = false →
        (canEverFit s r = false → exec (.gangPlacement src tiles) s = .next (finishRecord src 7 7 s)) ∧
        (canEverFit s r = true → ringsNever s r = true → exec (.gangPlacement src tiles) s = .next (finishRecord src 7 9 s)) ∧
        (canEverFit s r = true → ringsNever s r = false → r.failIfBusy = true → fitsNow s r = false →
          exec (.gangPlacement src tiles) s = .next (finishRecord src 5 0 s)) ∧
        (canEverFit s r = true → ringsNever s r = false → (r.failIfBusy = false ∨ fitsNow s r = true) →
          let mine := (nextRecord s).map (·.src) = some src ∧ placementOk s r tiles = true
          (¬ mine → exec (.gangPlacement src tiles) s = .next s) ∧
          (mine → ∀ w, (∀ cause, ((readLaunch s.next r).run).run { s with next := s.next + 1 } = .ok (.error cause) w →
              exec (.gangPlacement src tiles) s = .next (finishRecord c.src 7 cause w)) ∧
            (∀ im ds, ((readLaunch s.next r).run).run { s with next := s.next + 1 } = .ok (.ok (im, ds)) w →
              (r.spans = true → rendezvousMiss r.part r .write s = none) →
              exec (.gangPlacement src tiles) s = .next (placeGang s.next c tiles im ds w))))) ∧
      (exec (.recordBlocking src) s = .next
        (if (c.rec_.eligible.getD s.time) + 1700000 ≤ s.time ∧ r.failIfBusy = false ∧ canEverFit s r = true ∧ fitsNow s r = false
          then modRecord src (fun r => { r with blocking := true }) s else s))))

/-- A gang from its start tick to its end: at the commit tick the word's module sets go when every part has added 1, else abort; a
part that has seen go starts at its start tick, any other ends with status 5 and sets abort; a part that finds abort afterwards ends with
status 5. A gang with nothing outstanding frees its tiles and completes once its last child has; a killed one ends its children with status 5
first, and then completes or, restartable, is placed again when its digests match. A timed wait as long as the watchdog's
period, and a part killed on another module, end it (R104, R135, R142, R144, R153, R155, R278, R318). That re-execution follows statuses 1 to 3
alone, and that a gang which can never fit again ends with the status that killed it, is the model's choice (log 16).
Completion, by equalities exec i s = next t under conditions on state and operands alone, for rendezvousCommit,
rendezvousRead, startTick, rendezvousRecheck, gangCompletion, reexecution, watchdogExpiry. -/
def Obligations.GangLife : Prop :=
  ∀ (s : State) (g : Nat), s.subject = g →
    (partNamed s g = none → exec .rendezvousCommit s = .next s) ∧
    (∀ p r, partNamed s g = some (p, r) →
      ((r.spans = false ∨ s.ticks < commitTick r) → exec .rendezvousCommit s = .next s) ∧
      (r.spans = true → commitTick r ≤ s.ticks → ∀ v here t, (readRendezvous p r).run s = .ok (v, here) t →
        ((here = false ∨ 2 ^ 62 ≤ v) → exec .rendezvousCommit s = .next t) ∧
        (here = true → v < 2 ^ 62 → ∀ w, (changeWord p 0 (r.dependence 3)
            (fun v => v + (if v = (r.threshold 3).toNat then 2 ^ 63 else 2 ^ 62))).run t = .ok () w →
          exec .rendezvousCommit s = .next w))) ∧
    (2 ^ 64 ≤ g → exec .gangCompletion s = .next (reportAgain (g - 2 ^ 64) s)) ∧
    (s.gang? g = none → exec .rendezvousRead s = .next s ∧ exec .startTick s = .next s ∧ exec .rendezvousRecheck s = .next s ∧
      (g < 2 ^ 64 → exec .gangCompletion s = .next s) ∧ exec .watchdogExpiry s = .next s ∧ (∀ ts, exec (.reexecution g ts) s = .next s)) ∧
    (∀ u, s.gang? g = some u →
      (u.phase = .placed → u.killing = none →
        (u.record.spans = true → s.ticks < u.record.startTick →
          (∀ w, rendezvousMiss u.part u.record .read s = some w → exec .rendezvousRead s = .next w) ∧
          (rendezvousMiss u.part u.record .read s = none → exec .rendezvousRead s = .next (s.modGang g (fun w =>
            { w with go := w.go || (rendezvousBits s u).1, abort := w.abort || (rendezvousBits s u).2 })))) ∧
        (s.ticks < u.record.startTick → exec .startTick s = .next s) ∧
        (u.record.startTick ≤ s.ticks →
          (((u.record.spans = true ∧ u.go = true) ∨ (u.record.spans = false ∧ u.added = true)) →
            exec .startTick s = .next (s.modGang g (fun w => { w with phase := .running, start := s.ticks }))) ∧
          (u.record.spans = false → u.added = false → exec .startTick s = .next (endGang g 5 0 s)) ∧
          (u.record.spans = true → u.go = false → rendezvousMiss u.part u.record .write s = none → exec .startTick s = .next (endGang g 5 0
            (rendezvous u.part u.record (fun v => if v.testBit 62 then v else v + 2 ^ 62) s))))) ∧
      (u.phase ≠ .placed → exec .startTick s = .next s ∧ exec .rendezvousRead s = .next s) ∧
      (u.go = true → u.phase ≠ .placed → u.killing = none → u.record.startTick + 100000 ≤ s.ticks →
        rendezvousMiss u.part u.record .read s = none →
        let t := s.modGang g (fun w => { w with go := false })
        exec .rendezvousRecheck s = .next (if (rendezvousBits s u).2 then endGang g 5 0 t else t)) ∧
      ((u.go = false ∨ s.ticks < u.record.startTick + 100000) → exec .rendezvousRecheck s = .next s) ∧
      (let children := childrenOf s g
       let alive := children ≠ [] ∨ poolOf s g ≠ []
       g < 2 ^ 64 →
       (∀ status cause, u.killing = some (status, cause) →
          (toReexecute u = false → alive → exec .gangCompletion s = .next (children.foldl (fun v c => endGang c 5 0 v) s)) ∧
          (toReexecute u = false → ¬ alive → exec .gangCompletion s = .next (completeGang g u status cause s)) ∧
          (toReexecute u = true → exec .gangCompletion s = .next s)) ∧
       (u.killing = none → u.met = true → exec .gangCompletion s = .next (endGang g 2 0x11 s)) ∧
       (u.killing = none → u.met = false → u.phase = .running →
          (gangIdle s g u = false → exec .gangCompletion s = .next s) ∧
          (gangIdle s g u = true →
            let t := (releaseGang g s).modGang g (fun w => { w with phase := .waiting })
            (alive → exec .gangCompletion s = .next t) ∧
            (¬ alive → exec .gangCompletion s = .next (completeGang g u (if u.reexecutions = 0 then 0 else 6) 0 t)))) ∧
       (u.killing = none → u.met = false → u.phase = .waiting →
          (alive → exec .gangCompletion s = .next s) ∧
          (¬ alive → exec .gangCompletion s = .next (completeGang g u (if u.reexecutions = 0 then 0 else 6) 0 s))) ∧
       (∀ ts, ((toReexecute u = false ∨ s.host.stopped = true) → exec (.reexecution g ts) s = .next s) ∧
          (toReexecute u = true → s.host.stopped = false → alive → exec (.reexecution g ts) s = .next
            (children.foldl (fun v c => endGang c 5 0 v) ((poolOf s g).foldl (fun v k => finishRecord (.pool k) 5 0 v) s))) ∧
          (toReexecute u = true → s.host.stopped = false → ¬ alive →
            let stop := s.modGang g (fun w => { w with final := true })
            (canEverFit s u.record = false → exec (.reexecution g ts) s = .next stop) ∧
            (∀ im w, canEverFit s u.record = true → ((readAgain g u).run).run s = .ok (.ok (false, im)) w →
              exec (.reexecution g ts) s = .next stop) ∧
            (∀ im w, canEverFit s u.record = true → ((readAgain g u).run).run s = .ok (.ok (true, im)) w →
              (placementOk s u.record ts = true → exec (.reexecution g ts) s = .next (restart g ts im w)) ∧
              (placementOk s u.record ts = false → exec (.reexecution g ts) s = .next s))))) ∧
      (∀ status cause, peerKilled s u = some (status, cause) → exec .watchdogExpiry s = .next (endGang g status cause s)) ∧
      (peerKilled s u = none →
        let late := (partWaits s g u).any (fun t => t + u.period * millisecond ≤ s.time)
        (late = true → exec .watchdogExpiry s = .next (endGang g 3 0x13 s)) ∧
        (late = false → exec .watchdogExpiry s = .next s)))

/-- The end of a gang, whoever ends it: its first reason stands, its tiles are freed, and its children end with status 5. A
pre-emption is refused for a gang without flag 3; one under way goes on until the part has drained and is saved; a saved part resumes on its
tiles once they are free, its registers as they were, and a broken save area loses the context, status 4 (R134, R144, R146-R150, R278).
Completion, by equalities exec i s = next t under conditions on state and operands alone, for preempt, preemptResume. -/
def Obligations.EndAndPreemption : Prop :=
  (∀ (s : State) (g status cause : Nat) (u : Gang), s.gang? g = some u →
    (u.killing.isSome = true → endGang g status cause s = s) ∧
    (u.killing = none →
      let v := endGang g status cause s
      (∃ w, v.gang? g = some w ∧ w.killing = some (status, cause) ∧ w.live = 0 ∧ w.phase = .waiting) ∧
      (∀ t ∈ allTiles u, (s.tile t).gang = g → (v.tile t).gang = 0) ∧
      (∀ c w, s.gang? c = some w → c ≠ g → w.parent = g → w.killing = none →
        (∃ x, v.gang? c = some x ∧ x.killing = some (5, 0) ∧ x.live = 0 ∧ x.phase = .waiting) ∧
        (∀ t ∈ allTiles w, (s.tile t).gang = c → (v.tile t).gang = 0)))) ∧
  (∀ s : State,
    let g := s.subject
    (s.gang? g = none → exec .preempt s = .next s ∧ exec .preemptResume s = .next s) ∧
    (∀ u, s.gang? g = some u →
      ((u.killing.isSome = true ∨ u.record.preemptible = false) → exec .preempt s = .next s) ∧
      (u.killing = none → u.record.preemptible = true →
        (u.phase = .running → exec .preempt s = .next (approachStop g (s.modGang g (fun w => { w with phase := .stopping })))) ∧
        (u.phase = .stopping →
          (enginesSettled s g = false → exec .preempt s = .next s) ∧
          (enginesSettled s g = true →
            let thawed := (pairsOf s g).any (fun t => !(s.pair t).freezing)
            let closing := (pairsOf s g).any (fun t => (s.pair t).boundary.isSome)
            (thawed = true → exec .preempt s = .next (freezePairs g s)) ∧
            (thawed = false → closing = true → exec .preempt s = .next s) ∧
            (thawed = false → closing = false → exec .preempt s = .next (stopPart g s)))) ∧
        (u.phase = .placed → exec .preempt s = .next s) ∧
        (∀ v, u.phase = .preempted → u.saved = some v →
          ((v.complete = true ∨ partDrained s g u = false) → exec .preempt s = .next s) ∧
          (v.complete = false → partDrained s g u = true → exec .preempt s = .next (savePart g u s)))) ∧
      (u.phase ≠ .preempted → exec .preemptResume s = .next s) ∧
      (∀ v, u.phase = .preempted → u.saved = some v →
        ((v.complete = false ∨ canResume s g v = false) → exec .preemptResume s = .next s) ∧
        (v.complete = true → canResume s g v = true → v.broken = true → exec .preemptResume s = .next (contextLost g s)) ∧
        (v.complete = true → canResume s g v = true → v.broken = false → exec .preemptResume s = .next (restorePart g v s) ∧
          ∀ t w, v.tiles = [(t, w)] → v.engines = [] → v.pairs = [] →
            ((restorePart g v s).tile t).a.xs = w.a.xs ∧ ((restorePart g v s).tile t).a.pc = w.a.pc ∧
            ((restorePart g v s).tile t).x.vs = w.x.vs ∧ ((restorePart g v s).tile t).gang = w.gang))))

/-! ## Selections and arrivals -/

/-- A free sequencer fires, of its ready entrants, one of the highest effective priority: an actor's firing begins at its entry with registers
0, p0 true and no gondola, a gondola's at its pc with its x1 to x7, seeing what it brings (R312). A claim of the reel takes the next chunk from the nest's counter, at another
unit by a request, and disarms the actor once the counter has passed the last index. A wait of ALIGNH or WFE ends at its deadline; a deferred
arrival is made once its commands have landed; gondolas enter an arrival area, its ring or a memory core's queue
(R101-R104, R114, R116, R118-R120, R124, R127, R167, R313, R343, R441).
Completion, by equalities exec i s = next t under conditions on state and operands alone, for actorSelection, reelClaim,
alignhTimeout, wfeTimeout, deferredArrival, gondolaArrival, mcGondolaArrival, ringReturn. -/
def Obligations.SelectionsAndArrivals : Prop :=
  (∀ (s : State) (q : SeqId),
    ((s.seq q).firing.isSome = true → exec (.actorSelection q) s = .next s) ∧
    (isTwin s q = true → exec (.actorSelection q) s = .next s) ∧
    (selected s q = none → gondolaWaits s q = false → exec (.actorSelection q) s = .next s) ∧
    (∀ n, selected s q = some n → entrantReady s q n = true ∧
      (∀ m, m < 17 → entrantReady s q m = true → priority (s.seq q) m ≤ priority (s.seq q) n)) ∧
    (tilePaired s q = false → (s.seq q).firing = none →
      (∀ n, selected s q = some n → n < 16 → ∃ v, exec (.actorSelection q) s = .next v ∧ v.mem = s.mem ∧
        (v.seq q).pc = ((s.seq q).actor n).entry ∧ (v.seq q).xs = Vector.replicate 32 0 ∧ (v.seq q).xPoison = 0 ∧
        (v.seq q).vs = Vector.replicate 32 0 ∧ (v.seq q).ps = 1 ∧ (v.seq q).fprm = (s.seq q).fprm ∧
        ∃ w, (v.seq q).firing = some w ∧ w.number = s.next ∧ w.gondola = false) ∧
      (∀ t x rest, q = .a t → selected s q = some 16 → (s.tile t).arrivals = x :: rest → ∃ v,
        exec (.actorSelection q) s = .next v ∧ v.mem = (disembark x.number q s).mem ∧ (v.seq q).pc = x.pc ∧ (v.seq q).x 0 = 0 ∧
        (∀ k, k < 7 → (v.seq q).x (k + 1) = x.regs.toList.getD k 0) ∧
        ∃ w, (v.seq q).firing = some w ∧ w.number = x.number ∧ w.gang = x.gang ∧ w.gondola = true))) ∧
  (∀ (s : State) (q : SeqId) (slot : Nat),
    let n := (s.seq q).nest slot
    let u : State := { s with focus := q }
    ((n.nest = none ∨ n.claiming = none ∨ claimSent s q slot = true ∨ allAcknowledged s q = false ∨ isTwin s q = true ∨
        reelTrapped s q slot = true) → exec (.reelClaim q slot) s = .next s) ∧
    (∀ d, n.nest = some d → n.claiming.isSome = true → claimSent s q slot = false → allAcknowledged s q = true →
      reelTrapped s q slot = false → tilePaired s q = false →
      (∀ t, (claimBy false q slot d).run u = .ok () t → exec (.reelClaim q slot) s = .next { t with focus := s.focus }) ∧
      (∀ code tval miss t, (claimBy false q slot d).run u = .error (.trap code tval miss) t → ∃ v, exec (.reelClaim q slot) s = .next v ∧
        v.mem = (keepFindings u t).mem ∧ v.focus = s.focus ∧ ∃ x, v.launch.undelivered = s.launch.undelivered ++ [x] ∧ x.code = code ∧
          x.tval = tval ∧ x.epc = ((n.actor.map (fun i => ((s.seq q).actor i).entry)).getD 0))) ∧
    (∀ d : Nest, Solo u → ownScratch u d.counter 8 8 = true → cleanBytes u.mem (ownKey u d.counter) 8 = true →
      let c := wordAt u.mem (ownKey u d.counter) 8
      let left := d.total - c
      let next := min d.total (c + max d.chunk ((left + d.divisor * d.parts - 1) / (d.divisor * d.parts)))
      (d.total ≤ c → (claimBy false q slot d).run u = .ok () (giveChunk false q slot none u)) ∧
      (c < d.total → (claimBy false q slot d).run u =
        .ok () (giveChunk false q slot (some (c, next)) (withBytes (ownKey u d.counter) (toBytes 8 next) false u)))) ∧
    (∀ d p, (claimPlace d).run u = .ok p u → isOwn q p = false →
      (claimBy false q slot d).run u = .ok () (sendClaim q slot d p u)) ∧
    (∀ (d : Nest) (l : Nat), 1 ≤ d.e0 → 1 ≤ d.e1 → 1 ≤ d.e2 → 1 ≤ d.e3 → l < d.total → d.total < 2 ^ 63 →
      let k := indexOf d l
      k[0].toNat < d.e0 ∧ k[1].toNat < d.e1 ∧ k[2].toNat < d.e2 ∧ k[3].toNat < d.e3 ∧
        l = k[0].toNat + d.e0 * (k[1].toNat + d.e1 * (k[2].toNat + d.e2 * k[3].toNat)))) ∧
  (∀ (s : State) (q : SeqId),
    let u := s.seq q
    ((u.wait = none ∨ u.deadline = none) → exec (.alignhTimeout q) s = .next s ∧ exec (.wfeTimeout q) s = .next s) ∧
    (∀ w d, u.wait = some w → u.deadline = some d →
      (w.why = .align → d ≤ s.cycleOf q →
        exec (.alignhTimeout q) s = .next (s.modSeq q (fun x => { x with wait := some { w with grant := some (0, false) } }))) ∧
      ((w.why ≠ .align ∨ s.cycleOf q < d) → exec (.alignhTimeout q) s = .next s) ∧
      (w.why = .wfe → u.latch = 0 → d ≤ s.time → exec (.wfeTimeout q) s = .next (latch q 0x80 s)) ∧
      ((w.why ≠ .wfe ∨ u.latch ≠ 0 ∨ s.time < d) → exec (.wfeTimeout q) s = .next s))) ∧
  (∀ (s : State) (g k : Nat),
    ((deferredOf s g)[k]? = none → exec (.deferredArrival g k) s = .next s) ∧
    (∀ d, (deferredOf s g)[k]? = some d →
      (deferredReady s d = false → exec (.deferredArrival g k) s = .next s) ∧
      (∀ b, deferredReady s d = true → findBarrier s (dieOf d.tile) d.gang d.name = some b → exec (.deferredArrival g k) s =
        .next ((arrive d.tile b (defersDone d.gang d.tile d.name b.phase d.cmds s)).modLaunch (fun l => { l with deferred := dropFirst d l.deferred }))))) ∧
  (∀ s : State,
    (s.launch.transit[s.subject]? = none → exec .gondolaArrival s = .next s ∧ exec .mcGondolaArrival s = .next s) ∧
    (∀ x, s.launch.transit[s.subject]? = some x →
      let dropped := dropTransit s.subject x s
      let y := x.gondola
      (x.there = false → exec .gondolaArrival s = .next s ∧ exec .mcGondolaArrival s = .next s) ∧
      (∀ t, x.there = true → x.dest = .tile t →
        exec .mcGondolaArrival s = .next s ∧
        (isPreempted s y.gang = false → ∃ v, exec .gondolaArrival s = .next v ∧
          v.launch.transit = s.launch.transit.eraseIdx s.subject ∧
          (let room := (s.tile t).ring = [] ∧ (s.tile t).arrivals.length < (s.tile t).arrcap.toNat
           (room → v.mem = s.mem ∧ (v.tile t).arrivals = (s.tile t).arrivals ++ [y] ∧ (v.tile t).ring = []) ∧
           (¬ room → (v.tile t).arrivals = (s.tile t).arrivals ∧ (v.tile t).ring = (s.tile t).ring ++ [y] ∧
             v.mem = (writeRing y (s.tile t) dropped).mem))) ∧
        (isPreempted s y.gang = true → exec .gondolaArrival s = .next (landInRing y t dropped))) ∧
      (∀ d, x.there = true → x.dest = .away d → exec .gondolaArrival s = .next dropped) ∧
      (∀ c, x.there = true → x.dest = .core c →
        exec .gondolaArrival s = .next s ∧
        (isPreempted s y.gang = true → exec .mcGondolaArrival s =
          .next (modSaved y.gang (fun v => { v with parked := v.parked ++ [(c, y)] }) dropped)) ∧
        (isPreempted s y.gang = false → (64 ≤ (s.mcore c).arrivals.length ∨ behindParked s s.subject c x.parked = true) →
          exec .mcGondolaArrival s = .next s) ∧
        (isPreempted s y.gang = false → (s.mcore c).arrivals.length < 64 → behindParked s s.subject c x.parked = false →
          ∃ v, exec .mcGondolaArrival s = .next v ∧
            v.launch.transit = s.launch.transit.eraseIdx s.subject ∧ v.mem = s.mem ∧
            (v.mcore c).arrivals = (s.mcore c).arrivals ++ [y] ∧ (v.mcore c).m.latch = (s.mcore c).m.latch ||| 64))) ∧
    (let u := s.tile s.subject
     (u.arrivals.all (fun x => !x.unread) = true → exec .ringReturn s = .next s) ∧
     (∀ x rest bs ps v, u.arrivals = x :: rest → x.unread = true →
       (fetchBytes (partOfGang s x.gang) x.gang 0 (ringKey s x.gang u (u.ringPut - u.ring.length - unreadIn u)) 64).run s = .ok (bs, ps) v →
       ((ps.take 8).any id = true → exec .ringReturn s = .next (killRect (rectOf s s.subject) v)) ∧
       ((ps.take 8).any id = false → v.tile s.subject = u → ∃ w, exec .ringReturn s = .next w ∧ w.mem = v.mem ∧
         (w.tile s.subject).arrivals = fromPacket x (bs.zip ps) :: rest))))

/-! ## The fabric -/

/-- A packet's way: it is injected at its issuer's router unless its partition drains, goes along the active table, an older packet
first, is lost and counted at an invalid entry, and takes the tether of its destination where it leaves the module, on virtual channel 0; a
packet of a peer enters by its link; a multicast packet takes all of its branches or none. A request is delivered once, in order within an
ordered flow, a duplicate counted and answered; its home performs requests in the order in which it receives them, an atomic access
indivisibly, and keeps the answer of one that runs once; the answer reaches the register and the request is over. A packet without an
acknowledgement in TMO microseconds is sent again, and the eighth time-out in a row ends the gang with status 3, cause 0x13 (R165, R179, R208,
R250-R256, R259). That a packet which leaves the routers at another attachment than its destination's is lost without a count, and where a
peer's packet starts, is the model's choice (log 41).
Completion, by equalities exec i s = next t under conditions on state and operands alone, for packetForward, packetDelivery,
ownerAccess, requestResponse, endToEndTimeout. -/
def Obligations.PacketsAndAccesses : Prop :=
  ∀ s : State,
    let c := carrierOf s.subject
    let tether := fun (port : Nat) =>
      if (s.fabric.links.getD port Link.reset).state = .up then modWay c (fun w => { w with hop := .tether port 0, vc := 0 }) s else s
    (packetAt s c = none → exec .packetForward s = .next s) ∧
    (∀ p, packetAt s c = some p →
      (p.way.hop = .issuer →
        (draining s p.part = true → exec .packetForward s = .next s) ∧
        (draining s p.part = false → exec .packetForward s = .next (moveTo c (.router p.way.origin) s))) ∧
      (p.way.hop = .across →
        (p.way.inbound = none → exec .packetForward s = .next s) ∧
        (∀ port, p.way.inbound = some port →
          (draining s p.part = true → exec .packetForward s = .next s) ∧
          (draining s p.part = false → exec .packetForward s = .next (tether port)))) ∧
      (∀ here, p.way.hop = .router here → (∀ i, c ≠ .multicast i) →
        (here ≠ p.dest →
          (routeNext s here p.dest p.part = none → exec .packetForward s = .next (countError (moveTo c .lost s) p.part 7 1)) ∧
          (∀ n vc, routeNext s here p.dest p.part = some (.router n, vc) →
            (contended s p.age here (.router n) = true → exec .packetForward s = .next s) ∧
            (contended s p.age here (.router n) = false →
              exec .packetForward s = .next (modWay c (fun w => { w with hop := .router n, vc := vc }) s))) ∧
          (∀ b vc, routeNext s here p.dest p.part = some (b, vc) → (∀ n, b ≠ .router n) →
            exec .packetForward s = .next (moveTo c .lost s))) ∧
        (here = p.dest →
          (p.port = none → exec .packetForward s = .next s) ∧
          (∀ port, p.port = some port → exec .packetForward s = .next (tether port)))) ∧
      (∀ i m here, c = .multicast i → s.launch.multicasts[i]? = some m → m.way.hop = .router here →
        let bs := branches s m here
        let taken := s.modLaunch (fun l => { l with multicasts := l.multicasts.take i ++ splitMulticast s m here ++ l.multicasts.drop (i + 1) })
        (bs = [] → m.way.copies = 0 → exec .packetForward s = .next s) ∧
        (bs = [] → 0 < m.way.copies → exec .packetForward s =
          .next (countError (modWay c (fun w => { w with copies := w.copies - 1 }) s) (partOfGang s m.gang) 6 1)) ∧
        (∀ b vc, some (b, vc) ∈ bs → contended s m.id here b = true → exec .packetForward s = .next s) ∧
        (bs ≠ [] → (∀ b vc, some (b, vc) ∈ bs → contended s m.id here b = false) → exec .packetForward s =
          .next (if bs.contains none then countError taken (partOfGang s m.gang) 7 1 else taken)))) ∧
    (let e := carrierGang s c
     (timedOut s c = false → exec .endToEndTimeout s = .next s) ∧
     (timedOut s c = true → e.2.2 < 7 → exec .endToEndTimeout s = .next (countError (resend c s) e.2.1 6 1)) ∧
     (timedOut s c = true → 7 ≤ e.2.2 → exec .endToEndTimeout s =
       .next (endGang e.1 3 0x13 (modWay c (fun w => { w with timeouts := 8, sentAt := s.time }) s)))) ∧
    (∀ (w : Way) (time : Nat),
      (w.again time).timeouts = w.timeouts + 1 ∧ (w.again time).sentAt = time ∧
      (w.hop = .lost → (w.again time).hop = (if w.inbound.isSome = true then .across else .issuer) ∧ (w.again time).copies = w.copies) ∧
      (w.hop ≠ .lost → (w.again time).hop = w.hop ∧ (w.again time).copies = if w.hop = .issuer then w.copies else w.copies + 1)) ∧
    (∀ n r, findRequest s n = some r → ∃ x, findRequest (resend (.request n) s) n = some x ∧
      (if r.way.hop = .lost ∧ r.stage.isAnswer = true then x.stage = .sent ∧ x.way.hop = .issuer else x.stage = r.stage ∧ x.way = r.way.again s.time)) ∧
    (findRequest s s.subject = none → exec .packetDelivery s = .next s ∧ exec .ownerAccess s = .next s ∧ exec .requestResponse s = .next s) ∧
    (∀ r, findRequest s s.subject = some r →
      let comes : State := { modRequest r.id (fun x => { x with stage := .delivered s.next }) s with next := s.next + 1 }
      (r.stage = .sent →
        ((r.there = false ∨ waitsBefore s r = true ∨ behindPush s r = true) → exec .packetDelivery s = .next s) ∧
        (r.there = true → waitsBefore s r = false → behindPush s r = false →
          (wasDelivered s r = false → exec .packetDelivery s = .next
            (comes.modFabric (fun u => { u with delivered := u.delivered ++ [(r.flow, restored s r)] }))) ∧
          (∀ x, wasDelivered s r = true → cachedFor s r = some x → exec .packetDelivery s =
            .next (countError (modRequest r.id (fun y => y.answer x.value x.poison) s) r.part 6 1)) ∧
          (wasDelivered s r = true → cachedFor s r = none →
            (((∃ ps, r.op = .store ps) ∨ (∃ lo bs, r.op = .land lo bs)) →
              exec .packetDelivery s = .next (countError (modRequest r.id (fun y => y.answer 0 0) s) r.part 6 1)) ∧
            ((∀ ps, r.op ≠ .store ps) → (∀ lo bs, r.op ≠ .land lo bs) → exec .packetDelivery s = .next (countError comes r.part 6 1)))) ∧
        exec .ownerAccess s = .next s ∧ exec .requestResponse s = .next s) ∧
      (r.stage ≠ .sent →
        (r.way.copies = 0 → exec .packetDelivery s = .next s) ∧
        (0 < r.way.copies → exec .packetDelivery s = .next
          (countError (modRequest r.id (fun x => { x with way := { x.way with copies := x.way.copies - 1 } }) s) r.part 6 1))) ∧
      (∀ n, r.stage = .delivered n → (atTurn s r = true ↔ refused s r = false ∧ behindOther s r n = false)) ∧
      (atTurn s r = false → exec .ownerAccess s = .next s) ∧
      (atTurn s r = true →
        (∀ v p t, (performRequest r).run s = .ok (some (v, p)) t → exec .ownerAccess s = .next (answerRequest r.id v p t)) ∧
        (∀ t, (performRequest r).run s = .ok none t → exec .ownerAccess s = .next t)) ∧
      (∀ x ty d t off, r.op = .load x ty d → r.echo = none → x.key = scratchKey t off → x.entry = 0 → off + x.len ≤ 2 ^ 20 → off < 2 ^ 20 →
        fencedKey s x.key = false → cleanBytes s.mem x.key x.len = true → x.len ≤ 128 → Calm s →
        (performRequest r).run s = .ok (some (BitVec.ofNat 1024 (wordAt s.mem x.key x.len), 0)) s) ∧
      (∀ v p, r.stage = .answered v p →
        let done := closeRequest r s
        (r.way.hop ≠ .router (routerOfSeq r.seq) → exec .requestResponse s = .next s) ∧
        (∀ x slot d, r.way.hop = .router (routerOfSeq r.seq) → r.op = .claim x slot d →
          exec .requestResponse s = .next (answerClaim r slot d v p done)) ∧
        (r.way.hop = .router (routerOfSeq r.seq) → r.engine = none → (∀ rs id, r.op ≠ .pull rs id) → (∀ x slot d, r.op ≠ .claim x slot d) →
          ((r.void = true ∨ done.firingOf r.seq ≠ r.firing) → exec .requestResponse s = .next done) ∧
          (r.void = false → done.firingOf r.seq = r.firing →
            (r.op.mayConsume = true → p = 2 → exec .requestResponse s =
              .next (consumePoison r.seq (noteConsumed r.seq (r.op.wordAddress done) (r.op.noteUnit r.seq (releaseHold r done))))) ∧
            (∀ x ty d, r.op = .load x ty d → d.toNat < 32 → r.echo = none → exec .requestResponse s =
              .next (releaseHold r { respondX r.seq d.toNat (extend ty.toNat (v.setWidth 64 : Word).toNat) (p != 0)
                { done with focus := r.seq } with focus := s.focus })) ∧
            (∀ ps, r.op = .store ps → r.echo = none → exec .requestResponse s = .next (releaseHold r done))))))

/-- Tables, links and switches: a drain stops a partition's injection, and once nothing of it is in flight the swap exchanges its active and
shadow tables and injection resumes; a failing CRC replays a group and a failing tag drops its packet, both counted in ERRCNT5; a link retrained
with equal digests is up, with differing ones down, and failed at the third; a link that goes down loses the packets in its replay buffer, and
no others; an attested switch receives the job's key, a failure is counted, and revoking a switch sends the collectives of its tree that are not
complete back to endpoint mode: this module's own value stays, the others' and the result go, and its commands write again
(R252, R255, R256, R258, R260-R262, R264). What becomes of a packet on a link that goes down is the model's choice (log 38).
Completion, by equalities exec i s = next t under conditions on state and operands alone, for routingDrain, routingSwap,
linkCrcGroup, linkRetrain, linkDown, switchAttestation, switchRevocation. -/
def Obligations.TablesLinksAndSwitches : Prop :=
  ∀ s : State,
    (exec .routingDrain s = .next (s.modFabric (fun u => { u with drain := u.drain.setIfInBounds s.subject .stopped }))) ∧
    ((draining s s.subject = false ∨ inFlightPart s s.subject = true ∨ 16 ≤ s.subject) → exec .routingSwap s = .next s) ∧
    (s.subject < 16 → draining s s.subject = true → inFlightPart s s.subject = false → ∃ v, exec .routingSwap s = .next v ∧
      v.mem = s.mem ∧ v.launch = s.launch ∧ draining v s.subject = false ∧
      (∀ p, p < 16 →
        v.fabric.minimalActive.getLsbD p = (if p = s.subject then s.fabric.minimalShadow else s.fabric.minimalActive).getLsbD p ∧
        v.fabric.minimalShadow.getLsbD p = (if p = s.subject then s.fabric.minimalActive else s.fabric.minimalShadow).getLsbD p) ∧
      (s.fabric.active = [] → s.fabric.shadow = [] → v.fabric.active = [] ∧ v.fabric.shadow = []) ∧
      (∀ k e, k % 16 = s.subject → s.fabric.active = [] → s.fabric.shadow = [(k, e)] →
        v.fabric.active = [(k, e)] ∧ v.fabric.shadow = [])) ∧
    (∀ (port : Nat) (beats : List (BitVec 256)) (crc : BitVec 32),
      let c := carrierOf s.subject
      let run := exec (.linkCrcGroup port beats crc) s
      (packetAt s c = none → run = .next s) ∧
      (∀ p, packetAt s c = some p →
        ((∀ acked, p.way.hop ≠ .tether port acked) → run = .next s) ∧
        (∀ acked, p.way.hop = .tether port acked →
          (crc32 beats ≠ crc → run = .next (countError (modLink port (fun l => { l with replays := l.replays + 1 }) s) p.part 5 1)) ∧
          (crc32 beats = crc → beats ≠ ((packetBeats s p).drop acked).take 8 → run = .next (countError (moveTo c .lost s) p.part 5 1)) ∧
          (crc32 beats = crc → beats = ((packetBeats s p).drop acked).take 8 →
            run = .next (moveTo c (if acked + beats.length < (packetBeats s p).length then .tether port (acked + beats.length)
              else if p.way.inbound.isSome = true then .router (routerOfTether port) else .across) s))))) ∧
    (∀ (port : Nat) (found : LinkConfig) (remote : BitVec 64), port < 18 →
      let l := s.fabric.links.getD port Link.reset
      let link := fun (x : Link) => s.modFabric (fun u => { u with links := u.links.setIfInBounds port x })
      let trained := { l with width := found.width, lanes := found.lanes, speed := found.speed }
      let digest := digestOf found
      let run := exec (.linkRetrain port found remote) s
      (digest.extractLsb' 0 8 = found.width ∧ digest.extractLsb' 8 32 = found.lanes ∧ digest.extractLsb' 40 8 = found.speed ∧ digest.extractLsb' 48 16 = 0) ∧
      (l.state ≠ .retraining → run = .next s) ∧
      (l.state = .retraining → digest = remote → run = .next (link { trained with state := .up, differing := 0 })) ∧
      (l.state = .retraining → digest ≠ remote → run =
        .next (link { trained with state := if l.differing < 2 then .down else .failed, differing := l.differing + 1 })) ∧
      (s.subject = port →
        (l.state = .down → exec .linkDown s = .next (link { l with state := .retraining })) ∧
        ((l.state = .retraining ∨ l.state = .failed) → exec .linkDown s = .next s) ∧
        (l.state = .up → ∃ v, exec .linkDown s = .next v ∧ (v.fabric.links.getD port Link.reset).state = .retraining ∧
          v.mem = s.mem ∧ v.tiles = s.tiles ∧
          (let lost := fun (w : Way) => { w with hop := .lost }
           v.fabric.requests = s.fabric.requests.map (fun r => if onLink s port (.request r.id) then { r with way := lost r.way } else r) ∧
           v.launch.transit = s.launch.transit.map (fun x => if onLink s port (.gondola x.gondola.number) then { x with way := lost x.way } else x) ∧
           v.launch.pushes = s.launch.pushes.map (fun b => if onLink s port (.push b.id) then { b with way := lost b.way } else b) ∧
           v.launch.tokens = s.launch.tokens.map (fun x => if onLink s port (.token x.id) then { x with way := lost x.way } else x) ∧
           v.launch.collectives = s.launch.collectives.map (fun x => if onLink s port (.value x.id) then
             { x with sending := x.sending.map (fun y => { y with way := lost y.way }) } else x))))) ∧
    (∀ (slot : Nat) (number : BitVec 16) (digest : BitVec 64) (shown : Evidence),
      let old := s.fabric.trust.get ⟨0, 0, 0⟩ slot
      let put := fun (state : Byte) (n : Nat) => s.modFabric (fun u =>
        { u with trust := u.trust.set slot ⟨digest, number, state⟩, failedAttestations := u.failedAttestations + n })
      let run := exec (.switchAttestation slot number digest shown) s
      (512 ≤ slot → run = .next s) ∧
      (slot < 512 → attests s s.subject shown = true →
        ((s.part s.subject).key.isSome = true → run = .next (put 1 0)) ∧
        ((s.part s.subject).key = none → run = .next
          { ((put 1 0).modPart s.subject (fun u => { u with key := some (Config.jobKey s.free) })) with free := s.free + 1 })) ∧
      (slot < 512 → attests s s.subject shown = false →
        (old.state = 0 → run = .next (put 0 1)) ∧ (old.state ≠ 0 → run = .next s))) ∧
    (let old := s.fabric.trust.get ⟨0, 0, 0⟩ s.subject
     (old.state ≠ 1 → exec .switchRevocation s = .next s) ∧
     (old.state = 1 → ∃ v, exec .switchRevocation s = .next v ∧ v.mem = s.mem ∧
       (v.fabric.trust.get ⟨0, 0, 0⟩ s.subject).state = 2 ∧
       v.launch.collectives.length = s.launch.collectives.length ∧
       (∀ (k : Nat) (x : Collective), s.launch.collectives[k]? = some x →
         (∀ (j : Nat) (y : Collective), s.launch.collectives[j]? = some y → y.id = x.id → j = k) →
         let tree := (s.part (partOfGang s x.gang)).tree
         tree.any (fun b => b.slot == s.subject) = true → x.written s = false →
         v.launch.collectives[k]? = some (({ x with
           values := (x.values.filter (fun y => y.1 == s.host.devid.toNat)).map (fun y => (y.1, false, y.2.2))
           settled := none
           sending := x.sending.map (fun y => { y with inNetwork := false })
           started := x.started.map (fun e => (e.1, e.2.1, e.2.2.1, false)) } : Collective).settle tree) ∧
         ∀ e ∈ x.started, ∀ d, findCmd s e.2.1 1 e.2.2.1 = some d → d.state = .running →
           ∃ y, findCmd v e.2.1 1 e.2.2.1 = some y ∧ y.landed = false ∧ y.signalled = false) ∧
       (∀ (k : Nat) (x : Collective), s.launch.collectives[k]? = some x →
         (∀ y ∈ s.launch.collectives, y.id = x.id → (s.part (partOfGang s y.gang)).tree.any (fun b => b.slot == s.subject) = false) →
         v.launch.collectives[k]? = some x)))

/-! ## The host -/

/-- What a function and the host do to the registers: the first write of a FEATACC after a reset stands, and takes only offered
bits; writing 1 clears a PFAULT bit; a rectangle register takes a value only while every compute router stays in exactly one valid
rectangle and no tile inside holds a gang; layout 0 stays; timeout accepts 1 to 1000, PWRCAP 500 to 3200, WDOG anything but 0, from the function
that owns the register; a read-only register keeps its value; a measurement block answers with its hash; BAR2 reads and writes job memory,
waiting for a miss that is not answered yet, and an access that cannot be made gives all ones, counted in ERRCNT7 and marked in PFAULT; LQKICK
reads zero, and so do the monitor block and the partition control block of a virtual function; in recovery the identity block alone
answers, with FEATCAP 0 (R7, R30, R136, R252, R257, R269, R277, R289-R292, R294, R295, R297). The model's choice (log 31): TMO above
1000 is ignored as 0 is, a write by a function that does not own the register is ignored, LQBASE keeps the bits written,
and a block that does not answer reads zero.
Completion, by equalities exec i s = next t under conditions on state and operands alone, for feataccWrite, pfaultClear,
crectWrite, layoutEntryWrite, registerWrite, deviceIdentifierAssign, spdmRequest, bar2Access. -/
def Obligations.HostRegisters : Prop :=
  ∀ s : State,
    (∀ (p : Nat) (v : BitVec 64), p < 16 → s.host.devstate ≠ 3 →
      let offer : Word := if p = 0 then 0xFF else (s.part 0).featacc0
      ((s.part p).written0 = false → ∃ t, exec (.feataccWrite p false v) s = .next t ∧ (t.part p).featacc0 = v &&& offer ∧
        (t.part p).written0 = true ∧ (t.part p).featacc1 = (s.part p).featacc1 ∧ t.mem = s.mem ∧ t.launch = s.launch) ∧
      ((s.part p).written0 = true → ∃ t, exec (.feataccWrite p false v) s = .next t ∧ (t.part p).featacc0 = (s.part p).featacc0)) ∧
    (∀ (p : Nat) (v : BitVec 64), p < 16 → ∃ t, exec (.pfaultClear p v) s = .next t ∧
      (t.part p).pfault = (s.part p).pfault &&& ~~~(v.extractLsb' 0 3) ∧ (t.part p).errcnt = (s.part p).errcnt ∧ t.mem = s.mem) ∧
    (∀ (p : Nat) (up : Bool) (v : BitVec 64), 16 ≤ p →
      exec (.feataccWrite p up v) s = .next s ∧ exec (.pfaultClear p v) s = .next s) ∧
    (∀ (d n : Nat) (v : BitVec 64),
      let r := rectFields v
      let after := s.fabric.rects.set (d * 16 + n) r
      let may := d < 4 ∧ n < 16 ∧ rectOk r = true ∧ rectsCover after d = true ∧ rectBusy s d n = false
      (may → exec (.crectWrite d n v) s = .next (s.modFabric (fun u => { u with rects := after }))) ∧
      (¬ may → exec (.crectWrite d n v) s = .next s)) ∧
    (∀ (p c : Nat) (v : BitVec 32),
      let e := layoutFields v
      let ok := p < 16 ∧ c ≠ 0 ∧ c < 16 ∧ (∀ l, Layout.ofEntry e = some l → l.valid = true)
      (ok → exec (.layoutEntryWrite p c v) s = .next (s.modPart p (fun u => { u with layouts := u.layouts.setIfInBounds c e }))) ∧
      (¬ ok → exec (.layoutEntryWrite p c v) s = .next s)) ∧
    (∀ (n : Nat) (v : BitVec 64), n < 16 → s.host.devstate ≠ 3 →
      let unchanged := fun (r : HostReg) => exec (.registerWrite n r v) s = .next s
      (∀ o, unchanged (.readOnly o)) ∧
      ((v.extractLsb' 0 32) = 0 → unchanged .wdog) ∧
      ((v.extractLsb' 0 32) ≠ 0 → exec (.registerWrite n .wdog v) s = .next (s.modPart n (fun u => { u with wdog := v.extractLsb' 0 32 }))) ∧
      (let ticks := (v.extractLsb' 0 10).toNat
       (n = 0 → 1 ≤ ticks → ticks ≤ 1000 →
          exec (.registerWrite n .timeout v) s = .next (s.modFabric (fun u => { u with timeout := v.extractLsb' 0 10 }))) ∧
       ((n ≠ 0 ∨ ticks = 0 ∨ 1000 < ticks) → unchanged .timeout)) ∧
      (let watts := (v.extractLsb' 0 12).toNat
       (n = 0 → 500 ≤ watts → watts ≤ 3200 →
          exec (.registerWrite n .pwrCap v) s = .next (s.modHost (fun h =>
            { h with pwrcap := v.extractLsb' 0 12, overPower := decide (watts < h.estimate) }))) ∧
       ((n ≠ 0 ∨ watts < 500 ∨ 3200 < watts) → unchanged .pwrCap)) ∧
      (∀ q, q < 64 → (s.queue q).en = true → (s.queue q).owner.toNat = n →
        ∃ t, exec (.registerWrite n (.lqBase q) v) s = .next t ∧ (t.queue q).base = (s.queue q).base) ∧
      (∀ q, q < 64 → (s.queue q).en = false → (s.queue q).owner.toNat = n →
        ∃ t, exec (.registerWrite n (.lqBase q) v) s = .next t ∧ (t.queue q).base = v ∧ t.mem = s.mem) ∧
      (∀ q, q < 64 → (s.queue q).owner.toNat ≠ n → unchanged (.lqBase q) ∧ unchanged (.lqCfg q)) ∧
      (∀ q, q < 64 → (s.queue q).owner.toNat = n → (s.queue q).en = false → v.getLsbD 15 = true →
        (s.part n).featacc0 ≠ 0 → s.host.devstate = 2 → ∃ t, exec (.registerWrite n (.lqCfg q) v) s = .next t ∧
          (t.queue q).en = true ∧ (t.queue q).log2n = v.extractLsb' 0 4 ∧ (t.queue q).base = (s.queue q).base) ∧
      (n ≠ 0 → (∀ q, unchanged (.lqOwn q)) ∧ (∀ p i, unchanged (.allow p i)) ∧ (∀ p, unchanged (.ringBase p) ∧ unchanged (.ringSize p))) ∧
      (∀ r d p, n ≠ 0 → unchanged (.shadow r d p)) ∧
      (∀ r d p, n = 0 → r < 168 → d < 168 → p < 16 → exec (.registerWrite n (.shadow r d p) v) s = .next (s.modFabric (fun u =>
        { u with shadow := u.shadow.set (r * 4096 + d * 16 + p) (v.extractLsb' 0 16 &&& 0x981F) })))) ∧
    (∀ (n : Nat) (r : HostReg) (v : BitVec 64), 16 ≤ n → exec (.registerWrite n r v) s = .next s) ∧
    (s.host.devstate = 3 → ∀ (n : Nat) (v : BitVec 64),
      let unchanged := fun (r : HostReg) => exec (.registerWrite n r v) s = .next s
      (∀ q, unchanged (.lqBase q) ∧ unchanged (.lqCfg q) ∧ unchanged (.lqOwn q)) ∧
      (∀ p i, unchanged (.allow p i) ∧ unchanged (.ringBase p) ∧ unchanged (.ringSize p)) ∧ unchanged .pwrCap ∧
      (n < 16 → (v.extractLsb' 0 32) ≠ 0 →
        exec (.registerWrite n .wdog v) s = .next (s.modPart n (fun u => { u with wdog := v.extractLsb' 0 32 })))) ∧
    (∀ d : BitVec 8, exec (.deviceIdentifierAssign d) s = .next (s.modHost (fun h => { h with devid := d, assigned := true }))) ∧
    (∀ n k : Nat,
      ((k = 0 ∨ 5 < k ∨ 16 ≤ n) → exec (.spdmRequest n k) s = .next s) ∧
      (n < 16 → 1 ≤ k → k ≤ 5 →
        let d := if k = 5 then Config.sha3 (toBytes 8 (s.part n).featacc0.toNat ++ toBytes 8 (s.part n).featacc1.toNat)
          else s.host.measured.getD (k - 1) 0
        exec (.spdmRequest n k) s = .next (s.modHost (fun h =>
          { h with spdm := h.spdm.set n d, signature := h.signature.set n (Config.sign (toBytes 64 d.toNat)) })))) ∧
    (∀ (n q o : Nat), (q < 64 → bar0Word n (0x100018 + 0x40 * q) s = 0) ∧
      (n ≠ 0 → 0x180000 ≤ o → bar0Word n o s = 0) ∧
      bar0Word n 0 s = s.host.devstate.setWidth 64 ∧ bar0Word n 0x38 s = (s.part n).wdog.setWidth 64 ∧
      (s.host.devstate = 3 → bar0Word n 0x10 s = 0 ∧ bar0Word n 0x18 s = 0 ∧ (0x100000 ≤ o → bar0Word n o s = 0)) ∧
      (s.host.devstate ≠ 3 → 0x180000 ≤ o → o < 0x1C0000 → bar0Word 0 o s = monitorWord s.host ((o - 0x180000) / 8))) ∧
    (∀ (p : Nat) (write : Bool) (a : BitVec 64) (data : List (BitVec 8)),
      let outside := s.host.devstate = 3 ∨ 2 ^ 36 < a.toNat + data.length ∨ 16 ≤ p
      (outside → exec (.bar2Access p write a data) s = .next s) ∧
      (¬ outside →
        (∀ t, (bar2 p write a data).run s = .ok () t → exec (.bar2Access p write a data) s = .next t) ∧
        (data = [] → exec (.bar2Access p write a data) s = .next (if write then s else s.modHost (fun h => { h with lastRead := [] }))) ∧
        (∀ w t, (bar2 p write a data).run s = .error (.poison w) t → exec (.bar2Access p write a data) s = .next (partitionFault p (keepFindings s t))) ∧
        (∀ code tval miss t, (bar2 p write a data).run s = .error (.trap code tval miss) t →
          ∃ v, exec (.bar2Access p write a data) s = .next v ∧ v.mem = s.mem ∧ (v.part p).pfault = (s.part p).pfault ||| 4 ∧
            ((v.part p).errcnt.getD 7 0).toNat = min (((s.part p).errcnt.getD 7 0).toNat + 1) (2 ^ 64 - 1) ∧
            (v.part p).errcnt = (s.part p).errcnt.setIfInBounds 7 ((v.part p).errcnt.getD 7 0) ∧
            (write = false → v.host.lastRead = List.replicate data.length 0xFF)) ∧
        (∀ register t, (bar2 p write a data).run s = .error (.wait .miss register) t →
          exec (.bar2Access p write a data) s = .next (register s))))

/-- Resets and bring-up: the boot ROM's verdict leads to firmware start or to recovery, with the image's hash measured; firmware start gives
partition 0 its 2048 rings and the minimal routes, and fails over to recovery when memory does not train; a recovery image is
verified the same way. A function reset disables the partition's queues, HEAD at TAIL, ends its gangs, frees their tiles and resets its
registers; a module reset leaves every tile, register and launch as at reset, and external memory, once every gang is
completed, and the calibrated rates as they were; a killed rectangle with no gang inside is reset and its fence lifts (R278, R293, R294).
The model's choice: which registers a function reset clears (WDOG, ATBASE, ATCFG and LQBASE among them) and which it keeps, the
allowance of the physical function (log 31), and that external memory survives a module reset (log 33).
Completion, by equalities exec i s = next t under conditions on state and operands alone, for bootRomVerify,
firmwareStartComplete, recoveryImage, functionReset, moduleReset, rectangleReset. -/
def Obligations.ResetsAndBringUp : Prop :=
  ∀ s : State,
    (s.host.devstate ≠ 0 → exec .bootRomVerify s = .next s) ∧
    (s.host.devstate = 0 → ∃ v, exec .bootRomVerify s = .next v ∧ v.mem = s.mem ∧ v.tiles = s.tiles ∧
      v.host.devstate = (if Config.imageVerifies s.host.flash (Config.sha3 s.host.flash) then 1 else 3) ∧
      v.host.measured.getD 1 0 = Config.sha3 s.host.flash) ∧
    (∀ image : List (BitVec 8),
      (s.host.devstate ≠ 3 → exec (.recoveryImage image) s = .next s) ∧
      (s.host.devstate = 3 → ∃ v, exec (.recoveryImage image) s = .next v ∧ v.mem = s.mem ∧ v.host.recovery = image ∧
        v.host.devstate = (if Config.imageVerifies image (Config.sha3 image) then 1 else 3))) ∧
    (∀ trained : Bool,
      (s.host.devstate ≠ 1 → exec (.firmwareStartComplete trained) s = .next s) ∧
      (s.host.devstate = 1 → trained = false →
        exec (.firmwareStartComplete trained) s = .next (s.modHost (fun h => { h with devstate := 3 }))) ∧
      (s.host.devstate = 1 → trained = true → ∃ v, exec (.firmwareStartComplete trained) s = .next v ∧ v.host.devstate = 2 ∧
        (v.part 0).ringsize = 2048 ∧ v.fabric.minimalActive = BitVec.allOnes 16 ∧ (v.part 0).ringbase.toNat % 2 ^ 18 = 0 ∧
        v.mem = s.mem ∧ (∀ p, 1 ≤ p → p < 16 → v.part p = s.part p))) ∧
    (16 ≤ s.subject → exec .functionReset s = .next s) ∧
    (s.subject < 16 → ∃ v, exec .functionReset s = .next v ∧
      (v.part s.subject).featacc0 = 0 ∧ (v.part s.subject).pfault = 0 ∧ (v.part s.subject).wdog = 10000 ∧ (v.part s.subject).atbase = 0 ∧
      (v.part s.subject).atcfg = 0 ∧ (v.part s.subject).key = none ∧
      (v.part s.subject).allow = (s.part s.subject).allow ∧
      (∀ g u, v.gang? g = some u → u.part ≠ s.subject) ∧
      (∀ e, e ∈ s.launch.gangs → e.2.part = s.subject → ∀ t, t ∈ allTiles e.2 → (s.tile t).gang = e.1 → (v.tile t).gang = 0) ∧
      (∀ n, (s.queue n).owner.toNat = s.subject → (s.launch.queues.any (fun e => e.1 == n)) = true →
        (v.queue n).en = false ∧ (v.queue n).head = (s.queue n).tail ∧ (v.queue n).record = none ∧ (v.queue n).base = 0) ∧
      (gangsOf s s.subject = [] → v.mem = s.mem ∧ v.tiles = s.tiles ∧
        (∀ n, (s.queue n).owner.toNat ≠ s.subject → v.queue n = s.queue n))) ∧
    (∃ v, exec .moduleReset s = .next v ∧ v.tiles = [] ∧ v.clusters = [] ∧ v.mcores = [] ∧ v.pairs = [] ∧
      v.launch = State.reset.launch ∧ v.parts = State.reset.parts ∧ v.fabric = State.reset.fabric ∧ v.host.devstate = 0 ∧
      v.host.flash = s.host.flash ∧ v.host.proc = s.host.proc ∧
      (let ended := (List.range 16).foldl (fun u p => functionReset p u) s
       ∀ k, isExternal k = true → v.mem.byte k = ended.mem.byte k) ∧
      (s.launch.gangs = [] → ∀ k, isExternal k = true → v.mem.byte k = s.mem.byte k) ∧
      (∀ k, isExternal k = false → v.mem.byte k = 0)) ∧
    (∀ d n : Nat,
      let k := d * 16 + n
      let may := d < 4 ∧ n < 16 ∧ s.fabric.rectState.get 0 k ≠ 0 ∧ rectBusy s d n = false
      (¬ may → exec (.rectangleReset d n) s = .next s) ∧
      (may → ∃ v, exec (.rectangleReset d n) s = .next v ∧ v.fabric.rectState.get 0 k = 0 ∧ v.launch = s.launch ∧
        v.fabric.rects = s.fabric.rects ∧
        (∀ t, t ∈ tilesIn s d n → (v.tile t).a = Tile.reset.a ∧ (v.tile t).x = Tile.reset.x ∧
          (v.tile t).quarantined = (s.tile t).quarantined ∧ (v.cluster (clusterOf t)).ev = EvEngine.reset) ∧
        (∀ t, t ∉ tilesIn s d n → v.tile t = s.tile t)))

/-! ## Monitors and droop -/

/-- A temperature is stored and its peak kept; a router at 105 °C or above is under ballast until it reads below 100 °C, and at
115 °C the module stops and every gang ends with status 4, cause 0, one already ending too. An estimate above PWRCAP marks the module over
its power cap. A trip of an enabled source is counted, up to 2^32 - 1, once a cycle, its source the analog one if that is among them, and
begins a stretch in the next cycle unless one runs; a ballast that it cuts off holds issue to the end of the cycle of the trip; a stretch of six
cycles is followed by ballast of 64, and normal issue then resumes (R296-R300).
Completion, by equalities exec i s = next t under conditions on state and operands alone, for monitorRefresh, powerEstimate,
droopTrip, stretchEnd, ballastEnd. -/
def Obligations.MonitorsAndDroop : Prop :=
  ∀ s : State,
    (∀ (r : Nat) (v : BitVec 16),
      (168 ≤ r → exec (.monitorRefresh (.temp r) v) s = .next s) ∧
      (r < 168 → ∃ t, exec (.monitorRefresh (.temp r) v) s = .next t ∧ t.host.temp.get 0 r = v ∧ t.mem = s.mem ∧
        (t.host.peak.get 0 r).toInt = max (s.host.peak.get 0 r).toInt v.toInt ∧
        (1680 ≤ v.toInt → r ∈ t.host.hot) ∧
        (v.toInt < 1600 → r ∉ t.host.hot) ∧
        (1600 ≤ v.toInt → v.toInt < 1680 → (r ∈ t.host.hot ↔ r ∈ s.host.hot)) ∧
        (v.toInt < 1840 → t.host.stopped = s.host.stopped ∧ t.launch = s.launch) ∧
        (1840 ≤ v.toInt → t.host.stopped = true ∧ ∀ g u, s.gang? g = some u →
          ∃ w, t.gang? g = some w ∧ w.killing = some (4, 0) ∧ w.live = 0 ∧ w.final = true)) ∧
      (∀ c, (c < 512 → exec (.monitorRefresh (.volt c) v) s = .next (s.modHost (fun h => { h with volt := h.volt.set c v })) ∧
          exec (.monitorRefresh (.proc c) v) s = .next (s.modHost (fun h => { h with proc := h.proc.set c v }))) ∧
        (512 ≤ c → exec (.monitorRefresh (.volt c) v) s = .next s ∧ exec (.monitorRefresh (.proc c) v) s = .next s))) ∧
    (∃ t, exec .powerEstimate s = .next t ∧ t.host.overPower = decide (s.host.pwrcap.toNat < s.subject) ∧ t.host.estimate = s.subject ∧
      t.mem = s.mem ∧
      t.launch = s.launch ∧ t.host.pwrcap = s.host.pwrcap) ∧
    (∀ (c : Nat) (analog : Bool),
      let u := s.cluster c
      let enabled := c < 512 ∧ (if analog then (u.drpth.extractLsb' 0 8) ≠ 0 else u.stepTrip.isSome = true)
      let n := if analog then State.edgesAt u s.time else u.stepTrip.getD 0
      let before := if analog then settleTrip n u else u
      (¬ enabled → exec (.droopTrip c analog) s = .next s) ∧
      (enabled → before.lastTrip ≠ some n → ∃ t, exec (.droopTrip c analog) s = .next t ∧
        (t.cluster c).trips.toNat = min (2 ^ 32 - 1) (before.trips.toNat + 1) ∧ (t.cluster c).tripSource = !analog ∧
        (t.cluster c).lastTrip = some n ∧
        ((∀ b, before.droop = .stretch b → n < b ∨ b + 6 ≤ n) → (t.cluster c).droop = .stretch (n + 1)) ∧
        (∀ b, before.droop = .ballast b → (t.cluster c).cut = some b ∧
          (b ≤ n → n < b + 64 → ballastAt (t.cluster c) n = true ∧ ((n - b) % 2 = 1 → t.mayIssue c n = false))) ∧
        (∀ b, before.droop = .stretch b → b ≤ n → n < b + 6 → (t.cluster c).droop = .stretch b)) ∧
      (enabled → before.lastTrip = some n → ∃ t, exec (.droopTrip c analog) s = .next t ∧ (t.cluster c).trips = before.trips ∧
        (t.cluster c).tripSource = (before.tripSource && !analog) ∧ (t.cluster c).droop = before.droop) ∧
      (u.stepTrip = none → before = u)) ∧
    (let u := s.cluster s.subject
     let n := State.edgesAt u s.time
     u.stepTrip = none →
     (∀ b, u.droop = .stretch b →
       (b + 6 ≤ n → ∃ t, exec .stretchEnd s = .next t ∧ (t.cluster s.subject).droop = .ballast (b + 6) ∧ t.mem = s.mem) ∧
       (n < b + 6 → ∃ t, exec .stretchEnd s = .next t ∧ t.cluster s.subject = u)) ∧
     (∀ b, u.droop = .ballast b →
       (b + 64 ≤ n → ∃ t, exec .ballastEnd s = .next t ∧ (t.cluster s.subject).droop = .none ∧ t.mem = s.mem) ∧
       (n < b + 64 → ∃ t, exec .ballastEnd s = .next t ∧ t.cluster s.subject = u)) ∧
     (u.droop = .none → (∃ t, exec .stretchEnd s = .next t ∧ t.cluster s.subject = u) ∧
       (∃ t, exec .ballastEnd s = .next t ∧ t.cluster s.subject = u)))
end

