-- ==== Sys2Proof/Laws/Codec.lean ====
section
/-! SUPPORT. The encoder and the decoder agree: each format's fields are read back from the bits they were written to, and a
format's instruction is read back where its map assigns the opcode. -/

namespace Sys2Proof

/-! ## Fields of joined bits -/

theorem field_skip {m n : Nat} (x : BitVec m) (y : BitVec n) (lo w : Nat) (h : n ≤ lo) (hn : m + n ≤ 128) :
    field ((x ++ y).setWidth 128) lo w = field (x.setWidth 128) (lo - n) w := by
  unfold field
  ext i hi
  simp only [BitVec.getElem_extractLsb', BitVec.getLsbD_setWidth, BitVec.getLsbD_append]
  have hge : ¬ (lo + i < n) := by omega
  have hsub : lo + i - n = lo - n + i := by omega
  by_cases hlt : lo + i < 128
  · have hlt' : lo - n + i < 128 := by omega
    simp [hge, hsub, hlt, hlt']
  · have hm : m ≤ lo - n + i := by omega
    simp [hlt, BitVec.getLsbD_of_ge x _ hm]

theorem field_last {m n : Nat} (x : BitVec m) (y : BitVec n) (lo : Nat) (h : lo = 0) (hn : n ≤ 128) :
    field ((x ++ y).setWidth 128) lo n = y := by
  subst h
  unfold field
  ext i hi
  have hlt : i < 128 := by omega
  simp [BitVec.getLsbD_append, hi, hlt]

theorem field_whole {n : Nat} (y : BitVec n) (lo : Nat) (h : lo = 0) (hn : n ≤ 128) :
    field (y.setWidth 128) lo n = y := by
  subst h
  unfold field
  ext i hi
  have hlt : i < 128 := by omega
  simp [hi, hlt]

/-! ## Each format read back -/

theorem F64A.ofBits_toBits (f : F64A) (opc : BitVec 8) : F64A.ofBits ((f.toBits opc).setWidth 128) = f := by
  simp (disch := omega) only [F64A.ofBits, F64A.toBits, field_skip, field_last, field_whole]

theorem F64M.ofBits_toBits (f : F64M) (opc : BitVec 8) : F64M.ofBits ((f.toBits opc).setWidth 128) = f := by
  simp (disch := omega) only [F64M.ofBits, F64M.toBits, field_skip, field_last, field_whole]

theorem F64B.ofBits_toBits (f : F64B) (opc : BitVec 8) : F64B.ofBits ((f.toBits opc).setWidth 128) = f := by
  simp (disch := omega) only [F64B.ofBits, F64B.toBits, field_skip, field_last, field_whole]

theorem F64I.ofBits_toBits (f : F64I) (opc : BitVec 8) : F64I.ofBits ((f.toBits opc).setWidth 128) = f := by
  simp (disch := omega) only [F64I.ofBits, F64I.toBits, field_skip, field_last, field_whole]

theorem F96Q.ofBits_toBits (f : F96Q) (opc : BitVec 8) : F96Q.ofBits ((f.toBits opc).setWidth 128) = f := by
  simp (disch := omega) only [F96Q.ofBits, F64A.ofBits, F96Q.toBits, field_skip, field_last, field_whole]

theorem F96E.ofBits_toBits (f : F96E) (opc : BitVec 8) : F96E.ofBits ((f.toBits opc).setWidth 128) = f := by
  simp (disch := omega) only [F96E.ofBits, F96E.toBits, field_skip, field_last, field_whole]

theorem F96I.ofBits_toBits (f : F96I) (opc : BitVec 8) : F96I.ofBits ((f.toBits opc).setWidth 128) = f := by
  simp (disch := omega) only [F96I.ofBits, F96I.toBits, field_skip, field_last, field_whole]

theorem F128C.ofBits_toBits (f : F128C) (opc : BitVec 8) : F128C.ofBits (f.toBits opc) = f := by
  rw [← BitVec.setWidth_eq (f.toBits opc)]
  simp (disch := omega) only [F128C.ofBits, F128C.toBits, field_skip, field_last, field_whole]

/-! ## The instruction of each format -/

/-- Bits of the 64-bit class decode as its map says. -/
theorem decodeBits_of64 {w : BitVec 128} {i : Instr} {opc : BitVec 8} (hl : field w 0 2 = 1#2) (ho : field w 2 8 = opc)
    (h : opcode64 opc.toNat w = some i) : decodeBits w = i := by
  simp [decodeBits, hl, ho, h]

theorem decodeBits_of96 {w : BitVec 128} {i : Instr} {opc : BitVec 8} (hl : field w 0 2 = 2#2) (ho : field w 2 8 = opc)
    (h : opcode96 opc.toNat w = some i) : decodeBits w = i := by
  simp [decodeBits, hl, ho, h]

theorem decodeBits_of128 {w : BitVec 128} {i : Instr} {opc : BitVec 8} (hl : field w 0 2 = 3#2) (ho : field w 2 8 = opc)
    (h : opcode128 opc.toNat w = some i) : decodeBits w = i := by
  simp [decodeBits, hl, ho, h]

theorem F64A.decodeBits_toBits (f : F64A) (opc : BitVec 8) (mk : F64A → Instr)
    (h : ∀ w, opcode64 opc.toNat w = some (mk (.ofBits w))) : decodeBits ((f.toBits opc).setWidth 128) = mk f := by
  have hf := F64A.ofBits_toBits f opc
  rw [decodeBits_of64 (opc := opc) (i := mk f)]
  · simp (disch := omega) only [F64A.toBits, field_last]
  · simp (disch := omega) only [F64A.toBits, field_skip, field_last]
  · rw [h, hf]

theorem F64M.decodeBits_toBits (f : F64M) (opc : BitVec 8) (mk : F64M → Instr)
    (h : ∀ w, opcode64 opc.toNat w = some (mk (.ofBits w))) : decodeBits ((f.toBits opc).setWidth 128) = mk f := by
  have hf := F64M.ofBits_toBits f opc
  rw [decodeBits_of64 (opc := opc) (i := mk f)]
  · simp (disch := omega) only [F64M.toBits, field_last]
  · simp (disch := omega) only [F64M.toBits, field_skip, field_last]
  · rw [h, hf]

theorem F64B.decodeBits_toBits (f : F64B) (opc : BitVec 8) (mk : F64B → Instr)
    (h : ∀ w, opcode64 opc.toNat w = some (mk (.ofBits w))) : decodeBits ((f.toBits opc).setWidth 128) = mk f := by
  have hf := F64B.ofBits_toBits f opc
  rw [decodeBits_of64 (opc := opc) (i := mk f)]
  · simp (disch := omega) only [F64B.toBits, field_last]
  · simp (disch := omega) only [F64B.toBits, field_skip, field_last]
  · rw [h, hf]

theorem F64I.decodeBits_toBits (f : F64I) (opc : BitVec 8) (mk : F64I → Instr)
    (h : ∀ w, opcode64 opc.toNat w = some (mk (.ofBits w))) : decodeBits ((f.toBits opc).setWidth 128) = mk f := by
  have hf := F64I.ofBits_toBits f opc
  rw [decodeBits_of64 (opc := opc) (i := mk f)]
  · simp (disch := omega) only [F64I.toBits, field_last]
  · simp (disch := omega) only [F64I.toBits, field_skip, field_last]
  · rw [h, hf]

theorem F96Q.decodeBits_toBits (f : F96Q) (opc : BitVec 8) (mk : F96Q → Instr)
    (h : ∀ w, opcode96 opc.toNat w = some (mk (.ofBits w))) : decodeBits ((f.toBits opc).setWidth 128) = mk f := by
  have hf := F96Q.ofBits_toBits f opc
  rw [decodeBits_of96 (opc := opc) (i := mk f)]
  · simp (disch := omega) only [F96Q.toBits, field_last]
  · simp (disch := omega) only [F96Q.toBits, field_skip, field_last]
  · rw [h, hf]

theorem F96E.decodeBits_toBits (f : F96E) (opc : BitVec 8) (mk : F96E → Instr)
    (h : ∀ w, opcode96 opc.toNat w = some (mk (.ofBits w))) : decodeBits ((f.toBits opc).setWidth 128) = mk f := by
  have hf := F96E.ofBits_toBits f opc
  rw [decodeBits_of96 (opc := opc) (i := mk f)]
  · simp (disch := omega) only [F96E.toBits, field_last]
  · simp (disch := omega) only [F96E.toBits, field_skip, field_last]
  · rw [h, hf]

theorem F96I.decodeBits_toBits (f : F96I) (opc : BitVec 8) (mk : F96I → Instr)
    (h : ∀ w, opcode96 opc.toNat w = some (mk (.ofBits w))) : decodeBits ((f.toBits opc).setWidth 128) = mk f := by
  have hf := F96I.ofBits_toBits f opc
  rw [decodeBits_of96 (opc := opc) (i := mk f)]
  · simp (disch := omega) only [F96I.toBits, field_last]
  · simp (disch := omega) only [F96I.toBits, field_skip, field_last]
  · rw [h, hf]

theorem F128C.decodeBits_toBits (f : F128C) (opc : BitVec 8) (mk : F128C → Instr)
    (h : ∀ w, opcode128 opc.toNat w = some (mk (.ofBits w))) : decodeBits (f.toBits opc) = mk f := by
  have hf := F128C.ofBits_toBits f opc
  rw [decodeBits_of128 (opc := opc) (i := mk f)]
  · rw [← BitVec.setWidth_eq (f.toBits opc)]
    simp (disch := omega) only [F128C.toBits, field_last]
  · rw [← BitVec.setWidth_eq (f.toBits opc)]
    simp (disch := omega) only [F128C.toBits, field_skip, field_last]
  · rw [h, hf]

end Sys2Proof
end

