-- ==== Sys2Proof/Laws/State.lean ====
section
/-! SUPPORT. Reading a state after an update: every field that an update leaves, the unit it changes, and every other unit. -/

namespace Sys2Proof

/-! ## Tables -/

@[simp] theorem Assoc.get_set_same {α : Type} (d : α) (m : Assoc α) (k : Nat) (v : α) : Assoc.get d (Assoc.set m k v) k = v := by
  induction m with
  | nil => simp [Assoc.set, Assoc.get]
  | cons e m ih =>
    obtain ⟨k', v'⟩ := e
    simp only [Assoc.set]
    split
    · simp [Assoc.get]
    · split
      · simp [Assoc.get]
      · simp_all [Assoc.get]

theorem Assoc.get_set_other {α : Type} (d : α) (m : Assoc α) {k j : Nat} (v : α) (h : j ≠ k) :
    Assoc.get d (Assoc.set m k v) j = Assoc.get d m j := by
  induction m with
  | nil => simp [Assoc.set, Assoc.get, h]
  | cons e m ih =>
    obtain ⟨k', v'⟩ := e
    simp only [Assoc.set]
    split
    · simp [Assoc.get, h]
    · split
      · next h' => subst h'; simp [Assoc.get, h]
      · simp [Assoc.get, ih]

end Sys2Proof

namespace Sys2Proof.Machine.State

/-! ## Fields that an update leaves -/

@[simp] theorem agenda_modTile (s : State) (t : Nat) (f : Tile → Tile) : (s.modTile t f).agenda = s.agenda := rfl
@[simp] theorem focus_modTile (s : State) (t : Nat) (f : Tile → Tile) : (s.modTile t f).focus = s.focus := rfl
@[simp] theorem subject_modTile (s : State) (t : Nat) (f : Tile → Tile) : (s.modTile t f).subject = s.subject := rfl
@[simp] theorem cursor_modTile (s : State) (t : Nat) (f : Tile → Tile) : (s.modTile t f).cursor = s.cursor := rfl
@[simp] theorem time_modTile (s : State) (t : Nat) (f : Tile → Tile) : (s.modTile t f).time = s.time := rfl
@[simp] theorem free_modTile (s : State) (t : Nat) (f : Tile → Tile) : (s.modTile t f).free = s.free := rfl
@[simp] theorem next_modTile (s : State) (t : Nat) (f : Tile → Tile) : (s.modTile t f).next = s.next := rfl
@[simp] theorem slack_modTile (s : State) (t : Nat) (f : Tile → Tile) : (s.modTile t f).slack = s.slack := rfl
@[simp] theorem mem_modTile (s : State) (t : Nat) (f : Tile → Tile) : (s.modTile t f).mem = s.mem := rfl
@[simp] theorem clusters_modTile (s : State) (t : Nat) (f : Tile → Tile) : (s.modTile t f).clusters = s.clusters := rfl
@[simp] theorem mcores_modTile (s : State) (t : Nat) (f : Tile → Tile) : (s.modTile t f).mcores = s.mcores := rfl
@[simp] theorem pairs_modTile (s : State) (t : Nat) (f : Tile → Tile) : (s.modTile t f).pairs = s.pairs := rfl
@[simp] theorem launch_modTile (s : State) (t : Nat) (f : Tile → Tile) : (s.modTile t f).launch = s.launch := rfl
@[simp] theorem parts_modTile (s : State) (t : Nat) (f : Tile → Tile) : (s.modTile t f).parts = s.parts := rfl
@[simp] theorem fabric_modTile (s : State) (t : Nat) (f : Tile → Tile) : (s.modTile t f).fabric = s.fabric := rfl
@[simp] theorem host_modTile (s : State) (t : Nat) (f : Tile → Tile) : (s.modTile t f).host = s.host := rfl

@[simp] theorem agenda_modCluster (s : State) (c : Nat) (f : Cluster → Cluster) : (s.modCluster c f).agenda = s.agenda := rfl
@[simp] theorem focus_modCluster (s : State) (c : Nat) (f : Cluster → Cluster) : (s.modCluster c f).focus = s.focus := rfl
@[simp] theorem subject_modCluster (s : State) (c : Nat) (f : Cluster → Cluster) : (s.modCluster c f).subject = s.subject := rfl
@[simp] theorem cursor_modCluster (s : State) (c : Nat) (f : Cluster → Cluster) : (s.modCluster c f).cursor = s.cursor := rfl
@[simp] theorem time_modCluster (s : State) (c : Nat) (f : Cluster → Cluster) : (s.modCluster c f).time = s.time := rfl
@[simp] theorem free_modCluster (s : State) (c : Nat) (f : Cluster → Cluster) : (s.modCluster c f).free = s.free := rfl
@[simp] theorem next_modCluster (s : State) (c : Nat) (f : Cluster → Cluster) : (s.modCluster c f).next = s.next := rfl
@[simp] theorem slack_modCluster (s : State) (c : Nat) (f : Cluster → Cluster) : (s.modCluster c f).slack = s.slack := rfl
@[simp] theorem mem_modCluster (s : State) (c : Nat) (f : Cluster → Cluster) : (s.modCluster c f).mem = s.mem := rfl
@[simp] theorem tiles_modCluster (s : State) (c : Nat) (f : Cluster → Cluster) : (s.modCluster c f).tiles = s.tiles := rfl
@[simp] theorem mcores_modCluster (s : State) (c : Nat) (f : Cluster → Cluster) : (s.modCluster c f).mcores = s.mcores := rfl
@[simp] theorem pairs_modCluster (s : State) (c : Nat) (f : Cluster → Cluster) : (s.modCluster c f).pairs = s.pairs := rfl
@[simp] theorem launch_modCluster (s : State) (c : Nat) (f : Cluster → Cluster) : (s.modCluster c f).launch = s.launch := rfl
@[simp] theorem parts_modCluster (s : State) (c : Nat) (f : Cluster → Cluster) : (s.modCluster c f).parts = s.parts := rfl
@[simp] theorem fabric_modCluster (s : State) (c : Nat) (f : Cluster → Cluster) : (s.modCluster c f).fabric = s.fabric := rfl
@[simp] theorem host_modCluster (s : State) (c : Nat) (f : Cluster → Cluster) : (s.modCluster c f).host = s.host := rfl

@[simp] theorem agenda_modMCore (s : State) (c : Nat) (f : MCore → MCore) : (s.modMCore c f).agenda = s.agenda := rfl
@[simp] theorem focus_modMCore (s : State) (c : Nat) (f : MCore → MCore) : (s.modMCore c f).focus = s.focus := rfl
@[simp] theorem subject_modMCore (s : State) (c : Nat) (f : MCore → MCore) : (s.modMCore c f).subject = s.subject := rfl
@[simp] theorem cursor_modMCore (s : State) (c : Nat) (f : MCore → MCore) : (s.modMCore c f).cursor = s.cursor := rfl
@[simp] theorem time_modMCore (s : State) (c : Nat) (f : MCore → MCore) : (s.modMCore c f).time = s.time := rfl
@[simp] theorem free_modMCore (s : State) (c : Nat) (f : MCore → MCore) : (s.modMCore c f).free = s.free := rfl
@[simp] theorem next_modMCore (s : State) (c : Nat) (f : MCore → MCore) : (s.modMCore c f).next = s.next := rfl
@[simp] theorem slack_modMCore (s : State) (c : Nat) (f : MCore → MCore) : (s.modMCore c f).slack = s.slack := rfl
@[simp] theorem mem_modMCore (s : State) (c : Nat) (f : MCore → MCore) : (s.modMCore c f).mem = s.mem := rfl
@[simp] theorem tiles_modMCore (s : State) (c : Nat) (f : MCore → MCore) : (s.modMCore c f).tiles = s.tiles := rfl
@[simp] theorem clusters_modMCore (s : State) (c : Nat) (f : MCore → MCore) : (s.modMCore c f).clusters = s.clusters := rfl
@[simp] theorem pairs_modMCore (s : State) (c : Nat) (f : MCore → MCore) : (s.modMCore c f).pairs = s.pairs := rfl
@[simp] theorem launch_modMCore (s : State) (c : Nat) (f : MCore → MCore) : (s.modMCore c f).launch = s.launch := rfl
@[simp] theorem parts_modMCore (s : State) (c : Nat) (f : MCore → MCore) : (s.modMCore c f).parts = s.parts := rfl
@[simp] theorem fabric_modMCore (s : State) (c : Nat) (f : MCore → MCore) : (s.modMCore c f).fabric = s.fabric := rfl
@[simp] theorem host_modMCore (s : State) (c : Nat) (f : MCore → MCore) : (s.modMCore c f).host = s.host := rfl

@[simp] theorem agenda_modPair (s : State) (t : Nat) (f : Pair → Pair) : (s.modPair t f).agenda = s.agenda := rfl
@[simp] theorem focus_modPair (s : State) (t : Nat) (f : Pair → Pair) : (s.modPair t f).focus = s.focus := rfl
@[simp] theorem subject_modPair (s : State) (t : Nat) (f : Pair → Pair) : (s.modPair t f).subject = s.subject := rfl
@[simp] theorem cursor_modPair (s : State) (t : Nat) (f : Pair → Pair) : (s.modPair t f).cursor = s.cursor := rfl
@[simp] theorem time_modPair (s : State) (t : Nat) (f : Pair → Pair) : (s.modPair t f).time = s.time := rfl
@[simp] theorem free_modPair (s : State) (t : Nat) (f : Pair → Pair) : (s.modPair t f).free = s.free := rfl
@[simp] theorem next_modPair (s : State) (t : Nat) (f : Pair → Pair) : (s.modPair t f).next = s.next := rfl
@[simp] theorem slack_modPair (s : State) (t : Nat) (f : Pair → Pair) : (s.modPair t f).slack = s.slack := rfl
@[simp] theorem mem_modPair (s : State) (t : Nat) (f : Pair → Pair) : (s.modPair t f).mem = s.mem := rfl
@[simp] theorem tiles_modPair (s : State) (t : Nat) (f : Pair → Pair) : (s.modPair t f).tiles = s.tiles := rfl
@[simp] theorem clusters_modPair (s : State) (t : Nat) (f : Pair → Pair) : (s.modPair t f).clusters = s.clusters := rfl
@[simp] theorem mcores_modPair (s : State) (t : Nat) (f : Pair → Pair) : (s.modPair t f).mcores = s.mcores := rfl
@[simp] theorem launch_modPair (s : State) (t : Nat) (f : Pair → Pair) : (s.modPair t f).launch = s.launch := rfl
@[simp] theorem parts_modPair (s : State) (t : Nat) (f : Pair → Pair) : (s.modPair t f).parts = s.parts := rfl
@[simp] theorem fabric_modPair (s : State) (t : Nat) (f : Pair → Pair) : (s.modPair t f).fabric = s.fabric := rfl
@[simp] theorem host_modPair (s : State) (t : Nat) (f : Pair → Pair) : (s.modPair t f).host = s.host := rfl

@[simp] theorem agenda_modPart (s : State) (p : Nat) (f : Part → Part) : (s.modPart p f).agenda = s.agenda := rfl
@[simp] theorem focus_modPart (s : State) (p : Nat) (f : Part → Part) : (s.modPart p f).focus = s.focus := rfl
@[simp] theorem subject_modPart (s : State) (p : Nat) (f : Part → Part) : (s.modPart p f).subject = s.subject := rfl
@[simp] theorem cursor_modPart (s : State) (p : Nat) (f : Part → Part) : (s.modPart p f).cursor = s.cursor := rfl
@[simp] theorem time_modPart (s : State) (p : Nat) (f : Part → Part) : (s.modPart p f).time = s.time := rfl
@[simp] theorem free_modPart (s : State) (p : Nat) (f : Part → Part) : (s.modPart p f).free = s.free := rfl
@[simp] theorem next_modPart (s : State) (p : Nat) (f : Part → Part) : (s.modPart p f).next = s.next := rfl
@[simp] theorem slack_modPart (s : State) (p : Nat) (f : Part → Part) : (s.modPart p f).slack = s.slack := rfl
@[simp] theorem mem_modPart (s : State) (p : Nat) (f : Part → Part) : (s.modPart p f).mem = s.mem := rfl
@[simp] theorem tiles_modPart (s : State) (p : Nat) (f : Part → Part) : (s.modPart p f).tiles = s.tiles := rfl
@[simp] theorem clusters_modPart (s : State) (p : Nat) (f : Part → Part) : (s.modPart p f).clusters = s.clusters := rfl
@[simp] theorem mcores_modPart (s : State) (p : Nat) (f : Part → Part) : (s.modPart p f).mcores = s.mcores := rfl
@[simp] theorem pairs_modPart (s : State) (p : Nat) (f : Part → Part) : (s.modPart p f).pairs = s.pairs := rfl
@[simp] theorem launch_modPart (s : State) (p : Nat) (f : Part → Part) : (s.modPart p f).launch = s.launch := rfl
@[simp] theorem fabric_modPart (s : State) (p : Nat) (f : Part → Part) : (s.modPart p f).fabric = s.fabric := rfl
@[simp] theorem host_modPart (s : State) (p : Nat) (f : Part → Part) : (s.modPart p f).host = s.host := rfl

@[simp] theorem agenda_modLaunch (s : State) (f : Launch → Launch) : (s.modLaunch f).agenda = s.agenda := rfl
@[simp] theorem focus_modLaunch (s : State) (f : Launch → Launch) : (s.modLaunch f).focus = s.focus := rfl
@[simp] theorem subject_modLaunch (s : State) (f : Launch → Launch) : (s.modLaunch f).subject = s.subject := rfl
@[simp] theorem cursor_modLaunch (s : State) (f : Launch → Launch) : (s.modLaunch f).cursor = s.cursor := rfl
@[simp] theorem time_modLaunch (s : State) (f : Launch → Launch) : (s.modLaunch f).time = s.time := rfl
@[simp] theorem free_modLaunch (s : State) (f : Launch → Launch) : (s.modLaunch f).free = s.free := rfl
@[simp] theorem next_modLaunch (s : State) (f : Launch → Launch) : (s.modLaunch f).next = s.next := rfl
@[simp] theorem slack_modLaunch (s : State) (f : Launch → Launch) : (s.modLaunch f).slack = s.slack := rfl
@[simp] theorem mem_modLaunch (s : State) (f : Launch → Launch) : (s.modLaunch f).mem = s.mem := rfl
@[simp] theorem tiles_modLaunch (s : State) (f : Launch → Launch) : (s.modLaunch f).tiles = s.tiles := rfl
@[simp] theorem clusters_modLaunch (s : State) (f : Launch → Launch) : (s.modLaunch f).clusters = s.clusters := rfl
@[simp] theorem mcores_modLaunch (s : State) (f : Launch → Launch) : (s.modLaunch f).mcores = s.mcores := rfl
@[simp] theorem pairs_modLaunch (s : State) (f : Launch → Launch) : (s.modLaunch f).pairs = s.pairs := rfl
@[simp] theorem parts_modLaunch (s : State) (f : Launch → Launch) : (s.modLaunch f).parts = s.parts := rfl
@[simp] theorem fabric_modLaunch (s : State) (f : Launch → Launch) : (s.modLaunch f).fabric = s.fabric := rfl
@[simp] theorem host_modLaunch (s : State) (f : Launch → Launch) : (s.modLaunch f).host = s.host := rfl

@[simp] theorem agenda_modGang (s : State) (g : Nat) (f : Gang → Gang) : (s.modGang g f).agenda = s.agenda := rfl
@[simp] theorem focus_modGang (s : State) (g : Nat) (f : Gang → Gang) : (s.modGang g f).focus = s.focus := rfl
@[simp] theorem subject_modGang (s : State) (g : Nat) (f : Gang → Gang) : (s.modGang g f).subject = s.subject := rfl
@[simp] theorem cursor_modGang (s : State) (g : Nat) (f : Gang → Gang) : (s.modGang g f).cursor = s.cursor := rfl
@[simp] theorem time_modGang (s : State) (g : Nat) (f : Gang → Gang) : (s.modGang g f).time = s.time := rfl
@[simp] theorem free_modGang (s : State) (g : Nat) (f : Gang → Gang) : (s.modGang g f).free = s.free := rfl
@[simp] theorem next_modGang (s : State) (g : Nat) (f : Gang → Gang) : (s.modGang g f).next = s.next := rfl
@[simp] theorem slack_modGang (s : State) (g : Nat) (f : Gang → Gang) : (s.modGang g f).slack = s.slack := rfl
@[simp] theorem mem_modGang (s : State) (g : Nat) (f : Gang → Gang) : (s.modGang g f).mem = s.mem := rfl
@[simp] theorem tiles_modGang (s : State) (g : Nat) (f : Gang → Gang) : (s.modGang g f).tiles = s.tiles := rfl
@[simp] theorem clusters_modGang (s : State) (g : Nat) (f : Gang → Gang) : (s.modGang g f).clusters = s.clusters := rfl
@[simp] theorem mcores_modGang (s : State) (g : Nat) (f : Gang → Gang) : (s.modGang g f).mcores = s.mcores := rfl
@[simp] theorem pairs_modGang (s : State) (g : Nat) (f : Gang → Gang) : (s.modGang g f).pairs = s.pairs := rfl
@[simp] theorem parts_modGang (s : State) (g : Nat) (f : Gang → Gang) : (s.modGang g f).parts = s.parts := rfl
@[simp] theorem fabric_modGang (s : State) (g : Nat) (f : Gang → Gang) : (s.modGang g f).fabric = s.fabric := rfl
@[simp] theorem host_modGang (s : State) (g : Nat) (f : Gang → Gang) : (s.modGang g f).host = s.host := rfl

@[simp] theorem agenda_modFabric (s : State) (f : Fabric → Fabric) : (s.modFabric f).agenda = s.agenda := rfl
@[simp] theorem focus_modFabric (s : State) (f : Fabric → Fabric) : (s.modFabric f).focus = s.focus := rfl
@[simp] theorem subject_modFabric (s : State) (f : Fabric → Fabric) : (s.modFabric f).subject = s.subject := rfl
@[simp] theorem cursor_modFabric (s : State) (f : Fabric → Fabric) : (s.modFabric f).cursor = s.cursor := rfl
@[simp] theorem time_modFabric (s : State) (f : Fabric → Fabric) : (s.modFabric f).time = s.time := rfl
@[simp] theorem free_modFabric (s : State) (f : Fabric → Fabric) : (s.modFabric f).free = s.free := rfl
@[simp] theorem next_modFabric (s : State) (f : Fabric → Fabric) : (s.modFabric f).next = s.next := rfl
@[simp] theorem slack_modFabric (s : State) (f : Fabric → Fabric) : (s.modFabric f).slack = s.slack := rfl
@[simp] theorem mem_modFabric (s : State) (f : Fabric → Fabric) : (s.modFabric f).mem = s.mem := rfl
@[simp] theorem tiles_modFabric (s : State) (f : Fabric → Fabric) : (s.modFabric f).tiles = s.tiles := rfl
@[simp] theorem clusters_modFabric (s : State) (f : Fabric → Fabric) : (s.modFabric f).clusters = s.clusters := rfl
@[simp] theorem mcores_modFabric (s : State) (f : Fabric → Fabric) : (s.modFabric f).mcores = s.mcores := rfl
@[simp] theorem pairs_modFabric (s : State) (f : Fabric → Fabric) : (s.modFabric f).pairs = s.pairs := rfl
@[simp] theorem launch_modFabric (s : State) (f : Fabric → Fabric) : (s.modFabric f).launch = s.launch := rfl
@[simp] theorem parts_modFabric (s : State) (f : Fabric → Fabric) : (s.modFabric f).parts = s.parts := rfl
@[simp] theorem host_modFabric (s : State) (f : Fabric → Fabric) : (s.modFabric f).host = s.host := rfl

@[simp] theorem agenda_modHost (s : State) (f : HostPort → HostPort) : (s.modHost f).agenda = s.agenda := rfl
@[simp] theorem focus_modHost (s : State) (f : HostPort → HostPort) : (s.modHost f).focus = s.focus := rfl
@[simp] theorem subject_modHost (s : State) (f : HostPort → HostPort) : (s.modHost f).subject = s.subject := rfl
@[simp] theorem cursor_modHost (s : State) (f : HostPort → HostPort) : (s.modHost f).cursor = s.cursor := rfl
@[simp] theorem time_modHost (s : State) (f : HostPort → HostPort) : (s.modHost f).time = s.time := rfl
@[simp] theorem free_modHost (s : State) (f : HostPort → HostPort) : (s.modHost f).free = s.free := rfl
@[simp] theorem next_modHost (s : State) (f : HostPort → HostPort) : (s.modHost f).next = s.next := rfl
@[simp] theorem slack_modHost (s : State) (f : HostPort → HostPort) : (s.modHost f).slack = s.slack := rfl
@[simp] theorem mem_modHost (s : State) (f : HostPort → HostPort) : (s.modHost f).mem = s.mem := rfl
@[simp] theorem tiles_modHost (s : State) (f : HostPort → HostPort) : (s.modHost f).tiles = s.tiles := rfl
@[simp] theorem clusters_modHost (s : State) (f : HostPort → HostPort) : (s.modHost f).clusters = s.clusters := rfl
@[simp] theorem mcores_modHost (s : State) (f : HostPort → HostPort) : (s.modHost f).mcores = s.mcores := rfl
@[simp] theorem pairs_modHost (s : State) (f : HostPort → HostPort) : (s.modHost f).pairs = s.pairs := rfl
@[simp] theorem launch_modHost (s : State) (f : HostPort → HostPort) : (s.modHost f).launch = s.launch := rfl
@[simp] theorem parts_modHost (s : State) (f : HostPort → HostPort) : (s.modHost f).parts = s.parts := rfl
@[simp] theorem fabric_modHost (s : State) (f : HostPort → HostPort) : (s.modHost f).fabric = s.fabric := rfl

@[simp] theorem agenda_modMem (s : State) (f : Mem → Mem) : (s.modMem f).agenda = s.agenda := rfl
@[simp] theorem focus_modMem (s : State) (f : Mem → Mem) : (s.modMem f).focus = s.focus := rfl
@[simp] theorem subject_modMem (s : State) (f : Mem → Mem) : (s.modMem f).subject = s.subject := rfl
@[simp] theorem cursor_modMem (s : State) (f : Mem → Mem) : (s.modMem f).cursor = s.cursor := rfl
@[simp] theorem time_modMem (s : State) (f : Mem → Mem) : (s.modMem f).time = s.time := rfl
@[simp] theorem free_modMem (s : State) (f : Mem → Mem) : (s.modMem f).free = s.free := rfl
@[simp] theorem next_modMem (s : State) (f : Mem → Mem) : (s.modMem f).next = s.next := rfl
@[simp] theorem slack_modMem (s : State) (f : Mem → Mem) : (s.modMem f).slack = s.slack := rfl
@[simp] theorem tiles_modMem (s : State) (f : Mem → Mem) : (s.modMem f).tiles = s.tiles := rfl
@[simp] theorem clusters_modMem (s : State) (f : Mem → Mem) : (s.modMem f).clusters = s.clusters := rfl
@[simp] theorem mcores_modMem (s : State) (f : Mem → Mem) : (s.modMem f).mcores = s.mcores := rfl
@[simp] theorem pairs_modMem (s : State) (f : Mem → Mem) : (s.modMem f).pairs = s.pairs := rfl
@[simp] theorem launch_modMem (s : State) (f : Mem → Mem) : (s.modMem f).launch = s.launch := rfl
@[simp] theorem parts_modMem (s : State) (f : Mem → Mem) : (s.modMem f).parts = s.parts := rfl
@[simp] theorem fabric_modMem (s : State) (f : Mem → Mem) : (s.modMem f).fabric = s.fabric := rfl
@[simp] theorem host_modMem (s : State) (f : Mem → Mem) : (s.modMem f).host = s.host := rfl

@[simp] theorem agenda_modQueue (s : State) (n : Nat) (f : LaunchQueue → LaunchQueue) : (s.modQueue n f).agenda = s.agenda := rfl
@[simp] theorem focus_modQueue (s : State) (n : Nat) (f : LaunchQueue → LaunchQueue) : (s.modQueue n f).focus = s.focus := rfl
@[simp] theorem subject_modQueue (s : State) (n : Nat) (f : LaunchQueue → LaunchQueue) : (s.modQueue n f).subject = s.subject := rfl
@[simp] theorem cursor_modQueue (s : State) (n : Nat) (f : LaunchQueue → LaunchQueue) : (s.modQueue n f).cursor = s.cursor := rfl
@[simp] theorem time_modQueue (s : State) (n : Nat) (f : LaunchQueue → LaunchQueue) : (s.modQueue n f).time = s.time := rfl
@[simp] theorem free_modQueue (s : State) (n : Nat) (f : LaunchQueue → LaunchQueue) : (s.modQueue n f).free = s.free := rfl
@[simp] theorem next_modQueue (s : State) (n : Nat) (f : LaunchQueue → LaunchQueue) : (s.modQueue n f).next = s.next := rfl
@[simp] theorem slack_modQueue (s : State) (n : Nat) (f : LaunchQueue → LaunchQueue) : (s.modQueue n f).slack = s.slack := rfl
@[simp] theorem mem_modQueue (s : State) (n : Nat) (f : LaunchQueue → LaunchQueue) : (s.modQueue n f).mem = s.mem := rfl
@[simp] theorem tiles_modQueue (s : State) (n : Nat) (f : LaunchQueue → LaunchQueue) : (s.modQueue n f).tiles = s.tiles := rfl
@[simp] theorem clusters_modQueue (s : State) (n : Nat) (f : LaunchQueue → LaunchQueue) : (s.modQueue n f).clusters = s.clusters := rfl
@[simp] theorem mcores_modQueue (s : State) (n : Nat) (f : LaunchQueue → LaunchQueue) : (s.modQueue n f).mcores = s.mcores := rfl
@[simp] theorem pairs_modQueue (s : State) (n : Nat) (f : LaunchQueue → LaunchQueue) : (s.modQueue n f).pairs = s.pairs := rfl
@[simp] theorem parts_modQueue (s : State) (n : Nat) (f : LaunchQueue → LaunchQueue) : (s.modQueue n f).parts = s.parts := rfl
@[simp] theorem fabric_modQueue (s : State) (n : Nat) (f : LaunchQueue → LaunchQueue) : (s.modQueue n f).fabric = s.fabric := rfl
@[simp] theorem host_modQueue (s : State) (n : Nat) (f : LaunchQueue → LaunchQueue) : (s.modQueue n f).host = s.host := rfl

@[simp] theorem agenda_modEngine (s : State) (t e : Nat) (f : Engine → Engine) : (s.modEngine t e f).agenda = s.agenda := rfl
@[simp] theorem focus_modEngine (s : State) (t e : Nat) (f : Engine → Engine) : (s.modEngine t e f).focus = s.focus := rfl
@[simp] theorem subject_modEngine (s : State) (t e : Nat) (f : Engine → Engine) : (s.modEngine t e f).subject = s.subject := rfl
@[simp] theorem cursor_modEngine (s : State) (t e : Nat) (f : Engine → Engine) : (s.modEngine t e f).cursor = s.cursor := rfl
@[simp] theorem time_modEngine (s : State) (t e : Nat) (f : Engine → Engine) : (s.modEngine t e f).time = s.time := rfl
@[simp] theorem free_modEngine (s : State) (t e : Nat) (f : Engine → Engine) : (s.modEngine t e f).free = s.free := rfl
@[simp] theorem next_modEngine (s : State) (t e : Nat) (f : Engine → Engine) : (s.modEngine t e f).next = s.next := rfl
@[simp] theorem slack_modEngine (s : State) (t e : Nat) (f : Engine → Engine) : (s.modEngine t e f).slack = s.slack := rfl
@[simp] theorem mem_modEngine (s : State) (t e : Nat) (f : Engine → Engine) : (s.modEngine t e f).mem = s.mem := rfl
@[simp] theorem clusters_modEngine (s : State) (t e : Nat) (f : Engine → Engine) : (s.modEngine t e f).clusters = s.clusters := rfl
@[simp] theorem mcores_modEngine (s : State) (t e : Nat) (f : Engine → Engine) : (s.modEngine t e f).mcores = s.mcores := rfl
@[simp] theorem pairs_modEngine (s : State) (t e : Nat) (f : Engine → Engine) : (s.modEngine t e f).pairs = s.pairs := rfl
@[simp] theorem launch_modEngine (s : State) (t e : Nat) (f : Engine → Engine) : (s.modEngine t e f).launch = s.launch := rfl
@[simp] theorem parts_modEngine (s : State) (t e : Nat) (f : Engine → Engine) : (s.modEngine t e f).parts = s.parts := rfl
@[simp] theorem fabric_modEngine (s : State) (t e : Nat) (f : Engine → Engine) : (s.modEngine t e f).fabric = s.fabric := rfl
@[simp] theorem host_modEngine (s : State) (t e : Nat) (f : Engine → Engine) : (s.modEngine t e f).host = s.host := rfl

@[simp] theorem agenda_modEvent (s : State) (c : Nat) (f : EvEngine → EvEngine) : (s.modEvent c f).agenda = s.agenda := rfl
@[simp] theorem focus_modEvent (s : State) (c : Nat) (f : EvEngine → EvEngine) : (s.modEvent c f).focus = s.focus := rfl
@[simp] theorem subject_modEvent (s : State) (c : Nat) (f : EvEngine → EvEngine) : (s.modEvent c f).subject = s.subject := rfl
@[simp] theorem cursor_modEvent (s : State) (c : Nat) (f : EvEngine → EvEngine) : (s.modEvent c f).cursor = s.cursor := rfl
@[simp] theorem time_modEvent (s : State) (c : Nat) (f : EvEngine → EvEngine) : (s.modEvent c f).time = s.time := rfl
@[simp] theorem free_modEvent (s : State) (c : Nat) (f : EvEngine → EvEngine) : (s.modEvent c f).free = s.free := rfl
@[simp] theorem next_modEvent (s : State) (c : Nat) (f : EvEngine → EvEngine) : (s.modEvent c f).next = s.next := rfl
@[simp] theorem slack_modEvent (s : State) (c : Nat) (f : EvEngine → EvEngine) : (s.modEvent c f).slack = s.slack := rfl
@[simp] theorem mem_modEvent (s : State) (c : Nat) (f : EvEngine → EvEngine) : (s.modEvent c f).mem = s.mem := rfl
@[simp] theorem tiles_modEvent (s : State) (c : Nat) (f : EvEngine → EvEngine) : (s.modEvent c f).tiles = s.tiles := rfl
@[simp] theorem mcores_modEvent (s : State) (c : Nat) (f : EvEngine → EvEngine) : (s.modEvent c f).mcores = s.mcores := rfl
@[simp] theorem pairs_modEvent (s : State) (c : Nat) (f : EvEngine → EvEngine) : (s.modEvent c f).pairs = s.pairs := rfl
@[simp] theorem launch_modEvent (s : State) (c : Nat) (f : EvEngine → EvEngine) : (s.modEvent c f).launch = s.launch := rfl
@[simp] theorem parts_modEvent (s : State) (c : Nat) (f : EvEngine → EvEngine) : (s.modEvent c f).parts = s.parts := rfl
@[simp] theorem fabric_modEvent (s : State) (c : Nat) (f : EvEngine → EvEngine) : (s.modEvent c f).fabric = s.fabric := rfl
@[simp] theorem host_modEvent (s : State) (c : Nat) (f : EvEngine → EvEngine) : (s.modEvent c f).host = s.host := rfl

@[simp] theorem agenda_modSeq (s : State) (q : SeqId) (f : Seq → Seq) : (s.modSeq q f).agenda = s.agenda := by cases q <;> rfl
@[simp] theorem focus_modSeq (s : State) (q : SeqId) (f : Seq → Seq) : (s.modSeq q f).focus = s.focus := by cases q <;> rfl
@[simp] theorem subject_modSeq (s : State) (q : SeqId) (f : Seq → Seq) : (s.modSeq q f).subject = s.subject := by cases q <;> rfl
@[simp] theorem cursor_modSeq (s : State) (q : SeqId) (f : Seq → Seq) : (s.modSeq q f).cursor = s.cursor := by cases q <;> rfl
@[simp] theorem time_modSeq (s : State) (q : SeqId) (f : Seq → Seq) : (s.modSeq q f).time = s.time := by cases q <;> rfl
@[simp] theorem free_modSeq (s : State) (q : SeqId) (f : Seq → Seq) : (s.modSeq q f).free = s.free := by cases q <;> rfl
@[simp] theorem next_modSeq (s : State) (q : SeqId) (f : Seq → Seq) : (s.modSeq q f).next = s.next := by cases q <;> rfl
@[simp] theorem slack_modSeq (s : State) (q : SeqId) (f : Seq → Seq) : (s.modSeq q f).slack = s.slack := by cases q <;> rfl
@[simp] theorem mem_modSeq (s : State) (q : SeqId) (f : Seq → Seq) : (s.modSeq q f).mem = s.mem := by cases q <;> rfl
@[simp] theorem pairs_modSeq (s : State) (q : SeqId) (f : Seq → Seq) : (s.modSeq q f).pairs = s.pairs := by cases q <;> rfl
@[simp] theorem launch_modSeq (s : State) (q : SeqId) (f : Seq → Seq) : (s.modSeq q f).launch = s.launch := by cases q <;> rfl
@[simp] theorem parts_modSeq (s : State) (q : SeqId) (f : Seq → Seq) : (s.modSeq q f).parts = s.parts := by cases q <;> rfl
@[simp] theorem fabric_modSeq (s : State) (q : SeqId) (f : Seq → Seq) : (s.modSeq q f).fabric = s.fabric := by cases q <;> rfl
@[simp] theorem host_modSeq (s : State) (q : SeqId) (f : Seq → Seq) : (s.modSeq q f).host = s.host := by cases q <;> rfl

/-! ## The unit that an update changes, and the others -/

@[simp] theorem tile_modTile_same (s : State) (t : Nat) (f : Tile → Tile) : (s.modTile t f).tile t = f (s.tile t) := by
  simp [tile, modTile]

theorem tile_modTile_other (s : State) {t u : Nat} (f : Tile → Tile) (h : u ≠ t) : (s.modTile t f).tile u = s.tile u := by
  simp [tile, modTile, Assoc.get_set_other _ _ _ h]

@[simp] theorem cluster_modCluster_same (s : State) (c : Nat) (f : Cluster → Cluster) :
    (s.modCluster c f).cluster c = f (s.cluster c) := by simp [cluster, modCluster]

theorem cluster_modCluster_other (s : State) {c d : Nat} (f : Cluster → Cluster) (h : d ≠ c) :
    (s.modCluster c f).cluster d = s.cluster d := by simp [cluster, modCluster, Assoc.get_set_other _ _ _ h]

@[simp] theorem mcore_modMCore_same (s : State) (c : Nat) (f : MCore → MCore) :
    (s.modMCore c f).mcore c = f (s.mcore c) := by simp [mcore, modMCore]

theorem mcore_modMCore_other (s : State) {c d : Nat} (f : MCore → MCore) (h : d ≠ c) :
    (s.modMCore c f).mcore d = s.mcore d := by simp [mcore, modMCore, Assoc.get_set_other _ _ _ h]

@[simp] theorem pair_modPair_same (s : State) (t : Nat) (f : Pair → Pair) : (s.modPair t f).pair t = f (s.pair t) := by
  simp [pair, modPair]

@[simp] theorem queue_modQueue_same (s : State) (n : Nat) (f : LaunchQueue → LaunchQueue) :
    (s.modQueue n f).queue n = f (s.queue n) := by simp [queue, modQueue, modLaunch]

@[simp] theorem part_modPart_same (s : State) (p : Nat) (f : Part → Part) : (s.modPart p f).part p = f (s.part p) := by
  simp [part, modPart]

theorem part_modPart_other (s : State) {p r : Nat} (f : Part → Part) (h : r % 16 ≠ p % 16) :
    (s.modPart p f).part r = s.part r := by
  simp only [part, modPart]
  exact Vector.getElem_set_ne _ _ (fun e => h e.symm)

@[simp] theorem seq_modSeq_same (s : State) (q : SeqId) (f : Seq → Seq) : (s.modSeq q f).seq q = f (s.seq q) := by
  cases q <;> simp [seq, modSeq]

theorem seq_modSeq_other (s : State) {q r : SeqId} (f : Seq → Seq) (h : r ≠ q) : (s.modSeq q f).seq r = s.seq r := by
  cases q <;> cases r <;> simp [seq, modSeq] <;>
    first
      | rfl
      | (rename_i t u
         by_cases e : u = t
         · subst e; simp_all
         · simp [tile_modTile_other, cluster_modCluster_other, mcore_modMCore_other, e])

/-! ## Units of one kind after an update of another -/

@[simp] theorem cluster_modTile (s : State) (t : Nat) (f : Tile → Tile) (c' : Nat) : (s.modTile t f).cluster c' = s.cluster c' := rfl
@[simp] theorem mcore_modTile (s : State) (t : Nat) (f : Tile → Tile) (c' : Nat) : (s.modTile t f).mcore c' = s.mcore c' := rfl
@[simp] theorem pair_modTile (s : State) (t : Nat) (f : Tile → Tile) (t' : Nat) : (s.modTile t f).pair t' = s.pair t' := rfl
@[simp] theorem part_modTile (s : State) (t : Nat) (f : Tile → Tile) (p' : Nat) : (s.modTile t f).part p' = s.part p' := rfl
@[simp] theorem queue_modTile (s : State) (t : Nat) (f : Tile → Tile) (n' : Nat) : (s.modTile t f).queue n' = s.queue n' := rfl
@[simp] theorem gang_modTile (s : State) (t : Nat) (f : Tile → Tile) (g' : Nat) : (s.modTile t f).gang? g' = s.gang? g' := rfl
@[simp] theorem tile_modCluster (s : State) (c : Nat) (f : Cluster → Cluster) (t' : Nat) : (s.modCluster c f).tile t' = s.tile t' := rfl
@[simp] theorem mcore_modCluster (s : State) (c : Nat) (f : Cluster → Cluster) (c' : Nat) : (s.modCluster c f).mcore c' = s.mcore c' := rfl
@[simp] theorem pair_modCluster (s : State) (c : Nat) (f : Cluster → Cluster) (t' : Nat) : (s.modCluster c f).pair t' = s.pair t' := rfl
@[simp] theorem part_modCluster (s : State) (c : Nat) (f : Cluster → Cluster) (p' : Nat) : (s.modCluster c f).part p' = s.part p' := rfl
@[simp] theorem queue_modCluster (s : State) (c : Nat) (f : Cluster → Cluster) (n' : Nat) : (s.modCluster c f).queue n' = s.queue n' := rfl
@[simp] theorem gang_modCluster (s : State) (c : Nat) (f : Cluster → Cluster) (g' : Nat) : (s.modCluster c f).gang? g' = s.gang? g' := rfl
@[simp] theorem tile_modMCore (s : State) (c : Nat) (f : MCore → MCore) (t' : Nat) : (s.modMCore c f).tile t' = s.tile t' := rfl
@[simp] theorem cluster_modMCore (s : State) (c : Nat) (f : MCore → MCore) (c' : Nat) : (s.modMCore c f).cluster c' = s.cluster c' := rfl
@[simp] theorem pair_modMCore (s : State) (c : Nat) (f : MCore → MCore) (t' : Nat) : (s.modMCore c f).pair t' = s.pair t' := rfl
@[simp] theorem part_modMCore (s : State) (c : Nat) (f : MCore → MCore) (p' : Nat) : (s.modMCore c f).part p' = s.part p' := rfl
@[simp] theorem queue_modMCore (s : State) (c : Nat) (f : MCore → MCore) (n' : Nat) : (s.modMCore c f).queue n' = s.queue n' := rfl
@[simp] theorem gang_modMCore (s : State) (c : Nat) (f : MCore → MCore) (g' : Nat) : (s.modMCore c f).gang? g' = s.gang? g' := rfl
@[simp] theorem tile_modPair (s : State) (t : Nat) (f : Pair → Pair) (t' : Nat) : (s.modPair t f).tile t' = s.tile t' := rfl
@[simp] theorem cluster_modPair (s : State) (t : Nat) (f : Pair → Pair) (c' : Nat) : (s.modPair t f).cluster c' = s.cluster c' := rfl
@[simp] theorem mcore_modPair (s : State) (t : Nat) (f : Pair → Pair) (c' : Nat) : (s.modPair t f).mcore c' = s.mcore c' := rfl
@[simp] theorem part_modPair (s : State) (t : Nat) (f : Pair → Pair) (p' : Nat) : (s.modPair t f).part p' = s.part p' := rfl
@[simp] theorem queue_modPair (s : State) (t : Nat) (f : Pair → Pair) (n' : Nat) : (s.modPair t f).queue n' = s.queue n' := rfl
@[simp] theorem gang_modPair (s : State) (t : Nat) (f : Pair → Pair) (g' : Nat) : (s.modPair t f).gang? g' = s.gang? g' := rfl
@[simp] theorem tile_modPart (s : State) (p : Nat) (f : Part → Part) (t' : Nat) : (s.modPart p f).tile t' = s.tile t' := rfl
@[simp] theorem cluster_modPart (s : State) (p : Nat) (f : Part → Part) (c' : Nat) : (s.modPart p f).cluster c' = s.cluster c' := rfl
@[simp] theorem mcore_modPart (s : State) (p : Nat) (f : Part → Part) (c' : Nat) : (s.modPart p f).mcore c' = s.mcore c' := rfl
@[simp] theorem pair_modPart (s : State) (p : Nat) (f : Part → Part) (t' : Nat) : (s.modPart p f).pair t' = s.pair t' := rfl
@[simp] theorem queue_modPart (s : State) (p : Nat) (f : Part → Part) (n' : Nat) : (s.modPart p f).queue n' = s.queue n' := rfl
@[simp] theorem gang_modPart (s : State) (p : Nat) (f : Part → Part) (g' : Nat) : (s.modPart p f).gang? g' = s.gang? g' := rfl
@[simp] theorem tile_modLaunch (s : State) (f : Launch → Launch) (t' : Nat) : (s.modLaunch f).tile t' = s.tile t' := rfl
@[simp] theorem cluster_modLaunch (s : State) (f : Launch → Launch) (c' : Nat) : (s.modLaunch f).cluster c' = s.cluster c' := rfl
@[simp] theorem mcore_modLaunch (s : State) (f : Launch → Launch) (c' : Nat) : (s.modLaunch f).mcore c' = s.mcore c' := rfl
@[simp] theorem pair_modLaunch (s : State) (f : Launch → Launch) (t' : Nat) : (s.modLaunch f).pair t' = s.pair t' := rfl
@[simp] theorem part_modLaunch (s : State) (f : Launch → Launch) (p' : Nat) : (s.modLaunch f).part p' = s.part p' := rfl
@[simp] theorem tile_modGang (s : State) (g : Nat) (f : Gang → Gang) (t' : Nat) : (s.modGang g f).tile t' = s.tile t' := rfl
@[simp] theorem cluster_modGang (s : State) (g : Nat) (f : Gang → Gang) (c' : Nat) : (s.modGang g f).cluster c' = s.cluster c' := rfl
@[simp] theorem mcore_modGang (s : State) (g : Nat) (f : Gang → Gang) (c' : Nat) : (s.modGang g f).mcore c' = s.mcore c' := rfl
@[simp] theorem pair_modGang (s : State) (g : Nat) (f : Gang → Gang) (t' : Nat) : (s.modGang g f).pair t' = s.pair t' := rfl
@[simp] theorem part_modGang (s : State) (g : Nat) (f : Gang → Gang) (p' : Nat) : (s.modGang g f).part p' = s.part p' := rfl
@[simp] theorem tile_modFabric (s : State) (f : Fabric → Fabric) (t' : Nat) : (s.modFabric f).tile t' = s.tile t' := rfl
@[simp] theorem cluster_modFabric (s : State) (f : Fabric → Fabric) (c' : Nat) : (s.modFabric f).cluster c' = s.cluster c' := rfl
@[simp] theorem mcore_modFabric (s : State) (f : Fabric → Fabric) (c' : Nat) : (s.modFabric f).mcore c' = s.mcore c' := rfl
@[simp] theorem pair_modFabric (s : State) (f : Fabric → Fabric) (t' : Nat) : (s.modFabric f).pair t' = s.pair t' := rfl
@[simp] theorem part_modFabric (s : State) (f : Fabric → Fabric) (p' : Nat) : (s.modFabric f).part p' = s.part p' := rfl
@[simp] theorem queue_modFabric (s : State) (f : Fabric → Fabric) (n' : Nat) : (s.modFabric f).queue n' = s.queue n' := rfl
@[simp] theorem gang_modFabric (s : State) (f : Fabric → Fabric) (g' : Nat) : (s.modFabric f).gang? g' = s.gang? g' := rfl
@[simp] theorem tile_modHost (s : State) (f : HostPort → HostPort) (t' : Nat) : (s.modHost f).tile t' = s.tile t' := rfl
@[simp] theorem cluster_modHost (s : State) (f : HostPort → HostPort) (c' : Nat) : (s.modHost f).cluster c' = s.cluster c' := rfl
@[simp] theorem mcore_modHost (s : State) (f : HostPort → HostPort) (c' : Nat) : (s.modHost f).mcore c' = s.mcore c' := rfl
@[simp] theorem pair_modHost (s : State) (f : HostPort → HostPort) (t' : Nat) : (s.modHost f).pair t' = s.pair t' := rfl
@[simp] theorem part_modHost (s : State) (f : HostPort → HostPort) (p' : Nat) : (s.modHost f).part p' = s.part p' := rfl
@[simp] theorem queue_modHost (s : State) (f : HostPort → HostPort) (n' : Nat) : (s.modHost f).queue n' = s.queue n' := rfl
@[simp] theorem gang_modHost (s : State) (f : HostPort → HostPort) (g' : Nat) : (s.modHost f).gang? g' = s.gang? g' := rfl
@[simp] theorem tile_modMem (s : State) (f : Mem → Mem) (t' : Nat) : (s.modMem f).tile t' = s.tile t' := rfl
@[simp] theorem cluster_modMem (s : State) (f : Mem → Mem) (c' : Nat) : (s.modMem f).cluster c' = s.cluster c' := rfl
@[simp] theorem mcore_modMem (s : State) (f : Mem → Mem) (c' : Nat) : (s.modMem f).mcore c' = s.mcore c' := rfl
@[simp] theorem pair_modMem (s : State) (f : Mem → Mem) (t' : Nat) : (s.modMem f).pair t' = s.pair t' := rfl
@[simp] theorem part_modMem (s : State) (f : Mem → Mem) (p' : Nat) : (s.modMem f).part p' = s.part p' := rfl
@[simp] theorem queue_modMem (s : State) (f : Mem → Mem) (n' : Nat) : (s.modMem f).queue n' = s.queue n' := rfl
@[simp] theorem gang_modMem (s : State) (f : Mem → Mem) (g' : Nat) : (s.modMem f).gang? g' = s.gang? g' := rfl
@[simp] theorem tile_modQueue (s : State) (n : Nat) (f : LaunchQueue → LaunchQueue) (t' : Nat) : (s.modQueue n f).tile t' = s.tile t' := rfl
@[simp] theorem cluster_modQueue (s : State) (n : Nat) (f : LaunchQueue → LaunchQueue) (c' : Nat) : (s.modQueue n f).cluster c' = s.cluster c' := rfl
@[simp] theorem mcore_modQueue (s : State) (n : Nat) (f : LaunchQueue → LaunchQueue) (c' : Nat) : (s.modQueue n f).mcore c' = s.mcore c' := rfl
@[simp] theorem pair_modQueue (s : State) (n : Nat) (f : LaunchQueue → LaunchQueue) (t' : Nat) : (s.modQueue n f).pair t' = s.pair t' := rfl
@[simp] theorem part_modQueue (s : State) (n : Nat) (f : LaunchQueue → LaunchQueue) (p' : Nat) : (s.modQueue n f).part p' = s.part p' := rfl
@[simp] theorem cluster_modEngine (s : State) (t e : Nat) (f : Engine → Engine) (c' : Nat) : (s.modEngine t e f).cluster c' = s.cluster c' := rfl
@[simp] theorem mcore_modEngine (s : State) (t e : Nat) (f : Engine → Engine) (c' : Nat) : (s.modEngine t e f).mcore c' = s.mcore c' := rfl
@[simp] theorem pair_modEngine (s : State) (t e : Nat) (f : Engine → Engine) (t' : Nat) : (s.modEngine t e f).pair t' = s.pair t' := rfl
@[simp] theorem part_modEngine (s : State) (t e : Nat) (f : Engine → Engine) (p' : Nat) : (s.modEngine t e f).part p' = s.part p' := rfl
@[simp] theorem queue_modEngine (s : State) (t e : Nat) (f : Engine → Engine) (n' : Nat) : (s.modEngine t e f).queue n' = s.queue n' := rfl
@[simp] theorem gang_modEngine (s : State) (t e : Nat) (f : Engine → Engine) (g' : Nat) : (s.modEngine t e f).gang? g' = s.gang? g' := rfl
@[simp] theorem tile_modEvent (s : State) (c : Nat) (f : EvEngine → EvEngine) (t' : Nat) : (s.modEvent c f).tile t' = s.tile t' := rfl
@[simp] theorem mcore_modEvent (s : State) (c : Nat) (f : EvEngine → EvEngine) (c' : Nat) : (s.modEvent c f).mcore c' = s.mcore c' := rfl
@[simp] theorem pair_modEvent (s : State) (c : Nat) (f : EvEngine → EvEngine) (t' : Nat) : (s.modEvent c f).pair t' = s.pair t' := rfl
@[simp] theorem part_modEvent (s : State) (c : Nat) (f : EvEngine → EvEngine) (p' : Nat) : (s.modEvent c f).part p' = s.part p' := rfl
@[simp] theorem queue_modEvent (s : State) (c : Nat) (f : EvEngine → EvEngine) (n' : Nat) : (s.modEvent c f).queue n' = s.queue n' := rfl
@[simp] theorem gang_modEvent (s : State) (c : Nat) (f : EvEngine → EvEngine) (g' : Nat) : (s.modEvent c f).gang? g' = s.gang? g' := rfl
@[simp] theorem pair_modSeq (s : State) (q : SeqId) (f : Seq → Seq) (t' : Nat) : (s.modSeq q f).pair t' = s.pair t' := by cases q <;> rfl
@[simp] theorem part_modSeq (s : State) (q : SeqId) (f : Seq → Seq) (p' : Nat) : (s.modSeq q f).part p' = s.part p' := by cases q <;> rfl
@[simp] theorem queue_modSeq (s : State) (q : SeqId) (f : Seq → Seq) (n' : Nat) : (s.modSeq q f).queue n' = s.queue n' := by cases q <;> rfl
@[simp] theorem gang_modSeq (s : State) (q : SeqId) (f : Seq → Seq) (g' : Nat) : (s.modSeq q f).gang? g' = s.gang? g' := by cases q <;> rfl
@[simp] theorem seq_modPair (s : State) (t : Nat) (f : Pair → Pair) (q : SeqId) : (s.modPair t f).seq q = s.seq q := by cases q <;> rfl
@[simp] theorem seq_modPart (s : State) (p : Nat) (f : Part → Part) (q : SeqId) : (s.modPart p f).seq q = s.seq q := by cases q <;> rfl
@[simp] theorem seq_modLaunch (s : State) (f : Launch → Launch) (q : SeqId) : (s.modLaunch f).seq q = s.seq q := by cases q <;> rfl
@[simp] theorem seq_modGang (s : State) (g : Nat) (f : Gang → Gang) (q : SeqId) : (s.modGang g f).seq q = s.seq q := by cases q <;> rfl
@[simp] theorem seq_modFabric (s : State) (f : Fabric → Fabric) (q : SeqId) : (s.modFabric f).seq q = s.seq q := by cases q <;> rfl
@[simp] theorem seq_modHost (s : State) (f : HostPort → HostPort) (q : SeqId) : (s.modHost f).seq q = s.seq q := by cases q <;> rfl
@[simp] theorem seq_modMem (s : State) (f : Mem → Mem) (q : SeqId) : (s.modMem f).seq q = s.seq q := by cases q <;> rfl
@[simp] theorem seq_modQueue (s : State) (n : Nat) (f : LaunchQueue → LaunchQueue) (q : SeqId) : (s.modQueue n f).seq q = s.seq q := by cases q <;> rfl

end Sys2Proof.Machine.State
end

