-- ==== Sys2Proof/Laws/Memory.lean ====
section
/-! SUPPORT. The laws of the stored bytes: what a byte reads as after a write, and that every operation keeps the canonical
form. -/

namespace Sys2Proof.Machine

open Sys2Proof.Claims

/-! ## The canonical list -/

/-- The canonical form: keys rise, and no listed byte is 0. -/
theorem sortedCells_iff (m : List Host.Cell) :
    Mem.sortedCells m = true ↔ m.Pairwise (fun a b => a.1 < b.1) ∧ ∀ e ∈ m, e.2 ≠ 0 := by
  induction m with
  | nil => simp [Mem.sortedCells]
  | cons e m ih =>
    cases m with
    | nil => simp [Mem.sortedCells]
    | cons f m =>
      simp only [Mem.sortedCells, Bool.and_eq_true, decide_eq_true_eq, bne_iff_ne, ne_eq, ih]
      simp only [List.pairwise_cons, List.mem_cons, forall_eq_or_imp]
      constructor
      · rintro ⟨⟨hlt, he⟩, ⟨hf, hp⟩, hz⟩
        exact ⟨⟨⟨hlt, fun a ha => Nat.lt_trans hlt (hf a ha)⟩, hf, hp⟩, he, hz⟩
      · rintro ⟨⟨⟨hlt, _⟩, hf, hp⟩, he, hz⟩
        exact ⟨⟨hlt, he⟩, ⟨hf, hp⟩, hz⟩

/-- Every key of a table with a new entry is that entry's or was a key before. -/
theorem mem_set {α : Type} {m : Assoc α} {k : Nat} {v : α} {e : Nat × α} (h : e ∈ Assoc.set m k v) :
    e = (k, v) ∨ e ∈ m := by
  induction m with
  | nil => simpa [Assoc.set] using h
  | cons f m ih =>
    obtain ⟨k', v'⟩ := f
    simp only [Assoc.set] at h
    split at h
    · simpa using h
    · split at h
      · simp only [List.mem_cons] at h ⊢; tauto
      · simp only [List.mem_cons] at h ⊢
        rcases h with h | h
        · exact .inr (.inl h)
        · rcases ih h with h | h
          · exact .inl h
          · exact .inr (.inr h)

/-- A rising table stays rising. -/
theorem pairwise_set {α : Type} {m : Assoc α} (k : Nat) (v : α) (h : m.Pairwise (fun a b => a.1 < b.1)) :
    (Assoc.set m k v).Pairwise (fun a b => a.1 < b.1) := by
  induction m with
  | nil => simp [Assoc.set]
  | cons f m ih =>
    obtain ⟨k', v'⟩ := f
    have ⟨hf, hp⟩ := List.pairwise_cons.mp h
    simp only [Assoc.set]
    split
    · next hlt =>
      refine List.pairwise_cons.mpr ⟨fun a ha => ?_, h⟩
      rcases List.mem_cons.mp ha with rfl | ha
      · exact hlt
      · exact Nat.lt_trans hlt (hf a ha)
    · split
      · next heq => subst heq; exact List.pairwise_cons.mpr ⟨hf, hp⟩
      · refine List.pairwise_cons.mpr ⟨fun a ha => ?_, ih hp⟩
        rcases mem_set ha with rfl | ha
        · simp only; omega
        · exact hf a ha

theorem sortedCells_filter {m : List Host.Cell} (keep : Host.Cell → Bool) (h : Mem.sortedCells m = true) :
    Mem.sortedCells (m.filter keep) = true := by
  rw [sortedCells_iff] at h ⊢
  exact ⟨h.1.filter keep, fun e he => h.2 e (List.mem_of_mem_filter he)⟩

theorem sortedCells_setCell {m : List Host.Cell} (k : Nat) (b : Byte) (h : Mem.sortedCells m = true) :
    Mem.sortedCells (Mem.setCell m k b) = true := by
  unfold Mem.setCell
  split
  · exact sortedCells_filter _ h
  · next hb =>
    rw [sortedCells_iff] at h ⊢
    refine ⟨pairwise_set k b h.1, fun e he => ?_⟩
    rcases mem_set he with rfl | he
    · exact hb
    · exact h.2 e he

theorem get_erase_same {α : Type} (d : α) (m : Assoc α) (k : Nat) : Assoc.get d (Assoc.erase m k) k = d := by
  induction m with
  | nil => rfl
  | cons e m ih =>
    simp only [Assoc.erase, List.filter_cons] at ih ⊢
    split
    · next h => simp only [Assoc.get]; rw [if_neg (by simpa using fun h' => by simp_all), ih]
    · exact ih

theorem get_erase_other {α : Type} (d : α) (m : Assoc α) {k j : Nat} (h : j ≠ k) :
    Assoc.get d (Assoc.erase m k) j = Assoc.get d m j := by
  induction m with
  | nil => rfl
  | cons e m ih =>
    simp only [Assoc.erase, List.filter_cons] at ih ⊢
    split
    · simp only [Assoc.get, ih]
    · next hk => simp only [Assoc.get]; rw [ih, if_neg]; simp_all

namespace Mem

/-! ## Bytes after a write -/

@[simp] theorem byte_setByte_same (m : Mem) (k : Nat) (b : Byte) : (m.setByte k b).byte k = b := by
  simp only [byte, setByte, setCell]
  split
  · next h => rw [get_erase_same, h]
  · simp

theorem byte_setByte_other (m : Mem) {k j : Nat} (b : Byte) (h : j ≠ k) : (m.setByte k b).byte j = m.byte j := by
  simp only [byte, setByte, setCell]
  split
  · exact get_erase_other _ _ h
  · exact Assoc.get_set_other _ _ _ h

/-- Bytes outside [k, k + n) read as before a write of n bytes at k. -/
theorem byte_setBytes_outside (m : Mem) (k : Nat) (bs : List Byte) {j : Nat} (h : j < k ∨ k + bs.length ≤ j) :
    (m.setBytes k bs).byte j = m.byte j := by
  induction bs generalizing m k with
  | nil => rfl
  | cons b bs ih =>
    simp only [List.length_cons] at h
    rw [setBytes, ih _ _ (by omega), byte_setByte_other _ _ (by omega)]

/-- Bytes written read back. -/
theorem byte_setBytes_inside (m : Mem) (k : Nat) (bs : List Byte) (i : Nat) (h : i < bs.length) :
    (m.setBytes k bs).byte (k + i) = bs[i] := by
  induction bs generalizing m k i with
  | nil => simp at h
  | cons b bs ih =>
    rw [setBytes]
    cases i with
    | zero => rw [byte_setBytes_outside _ _ _ (by omega)]; simp
    | succ i =>
      have := ih (m.setByte k b) (k + 1) i (by simpa using h)
      rw [show k + (i + 1) = k + 1 + i by omega, this]; rfl

theorem bytes_setBytes (m : Mem) (k : Nat) (bs : List Byte) : (m.setBytes k bs).bytes k bs.length = bs := by
  induction bs generalizing m k with
  | nil => rfl
  | cons b bs ih =>
    rw [List.length_cons, bytes, setBytes, ih, byte_setBytes_outside _ _ _ (by omega), byte_setByte_same]

@[simp] theorem byte_addPoison (m : Mem) (u k : Nat) : (m.addPoison u).byte k = m.byte k := rfl
@[simp] theorem byte_dropPoison (m : Mem) (u k : Nat) : (m.dropPoison u).byte k = m.byte k := rfl
@[simp] theorem byte_dropFlips (m : Mem) (u k : Nat) : (m.dropFlips u).byte k = m.byte k := rfl

/-! ## The canonical form is kept -/

theorem wf_reset : Mem.reset.wf = true := rfl

theorem wf_setByte {m : Mem} (k : Nat) (b : Byte) (h : m.wf = true) : (m.setByte k b).wf = true :=
  sortedCells_setCell k b h

theorem wf_setBytes {m : Mem} (k : Nat) (bs : List Byte) (h : m.wf = true) : (m.setBytes k bs).wf = true := by
  induction bs generalizing m k with
  | nil => exact h
  | cons b bs ih => exact ih (k + 1) (wf_setByte k b h)

theorem wf_clear {m : Mem} (lo hi : Nat) (h : m.wf = true) : (m.clear lo hi).wf = true := sortedCells_filter _ h

theorem wf_addPoison {m : Mem} (u : Nat) (h : m.wf = true) : (m.addPoison u).wf = true := h
theorem wf_dropPoison {m : Mem} (u : Nat) (h : m.wf = true) : (m.dropPoison u).wf = true := h
theorem wf_dropFlips {m : Mem} (k : Nat) (h : m.wf = true) : (m.dropFlips k).wf = true := h

/-- An operation that keeps the canonical form keeps it over a list. -/
theorem wf_foldl {α : Type} {f : Mem → α → Mem} (hf : ∀ m a, m.wf = true → (f m a).wf = true) (l : List α) {m : Mem}
    (h : m.wf = true) : (l.foldl f m).wf = true := by
  induction l generalizing m with
  | nil => exact h
  | cons a l ih => exact ih (hf m a h)

end Mem

/-! ## Decoding keeps the canonical form -/

theorem wf_flipBit {m : Mem} (base b : Nat) (h : m.wf = true) : (m.flipBit base b).wf = true := Mem.wf_setByte _ _ h

theorem wf_showFlips {m : Mem} (base width : Nat) (h : m.wf = true) : (m.showFlips base width).wf = true :=
  Mem.wf_dropFlips _ (Mem.wf_foldl (fun _ _ h => wf_flipBit _ _ h) _ h)

theorem wf_showLine {m : Mem} (line : Nat) (h : m.wf = true) : (m.showLine line).wf = true := by
  simp only [Mem.showLine]
  split
  · exact wf_showFlips _ _ h
  · exact Mem.wf_foldl (fun _ _ h => wf_showFlips _ _ h) _ h

theorem wf_zeroLow {m : Mem} (l : Layout) (line e : Nat) (h : m.wf = true) : (zeroLow m l line e).wf = true :=
  Mem.wf_foldl (fun _ _ h => Mem.wf_setByte _ _ h) _ h

theorem wf_decodeOpenWord {m : Mem} (free k : Nat) (h : m.wf = true) : (decodeOpenWord m free k).mem.wf = true := by
  simp only [decodeOpenWord]
  split
  · exact Mem.wf_dropFlips _ (Mem.wf_setBytes _ _ h)
  · exact h
  · exact wf_showFlips _ _ h

theorem wf_decodeWord {m : Mem} (free key : Nat) (h : m.wf = true) : (decodeWord m free key).mem.wf = true := by
  simp only [decodeWord]
  split
  · exact h
  · split
    · exact h
    · exact h
    · exact h
    · exact wf_decodeOpenWord _ _ h

theorem wf_decodeTagged {m : Mem} (free key : Nat) (h : m.wf = true) : (decodeTagged m free key).mem.wf = true := by
  have ho := wf_decodeOpenWord free (key / 8 * 8) (wf_showLine (key / 8 * 8 / 64 * 64) h)
  simp only [decodeTagged]
  split
  · exact wf_decodeWord _ _ h
  · split <;> exact ho

theorem wf_decodeCodewords (l : Layout) (line : Nat) (is : List Nat) {d : Decoded} (h : d.mem.wf = true) :
    (decodeCodewords l line is d).mem.wf = true := by
  induction is generalizing d with
  | nil => exact h
  | cons i is ih =>
    simp only [decodeCodewords]
    apply ih
    split
    · exact h
    · split
      · exact h
      · exact h
      · exact h
      · exact h
      · split
        · exact Mem.wf_foldl (fun _ _ h => Mem.wf_setByte _ _ h) _ h
        · exact h
        · exact Mem.wf_foldl (fun _ _ h => wf_flipBit _ _ h) _ h

theorem wf_settleLow {m : Mem} (l : Layout) (line : Nat) (h : m.wf = true) : (settleLow m l line).wf = true := by
  simp only [settleLow]
  split
  · exact h
  · exact Mem.wf_foldl (fun _ _ h => wf_zeroLow _ _ _ h) _ (Mem.wf_foldl (fun _ _ h => wf_flipBit _ _ h) _ h)

theorem wf_writeBack {m : Mem} (l : Layout) (line : Nat) (h : m.wf = true) : (writeBack l line m).wf = true := by
  refine Mem.wf_dropFlips _ (Mem.wf_foldl (fun _ _ h => ?_) _ h)
  split <;> exact h

theorem wf_decodeLine {m : Mem} (free : Nat) (l : Layout) (line : Nat) (h : m.wf = true) :
    (decodeLine m free l line).mem.wf = true := by
  simp only [decodeLine]
  split
  · exact wf_writeBack _ _ (wf_decodeCodewords _ _ _ (wf_settleLow _ _ h))
  · exact wf_decodeCodewords _ _ _ (wf_settleLow _ _ h)

theorem wf_mismatched {m : Mem} (free : Nat) (l : Layout) (e : BitVec 32) (line : Nat) (h : m.wf = true) :
    (mismatched m free l e line).wf = true := wf_showLine line h

theorem wf_decodeMismatch {m : Mem} (free : Nat) (l : Layout) (e : BitVec 32) (line : Nat) (h : m.wf = true) :
    (decodeMismatch m free l e line).mem.wf = true := by
  simp only [decodeMismatch]
  split
  · exact wf_decodeLine _ _ _ (wf_mismatched free l e line h)
  · exact wf_showLine line h

theorem wf_decodeWords {m : Mem} (free line n : Nat) (h : m.wf = true) : (decodeWords m free line n).mem.wf = true := by
  induction n generalizing m free line with
  | zero => exact h
  | succ n ih => exact ih _ _ (wf_decodeTagged free line h)

theorem wf_openArea {m : Mem} (free line : Nat) (h : m.wf = true) : (openArea m free line).1.wf = true := by
  simp only [openArea]
  split
  · exact Mem.wf_setBytes (m := { m with areas := carve line m.areas }) _ _ h
  · exact h

theorem wf_decodeExternal {m : Mem} (free : Nat) (entry : BitVec 32) (line : Nat) (h : m.wf = true) :
    (decodeExternal m free entry line).mem.wf = true := by
  have ho := wf_openArea free line h
  simp only [decodeExternal]
  split
  · exact wf_decodeWords _ _ _ ho
  · split
    · exact wf_decodeLine _ _ _ ho
    · exact wf_decodeMismatch _ _ _ _ ho

theorem wf_readUnits (entry : BitVec 32) (fuel : Nat) {m : Mem} (free key n : Nat) (h : m.wf = true) :
    (readUnits entry fuel m free key n).mem.wf = true := by
  induction fuel generalizing m free key n with
  | zero => exact h
  | succ fuel ih =>
    simp only [readUnits]
    split
    · exact h
    · apply ih
      split
      · exact wf_decodeExternal _ _ _ h
      · exact wf_decodeWord _ _ h

/-- Reading, with the corrections it writes back, keeps the canonical form. -/
theorem wf_readDecoded {m : Mem} (free : Nat) (entry : BitVec 32) (key n : Nat) (h : m.wf = true) :
    (readDecoded m free entry key n).mem.wf = true := wf_readUnits _ _ _ _ _ h

/-! ## Writing keeps the canonical form -/

theorem wf_writeWordPart {m : Mem} (key : Nat) (bytes : Marked) (h : m.wf = true) : (writeWordPart m key bytes).wf = true := by
  have hb := Mem.wf_setBytes key bytes.bytes h
  simp only [writeWordPart]
  repeat' split
  all_goals exact hb

theorem wf_writeCodeword {m : Mem} (l : Layout) (line lo : Nat) (bytes : Marked) (bad : Bool) (i : Nat) (h : m.wf = true) :
    (writeCodeword l line lo bytes bad m i).wf = true := by
  simp only [writeCodeword]
  repeat' split
  all_goals exact h

theorem wf_writeLineWord {m : Mem} (key : Nat) (bytes : Marked) (line w : Nat) (h : m.wf = true) :
    (writeLineWord key bytes line m w).wf = true := by
  simp only [writeLineWord]
  split
  · exact wf_writeWordPart _ _ h
  · exact h

theorem wf_writeLinePart {m : Mem} (entry : BitVec 32) (key : Nat) (bytes : Marked) (h : m.wf = true) :
    (writeLinePart m entry key bytes).wf = true := by
  simp only [writeLinePart]
  split
  · apply Mem.wf_foldl (fun _ _ h => wf_writeLineWord _ _ _ _ h)
    split
    · exact h
    · exact wf_showLine _ h
  · apply Mem.wf_foldl (fun _ _ h => wf_writeCodeword _ _ _ _ _ _ h)
    apply Mem.wf_setBytes
    split <;> exact h

theorem wf_writeUnits (entry : BitVec 32) (fuel : Nat) {m : Mem} (key : Nat) (bytes : Marked) (h : m.wf = true) :
    (writeUnits entry fuel m key bytes).wf = true := by
  induction fuel generalizing m key bytes with
  | zero => exact h
  | succ fuel ih =>
    simp only [writeUnits]
    split
    · exact h
    · apply ih
      split
      · exact wf_writeLinePart _ _ _ h
      · exact wf_writeWordPart _ _ h

/-- Writing keeps the canonical form. -/
theorem wf_writeMarked {m : Mem} (entry : BitVec 32) (key : Nat) (bytes : Marked) (h : m.wf = true) :
    (writeMarked m entry key bytes).wf = true := wf_writeUnits _ _ _ _ h

theorem wf_writeDecoded {m : Mem} (entry : BitVec 32) (key : Nat) (bytes : List Byte) (poison : Bool) (h : m.wf = true) :
    (writeDecoded m entry key bytes poison).wf = true := wf_writeMarked _ _ _ h

theorem wf_correctUnit {m : Mem} (free : Nat) (entry : BitVec 32) (base : Nat) (h : m.wf = true) :
    (correctUnit m free entry base).mem.wf = true := by
  simp only [correctUnit]
  split
  · exact wf_decodeWord _ _ h
  · split
    · split <;> exact wf_decodeTagged free base h
    · split
      · exact wf_decodeLine _ _ _ h
      · exact wf_writeBack _ _ (wf_decodeLine _ _ _ (wf_mismatched free _ (normalEntry entry) base h))

theorem wf_correctUnits (entry : BitVec 32) (fuel : Nat) {m : Mem} (free key n : Nat) (h : m.wf = true) :
    (correctUnits entry fuel m free key n).mem.wf = true := by
  induction fuel generalizing m free key n with
  | zero => exact h
  | succ fuel ih =>
    simp only [correctUnits]
    split
    · exact h
    · apply ih
      have ho : (if isExternal key = true then openArea m free (key / 64 * 64) else (m, free)).1.wf = true := by
        split
        · exact wf_openArea _ _ h
        · exact h
      split
      · exact ho
      · exact wf_correctUnit _ _ _ ho

/-- The reads that go before a write keep the canonical form. -/
theorem wf_correctPart {m : Mem} (free : Nat) (entry : BitVec 32) (key n : Nat) (h : m.wf = true) :
    (correctPart m free entry key n).mem.wf = true := wf_correctUnits _ _ _ _ _ h

/-! ## Scratchpad writes -/

theorem byte_writeWordPart (m : Mem) (key : Nat) (bytes : Marked) (k : Nat) :
    (writeWordPart m key bytes).byte k = (m.setBytes key bytes.bytes).byte k := by
  simp only [writeWordPart]
  repeat' split
  all_goals rfl

theorem setBytes_append (m : Mem) (k : Nat) (as bs : List Byte) :
    m.setBytes k (as ++ bs) = (m.setBytes k as).setBytes (k + as.length) bs := by
  induction as generalizing m k with
  | nil => rfl
  | cons a as ih =>
    rw [List.cons_append, Mem.setBytes, Mem.setBytes, ih, List.length_cons, show k + 1 + as.length = k + (as.length + 1) by omega]

/-- Writes of equal bytes over memories that agree at a byte agree there. -/
theorem byte_setBytes_congr {m m' : Mem} (k : Nat) (bs : List Byte) {j : Nat} (h : m.byte j = m'.byte j) :
    (m.setBytes k bs).byte j = (m'.setBytes k bs).byte j := by
  induction bs generalizing m m' k with
  | nil => exact h
  | cons b bs ih =>
    apply ih
    by_cases hj : j = k
    · subst hj; simp
    · rw [Mem.byte_setByte_other _ _ hj, Mem.byte_setByte_other _ _ hj, h]

theorem byte_writeUnits (entry : BitVec 32) (fuel : Nat) (m : Mem) (key : Nat) (bytes : Marked)
    (hk : ∀ i, i < bytes.length → isExternal (key + i) = false) (hf : bytes.length = 0 ∨ key % 8 + bytes.length ≤ 8 * fuel) (j : Nat) :
    (writeUnits entry fuel m key bytes).byte j = (m.setBytes key bytes.bytes).byte j := by
  induction fuel generalizing m key bytes with
  | zero =>
    have : bytes = [] := List.length_eq_zero_iff.mp (by omega)
    subst this; rfl
  | succ fuel ih =>
    simp only [writeUnits]
    split
    · next he => rw [List.isEmpty_iff.mp he]; rfl
    · next he =>
      have hpos : 0 < bytes.length := by
        rcases bytes with _ | ⟨b, bs⟩
        · simp at he
        · simp
      have hx : isExternal key = false := by simpa using hk 0 hpos
      simp only [hx, Bool.false_eq_true, if_false]
      generalize ht : min bytes.length (key / 8 * 8 + 8 - key) = n
      have hn : n ≤ bytes.length := by omega
      rw [ih]
      · have hb : bytes.bytes = Marked.bytes (bytes.take n) ++ Marked.bytes (bytes.drop n) := by
          simp only [Marked.bytes, ← List.map_append, List.take_append_drop]
        conv_rhs => rw [hb, setBytes_append]
        have hl : (Marked.bytes (bytes.take n)).length = n := by simp [Marked.bytes, hn]
        rw [hl]
        exact byte_setBytes_congr _ _ (byte_writeWordPart _ _ _ _)
      · intro i hi
        rw [List.length_drop] at hi
        rw [Nat.add_assoc]
        exact hk _ (by omega)
      · rw [List.length_drop]
        omega

/-- A write to bytes that no layout governs sets exactly those bytes. -/
theorem byte_writeMarked (m : Mem) (entry : BitVec 32) (key : Nat) (bytes : Marked)
    (hk : ∀ i, i < bytes.length → isExternal (key + i) = false) (j : Nat) :
    (writeMarked m entry key bytes).byte j = (m.setBytes key bytes.bytes).byte j :=
  byte_writeUnits _ _ _ _ _ hk (by omega) j

@[simp] theorem bytes_marked (bs : List Byte) (poison : Bool) : (marked bs poison).bytes = bs := by
  simp [marked, Marked.bytes, Function.comp_def]

theorem byte_writeDecoded (m : Mem) (entry : BitVec 32) (key : Nat) (bytes : List Byte) (poison : Bool)
    (hk : ∀ i, i < bytes.length → isExternal (key + i) = false) (j : Nat) :
    (writeDecoded m entry key bytes poison).byte j = (m.setBytes key bytes).byte j := by
  rw [writeDecoded, byte_writeMarked _ _ _ _ (by simpa [marked] using hk), bytes_marked]

/-! ## Reading clean words -/

theorem decodeWord_clean {m : Mem} (free key : Nat) (h : cleanWord m (key / 8) = true) :
    decodeWord m free key = ⟨m.bytes (key / 8 * 8) 8, List.replicate 8 false, [], m, free⟩ := by
  simp only [cleanWord, Bool.and_eq_true, Bool.not_eq_true', List.isEmpty_iff] at h
  have hk : key / 8 * 8 = 8 * (key / 8) := Nat.mul_comm _ _
  simp only [decodeWord, hk, h.1, h.2]
  rfl

theorem bytes_drop (m : Mem) (k n i : Nat) : (m.bytes k n).drop i = m.bytes (k + i) (n - i) := by
  induction i generalizing k n with
  | zero => simp
  | succ i ih =>
    cases n with
    | zero => simp [Mem.bytes]
    | succ n => rw [Mem.bytes, List.drop_succ_cons, ih]; congr 1 <;> omega

theorem bytes_take (m : Mem) (k n i : Nat) : (m.bytes k n).take i = m.bytes k (min i n) := by
  induction n generalizing k i with
  | zero => simp [Mem.bytes]
  | succ n ih =>
    cases i with
    | zero => simp [Mem.bytes]
    | succ i => rw [Mem.bytes, List.take_succ_cons, ih, Nat.succ_min_succ, Mem.bytes]

theorem bytes_add (m : Mem) (k a b : Nat) : m.bytes k (a + b) = m.bytes k a ++ m.bytes (k + a) b := by
  induction a generalizing k with
  | zero => simp [Mem.bytes]
  | succ a ih => rw [show a + 1 + b = a + b + 1 by omega, Mem.bytes, Mem.bytes, ih, List.cons_append, show k + 1 + a = k + (a + 1) by omega]

@[simp] theorem length_bytes (m : Mem) (k n : Nat) : (m.bytes k n).length = n := by
  induction n generalizing k with
  | zero => rfl
  | succ n ih => simp [Mem.bytes, ih]

theorem readUnits_clean (entry : BitVec 32) (fuel : Nat) (m : Mem) (free key n : Nat)
    (hk : ∀ i, i < n → isExternal (key + i) = false ∧ cleanWord m ((key + i) / 8) = true) (hf : n = 0 ∨ key % 8 + n ≤ 8 * fuel) :
    readUnits entry fuel m free key n = ⟨m.bytes key n, List.replicate n false, [], m, free⟩ := by
  induction fuel generalizing key n with
  | zero =>
    have : n = 0 := by omega
    subst this; rfl
  | succ fuel ih =>
    simp only [readUnits]
    split
    · next h => subst h; rfl
    · next h =>
      have h0 := hk 0 (by omega)
      simp only [Nat.add_zero] at h0
      simp only [h0.1, Bool.false_eq_true, if_false]
      rw [decodeWord_clean _ _ (by rw [show key / 8 * 8 / 8 = key / 8 by omega]; exact h0.2)]
      generalize ht : min n (key / 8 * 8 + 8 - key) = i
      have hle : i ≤ n := by omega
      rw [ih]
      · have hb : key / 8 * 8 / 8 * 8 = key / 8 * 8 := by omega
        simp only [hb, bytes_drop, bytes_take, List.drop_replicate, List.take_replicate, List.nil_append, List.replicate_append_replicate]
        have hk' : key / 8 * 8 + (key - key / 8 * 8) = key := by omega
        have hi : min i (8 - (key - key / 8 * 8)) = i := by omega
        rw [hk', hi, ← bytes_add, show i + (n - i) = n by omega]
      · intro j hj
        rw [Nat.add_assoc]
        exact hk _ (by omega)
      · omega

/-- Reading clean words of a space without layouts gives the stored bytes and changes nothing. -/
theorem readDecoded_clean (entry : BitVec 32) (m : Mem) (free key n : Nat)
    (hk : ∀ i, i < n → isExternal (key + i) = false ∧ cleanWord m ((key + i) / 8) = true) :
    readDecoded m free entry key n = ⟨m.bytes key n, List.replicate n false, [], m, free⟩ :=
  readUnits_clean _ _ _ _ _ _ hk (by omega)

/-- A write of clean words of a space without layouts corrects and finds nothing first. -/
theorem correctUnits_clean (entry : BitVec 32) (fuel : Nat) (m : Mem) (free key n : Nat)
    (hk : ∀ i, i < n → isExternal (key + i) = false ∧ cleanWord m ((key + i) / 8) = true) :
    correctUnits entry fuel m free key n = ⟨[], [], [], m, free⟩ := by
  induction fuel generalizing key n with
  | zero => rfl
  | succ fuel ih =>
    simp only [correctUnits]
    split
    · rfl
    · next h =>
      have h0 := hk 0 (by omega)
      simp only [Nat.add_zero] at h0
      have hu : unitBytes entry key = 8 := by simp [unitBytes, h0.1]
      have hb : isExternal (key / 8 * 8) = false := by
        have hx := h0.1
        rw [isExternal, decide_eq_false_iff_not, spaceOf] at hx ⊢
        omega
      simp only [hu, h0.1, Bool.false_eq_true, if_false]
      split
      · rw [ih]
        · rfl
        · intro j hj
          rw [Nat.add_assoc]
          exact hk _ (by omega)
      · simp only [correctUnit, hb, Bool.not_false, if_true]
        rw [decodeWord_clean _ _ (by rw [show key / 8 * 8 / 8 = key / 8 by omega]; exact h0.2)]
        simp only
        rw [ih]
        · rfl
        · intro j hj
          rw [Nat.add_assoc]
          exact hk _ (by omega)

theorem correctPart_clean (entry : BitVec 32) (m : Mem) (free key n : Nat)
    (hk : ∀ i, i < n → isExternal (key + i) = false ∧ cleanWord m ((key + i) / 8) = true) :
    correctPart m free entry key n = ⟨[], [], [], m, free⟩ := correctUnits_clean _ _ _ _ _ _ hk

end Sys2Proof.Machine
end

