-- ==== Sys2Proof/Laws/Exec.lean ====
section
/-! SUPPORT. What the shared operations of an instruction answer: the primitives, the operands that are registers, constants
and immediates, the register writes, and the issue of an instruction whose body runs. -/

namespace Sys2Proof.Machine

open Sys2Proof.Claims

/-! ## The primitives -/

@[simp] theorem run_trap {α : Type} (c : Byte) (v : Word) (s : State) :
    (trap c v : Exec α).run s = .error (.trap c v none) s := rfl
@[simp] theorem run_consumed {α : Type} (v : Word) (s : State) : (consumed v : Exec α).run s = .error (.poison v) s := rfl
@[simp] theorem run_waitFor {α : Type} (w : Why) (s : State) : (waitFor w : Exec α).run s = .error (.wait w id) s := rfl
@[simp] theorem run_check (ok : Bool) (c : Byte) (v : Word) (s : State) :
    (check ok c v).run s = if ok then .ok () s else .error (.trap c v none) s := by cases ok <;> rfl
@[simp] theorem run_waitUntil (ok : Bool) (w : Why) (s : State) :
    (waitUntil ok w).run s = if ok then .ok () s else .error (.wait w id) s := by cases ok <;> rfl
@[simp] theorem run_me (s : State) : me.run s = .ok s.focus s := rfl
@[simp] theorem run_mySeq (s : State) : mySeq.run s = .ok (here s) s := rfl
@[simp] theorem run_modMe (f : Seq → Seq) (s : State) : (modMe f).run s = .ok () (s.modSeq s.focus f) := rfl
@[simp] theorem run_myTileNo (s : State) : myTileNo.run s = .ok (home s) s := rfl
@[simp] theorem run_myTile (s : State) : myTile.run s = .ok (s.tile (home s)) s := rfl
@[simp] theorem run_modMyTile (f : Tile → Tile) (s : State) : (modMyTile f).run s = .ok () (s.modTile (home s) f) := rfl
@[simp] theorem run_myGangNo (s : State) : myGangNo.run s = .ok (s.gangOf s.focus) s := rfl
@[simp] theorem run_myPart (s : State) : myPart.run s = .ok (s.partOf s.focus) s := rfl
@[simp] theorem run_myTwin (s : State) : myTwin.run s = .ok (role s) s := rfl
@[simp] theorem run_raiseFlags (f : Flags) (s : State) : (raiseFlags f).run s = .ok () (withFlags f s) := rfl
@[simp] theorem run_myRm (s : State) : myRm.run s = .ok (Rm.ofCode (here s).fprm.toNat) s := rfl

/-- A pair's member takes bytes into its fingerprint, another sequencer does nothing. -/
@[simp] theorem run_takeIn (bs : List Byte) (s : State) : (takeIn bs).run s = .ok () (noted bs s) := by
  simp only [takeIn, EStateM.run_bind, run_myTwin, noted]
  by_cases h : role s = .alone <;> simp [h]

/-! ## Registers -/

/-- A register that is not pending gives its value with its mark. -/
theorem run_getX {s : State} {n : Nat} (h : xFree s n = true) :
    (getX n).run s = .ok ((here s).x n, n != 0 && (here s).xPoison.getLsbD n) s := by
  simp only [xFree, Bool.or_eq_true, beq_iff_eq, Bool.not_eq_true'] at h
  rcases h with h | h <;> simp [getX, h]

/-- A register that is neither pending nor poisoned gives its value. -/
theorem run_useX {s : State} {n : Nat} (h : xOk s n = true) : (useX n).run s = .ok ((here s).x n) s := by
  simp only [xOk, Bool.or_eq_true, beq_iff_eq, Bool.and_eq_true, Bool.not_eq_true'] at h
  have hf : xFree s n = true := by simp only [xFree, Bool.or_eq_true, beq_iff_eq, Bool.not_eq_true']; tauto
  simp only [useX, EStateM.run_bind, run_getX hf]
  rcases h with h | h <;> simp [h]

/-- A poisoned register that is not pending is consumed. -/
theorem run_useX_poison {s : State} {n : Nat} (hf : xFree s n = true) (h0 : n ≠ 0)
    (hp : (here s).xPoison.getLsbD n = true) : (useX n).run s = .error (.poison 0) s := by
  simp [useX, run_getX hf, hp, h0]

/-- A register that is not pending is written, x0 discards. -/
theorem run_putX {s : State} {n : Nat} (v : Word) (p : Bool) (h : xFree s n = true) :
    (putX n v p).run s = .ok () (withX n v p s) := by
  simp only [xFree, Bool.or_eq_true, beq_iff_eq, Bool.not_eq_true'] at h
  by_cases h0 : n = 0
  · simp [putX, h0, withX]
  · simp [putX, h0, withX, h.resolve_left h0]

/-- A pending register stalls its writer. -/
theorem run_putX_pending {s : State} {n : Nat} (v : Word) (p : Bool) (h : xFree s n = false) :
    (putX n v p).run s = .error (.wait .pending id) s := by
  simp only [xFree, Bool.or_eq_false_iff, beq_eq_false_iff_ne, Bool.not_eq_false'] at h
  simp [putX, h.1, h.2]

theorem run_getV {s : State} {n : Nat} (h : vFree s n = true) :
    (getV n).run s = .ok ((here s).v n, (here s).vPoison.getD n 0) s := by
  simp only [vFree, Bool.not_eq_true'] at h
  simp [getV, h]

theorem run_putV {s : State} {n : Nat} (v : VReg) (p : BitVec 32) (h : vFree s n = true) :
    (putV n v p).run s = .ok () (withV n v p s) := by
  simp only [vFree, Bool.not_eq_true'] at h
  simp [putV, h, withV]

@[simp] theorem run_putP (n : Nat) (v : Bool) (s : State) : (putP n v).run s = .ok () (withP n v s) := by
  by_cases h0 : n = 0 <;> simp [putP, h0, withP]

/-! ## Operands that are no queue and no stream -/

/-- A scalar source that is no queue and no stream gives its value. -/
theorem run_source {u : State} {ty : Nat} {spec : BitVec 6} {imm : BitVec 16} {v : Word} (w : BitVec 8)
    (h : scalarAt u ty spec imm = some v) : (source ty spec.toNat imm w).run u = .ok ⟨v, false, 0⟩ u := by
  simp only [scalarAt] at h
  simp only [source]
  split at h
  · next hlt =>
    split at h
    · next hx =>
      have hf : xFree u spec.toNat = true := by
        simp only [xOk, xFree, Bool.or_eq_true, beq_iff_eq, Bool.and_eq_true, Bool.not_eq_true'] at hx ⊢; tauto
      have hp : (spec.toNat != 0 && (here u).xPoison.getLsbD spec.toNat) = false := by
        simp only [xOk, Bool.or_eq_true, beq_iff_eq, Bool.and_eq_true, Bool.not_eq_true'] at hx
        rcases hx with hx | hx <;> simp [hx]
      simp only [Option.some.injEq] at h
      simp only [hlt, if_true, EStateM.run_bind, run_getX hf, hp, EStateM.run_pure, h]
    · simp at h
  · split at h
    · simp at h
    · have h48 : ¬ spec.toNat < 48 := by omega
      split at h
      · simp only [Option.some.injEq] at h; simp [*]; exact h
      · simp only [Option.some.injEq] at h; simp [*]

theorem run_useSource {u : State} {ty : Nat} {spec : BitVec 6} {imm : BitVec 16} {v : Word} (w : BitVec 8)
    (h : scalarAt u ty spec imm = some v) : (useSource ty spec.toNat imm w).run u = .ok v u := by
  simp [useSource, run_source w h]

theorem run_vsource {u : State} {ty : Nat} {spec : BitVec 6} {imm : BitVec 16} {v : VReg} (w : BitVec 8)
    (h : vectorAt u ty spec imm = some v) : (vsource ty spec.toNat imm w).run u = .ok ⟨v, 0, 0⟩ u := by
  simp only [vectorAt] at h
  simp only [vsource]
  split at h
  · next hlt =>
    split at h
    · next hx =>
      have hf : vFree u spec.toNat = true := by simp only [vOk, vFree, Bool.and_eq_true] at hx ⊢; exact hx.1
      have hp : (here u).vPoison.getD spec.toNat 0 = 0 := by
        simp only [vOk, Bool.and_eq_true, beq_iff_eq] at hx; exact hx.2
      simp only [Option.some.injEq] at h
      simp only [hlt, if_true, EStateM.run_bind, run_getV hf, hp, EStateM.run_pure, h]
    · simp at h
  · split at h
    · simp at h
    · have h48 : ¬ spec.toNat < 48 := by omega
      have h56 : ¬ spec.toNat < 56 := by omega
      simp only [Option.some.injEq] at h
      simp [*]

theorem run_useVSource {u : State} {ty : Nat} {spec : BitVec 6} {imm : BitVec 16} {v : VReg} (w : BitVec 8)
    (h : vectorAt u ty spec imm = some v) : (useVSource ty spec.toNat imm w).run u = .ok v u := by
  simp [useVSource, run_vsource w h]

/-- The sources of an instruction none of which is a queue or a stream. -/
theorem run_useABC {u : State} {n ty : Nat} {f : F96Q} {r : Word × Word × Word} (h : scalarsAt u n ty f.base = some r) :
    (useABC n ty f).run u = .ok r u := by
  simp only [scalarsAt] at h
  split at h
  · next a b c ha hb hc =>
    simp only [Option.some.injEq] at h
    subst h
    by_cases h2 : 2 ≤ n
    · rw [if_pos h2] at hb
      by_cases h3 : 3 ≤ n
      · rw [if_pos h3] at hc; simp [useABC, h2, h3, run_useSource _ ha, run_useSource _ hb, run_useSource _ hc]
      · rw [if_neg h3, Option.some.injEq] at hc; simp [useABC, h2, h3, run_useSource _ ha, run_useSource _ hb, ← hc]
    · rw [if_neg h2, Option.some.injEq] at hb
      by_cases h3 : 3 ≤ n
      · omega
      · rw [if_neg h3, Option.some.injEq] at hc; simp [useABC, h2, h3, run_useSource _ ha, ← hb, ← hc]
  · simp at h

theorem run_useVABC {u : State} {n ty : Nat} {f : F96Q} {r : VReg × VReg × VReg} (h : vectorsAt u n ty f.base = some r) :
    (useVABC n ty f).run u = .ok r u := by
  simp only [vectorsAt] at h
  split at h
  · next a b c ha hb hc =>
    simp only [Option.some.injEq] at h
    subst h
    by_cases h2 : 2 ≤ n
    · rw [if_pos h2] at hb
      by_cases h3 : 3 ≤ n
      · rw [if_pos h3] at hc; simp [useVABC, h2, h3, run_useVSource _ ha, run_useVSource _ hb, run_useVSource _ hc]
      · rw [if_neg h3, Option.some.injEq] at hc; simp [useVABC, h2, h3, run_useVSource _ ha, run_useVSource _ hb, ← hc]
    · rw [if_neg h2, Option.some.injEq] at hb
      by_cases h3 : 3 ≤ n
      · omega
      · rw [if_neg h3, Option.some.injEq] at hc; simp [useVABC, h2, h3, run_useVSource _ ha, ← hb, ← hc]
  · simp at h

/-- A specifier that gives a scalar value names no queue. -/
theorem scalarAt_noQueue {u : State} {ty : Nat} {spec : BitVec 6} {imm : BitVec 16} {v : Word}
    (h : scalarAt u ty spec imm = some v) : (decide (32 ≤ spec.toNat) && decide (spec.toNat < 48)) = false := by
  simp only [scalarAt] at h
  simp only [Bool.and_eq_false_iff, decide_eq_false_iff_not]
  split at h
  · omega
  · split at h
    · simp at h
    · omega

theorem vectorAt_noQueue {u : State} {ty : Nat} {spec : BitVec 6} {imm : BitVec 16} {v : VReg}
    (h : vectorAt u ty spec imm = some v) : (decide (32 ≤ spec.toNat) && decide (spec.toNat < 48)) = false := by
  simp only [vectorAt] at h
  simp only [Bool.and_eq_false_iff, decide_eq_false_iff_not]
  split at h
  · omega
  · split at h
    · simp at h
    · omega

/-- Operands without a queue wait for nothing. -/
theorem run_queueWaits {ops : List QOperand} (u : State)
    (h : ∀ o ∈ ops, (decide (32 ≤ o.spec) && decide (o.spec < 48)) = false) : (queueWaits ops).run u = .ok () u := by
  have : ops.filter (fun o => decide (32 ≤ o.spec) && decide (o.spec < 48)) = [] := List.filter_eq_nil_iff.mpr (by simpa using h)
  simp [queueWaits, this]

/-- A destination that is an x register is written. -/
theorem run_putDest {s : State} {n : Nat} (w : BitVec 8) (v : Word) (p : Bool) (hn : n < 32) (h : xFree s n = true) :
    (putDest n w v p).run s = .ok () (withX n v p s) := by simp [putDest, hn, run_putX v p h]

/-- A destination that is a v register is written. -/
theorem run_putVDest {s : State} {n : Nat} (w : BitVec 8) (v : VReg) (p : BitVec 32) (hn : n < 32) (h : vFree s n = true) :
    (putVDest n w v p).run s = .ok () (withV n v p s) := by simp [putVDest, hn, run_putV v p h]

/-- What a change of the sequencer in focus leaves it with. -/
@[simp] theorem here_modSeq (u : State) (f : Seq → Seq) : here (u.modSeq u.focus f) = f (here u) := by
  simp [here]

/-! ## Operands in general -/

/-- What each of the scalar sources gives. -/
theorem scalarsAt_inv {u : State} {n ty : Nat} {f : F64A} {r} (h : scalarsAt u n ty f = some r) : 
  ∃ a b c, scalarAt u ty f.a f.imm16 = some a ∧ (2 ≤ n → scalarAt u ty f.b f.imm16 = some b) ∧ (3 ≤ n → scalarAt u ty f.c f.imm16 = some c) := by
  simp only [scalarsAt] at h
  split at h
  · next a b c ha hb hc => exact ⟨a, b, c, ha, fun h => by rwa [if_pos h] at hb, fun h => by rwa [if_pos h] at hc⟩
  · simp at h

/-- What each of the vector sources gives. -/
theorem vectorsAt_inv {u : State} {n ty : Nat} {f : F64A} {r} (h : vectorsAt u n ty f = some r) : 
  ∃ a b c, vectorAt u ty f.a f.imm16 = some a ∧ (2 ≤ n → vectorAt u ty f.b f.imm16 = some b) ∧ (3 ≤ n → vectorAt u ty f.c f.imm16 = some c) := by
  simp only [vectorsAt] at h
  split at h
  · next a b c ha hb hc => exact ⟨a, b, c, ha, fun h => by rwa [if_pos h] at hb, fun h => by rwa [if_pos h] at hc⟩
  · simp at h

/-- The operands of an instruction wait for nothing when none is a queue. -/
theorem run_queueWaits_operands {n : Nat} {f : F96Q} {ds va vb vc vd : Bool} (u : State) (hn : 1 ≤ n) (hn3 : n ≤ 3)
   (ha : (decide (32 ≤ f.base.a.toNat) && decide (f.base.a.toNat < 48)) = false)
   (hb : 2 ≤ n → (decide (32 ≤ f.base.b.toNat) && decide (f.base.b.toNat < 48)) = false)
   (hc : 3 ≤ n → (decide (32 ≤ f.base.c.toNat) && decide (f.base.c.toNat < 48)) = false)
   (hd : f.base.d.toNat < 32) : (queueWaits (operands n f ds vd va vb vc)).run u = .ok () u := by
  apply run_queueWaits
  have hd' : (decide (32 ≤ f.base.d.toNat) && decide (f.base.d.toNat < 48)) = false := by simp; omega
  intro o ho
  obtain h1 | h1 | h1 : n = 1 ∨ n = 2 ∨ n = 3 := by omega
  all_goals
    rw [h1] at hb hc
    simp only [operands, h1, List.take, List.mem_append, List.mem_cons, List.not_mem_nil, or_false] at ho
  · rcases ho with rfl | rfl
    · exact ha
    · exact hd'
  · rcases ho with (rfl | rfl) | rfl
    · exact ha
    · exact (hb (by omega))
    · exact hd'
  · rcases ho with (rfl | rfl | rfl) | rfl
    · exact ha
    · exact (hb (by omega))
    · exact (hc (by omega))
    · exact hd'

/-- A register is no queue. -/
theorem lt_noQueue {n : Nat} (h : n < 32) : (decide (32 ≤ n) && decide (n < 48)) = false := by simp; omega

/-- Scalar sources that give values wait for nothing. -/
theorem waits_scalar {n ty : Nat} {f : F96Q} {ds va vb vc vd : Bool} {u : State} {r} (hn : 1 ≤ n) (hn3 : n ≤ 3)
   (h : scalarsAt u n ty f.base = some r) (hd : f.base.d.toNat < 32) : (queueWaits (operands n f ds vd va vb vc)).run u = .ok () u := by
  obtain ⟨a, b, c, ha, hb, hc⟩ := scalarsAt_inv h
  exact run_queueWaits_operands u hn hn3 (scalarAt_noQueue ha) (fun h => scalarAt_noQueue (hb h)) (fun h => scalarAt_noQueue (hc h)) hd

/-- Vector sources that give values wait for nothing. -/
theorem waits_vector {n ty : Nat} {f : F96Q} {ds va vb vc vd : Bool} {u : State} {r} (hn : 1 ≤ n) (hn3 : n ≤ 3)
   (h : vectorsAt u n ty f.base = some r) (hd : f.base.d.toNat < 32) : (queueWaits (operands n f ds vd va vb vc)).run u = .ok () u := by
  obtain ⟨a, b, c, ha, hb, hc⟩ := vectorsAt_inv h
  exact run_queueWaits_operands u hn hn3 (vectorAt_noQueue ha) (fun h => vectorAt_noQueue (hb h)) (fun h => vectorAt_noQueue (hc h)) hd


/-! ## Scratchpads -/

/-- No byte of a scratchpad lies in external memory. -/
theorem scratch_not_external {t off : Nat} (h : off < 2 ^ 20) : isExternal (scratchKey t off) = false := by
  have e : spaceOf (scratchKey t off) = 2 := by
    unfold spaceOf scratchKey keyOf spaceScratch
    omega
  simp only [isExternal, e]; decide

/-- No tile is outside a sequencer of no pair. -/
theorem run_outsideTile_alone {s : State} (t : Nat) (h : role s = .alone) : (outsideTile t).run s = .ok false s := by
  simp only [outsideTile, EStateM.run_bind, EStateM.run_get, run_myTwin, h, EStateM.run_pure]; simp

/-- A sequencer whose tile is in no pair has no part in one. -/
theorem unpaired_alone {u : State} (h : Unpaired u) : role u = .alone := by
  simp only [role, memberOf]
  split
  · next t ht => split <;> simp [(h t ht).1]
  · rfl

theorem solo_alone {u : State} (h : Solo u) : role u = .alone := unpaired_alone h.1

theorem solo_isPaired {u : State} (h : Solo u) : isPaired u u.focus = false := by
  have := solo_alone h
  simp only [role] at this
  simp [isPaired, this]

theorem inPair_alone {s : State} (h : role s = .alone) (t : Nat) : inPair s s.focus t = false := by
  simp only [role] at h
  simp only [inPair, isPaired, h]
  split <;> simp

/-- Where every agent sees every write, a change of the unseen writes changes nothing. -/
theorem modUnseen_calm {s : State} (h : s.mem.unseen = []) (f : List Unseen → List Unseen) : s.modUnseen f = s := by
  simp [State.modUnseen, h]

theorem wrote_calm {s : State} (h : s.mem.unseen = []) (q : SeqId) (words : List Nat) : wrote q words s = s := by
  simp only [wrote, modUnseen_calm h]

/-- Bytes written to a scratchpad of no pair. -/
theorem run_putScratch {s : State} {t off : Nat} {bs : List Byte} {p : Bool} (h : role s = .alone) (ht : (s.tile t).twin = .alone)
   (hr : State.tileOf s.focus = some t ∨ fenced s t = false)
   (hf : inFlight s s.focus (wordsOf (scratchKey t off) bs.length) = false) (hp : pushesToward s s.focus t = false)
   (hu : s.mem.unseen = []) :
   (putScratch t off (marked bs p)).run s = .ok () (withBytes (scratchKey t off) bs p s) := by
  have hl : (marked bs p).length = bs.length := by simp [marked]
  have hx : (State.tileOf s.focus != some t && fenced s t) = false := by
    rcases hr with hr | hr <;> simp [hr]
  have hw : writeScratch (inPair s s.focus t) (s.partOf s.focus) (s.gangOf s.focus) t off (marked bs p) s = withBytes (scratchKey t off) bs p s := by
    simp [writeScratch, ht, withBytes]
  have hq : (!inFlight s s.focus (wordsOf (scratchKey t off) (marked bs p).length) && !pushesToward s s.focus t) = true := by rw [hl, hf, hp]; rfl
  simp only [putScratch, EStateM.run_bind, EStateM.run_get, run_waitUntil]
  rw [hq, if_pos rfl]
  simp only [run_outsideTile_alone t h, Bool.false_eq_true, if_false, hx, EStateM.run_modify, wrote_calm hu, hw]

/-- Keys within a scratchpad. -/
theorem scratch_add (t off i : Nat) : scratchKey t off + i = scratchKey t (off + i) := by unfold scratchKey keyOf; omega

/-- Reading clean words of a scratchpad gives their bytes and changes nothing. -/
theorem read_scratch {m : Mem} {free t off n : Nat} (hn : off + n ≤ 2 ^ 20) (hc : Claims.cleanBytes m (scratchKey t off) n = true) :
   readDecoded m free 0 (scratchKey t off) n = ⟨m.bytes (scratchKey t off) n, List.replicate n false, [], m, free⟩ := by
  apply readDecoded_clean
  intro i hi
  rw [scratch_add]
  refine ⟨scratch_not_external (by omega), ?_⟩
  rw [← scratch_add]
  exact List.all_eq_true.mp hc i (by simpa using hi)

/-- Fetching bytes that a read leaves as they are. -/
theorem run_fetchClean {s : State} {p g key n : Nat} {bs : List Byte} (he : isExternal key = false)
   (hr : readDecoded s.mem s.free 0 key n = ⟨bs, List.replicate n false, [], s.mem, s.free⟩) :
   (fetchBytes p g 0 key n).run s = .ok (bs, List.replicate n false) s := by
  unfold fetchBytes
  simp only [EStateM.run_bind, EStateM.run_get, he, Bool.false_and, Bool.false_eq_true, if_false, EStateM.run_pure, hr]
  rfl

@[simp] theorem spread_calm {s : State} (h : s.mem.unseen = []) (q : SeqId) : spread q s = s := modUnseen_calm h _

theorem markUnseen_calm {s : State} (h : s.mem.unseen = []) (k : Mark) (p : Unseen → Bool) : markUnseen k p s = s := modUnseen_calm h _

theorem hide_calm {s : State} (h : s.slack = 0) (a : Nat → List Nat) (l : List Mark) (key n : Nat) (t : State) : hide s a l key n t = t := by
  simp [hide, h]

theorem run_viewNewest {s : State} (h : s.mem.unseen = []) (q : SeqId) (key n : Nat) : (viewNewest q key n).run s = .ok () s := by
  simp only [viewNewest, EStateM.run_modify, reads, modUnseen_calm h]

/-- Bytes read from a scratchpad at a known key. -/
theorem run_takeKey {s : State} {t off n key : Nat} {bs : List Byte} (hk : scratchKey t off = key) (h : role s = .alone)
   (hr : State.tileOf s.focus = some t ∨ fencedKey s key = false)
   (hf : inFlight s s.focus (wordsOf key n) = false) (hp : pushesToward s s.focus t = false) (hu : s.mem.unseen = []) (he : isExternal key = false)
   (hd : readDecoded s.mem s.free 0 key n = ⟨bs, List.replicate n false, [], s.mem, s.free⟩) :
   (takeScratch t off n).run s = .ok (bs.zip (List.replicate n false)) s := by
  unfold takeScratch fetchMarked
  simp only [hk, EStateM.run_bind, EStateM.run_get, run_waitUntil, hf, hp, Bool.not_false, Bool.and_self, if_true, run_outsideTile_alone t h,
    Bool.false_eq_true, if_false, run_viewNewest hu]
  split
  · simp only [EStateM.run_bind, run_fetchClean he hd, EStateM.run_pure]
  · next hn => simp only [EStateM.run_bind, EStateM.run_get, hr.resolve_left hn, Bool.false_eq_true, if_false, run_fetchClean he hd, EStateM.run_pure]

theorem zip_replicate_false (bs : List Byte) (n : Nat) (h : bs.length = n) : bs.zip (List.replicate n false) = marked bs false := by
  subst h
  induction bs with
  | nil => rfl
  | cons b bs ih => simp only [List.length_cons, List.replicate_succ, List.zip_cons_cons, ih]; rfl

/-- Bytes read from clean words of a scratchpad. -/
theorem run_takeScratch {s : State} {t off n : Nat} (h : role s = .alone) (h0 : off < 2 ^ 20) (hn : off + n ≤ 2 ^ 20)
   (hr : State.tileOf s.focus = some t ∨ fencedKey s (scratchKey t off) = false)
   (hf : inFlight s s.focus (wordsOf (scratchKey t off) n) = false) (hp : pushesToward s s.focus t = false) (hu : s.mem.unseen = []) (hc : Claims.cleanBytes s.mem (scratchKey t off) n = true) :
   (takeScratch t off n).run s = .ok (marked (s.mem.bytes (scratchKey t off) n) false) s := by
  rw [run_takeKey rfl h hr hf hp hu (scratch_not_external h0) (read_scratch hn hc), zip_replicate_false _ _ (length_bytes _ _ _)]

/-! ## Issue -/

/-- An instruction that is ready and whose body runs is over where the body leaves it. -/
theorem issue_runs {s t : State} {i : Instr} {pred : BitVec 3} {pneg : BitVec 1} {body : Exec Flow} {f : Flow}
    (h : Ready s i pred pneg) (hb : body.run (issued s) = .ok f t) :
    issue i pred pneg body s = .next (complete (isPaired s s.focus) s.focus i (nextPc s s.focus i) f t) := by
  obtain ⟨hs, hd, hp⟩ := h
  simp only [issued] at hb
  simp [issue, hs, hd, hp, hb]

/-- An instruction that is ready and whose body raises a cause traps. -/
theorem issue_traps {s t : State} {i : Instr} {pred : BitVec 3} {pneg : BitVec 1} {body : Exec Flow} {c : Byte} {v : Word}
    {m : Option Access} (h : Ready s i pred pneg) (hb : body.run (issued s) = .error (.trap c v m) t) :
    issue i pred pneg body s =
      .next (raiseTrap s.focus c (if c = 0x01 then lowBits i else v) m (nextPc s s.focus i) (keepFindings (issued s) t)) := by
  obtain ⟨hs, hd, hp⟩ := h
  simp only [issued] at hb
  simp [issue, hs, hd, hp, hb, issued]

/-- An instruction that is ready and whose body consumes poison ends as containment says. -/
theorem issue_consumes {s t : State} {i : Instr} {pred : BitVec 3} {pneg : BitVec 1} {body : Exec Flow} {v : Word}
    (h : Ready s i pred pneg) (hb : body.run (issued s) = .error (.poison v) t) :
    issue i pred pneg body s = .next (consumePoison s.focus (noteConsumed s.focus v (keepFindings (issued s) t))) := by
  obtain ⟨hs, hd, hp⟩ := h
  simp only [issued] at hb
  simp [issue, hs, hd, hp, hb, issued]

/-- An instruction that is ready and whose body waits leaves the state as before it, with the wait noted. -/
theorem issue_waits {s t : State} {i : Instr} {pred : BitVec 3} {pneg : BitVec 1} {body : Exec Flow} {w : Why}
    {reg : State → State} (h : Ready s i pred pneg) (hb : body.run (issued s) = .error (.wait w reg) t) :
    issue i pred pneg body s = .next (reg (recordWait s.focus w s)) := by
  obtain ⟨hs, hd, hp⟩ := h
  simp only [issued] at hb
  simp [issue, hs, hd, hp, hb]

/-- A queue-wait form runs as its body. -/
theorem issueQ_runs {s t : State} {i : Instr} {f : F96Q} {body : Exec Flow} {fl : Flow}
    (h : Ready s i f.base.pred f.base.pneg) (hb : body.run (issued s) = .ok fl t) :
    issueQ i f body s = .next (complete (isPaired s s.focus) s.focus i (nextPc s s.focus i) fl t) := by
  exact issue_runs h hb

/-- Either form of an operation runs as its body. -/
theorem either {i : Instr} {mk mq} {f : F96Q} {s t : State} {body : F96Q → Exec Flow} {fl : Flow} (h : EitherForm i mk mq f)
   (h1 : exec (mk f.base) s = issueA (mk f.base) f.base (body (plain f.base)) s)
   (h2 : exec (mq f) s = issueQ (mq f) f (body f) s)
   (hr : Ready s i f.base.pred f.base.pneg) (hb : ∀ g : F96Q, g.base = f.base → (body g).run (issued s) = .ok fl t) :
   exec i s = .next (complete (isPaired s s.focus) s.focus i (nextPc s s.focus i) fl t) := by
  rcases h with rfl | rfl
  · rw [h1]; exact issue_runs hr (hb _ rfl)
  · rw [h2]; exact issueQ_runs hr (hb _ rfl)

/-- An instruction whose predicate does not hold is over with no effect (R38). -/
theorem issue_nullified {s : State} {i : Instr} {pred : BitVec 3} {pneg : BitVec 1} {body : Exec Flow}
    (hs : pairStalled s s.focus = false) (hd : decodeOk s s.focus i = true)
    (hp : predHolds (s.seq s.focus) pred pneg = false) :
    issue i pred pneg body s = .next (setPc s.focus (nextPc s s.focus i) (retire (isPaired s s.focus) s.focus (issued s))) := by
  simp [issue, hs, hd, hp, issued]

/-- An instruction that fails a decode check raises 0x01 (R71). -/
theorem issue_illegal {s : State} {i : Instr} {pred : BitVec 3} {pneg : BitVec 1} {body : Exec Flow}
    (hs : pairStalled s s.focus = false) (hd : decodeOk s s.focus i = false) :
    issue i pred pneg body s = traps s i 0x01 (lowBits i) := by
  simp [issue, hs, hd, issued, traps]

/-! ## Outside a pair -/

theorem tileOf_home {u : State} {t : Nat} (h : State.tileOf u.focus = some t) : home u = t := by simp [home, h]

/-- A member of no pair takes nothing from an echo and leaves none. -/
theorem run_echoed_alone {s : State} (h : role s = .alone) (act : Exec (List Word)) : (echoed act).run s = act.run s := by
  simp only [echoed, EStateM.run_bind, EStateM.run_get, run_myTwin, h]

theorem run_echoed1_alone {s : State} (h : role s = .alone) (act : Exec Word) : (echoed1 act).run s = act.run s := by
  simp only [echoed1, EStateM.run_bind, run_echoed_alone h, EStateM.run_pure]
  rcases act.run s with ⟨v, t⟩ | ⟨e, t⟩ <;> rfl

theorem run_unlessTwin_alone {s : State} (h : role s = .alone) (act : Exec Unit) : (unlessTwin act).run s = act.run s := by
  simp [unlessTwin, h]

theorem run_awaitAcks {s : State} (h : allAcknowledged s s.focus = true) : awaitAcks.run s = .ok () s := by
  simp [awaitAcks, h]

theorem acknowledged_iff {s : State} : acknowledged s = true ↔ allAcknowledged s s.focus = true ∧ Calm s := by
  simp [acknowledged, Calm, and_assoc]

/-- A sequencer outside a pair holds nothing back. -/
theorem run_settleHeld_alone {s : State} (h : Solo s) : settleHeld.run s = .ok () s := by
  simp only [settleHeld, EStateM.run_bind, EStateM.run_get, solo_isPaired h]
  split <;> simp_all

theorem run_release {s : State} (hs : Solo s) (h : acknowledged s = true) : release.run s = .ok () s := by
  simp [release, run_awaitAcks (acknowledged_iff.mp h).1, run_settleHeld_alone hs, hs.2.2]

theorem run_forkEdge_alone {s : State} (h : acknowledged s = true) : forkEdge.run s = .ok () s := by
  have h := acknowledged_iff.mp h
  simp [forkEdge, forkWait, run_awaitAcks h.1, h.2.2]

/-- A sequencer outside a pair closes no interval. -/
theorem run_closeBefore_alone {s : State} (h : Solo s) : closeBefore.run s = .ok () s := by
  simp only [closeBefore, EStateM.run_bind, EStateM.run_get, solo_isPaired h]
  split <;> simp_all

theorem run_closeAfter_alone {s : State} (h : Solo s) : closeAfter.run s = .ok () s := by
  simp only [closeAfter, EStateM.run_bind, EStateM.run_get, solo_isPaired h]
  split <;> simp_all

theorem mirrored_solo {s : State} (h : Solo s) (g : Nat) : mirrored s s.focus g = g := by
  simp only [mirrored]
  split
  · next t ht => simp [(h.1 t ht).1]
  · rfl

/-- A bound handle of a sequencer outside a pair. -/
theorem run_boundQueue_solo {s : State} {spec t base : Nat} (h : Solo s) (hm : ∀ c, s.focus = .m c → spec ≠ 47)
    (hb : (here s).handles.getD (spec - 32) none = some (.tile t base)) : (boundQueue spec).run s = .ok (.tile t base) s := by
  have hb' : (s.seq s.focus).handles.getD (spec - 32) none = some (.tile t base) := hb
  simp only [boundQueue, EStateM.run_bind, EStateM.run_get]
  have hmir := mirrored_solo h t
  cases hf : s.focus <;> rw [hf] at hb' hmir <;> simp only [hb', hmir]
  case m c => rw [if_neg (hm c hf)]; rfl
  all_goals rfl

theorem run_outsideQueue_alone {s : State} (h : role s = .alone) (r : QRef) : (outsideQueue r).run s = .ok false s := by
  cases r <;> simp [outsideQueue, run_outsideTile_alone, h]

theorem run_echoedQueue_alone {s : State} (h : role s = .alone) (r : QRef) : (echoedQueue r).run s = .ok false s := by
  cases r <;> simp [echoedQueue, h, run_outsideTile_alone]

/-- A queue whose counter word is sound is used as it is seen. -/
theorem run_useQueue {s : State} {r : QRef} (h : (seenQueue s r).poison = false) : (useQueue r).run s = .ok (seenQueue s r) s := by
  simp [useQueue, h]

end Sys2Proof.Machine
end

