-- ==== Sys2Proof/Laws/PerInstr.lean ====
section
/-! SUPPORT. For every instruction of the opcode table: its words decode to it. -/

namespace Sys2Proof.Laws.RoundTrip

/-- The words of an instruction that has words of its own decode to it (R52-R63). -/
def Statement (i : Instr) : Prop := hasWords i = true → decodeBits (encodeBits i).2 = i

theorem nop (f : F64A) : Statement (.nop f) := fun _ => f.decodeBits_toBits 0x00#8 .nop (fun _ => rfl)

theorem nop96 (f : F96Q) : Statement (.nop96 f) := fun _ => f.decodeBits_toBits 0x00#8 .nop96 (fun _ => rfl)

theorem nop128 (f : F128C) : Statement (.nop128 f) := fun _ => f.decodeBits_toBits 0x00#8 .nop128 (fun _ => rfl)

theorem add (f : F64A) : Statement (.add f) := fun _ => f.decodeBits_toBits 0x01#8 .add (fun _ => rfl)

theorem addImm (f : F64I) : Statement (.addImm f) := fun _ => f.decodeBits_toBits 0x20#8 .addImm (fun _ => rfl)

theorem addQw (f : F96Q) : Statement (.addQw f) := fun _ => f.decodeBits_toBits 0x81#8 .addQw (fun _ => rfl)

theorem sub (f : F64A) : Statement (.sub f) := fun _ => f.decodeBits_toBits 0x02#8 .sub (fun _ => rfl)

theorem subQw (f : F96Q) : Statement (.subQw f) := fun _ => f.decodeBits_toBits 0x82#8 .subQw (fun _ => rfl)

theorem mul (f : F64A) : Statement (.mul f) := fun _ => f.decodeBits_toBits 0x03#8 .mul (fun _ => rfl)

theorem mulQw (f : F96Q) : Statement (.mulQw f) := fun _ => f.decodeBits_toBits 0x83#8 .mulQw (fun _ => rfl)

theorem mulh (f : F64A) : Statement (.mulh f) := fun _ => f.decodeBits_toBits 0x04#8 .mulh (fun _ => rfl)

theorem mulhQw (f : F96Q) : Statement (.mulhQw f) := fun _ => f.decodeBits_toBits 0x84#8 .mulhQw (fun _ => rfl)

theorem div (f : F64A) : Statement (.div f) := fun _ => f.decodeBits_toBits 0x05#8 .div (fun _ => rfl)

theorem divQw (f : F96Q) : Statement (.divQw f) := fun _ => f.decodeBits_toBits 0x85#8 .divQw (fun _ => rfl)

theorem rem (f : F64A) : Statement (.rem f) := fun _ => f.decodeBits_toBits 0x06#8 .rem (fun _ => rfl)

theorem remQw (f : F96Q) : Statement (.remQw f) := fun _ => f.decodeBits_toBits 0x86#8 .remQw (fun _ => rfl)

theorem and (f : F64A) : Statement (.and f) := fun _ => f.decodeBits_toBits 0x07#8 .and (fun _ => rfl)

theorem andImm (f : F64I) : Statement (.andImm f) := fun _ => f.decodeBits_toBits 0x21#8 .andImm (fun _ => rfl)

theorem andQw (f : F96Q) : Statement (.andQw f) := fun _ => f.decodeBits_toBits 0x87#8 .andQw (fun _ => rfl)

theorem or (f : F64A) : Statement (.or f) := fun _ => f.decodeBits_toBits 0x08#8 .or (fun _ => rfl)

theorem orImm (f : F64I) : Statement (.orImm f) := fun _ => f.decodeBits_toBits 0x22#8 .orImm (fun _ => rfl)

theorem orQw (f : F96Q) : Statement (.orQw f) := fun _ => f.decodeBits_toBits 0x88#8 .orQw (fun _ => rfl)

theorem xor (f : F64A) : Statement (.xor f) := fun _ => f.decodeBits_toBits 0x09#8 .xor (fun _ => rfl)

theorem xorImm (f : F64I) : Statement (.xorImm f) := fun _ => f.decodeBits_toBits 0x23#8 .xorImm (fun _ => rfl)

theorem xorQw (f : F96Q) : Statement (.xorQw f) := fun _ => f.decodeBits_toBits 0x89#8 .xorQw (fun _ => rfl)

theorem shl (f : F64A) : Statement (.shl f) := fun _ => f.decodeBits_toBits 0x0A#8 .shl (fun _ => rfl)

theorem shlImm (f : F64I) : Statement (.shlImm f) := fun _ => f.decodeBits_toBits 0x24#8 .shlImm (fun _ => rfl)

theorem shlQw (f : F96Q) : Statement (.shlQw f) := fun _ => f.decodeBits_toBits 0x8A#8 .shlQw (fun _ => rfl)

theorem shr (f : F64A) : Statement (.shr f) := fun _ => f.decodeBits_toBits 0x0B#8 .shr (fun _ => rfl)

theorem shrImm (f : F64I) : Statement (.shrImm f) := fun _ => f.decodeBits_toBits 0x25#8 .shrImm (fun _ => rfl)

theorem shrQw (f : F96Q) : Statement (.shrQw f) := fun _ => f.decodeBits_toBits 0x8B#8 .shrQw (fun _ => rfl)

theorem sra (f : F64A) : Statement (.sra f) := fun _ => f.decodeBits_toBits 0x0C#8 .sra (fun _ => rfl)

theorem sraImm (f : F64I) : Statement (.sraImm f) := fun _ => f.decodeBits_toBits 0x26#8 .sraImm (fun _ => rfl)

theorem sraQw (f : F96Q) : Statement (.sraQw f) := fun _ => f.decodeBits_toBits 0x8C#8 .sraQw (fun _ => rfl)

theorem rot (f : F64A) : Statement (.rot f) := fun _ => f.decodeBits_toBits 0x0D#8 .rot (fun _ => rfl)

theorem rotQw (f : F96Q) : Statement (.rotQw f) := fun _ => f.decodeBits_toBits 0x8D#8 .rotQw (fun _ => rfl)

theorem min (f : F64A) : Statement (.min f) := fun _ => f.decodeBits_toBits 0x0E#8 .min (fun _ => rfl)

theorem minQw (f : F96Q) : Statement (.minQw f) := fun _ => f.decodeBits_toBits 0x8E#8 .minQw (fun _ => rfl)

theorem max (f : F64A) : Statement (.max f) := fun _ => f.decodeBits_toBits 0x0F#8 .max (fun _ => rfl)

theorem maxQw (f : F96Q) : Statement (.maxQw f) := fun _ => f.decodeBits_toBits 0x8F#8 .maxQw (fun _ => rfl)

theorem clz (f : F64A) : Statement (.clz f) := fun _ => f.decodeBits_toBits 0x10#8 .clz (fun _ => rfl)

theorem clzQw (f : F96Q) : Statement (.clzQw f) := fun _ => f.decodeBits_toBits 0x90#8 .clzQw (fun _ => rfl)

theorem popc (f : F64A) : Statement (.popc f) := fun _ => f.decodeBits_toBits 0x11#8 .popc (fun _ => rfl)

theorem popcQw (f : F96Q) : Statement (.popcQw f) := fun _ => f.decodeBits_toBits 0x91#8 .popcQw (fun _ => rfl)

theorem bfx (f : F64A) : Statement (.bfx f) := fun _ => f.decodeBits_toBits 0x12#8 .bfx (fun _ => rfl)

theorem bfxQw (f : F96Q) : Statement (.bfxQw f) := fun _ => f.decodeBits_toBits 0x92#8 .bfxQw (fun _ => rfl)

theorem bfi (f : F64A) : Statement (.bfi f) := fun _ => f.decodeBits_toBits 0x13#8 .bfi (fun _ => rfl)

theorem bfiQw (f : F96Q) : Statement (.bfiQw f) := fun _ => f.decodeBits_toBits 0x93#8 .bfiQw (fun _ => rfl)

theorem cmp (f : F64A) : Statement (.cmp f) := fun _ => f.decodeBits_toBits 0x14#8 .cmp (fun _ => rfl)

theorem cmpImm (f : F64I) : Statement (.cmpImm f) := fun _ => f.decodeBits_toBits 0x27#8 .cmpImm (fun _ => rfl)

theorem cmpQw (f : F96Q) : Statement (.cmpQw f) := fun _ => f.decodeBits_toBits 0x94#8 .cmpQw (fun _ => rfl)

theorem sel (f : F64A) : Statement (.sel f) := fun _ => f.decodeBits_toBits 0x15#8 .sel (fun _ => rfl)

theorem selQw (f : F96Q) : Statement (.selQw f) := fun _ => f.decodeBits_toBits 0x95#8 .selQw (fun _ => rfl)

theorem mov (f : F64A) : Statement (.mov f) := fun _ => f.decodeBits_toBits 0x16#8 .mov (fun _ => rfl)

theorem movImm (f : F64I) : Statement (.movImm f) := fun _ => f.decodeBits_toBits 0x28#8 .movImm (fun _ => rfl)

theorem movQw (f : F96Q) : Statement (.movQw f) := fun _ => f.decodeBits_toBits 0x96#8 .movQw (fun _ => rfl)

theorem lea (f : F64A) : Statement (.lea f) := fun _ => f.decodeBits_toBits 0x17#8 .lea (fun _ => rfl)

theorem leaQw (f : F96Q) : Statement (.leaQw f) := fun _ => f.decodeBits_toBits 0x97#8 .leaQw (fun _ => rfl)

theorem gaddr (f : F64A) : Statement (.gaddr f) := fun _ => f.decodeBits_toBits 0x18#8 .gaddr (fun _ => rfl)

theorem gaddrQw (f : F96Q) : Statement (.gaddrQw f) := fun _ => f.decodeBits_toBits 0x98#8 .gaddrQw (fun _ => rfl)

theorem fadd (f : F64A) : Statement (.fadd f) := fun _ => f.decodeBits_toBits 0x30#8 .fadd (fun _ => rfl)

theorem faddQw (f : F96Q) : Statement (.faddQw f) := fun _ => f.decodeBits_toBits 0xB0#8 .faddQw (fun _ => rfl)

theorem fsub (f : F64A) : Statement (.fsub f) := fun _ => f.decodeBits_toBits 0x31#8 .fsub (fun _ => rfl)

theorem fsubQw (f : F96Q) : Statement (.fsubQw f) := fun _ => f.decodeBits_toBits 0xB1#8 .fsubQw (fun _ => rfl)

theorem fmul (f : F64A) : Statement (.fmul f) := fun _ => f.decodeBits_toBits 0x32#8 .fmul (fun _ => rfl)

theorem fmulQw (f : F96Q) : Statement (.fmulQw f) := fun _ => f.decodeBits_toBits 0xB2#8 .fmulQw (fun _ => rfl)

theorem fma (f : F64A) : Statement (.fma f) := fun _ => f.decodeBits_toBits 0x33#8 .fma (fun _ => rfl)

theorem fmaQw (f : F96Q) : Statement (.fmaQw f) := fun _ => f.decodeBits_toBits 0xB3#8 .fmaQw (fun _ => rfl)

theorem fdiv (f : F64A) : Statement (.fdiv f) := fun _ => f.decodeBits_toBits 0x34#8 .fdiv (fun _ => rfl)

theorem fdivQw (f : F96Q) : Statement (.fdivQw f) := fun _ => f.decodeBits_toBits 0xB4#8 .fdivQw (fun _ => rfl)

theorem fsqrt (f : F64A) : Statement (.fsqrt f) := fun _ => f.decodeBits_toBits 0x35#8 .fsqrt (fun _ => rfl)

theorem fsqrtQw (f : F96Q) : Statement (.fsqrtQw f) := fun _ => f.decodeBits_toBits 0xB5#8 .fsqrtQw (fun _ => rfl)

theorem fmin (f : F64A) : Statement (.fmin f) := fun _ => f.decodeBits_toBits 0x36#8 .fmin (fun _ => rfl)

theorem fminQw (f : F96Q) : Statement (.fminQw f) := fun _ => f.decodeBits_toBits 0xB6#8 .fminQw (fun _ => rfl)

theorem fmax (f : F64A) : Statement (.fmax f) := fun _ => f.decodeBits_toBits 0x37#8 .fmax (fun _ => rfl)

theorem fmaxQw (f : F96Q) : Statement (.fmaxQw f) := fun _ => f.decodeBits_toBits 0xB7#8 .fmaxQw (fun _ => rfl)

theorem fcmp (f : F64A) : Statement (.fcmp f) := fun _ => f.decodeBits_toBits 0x38#8 .fcmp (fun _ => rfl)

theorem fcmpQw (f : F96Q) : Statement (.fcmpQw f) := fun _ => f.decodeBits_toBits 0xB8#8 .fcmpQw (fun _ => rfl)

theorem fsgn (f : F64A) : Statement (.fsgn f) := fun _ => f.decodeBits_toBits 0x39#8 .fsgn (fun _ => rfl)

theorem fsgnQw (f : F96Q) : Statement (.fsgnQw f) := fun _ => f.decodeBits_toBits 0xB9#8 .fsgnQw (fun _ => rfl)

theorem fcvt (f : F64A) : Statement (.fcvt f) := fun _ => f.decodeBits_toBits 0x3A#8 .fcvt (fun _ => rfl)

theorem fcvtQw (f : F96Q) : Statement (.fcvtQw f) := fun _ => f.decodeBits_toBits 0xBA#8 .fcvtQw (fun _ => rfl)

theorem frnd (f : F64A) : Statement (.frnd f) := fun _ => f.decodeBits_toBits 0x3B#8 .frnd (fun _ => rfl)

theorem frndQw (f : F96Q) : Statement (.frndQw f) := fun _ => f.decodeBits_toBits 0xBB#8 .frndQw (fun _ => rfl)

theorem fexp2 (f : F64A) : Statement (.fexp2 f) := fun _ => f.decodeBits_toBits 0x3C#8 .fexp2 (fun _ => rfl)

theorem fexp2Qw (f : F96Q) : Statement (.fexp2Qw f) := fun _ => f.decodeBits_toBits 0xBC#8 .fexp2Qw (fun _ => rfl)

theorem flog2 (f : F64A) : Statement (.flog2 f) := fun _ => f.decodeBits_toBits 0x3D#8 .flog2 (fun _ => rfl)

theorem flog2Qw (f : F96Q) : Statement (.flog2Qw f) := fun _ => f.decodeBits_toBits 0xBD#8 .flog2Qw (fun _ => rfl)

theorem vbcast (f : F64A) : Statement (.vbcast f) := fun _ => f.decodeBits_toBits 0x60#8 .vbcast (fun _ => rfl)

theorem vbcastQw (f : F96Q) : Statement (.vbcastQw f) := fun _ => f.decodeBits_toBits 0xE0#8 .vbcastQw (fun _ => rfl)

theorem vred (f : F64A) : Statement (.vred f) := fun _ => f.decodeBits_toBits 0x61#8 .vred (fun _ => rfl)

theorem vredQw (f : F96Q) : Statement (.vredQw f) := fun _ => f.decodeBits_toBits 0xE1#8 .vredQw (fun _ => rfl)

theorem vshuf (f : F64A) : Statement (.vshuf f) := fun _ => f.decodeBits_toBits 0x62#8 .vshuf (fun _ => rfl)

theorem vshufQw (f : F96Q) : Statement (.vshufQw f) := fun _ => f.decodeBits_toBits 0xE2#8 .vshufQw (fun _ => rfl)

theorem vcomp (f : F64A) : Statement (.vcomp f) := fun _ => f.decodeBits_toBits 0x63#8 .vcomp (fun _ => rfl)

theorem vcompQw (f : F96Q) : Statement (.vcompQw f) := fun _ => f.decodeBits_toBits 0xE3#8 .vcompQw (fun _ => rfl)

theorem viota (f : F64A) : Statement (.viota f) := fun _ => f.decodeBits_toBits 0x64#8 .viota (fun _ => rfl)

theorem viotaQw (f : F96Q) : Statement (.viotaQw f) := fun _ => f.decodeBits_toBits 0xE4#8 .viotaQw (fun _ => rfl)

theorem vgath (f : F64A) : Statement (.vgath f) := fun _ => f.decodeBits_toBits 0x65#8 .vgath (fun _ => rfl)

theorem vgathQw (f : F96Q) : Statement (.vgathQw f) := fun _ => f.decodeBits_toBits 0xE5#8 .vgathQw (fun _ => rfl)

theorem vscat (f : F64A) : Statement (.vscat f) := fun _ => f.decodeBits_toBits 0x66#8 .vscat (fun _ => rfl)

theorem vscatQw (f : F96Q) : Statement (.vscatQw f) := fun _ => f.decodeBits_toBits 0xE6#8 .vscatQw (fun _ => rfl)

theorem vld (f : F64A) : Statement (.vld f) := fun _ => f.decodeBits_toBits 0x67#8 .vld (fun _ => rfl)

theorem vldQw (f : F96Q) : Statement (.vldQw f) := fun _ => f.decodeBits_toBits 0xE7#8 .vldQw (fun _ => rfl)

theorem vst (f : F64A) : Statement (.vst f) := fun _ => f.decodeBits_toBits 0x68#8 .vst (fun _ => rfl)

theorem vstQw (f : F96Q) : Statement (.vstQw f) := fun _ => f.decodeBits_toBits 0xE8#8 .vstQw (fun _ => rfl)

theorem vext (f : F64A) : Statement (.vext f) := fun _ => f.decodeBits_toBits 0x69#8 .vext (fun _ => rfl)

theorem vextQw (f : F96Q) : Statement (.vextQw f) := fun _ => f.decodeBits_toBits 0xE9#8 .vextQw (fun _ => rfl)

theorem vins (f : F64A) : Statement (.vins f) := fun _ => f.decodeBits_toBits 0x6A#8 .vins (fun _ => rfl)

theorem vinsQw (f : F96Q) : Statement (.vinsQw f) := fun _ => f.decodeBits_toBits 0xEA#8 .vinsQw (fun _ => rfl)

theorem plog (f : F64A) : Statement (.plog f) := fun _ => f.decodeBits_toBits 0x6C#8 .plog (fun _ => rfl)

theorem plogQw (f : F96Q) : Statement (.plogQw f) := fun _ => f.decodeBits_toBits 0xEC#8 .plogQw (fun _ => rfl)

theorem pmov (f : F64A) : Statement (.pmov f) := fun _ => f.decodeBits_toBits 0x6D#8 .pmov (fun _ => rfl)

theorem pmovQw (f : F96Q) : Statement (.pmovQw f) := fun _ => f.decodeBits_toBits 0xED#8 .pmovQw (fun _ => rfl)

theorem ld (f : F64M) : Statement (.ld f) := fun _ => f.decodeBits_toBits 0x70#8 .ld (fun _ => rfl)

theorem st (f : F64M) : Statement (.st f) := fun _ => f.decodeBits_toBits 0x71#8 .st (fun _ => rfl)

theorem fest (f : F64M) : Statement (.fest f) := fun _ => f.decodeBits_toBits 0x72#8 .fest (fun _ => rfl)

theorem feq (f : F64M) : Statement (.feq f) := fun _ => f.decodeBits_toBits 0x73#8 .feq (fun _ => rfl)

theorem atom (f : F64M) : Statement (.atom f) := fun _ => f.decodeBits_toBits 0x74#8 .atom (fun _ => rfl)

theorem acq (f : F64M) : Statement (.acq f) := fun _ => f.decodeBits_toBits 0x78#8 .acq (fun _ => rfl)

theorem rel (f : F64M) : Statement (.rel f) := fun _ => f.decodeBits_toBits 0x79#8 .rel (fun _ => rfl)

theorem fence (f : F64M) : Statement (.fence f) := fun _ => f.decodeBits_toBits 0x7C#8 .fence (fun _ => rfl)

theorem waitseq (f : F64M) : Statement (.waitseq f) := fun _ => f.decodeBits_toBits 0x81#8 .waitseq (fun _ => rfl)

theorem bind (f : F64A) : Statement (.bind f) := fun _ => f.decodeBits_toBits 0x7A#8 .bind (fun _ => rfl)

theorem unbind (f : F64A) : Statement (.unbind f) := fun _ => f.decodeBits_toBits 0x7B#8 .unbind (fun _ => rfl)

theorem barinit (f : F64A) : Statement (.barinit f) := fun _ => f.decodeBits_toBits 0x7D#8 .barinit (fun _ => rfl)

theorem bararv (f : F64A) : Statement (.bararv f) := fun _ => f.decodeBits_toBits 0x7E#8 .bararv (fun _ => rfl)

theorem barwait (f : F64A) : Statement (.barwait f) := fun _ => f.decodeBits_toBits 0x7F#8 .barwait (fun _ => rfl)

theorem bardef (f : F64A) : Statement (.bardef f) := fun _ => f.decodeBits_toBits 0x80#8 .bardef (fun _ => rfl)

theorem qbind (f : F64A) : Statement (.qbind f) := fun _ => f.decodeBits_toBits 0x88#8 .qbind (fun _ => rfl)

theorem qadv (f : F64A) : Statement (.qadv f) := fun _ => f.decodeBits_toBits 0x89#8 .qadv (fun _ => rfl)

theorem qpub (f : F64A) : Statement (.qpub f) := fun _ => f.decodeBits_toBits 0x8A#8 .qpub (fun _ => rfl)

theorem qavail (f : F64A) : Statement (.qavail f) := fun _ => f.decodeBits_toBits 0x8B#8 .qavail (fun _ => rfl)

theorem acton (f : F64A) : Statement (.acton f) := fun _ => f.decodeBits_toBits 0x8C#8 .acton (fun _ => rfl)

theorem actoff (f : F64A) : Statement (.actoff f) := fun _ => f.decodeBits_toBits 0x8D#8 .actoff (fun _ => rfl)

theorem fend (f : F64A) : Statement (.fend f) := fun _ => f.decodeBits_toBits 0x8E#8 .fend (fun _ => rfl)

theorem spawn (f : F64A) : Statement (.spawn f) := fun _ => f.decodeBits_toBits 0x8F#8 .spawn (fun _ => rfl)

theorem migr (f : F64A) : Statement (.migr f) := fun _ => f.decodeBits_toBits 0x90#8 .migr (fun _ => rfl)

theorem nestcfg (f : F64A) : Statement (.nestcfg f) := fun _ => f.decodeBits_toBits 0x91#8 .nestcfg (fun _ => rfl)

theorem nestgo (f : F64A) : Statement (.nestgo f) := fun _ => f.decodeBits_toBits 0x92#8 .nestgo (fun _ => rfl)

theorem alignh (f : F64A) : Statement (.alignh f) := fun _ => f.decodeBits_toBits 0x93#8 .alignh (fun _ => rfl)

theorem b (f : F64B) : Statement (.b f) := fun _ => f.decodeBits_toBits 0x98#8 .b (fun _ => rfl)

theorem call (f : F64B) : Statement (.call f) := fun _ => f.decodeBits_toBits 0x9B#8 .call (fun _ => rfl)

theorem brq (f : F64B) : Statement (.brq f) := fun _ => f.decodeBits_toBits 0x9E#8 .brq (fun _ => rfl)

theorem j (f : F64I) : Statement (.j f) := fun _ => f.decodeBits_toBits 0x99#8 .j (fun _ => rfl)

theorem jr (f : F64A) : Statement (.jr f) := fun _ => f.decodeBits_toBits 0x9A#8 .jr (fun _ => rfl)

theorem ret (f : F64A) : Statement (.ret f) := fun _ => f.decodeBits_toBits 0x9C#8 .ret (fun _ => rfl)

theorem bopush (f : F64A) : Statement (.bopush f) := fun _ => f.decodeBits_toBits 0x9D#8 .bopush (fun _ => rfl)

theorem omclaim (f : F64A) : Statement (.omclaim f) := fun _ => f.decodeBits_toBits 0xA0#8 .omclaim (fun _ => rfl)

theorem omrel (f : F64A) : Statement (.omrel f) := fun _ => f.decodeBits_toBits 0xA1#8 .omrel (fun _ => rfl)

theorem accz (f : F64A) : Statement (.accz f) := fun _ => f.decodeBits_toBits 0xA3#8 .accz (fun _ => rfl)

theorem accrd (f : F64A) : Statement (.accrd f) := fun _ => f.decodeBits_toBits 0xA4#8 .accrd (fun _ => rfl)

theorem accwr (f : F64A) : Statement (.accwr f) := fun _ => f.decodeBits_toBits 0xA5#8 .accwr (fun _ => rfl)

theorem mprog (f : F64A) : Statement (.mprog f) := fun _ => f.decodeBits_toBits 0xA6#8 .mprog (fun _ => rfl)

theorem semwait (f : F64A) : Statement (.semwait f) := fun _ => f.decodeBits_toBits 0xA7#8 .semwait (fun _ => rfl)

theorem semsig (f : F64A) : Statement (.semsig f) := fun _ => f.decodeBits_toBits 0xA8#8 .semsig (fun _ => rfl)

theorem tfmt (f : F64A) : Statement (.tfmt f) := fun _ => f.decodeBits_toBits 0xAC#8 .tfmt (fun _ => rfl)

theorem tqry (f : F64A) : Statement (.tqry f) := fun _ => f.decodeBits_toBits 0xAD#8 .tqry (fun _ => rfl)

theorem chseq (f : F64A) : Statement (.chseq f) := fun _ => f.decodeBits_toBits 0xB0#8 .chseq (fun _ => rfl)

theorem chtail (f : F64A) : Statement (.chtail f) := fun _ => f.decodeBits_toBits 0xB1#8 .chtail (fun _ => rfl)

theorem strbind (f : F64A) : Statement (.strbind f) := fun _ => f.decodeBits_toBits 0xB2#8 .strbind (fun _ => rfl)

theorem mcpoll (f : F64A) : Statement (.mcpoll f) := fun _ => f.decodeBits_toBits 0xB3#8 .mcpoll (fun _ => rfl)

theorem tlook (f : F64A) : Statement (.tlook f) := fun _ => f.decodeBits_toBits 0xB8#8 .tlook (fun _ => rfl)

theorem tins (f : F64A) : Statement (.tins f) := fun _ => f.decodeBits_toBits 0xB9#8 .tins (fun _ => rfl)

theorem tevict (f : F64A) : Statement (.tevict f) := fun _ => f.decodeBits_toBits 0xBA#8 .tevict (fun _ => rfl)

theorem tlbinv (f : F64M) : Statement (.tlbinv f) := fun _ => f.decodeBits_toBits 0xC0#8 .tlbinv (fun _ => rfl)

theorem probe (f : F64M) : Statement (.probe f) := fun _ => f.decodeBits_toBits 0xC1#8 .probe (fun _ => rfl)

theorem evqld (f : F64A) : Statement (.evqld f) := fun _ => f.decodeBits_toBits 0xC8#8 .evqld (fun _ => rfl)

theorem evslope (f : F64A) : Statement (.evslope f) := fun _ => f.decodeBits_toBits 0xC9#8 .evslope (fun _ => rfl)

theorem evrun (f : F64A) : Statement (.evrun f) := fun _ => f.decodeBits_toBits 0xCA#8 .evrun (fun _ => rfl)

theorem evgvt (f : F64A) : Statement (.evgvt f) := fun _ => f.decodeBits_toBits 0xCB#8 .evgvt (fun _ => rfl)

theorem evstat (f : F64A) : Statement (.evstat f) := fun _ => f.decodeBits_toBits 0xCC#8 .evstat (fun _ => rfl)

theorem pair (f : F64A) : Statement (.pair f) := fun _ => f.decodeBits_toBits 0xD0#8 .pair (fun _ => rfl)

theorem unpair (f : F64A) : Statement (.unpair f) := fun _ => f.decodeBits_toBits 0xD1#8 .unpair (fun _ => rfl)

theorem fpck (f : F64A) : Statement (.fpck f) := fun _ => f.decodeBits_toBits 0xD2#8 .fpck (fun _ => rfl)

theorem errq (f : F64A) : Statement (.errq f) := fun _ => f.decodeBits_toBits 0xD3#8 .errq (fun _ => rfl)

theorem trap (f : F64A) : Statement (.trap f) := fun _ => f.decodeBits_toBits 0xE0#8 .trap (fun _ => rfl)

theorem eret (f : F64A) : Statement (.eret f) := fun _ => f.decodeBits_toBits 0xE1#8 .eret (fun _ => rfl)

theorem csrr (f : F64A) : Statement (.csrr f) := fun _ => f.decodeBits_toBits 0xE2#8 .csrr (fun _ => rfl)

theorem csrw (f : F64A) : Statement (.csrw f) := fun _ => f.decodeBits_toBits 0xE3#8 .csrw (fun _ => rfl)

theorem wfe (f : F64A) : Statement (.wfe f) := fun _ => f.decodeBits_toBits 0xE4#8 .wfe (fun _ => rfl)

theorem tsc (f : F64A) : Statement (.tsc f) := fun _ => f.decodeBits_toBits 0xE5#8 .tsc (fun _ => rfl)

theorem cyc (f : F64A) : Statement (.cyc f) := fun _ => f.decodeBits_toBits 0xE6#8 .cyc (fun _ => rfl)

theorem halt (f : F64A) : Statement (.halt f) := fun _ => f.decodeBits_toBits 0xE7#8 .halt (fun _ => rfl)

theorem li (f : F96I) : Statement (.li f) := fun _ => f.decodeBits_toBits 0x01#8 .li (fun _ => rfl)

theorem mma (f : F96E) : Statement (.mma f) := fun _ => f.decodeBits_toBits 0x10#8 .mma (fun _ => rfl)

theorem copy (f : F96E) : Statement (.copy f) := fun _ => f.decodeBits_toBits 0x11#8 .copy (fun _ => rfl)

theorem get (f : F96E) : Statement (.get f) := fun _ => f.decodeBits_toBits 0x12#8 .get (fun _ => rfl)

theorem push (f : F96E) : Statement (.push f) := fun _ => f.decodeBits_toBits 0x13#8 .push (fun _ => rfl)

theorem chapp (f : F96E) : Statement (.chapp f) := fun _ => f.decodeBits_toBits 0x14#8 .chapp (fun _ => rfl)

theorem launch (f : F128C) : Statement (.launch f) := fun _ => f.decodeBits_toBits 0x01#8 .launch (fun _ => rfl)

theorem coll (f : F128C) : Statement (.coll f) := fun _ => f.decodeBits_toBits 0x02#8 .coll (fun _ => rfl)

theorem puts (f : F128C) : Statement (.puts f) := fun _ => f.decodeBits_toBits 0x03#8 .puts (fun _ => rfl)

theorem tdef (f : F128C) : Statement (.tdef f) := fun _ => f.decodeBits_toBits 0x04#8 .tdef (fun _ => rfl)

theorem tdup (f : F128C) : Statement (.tdup f) := fun _ => f.decodeBits_toBits 0x05#8 .tdup (fun _ => rfl)

theorem tlbw (f : F128C) : Statement (.tlbw f) := fun _ => f.decodeBits_toBits 0x06#8 .tlbw (fun _ => rfl)

theorem evdef (f : F128C) : Statement (.evdef f) := fun _ => f.decodeBits_toBits 0x07#8 .evdef (fun _ => rfl)

theorem evdep (f : F128C) : Statement (.evdep f) := fun _ => f.decodeBits_toBits 0x08#8 .evdep (fun _ => rfl)

theorem evsamp (f : F128C) : Statement (.evsamp f) := fun _ => f.decodeBits_toBits 0x09#8 .evsamp (fun _ => rfl)

theorem launchQueueKick (queue : Nat) (tail : BitVec 32) : Statement (.launchQueueKick queue tail) := fun h => (Bool.false_ne_true h).elim

theorem launchRecordCheck (src : RecordSource) : Statement (.launchRecordCheck src) := fun h => (Bool.false_ne_true h).elim

theorem dependencePoll (src : RecordSource) : Statement (.dependencePoll src) := fun h => (Bool.false_ne_true h).elim

theorem gangPlacement (src : RecordSource) (tiles : List Nat) : Statement (.gangPlacement src tiles) := fun h => (Bool.false_ne_true h).elim

theorem recordBlocking (src : RecordSource) : Statement (.recordBlocking src) := fun h => (Bool.false_ne_true h).elim

theorem reexecution (gang : Nat) (tiles : List Nat) : Statement (.reexecution gang tiles) := fun h => (Bool.false_ne_true h).elim

theorem actorSelection (seq : SeqId) : Statement (.actorSelection seq) := fun h => (Bool.false_ne_true h).elim

theorem reelClaim (seq : SeqId) (slot : Nat) : Statement (.reelClaim seq slot) := fun h => (Bool.false_ne_true h).elim

theorem alignhTimeout (seq : SeqId) : Statement (.alignhTimeout seq) := fun h => (Bool.false_ne_true h).elim

theorem deferredArrival (gang : Nat) (index : Nat) : Statement (.deferredArrival gang index) := fun h => (Bool.false_ne_true h).elim

theorem commandStart (tile : Nat) (engine : Nat) : Statement (.commandStart tile engine) := fun h => (Bool.false_ne_true h).elim

theorem commandCompletion (tile : Nat) (engine : Nat) (number : Nat) : Statement (.commandCompletion tile engine number) := fun h => (Bool.false_ne_true h).elim

theorem putsSignal (tile : Nat) (engine : Nat) (number : Nat) : Statement (.putsSignal tile engine number) := fun h => (Bool.false_ne_true h).elim

theorem switchCombine (collective : Nat) (device : Nat) (offer : CollOffer) (values : List (BitVec 64)) : Statement (.switchCombine collective device offer values) := fun h => (Bool.false_ne_true h).elim

theorem gvtReduction (gang : Nat) (peers : BitVec 64) : Statement (.gvtReduction gang peers) := fun h => (Bool.false_ne_true h).elim

theorem linkCrcGroup (port : Nat) (beats : List (BitVec 256)) (crc : BitVec 32) : Statement (.linkCrcGroup port beats crc) := fun h => (Bool.false_ne_true h).elim

theorem linkRetrain (port : Nat) (found : LinkConfig) (remote : BitVec 64) : Statement (.linkRetrain port found remote) := fun h => (Bool.false_ne_true h).elim

theorem switchAttestation (slot : Nat) (number : BitVec 16) (digest : BitVec 64) (shown : Evidence) : Statement (.switchAttestation slot number digest shown) := fun h => (Bool.false_ne_true h).elim

theorem rectangleReset (die : Nat) (rect : Nat) : Statement (.rectangleReset die rect) := fun h => (Bool.false_ne_true h).elim

theorem bar2Access (partition : Nat) (write : Bool) (address : BitVec 64) (data : List (BitVec 8)) : Statement (.bar2Access partition write address data) := fun h => (Bool.false_ne_true h).elim

theorem feataccWrite (partition : Nat) (upper : Bool) (value : BitVec 64) : Statement (.feataccWrite partition upper value) := fun h => (Bool.false_ne_true h).elim

theorem pfaultClear (partition : Nat) (value : BitVec 64) : Statement (.pfaultClear partition value) := fun h => (Bool.false_ne_true h).elim

theorem crectWrite (die : Nat) (rect : Nat) (value : BitVec 64) : Statement (.crectWrite die rect value) := fun h => (Bool.false_ne_true h).elim

theorem layoutEntryWrite (partition : Nat) (code : Nat) (value : BitVec 32) : Statement (.layoutEntryWrite partition code value) := fun h => (Bool.false_ne_true h).elim

theorem registerWrite (function : Nat) (reg : HostReg) (value : BitVec 64) : Statement (.registerWrite function reg value) := fun h => (Bool.false_ne_true h).elim

theorem recoveryImage (image : List (BitVec 8)) : Statement (.recoveryImage image) := fun h => (Bool.false_ne_true h).elim

theorem spdmRequest (function : Nat) (index : Nat) : Statement (.spdmRequest function index) := fun h => (Bool.false_ne_true h).elim

theorem monitorRefresh (monitor : Monitor) (value : BitVec 16) : Statement (.monitorRefresh monitor value) := fun h => (Bool.false_ne_true h).elim

theorem droopTrip (cluster : Nat) (analog : Bool) : Statement (.droopTrip cluster analog) := fun h => (Bool.false_ne_true h).elim

theorem wfeTimeout (seq : SeqId) : Statement (.wfeTimeout seq) := fun h => (Bool.false_ne_true h).elim

theorem illegalFormat (w : BitVec 32) : Statement (.illegalFormat w) := by
  intro h
  simp only [hasWords, Bool.and_eq_true, beq_iff_eq, bne_iff_ne, ne_eq] at h
  have hw : field (w.setWidth 128) 0 32 = w := field_whole w 0 rfl (by omega)
  have hl : field (w.setWidth 128) 0 2 = w.extractLsb' 0 2 := by
    unfold field
    ext i hi
    have hlt : i < 128 := by omega
    simp [hlt]
  simp [encodeBits, decodeBits, hl, hw, h.1, h.2]

theorem unassignedOpcode (w : BitVec 128) : Statement (.unassignedOpcode w) := by
  intro h
  simp only [hasWords, isUnassigned, Bool.and_eq_true, beq_iff_eq] at h
  obtain ⟨hk, ho⟩ := h
  have hlen : (field w 0 32).extractLsb' 0 2 = field w 0 2 := by
    unfold field
    ext i hi
    simp
  simp only [lengthOf, hlen] at hk
  simp only [encodeBits, decodeBits]
  split at ho
  · simp only [Option.isNone_iff_eq_none] at ho; simp_all
  · simp only [Option.isNone_iff_eq_none] at ho; simp_all
  · simp only [Option.isNone_iff_eq_none] at ho; simp_all
  · simp at ho

theorem fetchTranslationFault (address : BitVec 64) (denied : Bool) : Statement (.fetchTranslationFault address denied) := fun h => (Bool.false_ne_true h).elim

theorem firmwareStartComplete (hbmTrained : Bool) : Statement (.firmwareStartComplete hbmTrained) := fun h => (Bool.false_ne_true h).elim

theorem deviceIdentifierAssign (device : BitVec 8) : Statement (.deviceIdentifierAssign device) := fun h => (Bool.false_ne_true h).elim

theorem rendezvousCommit : Statement (.rendezvousCommit) := fun h => (Bool.false_ne_true h).elim

theorem rendezvousRead : Statement (.rendezvousRead) := fun h => (Bool.false_ne_true h).elim

theorem startTick : Statement (.startTick) := fun h => (Bool.false_ne_true h).elim

theorem rendezvousRecheck : Statement (.rendezvousRecheck) := fun h => (Bool.false_ne_true h).elim

theorem gangCompletion : Statement (.gangCompletion) := fun h => (Bool.false_ne_true h).elim

theorem preempt : Statement (.preempt) := fun h => (Bool.false_ne_true h).elim

theorem preemptResume : Statement (.preemptResume) := fun h => (Bool.false_ne_true h).elim

theorem watchdogExpiry : Statement (.watchdogExpiry) := fun h => (Bool.false_ne_true h).elim

theorem gondolaArrival : Statement (.gondolaArrival) := fun h => (Bool.false_ne_true h).elim

theorem ringReturn : Statement (.ringReturn) := fun h => (Bool.false_ne_true h).elim

theorem mcGondolaArrival : Statement (.mcGondolaArrival) := fun h => (Bool.false_ne_true h).elim

theorem mcRequestCompletion : Statement (.mcRequestCompletion) := fun h => (Bool.false_ne_true h).elim

theorem pushDelivery : Statement (.pushDelivery) := fun h => (Bool.false_ne_true h).elim

theorem mmaKstep : Statement (.mmaKstep) := fun h => (Bool.false_ne_true h).elim

theorem eventItem : Statement (.eventItem) := fun h => (Bool.false_ne_true h).elim

theorem remoteTokenAccept : Statement (.remoteTokenAccept) := fun h => (Bool.false_ne_true h).elim

theorem gvtReceive : Statement (.gvtReceive) := fun h => (Bool.false_ne_true h).elim

theorem trapDelivery : Statement (.trapDelivery) := fun h => (Bool.false_ne_true h).elim

theorem requestResponse : Statement (.requestResponse) := fun h => (Bool.false_ne_true h).elim

theorem ownerAccess : Statement (.ownerAccess) := fun h => (Bool.false_ne_true h).elim

theorem packetForward : Statement (.packetForward) := fun h => (Bool.false_ne_true h).elim

theorem packetDelivery : Statement (.packetDelivery) := fun h => (Bool.false_ne_true h).elim

theorem endToEndTimeout : Statement (.endToEndTimeout) := fun h => (Bool.false_ne_true h).elim

theorem routingDrain : Statement (.routingDrain) := fun h => (Bool.false_ne_true h).elim

theorem routingSwap : Statement (.routingSwap) := fun h => (Bool.false_ne_true h).elim

theorem switchRevocation : Statement (.switchRevocation) := fun h => (Bool.false_ne_true h).elim

theorem pairBoundary : Statement (.pairBoundary) := fun h => (Bool.false_ne_true h).elim

theorem pairWaitTimeout : Statement (.pairWaitTimeout) := fun h => (Bool.false_ne_true h).elim

theorem functionReset : Statement (.functionReset) := fun h => (Bool.false_ne_true h).elim

theorem moduleReset : Statement (.moduleReset) := fun h => (Bool.false_ne_true h).elim

theorem bootRomVerify : Statement (.bootRomVerify) := fun h => (Bool.false_ne_true h).elim

theorem powerEstimate : Statement (.powerEstimate) := fun h => (Bool.false_ne_true h).elim

theorem stretchEnd : Statement (.stretchEnd) := fun h => (Bool.false_ne_true h).elim

theorem ballastEnd : Statement (.ballastEnd) := fun h => (Bool.false_ne_true h).elim

theorem pad : Statement .pad := fun _ => by decide

theorem linkDown : Statement (.linkDown) := fun h => (Bool.false_ne_true h).elim

end Sys2Proof.Laws.RoundTrip
end

