-- ==== Sys2Proof/Laws/View.lean ====
section
/-! SUPPORT. What the operations on the writes that not every agent sees leave, and what they make of those writes (R198-R204). -/

namespace Sys2Proof.Machine

/-! ## What they leave -/

@[simp] theorem agenda_modUnseen (s : State) (f : List Unseen → List Unseen) : (s.modUnseen f).agenda = s.agenda := by
  unfold State.modUnseen; split <;> rfl
@[simp] theorem focus_modUnseen (s : State) (f : List Unseen → List Unseen) : (s.modUnseen f).focus = s.focus := by
  unfold State.modUnseen; split <;> rfl
@[simp] theorem subject_modUnseen (s : State) (f : List Unseen → List Unseen) : (s.modUnseen f).subject = s.subject := by
  unfold State.modUnseen; split <;> rfl
@[simp] theorem cursor_modUnseen (s : State) (f : List Unseen → List Unseen) : (s.modUnseen f).cursor = s.cursor := by
  unfold State.modUnseen; split <;> rfl
@[simp] theorem time_modUnseen (s : State) (f : List Unseen → List Unseen) : (s.modUnseen f).time = s.time := by
  unfold State.modUnseen; split <;> rfl
@[simp] theorem free_modUnseen (s : State) (f : List Unseen → List Unseen) : (s.modUnseen f).free = s.free := by
  unfold State.modUnseen; split <;> rfl
@[simp] theorem next_modUnseen (s : State) (f : List Unseen → List Unseen) : (s.modUnseen f).next = s.next := by
  unfold State.modUnseen; split <;> rfl
@[simp] theorem slack_modUnseen (s : State) (f : List Unseen → List Unseen) : (s.modUnseen f).slack = s.slack := by
  unfold State.modUnseen; split <;> rfl
@[simp] theorem tiles_modUnseen (s : State) (f : List Unseen → List Unseen) : (s.modUnseen f).tiles = s.tiles := by
  unfold State.modUnseen; split <;> rfl
@[simp] theorem clusters_modUnseen (s : State) (f : List Unseen → List Unseen) : (s.modUnseen f).clusters = s.clusters := by
  unfold State.modUnseen; split <;> rfl
@[simp] theorem mcores_modUnseen (s : State) (f : List Unseen → List Unseen) : (s.modUnseen f).mcores = s.mcores := by
  unfold State.modUnseen; split <;> rfl
@[simp] theorem pairs_modUnseen (s : State) (f : List Unseen → List Unseen) : (s.modUnseen f).pairs = s.pairs := by
  unfold State.modUnseen; split <;> rfl
@[simp] theorem launch_modUnseen (s : State) (f : List Unseen → List Unseen) : (s.modUnseen f).launch = s.launch := by
  unfold State.modUnseen; split <;> rfl
@[simp] theorem parts_modUnseen (s : State) (f : List Unseen → List Unseen) : (s.modUnseen f).parts = s.parts := by
  unfold State.modUnseen; split <;> rfl
@[simp] theorem fabric_modUnseen (s : State) (f : List Unseen → List Unseen) : (s.modUnseen f).fabric = s.fabric := by
  unfold State.modUnseen; split <;> rfl
@[simp] theorem host_modUnseen (s : State) (f : List Unseen → List Unseen) : (s.modUnseen f).host = s.host := by
  unfold State.modUnseen; split <;> rfl
@[simp] theorem cells_modUnseen_mem (s : State) (f : List Unseen → List Unseen) : (s.modUnseen f).mem.cells = s.mem.cells := by
  unfold State.modUnseen; split <;> rfl
@[simp] theorem poison_modUnseen_mem (s : State) (f : List Unseen → List Unseen) : (s.modUnseen f).mem.poison = s.mem.poison := by
  unfold State.modUnseen; split <;> rfl
@[simp] theorem flips_modUnseen_mem (s : State) (f : List Unseen → List Unseen) : (s.modUnseen f).mem.flips = s.mem.flips := by
  unfold State.modUnseen; split <;> rfl
@[simp] theorem layouts_modUnseen_mem (s : State) (f : List Unseen → List Unseen) : (s.modUnseen f).mem.layouts = s.mem.layouts := by
  unfold State.modUnseen; split <;> rfl
@[simp] theorem areas_modUnseen_mem (s : State) (f : List Unseen → List Unseen) : (s.modUnseen f).mem.areas = s.mem.areas := by
  unfold State.modUnseen; split <;> rfl

/-- A byte of memory reads as before. -/
@[simp] theorem byte_modUnseen (s : State) (f : List Unseen → List Unseen) (k : Nat) : (s.modUnseen f).mem.byte k = s.mem.byte k := by
  simp only [Mem.byte, cells_modUnseen_mem]

@[simp] theorem wf_modUnseen (s : State) (f : List Unseen → List Unseen) : (s.modUnseen f).mem.wf = s.mem.wf := by
  simp only [Mem.wf, cells_modUnseen_mem]

@[simp] theorem agenda_hide (s : State) (a : Nat → List Nat) (l : List Mark) (key n : Nat) (t : State) : (hide s a l key n t).agenda = t.agenda := by
  unfold hide; split <;> rfl
@[simp] theorem focus_hide (s : State) (a : Nat → List Nat) (l : List Mark) (key n : Nat) (t : State) : (hide s a l key n t).focus = t.focus := by
  unfold hide; split <;> rfl
@[simp] theorem subject_hide (s : State) (a : Nat → List Nat) (l : List Mark) (key n : Nat) (t : State) : (hide s a l key n t).subject = t.subject := by
  unfold hide; split <;> rfl
@[simp] theorem cursor_hide (s : State) (a : Nat → List Nat) (l : List Mark) (key n : Nat) (t : State) : (hide s a l key n t).cursor = t.cursor := by
  unfold hide; split <;> rfl
@[simp] theorem time_hide (s : State) (a : Nat → List Nat) (l : List Mark) (key n : Nat) (t : State) : (hide s a l key n t).time = t.time := by
  unfold hide; split <;> rfl
@[simp] theorem free_hide (s : State) (a : Nat → List Nat) (l : List Mark) (key n : Nat) (t : State) : (hide s a l key n t).free = t.free := by
  unfold hide; split <;> rfl
@[simp] theorem slack_hide (s : State) (a : Nat → List Nat) (l : List Mark) (key n : Nat) (t : State) : (hide s a l key n t).slack = t.slack := by
  unfold hide; split <;> rfl
@[simp] theorem tiles_hide (s : State) (a : Nat → List Nat) (l : List Mark) (key n : Nat) (t : State) : (hide s a l key n t).tiles = t.tiles := by
  unfold hide; split <;> rfl
@[simp] theorem clusters_hide (s : State) (a : Nat → List Nat) (l : List Mark) (key n : Nat) (t : State) : (hide s a l key n t).clusters = t.clusters := by
  unfold hide; split <;> rfl
@[simp] theorem mcores_hide (s : State) (a : Nat → List Nat) (l : List Mark) (key n : Nat) (t : State) : (hide s a l key n t).mcores = t.mcores := by
  unfold hide; split <;> rfl
@[simp] theorem pairs_hide (s : State) (a : Nat → List Nat) (l : List Mark) (key n : Nat) (t : State) : (hide s a l key n t).pairs = t.pairs := by
  unfold hide; split <;> rfl
@[simp] theorem launch_hide (s : State) (a : Nat → List Nat) (l : List Mark) (key n : Nat) (t : State) : (hide s a l key n t).launch = t.launch := by
  unfold hide; split <;> rfl
@[simp] theorem parts_hide (s : State) (a : Nat → List Nat) (l : List Mark) (key n : Nat) (t : State) : (hide s a l key n t).parts = t.parts := by
  unfold hide; split <;> rfl
@[simp] theorem fabric_hide (s : State) (a : Nat → List Nat) (l : List Mark) (key n : Nat) (t : State) : (hide s a l key n t).fabric = t.fabric := by
  unfold hide; split <;> rfl
@[simp] theorem host_hide (s : State) (a : Nat → List Nat) (l : List Mark) (key n : Nat) (t : State) : (hide s a l key n t).host = t.host := by
  unfold hide; split <;> rfl

@[simp] theorem cells_hide (s : State) (a : Nat → List Nat) (l : List Mark) (key n : Nat) (t : State) :
    (hide s a l key n t).mem.cells = t.mem.cells := by
  unfold hide; split <;> rfl

/-- A write with slack stands in memory all the same. -/
@[simp] theorem byte_hide (s : State) (a : Nat → List Nat) (l : List Mark) (key n : Nat) (t : State) (k : Nat) :
    (hide s a l key n t).mem.byte k = t.mem.byte k := by
  simp only [Mem.byte, cells_hide]

@[simp] theorem byte_hidePlain (s : State) (q : SeqId) (key n : Nat) (t : State) (k : Nat) :
    (hidePlain s q key n t).mem.byte k = t.mem.byte k := by
  unfold hidePlain; split <;> simp

/-! ## What they make of the unseen writes -/

theorem unseen_modUnseen {f : List Unseen → List Unseen} (h : f [] = []) (s : State) : (s.modUnseen f).mem.unseen = f s.mem.unseen := by
  unfold State.modUnseen
  split
  · next he => rw [List.isEmpty_iff.mp he, h]
  · rfl

@[simp] theorem unseen_markUnseen (k : Mark) (p : Unseen → Bool) (s : State) :
    (markUnseen k p s).mem.unseen = s.mem.unseen.map (fun e => if p e then e.mark k else e) := unseen_modUnseen rfl s

@[simp] theorem unseen_spread (q : SeqId) (s : State) : (spread q s).mem.unseen = shed (·.seenBy q) s.mem.unseen := unseen_modUnseen rfl s

/-- A mark is added to those that a write has. -/
theorem mem_mark (k x : Mark) (e : Unseen) : x ∈ (e.mark k).marks ↔ x ∈ e.marks ∨ x = k := by
  unfold Unseen.mark
  split
  · next h => exact ⟨.inl, fun o => o.elim id (fun he => he ▸ by simpa using h)⟩
  · simp

@[simp] theorem mark_id (k : Mark) (e : Unseen) : (e.mark k).id = e.id := by unfold Unseen.mark; split <;> rfl
@[simp] theorem mark_word (k : Mark) (e : Unseen) : (e.mark k).word = e.word := by unfold Unseen.mark; split <;> rfl
@[simp] theorem mark_old (k : Mark) (e : Unseen) : (e.mark k).old = e.old := by unfold Unseen.mark; split <;> rfl

/-- A write that every agent sees leaves no unseen write of its words. -/
theorem pass_words (m : Mem) (ws : List Nat) {e : Unseen} (h : e ∈ (m.pass ws).unseen) : e.word ∉ ws := by
  simp only [Mem.pass, List.mem_map, List.mem_filter] at h
  obtain ⟨x, ⟨-, hx⟩, rfl⟩ := h
  simpa [Unseen.unrelease] using hx

end Sys2Proof.Machine
end

