-- ==== Sys2Proof/WellFormed.lean ====
section
/-! DEFINITION. The well-formed instructions: the encodings that the decode checks of R71 step 3 and the wait-byte check of
R39 accept, whatever the sequencer that meets them. -/

namespace Sys2Proof

/-- Whether every field of an instruction keeps its entry's rules. -/
def WellFormed (i : Instr) : Bool := Machine.fieldsOk i && Machine.waitBytesOk i

end Sys2Proof
end

