-- ==== Sys2Proof/Tests/Slice0.lean ====
section
/-! SUPPORT. Tests: the words written out from the spec's encodings, an ill-formed term for each check, and for every statement
with hypotheses a state and operands that meet them, with what the instruction then does, worked out by hand. -/

namespace Sys2Proof.Tests

open Sys2Proof.Machine Sys2Proof.Claims

set_option Elab.async false

/-! ## Small states -/

/-- After reset, with a gang of one tile running there and the sequencer in a firing, in focus. -/
def seated (q : SeqId) : State :=
  let s := match State.tileOf q with
    | some t => seatGang t State.reset
    | none => State.reset
  { (seatSeq q s) with focus := q }

/-- Registers of the sequencer in focus. -/
def regs (l : List (Nat × Nat)) (s : State) : State :=
  l.foldl (fun s e => s.modSeq s.focus (fun q => q.setX e.1 (BitVec.ofNat 64 e.2) false)) s

/-- A vector register of the sequencer in focus. -/
def vreg (n v : Nat) (s : State) : State := s.modSeq s.focus (fun q => q.setV n (BitVec.ofNat 1024 v) 0)

/-- A register's fields, changed at the sequencer in focus. -/
def seqOf (f : Seq → Seq) (s : State) : State := s.modSeq s.focus f

/-- The scratchpad-form address of an offset of a tile of this module. -/
def own (t off : Nat) : Nat := 2 ^ 62 + t * 2 ^ 43 + off

/-- Bytes of a tile's scratchpad. -/
def store (t off n v : Nat) (s : State) : State := withBytes (scratchKey t off) (toBytes n v) false s

/-! ## Fields -/

def fA (d a b c ty fn imm : Nat) : F64A :=
  ⟨0, 0, BitVec.ofNat 6 d, BitVec.ofNat 6 a, BitVec.ofNat 6 b, BitVec.ofNat 6 c, BitVec.ofNat 4 ty, BitVec.ofNat 6 fn, BitVec.ofNat 16 imm⟩
def fQ (f : F64A) (wa wb wc wd : Nat) : F96Q := ⟨f, BitVec.ofNat 8 wa, BitVec.ofNat 8 wb, BitVec.ofNat 8 wc, BitVec.ofNat 8 wd⟩
def fM (d base ty sc ord fe fn3 off : Nat) : F64M :=
  ⟨0, 0, BitVec.ofNat 6 d, BitVec.ofNat 6 base, BitVec.ofNat 4 ty, BitVec.ofNat 4 sc, BitVec.ofNat 3 ord, BitVec.ofNat 2 fe,
    BitVec.ofNat 3 fn3, BitVec.ofNat 22 off⟩
def fB (a b cc disp : Nat) : F64B := ⟨0, 0, BitVec.ofNat 6 a, BitVec.ofNat 6 b, BitVec.ofNat 4 cc, BitVec.ofNat 34 disp⟩
def fI (d a ty imm : Nat) : F64I := ⟨0, 0, BitVec.ofNat 6 d, BitVec.ofNat 6 a, BitVec.ofNat 4 ty, BitVec.ofNat 34 imm⟩
def fE (d a b c ta tb aux : Nat) : F96E :=
  ⟨0, 0, BitVec.ofNat 6 d, BitVec.ofNat 6 a, BitVec.ofNat 6 b, BitVec.ofNat 6 c, BitVec.ofNat 8 ta, BitVec.ofNat 8 tb, 0, 0, BitVec.ofNat 32 aux⟩
def fC (d a b c sub flags imm : Nat) : F128C :=
  ⟨0, 0, BitVec.ofNat 6 d, BitVec.ofNat 6 a, BitVec.ofNat 6 b, BitVec.ofNat 6 c, BitVec.ofNat 8 sub, BitVec.ofNat 18 flags, BitVec.ofNat 64 imm⟩

/-! ## What a test asks -/

/-- The conditions of `Ready`. -/
def ready (s : State) (i : Instr) : Bool :=
  match guardOf i with
  | some (p, n) => !pairStalled s s.focus && decodeOk s s.focus i && predHolds (s.seq s.focus) p n
  | none => false

/-- No pair, and no hold buffer on the module: the conditions of `Unpaired`, and with every write seen by all those of `Solo`. -/
def unpaired (u : State) : Bool := u.pairs.isEmpty && match State.tileOf u.focus with
  | some t => (u.tile t).twin == .alone
  | none => true
def solo (u : State) : Bool := u.slack == 0 && u.mem.unseen.isEmpty && unpaired u

theorem ready_holds {s : State} {i : Instr} {p : BitVec 3} {n : BitVec 1} (g : guardOf i = some (p, n)) (h : ready s i = true) :
    Ready s i p n := by
  unfold ready at h
  rw [g] at h
  simp only [Bool.and_eq_true, Bool.not_eq_true'] at h
  exact ⟨h.1.1, h.1.2, h.2⟩

theorem unpaired_holds {u : State} (h : unpaired u = true) : Unpaired u := by
  simp only [unpaired, Bool.and_eq_true, List.isEmpty_iff] at h
  intro t ht
  rw [ht] at h
  refine ⟨beq_iff_eq.mp h.2, ?_⟩
  simp only [State.pair, h.1, Assoc.get]
  rfl

theorem solo_holds {u : State} (h : solo u = true) : Solo u := by
  simp only [solo, Bool.and_eq_true, beq_iff_eq, List.isEmpty_iff] at h
  exact ⟨unpaired_holds h.2, h.1⟩

/-- Whether two outcomes are the same next state. -/
def same (a b : Host.Outcome State Fault Refusal) : Bool :=
  match a, b with
  | .next s, .next t => decide (s = t)
  | _, _ => false

/-- The state after. -/
def after (a : Host.Outcome State Fault Refusal) : State :=
  match a with
  | .next s => s
  | _ => State.reset

/-- The state with the completion tokens of tile 0's copy commands, which are free values, at 0. -/
def untoken (s : State) : State := [0, 1].foldl (fun s e => s.modEngine 0 e (fun g => { g with cmds := g.cmds.map (fun c => { c with token := 0 }) })) s

/-- Whether two outcomes are the same next state but for those tokens. -/
def alike (a b : Host.Outcome State Fault Refusal) : Bool :=
  match a, b with
  | .next s, .next t => decide (untoken s = untoken t)
  | _, _ => false

/-- The hypotheses hold and the instruction ends so. -/
def goes (s : State) (i : Instr) (hs : List Bool) (r : Host.Outcome State Fault Refusal) : Bool :=
  ready s i && hs.all id && same (exec i s) r

/-- The same outside a pair. -/
def runs (s : State) (i : Instr) (hs : List Bool) (r : Host.Outcome State Fault Refusal) : Bool := solo (issued s) && goes s i hs r

/-- A word as the table numbers its bits decodes to the instruction. -/
def word (n w : Nat) (i : Instr) : Bool := decodeTableWord n w == some i

/-- What a fetch gives to execute, and the state in which it executes nothing. -/
def ran (f : Fetched) : Option Instr :=
  match f with
  | .run i _ => some i
  | _ => none
def stood (f : Fetched) : Option State :=
  match f with
  | .done t => some t
  | _ => none

/-! ## Words written out, and ill-formed terms -/

/-- R35, R36, R37, R60: ADD x3, x1, x2; the same predicated on not p2; ADD x4, x4, #8; and one word of each field table. -/
theorem test_words_integer : List.all (
  [decodeTableWord 64 0x000000C00810C005 == some (.add (fA 3 1 2 0 3 0 0)),
   decodeTableWord 64 0x000000C00810E805 == some (.add { fA 3 1 2 0 3 0 0 with pred := 2, pneg := 1 }),
   decodeTableWord 64 0x000800C0F0410005 == some (.add (fA 4 4 60 0 3 0 8)),
   decodeTableWord 64 (1 + 0x20 * 2 ^ 2 + 7 * 2 ^ 14 + 8 * 2 ^ 20 + 2 * 2 ^ 26 + 9 * 2 ^ 30) == some (.addImm (fI 7 8 2 9)),
   decodeTableWord 96 (2 + 0x81 * 2 ^ 2 + 3 * 2 ^ 14 + 32 * 2 ^ 20 + 2 * 2 ^ 26 + 3 * 2 ^ 38 + 1 * 2 ^ 64) ==
     some (.addQw (fQ (fA 3 32 2 0 3 0 0) 1 0 0 0)),
   decodeTableWord 96 (2 + 0x01 * 2 ^ 2 + 4 * 2 ^ 14 + 0x123456789ABCDEF0 * 2 ^ 32) ==
     some (.li ⟨0, 0, 4, 0, 0, 0, 0x123456789ABCDEF0⟩)]) id = true := by decide +kernel

/-- R41, R44, R56, R60-R62: FADD, LD with ORD 1, B, MMA, TLBW, PAD and a word with L = 0. -/
theorem test_words_other_families : List.all (
  [decodeTableWord 64 0x000082800C2040C1 == some (.fadd (fA 1 2 3 0 10 32 0)),
   decodeTableWord 64 (1 + 0x70 * 2 ^ 2 + 5 * 2 ^ 14 + 6 * 2 ^ 20 + 3 * 2 ^ 26 + 1 * 2 ^ 34 + 16 * 2 ^ 42) == some (.ld (fM 5 6 3 0 1 0 0 16)),
   decodeTableWord 64 (1 + 0x98 * 2 ^ 2 + 1 * 2 ^ 14 + 2 * 2 ^ 20 + 2 * 2 ^ 26 + (2 ^ 34 - 2) * 2 ^ 30) == some (.b (fB 1 2 2 (2 ^ 34 - 2))),
   decodeTableWord 96 (2 + 0x10 * 2 ^ 2 + 2 * 2 ^ 38 + 1 * 2 ^ 46 + 7 * 2 ^ 64) == some (.mma (fE 0 0 0 0 2 1 7)),
   decodeTableWord 128 (3 + 0x06 * 2 ^ 2 + 1 * 2 ^ 20 + 2 * 2 ^ 26 + 3 * 2 ^ 32 + 1 * 2 ^ 38) == some (.tlbw (fC 0 1 2 3 1 0 0)),
   decodeTableWord 32 0xFFFFFFFC == some .pad, decodeTableWord 32 0x10 == some (.illegalFormat 0x10)]) id = true := by decide +kernel

/-- An ill-formed term for each check of fields: a reserved type, an unused field that is not 0, an immediate where none is used, a condition code past 8, a queue specifier as a predicate, a wait byte on a register, and reserved bits of the wide formats. -/
theorem test_wellFormed_refuses : List.all (
  [WellFormed (.add (fA 3 1 2 0 3 0 0)), !WellFormed (.add (fA 3 1 2 0 15 0 0)), !WellFormed (.add (fA 3 1 2 5 3 0 0)),
   !WellFormed (.add (fA 3 1 2 0 3 0 8)), !WellFormed (.add (fA 61 1 2 0 3 0 0)), !WellFormed (.b (fB 1 2 9 0)),
   !WellFormed (.cmp (fA 32 1 2 0 3 0 0)), !WellFormed (.addQw (fQ (fA 3 1 2 0 3 0 0) 1 0 0 0)),
   !WellFormed (.li ⟨0, 0, 4, 1, 0, 0, 5⟩), !WellFormed (.mma { fE 0 0 0 0 2 1 7 with zero := 1 }),
   !WellFormed (.launch (fC 3 1 0 0 0 1 0)), !WellFormed (.tsc (fA 3 0 0 0 0 0 1)), !WellFormed (.ld (fM 5 6 3 0 7 0 0 0))]) id = true := by decide +kernel

/-! ## Steps, fetch and decode -/

/-- A turn given for a sequencer whose next word is ADD x3, x1, x2, and a device step given as a turn. -/
theorem witness_StepRunsDecodedInstruction : List.all (
  let s := State.reset.withFetchWord 64 0x000000C00810C005
  let q := s.focus
  let t := { (turnOf s).2 with focus := q }
  let pc := (t.seq q).pc
  let e : State := { State.reset with agenda := [.event .ballastEnd 5] }
  let d := match codeBytes t q pc 4 with
    | .ok d => some d
    | _ => none
  let w := match codeBytes t q pc 8 with
    | .ok d => some d
    | _ => none
  [decide ((turnOf s).1 = .run q), runnable (turnOf s).2 q, !pairStalled t q, pc.toNat % 4 == 0, !codeAbsent t q pc, d.isSome,
   fetchLength pc 0x0810C005 == 8,
   (match w with
    | some w => !w.poison.any id && decide (decode w.bytes = .ok (.add (fA 3 1 2 0 3 0 0), [])) &&
        same (step s) (exec (.add (fA 3 1 2 0 3 0 0)) (afterDecode q w t))
    | none => false),
   decide ((turnOf e).1 = .event .ballastEnd 5), same (step e) (exec .ballastEnd { (turnOf e).2 with subject := 5 })]) id = true := by decide +kernel

/-- An instruction with words, and bytes that decode. -/
theorem witness_DecodeInvertsEncode : List.all (
  [hasWords (.add (fA 3 1 2 0 3 0 0)), decide (decode (encode (.add (fA 3 1 2 0 3 0 0)) ++ [7]) = .ok (.add (fA 3 1 2 0 3 0 0), [7]))]) id = true := by decide +kernel

/-- At a misaligned pc; at the word L = 0; at a first word that crosses its block; at poisoned bytes; where no entry translates. -/
theorem witness_FetchFindings : List.all (
  let s := State.reset.withFetchWord 64 0x000000C00810C005
  let q := s.focus
  let at_ := fun (pc : Nat) (v : State) => v.modSeq q (fun u => { u with pc := BitVec.ofNat 64 pc })
  let pc := (s.seq q).pc.toNat
  let key := match codePlace s q (s.seq q).pc with
    | .ok (key, _) => key
    | _ => 0
  let bad := s.modMem (fun m => m.addPoison (wordUnit key))
  let none_ := modTlb q (fun t => { t with entries := [] }) s
  [decide (stood (fetch (at_ (pc + 2) s)) = some (raiseTrap q 0x0A (BitVec.ofNat 64 (pc + 2)) none (BitVec.ofNat 64 (pc + 2)) (at_ (pc + 2) s))),
   ran (fetch none_) == some (.fetchTranslationFault (BitVec.ofNat 64 pc) false),
   ran (fetch (at_ (pc + 28) (storeCode q [1, 0, 0, 0] (at_ (pc + 28) s)))) == some (.illegalFormat 1),
   (match codeBytes bad q (s.seq q).pc 8 with
    | .ok e => e.poison.any id && decide (stood (fetch bad) = some (consumePoison q (noteConsumed q (s.seq q).pc (afterDecode q e bad))))
    | _ => false)]) id = true := by decide +kernel

/-! ## Words of every opcode -/

/-- R56, R60-R64: The integer, floating-point, vector and predicate opcodes of F64-A, each with every field at a value of its own. -/
theorem test_words_arithmetic_64 : List.all (
  let a : F64A := ⟨5, 1, 33, 18, 41, 6, 9, 37, 0xBEEF⟩
  [word 64 0xBEEF9646A5287401 (.nop a), word 64 0xBEEF9646A5287405 (.add a), word 64 0xBEEF9646A5287409 (.sub a),
   word 64 0xBEEF9646A528740D (.mul a), word 64 0xBEEF9646A5287411 (.mulh a), word 64 0xBEEF9646A5287415 (.div a),
   word 64 0xBEEF9646A5287419 (.rem a), word 64 0xBEEF9646A528741D (.and a), word 64 0xBEEF9646A5287421 (.or a),
   word 64 0xBEEF9646A5287425 (.xor a), word 64 0xBEEF9646A5287429 (.shl a), word 64 0xBEEF9646A528742D (.shr a),
   word 64 0xBEEF9646A5287431 (.sra a), word 64 0xBEEF9646A5287435 (.rot a), word 64 0xBEEF9646A5287439 (.min a),
   word 64 0xBEEF9646A528743D (.max a), word 64 0xBEEF9646A5287441 (.clz a), word 64 0xBEEF9646A5287445 (.popc a),
   word 64 0xBEEF9646A5287449 (.bfx a), word 64 0xBEEF9646A528744D (.bfi a), word 64 0xBEEF9646A5287451 (.cmp a),
   word 64 0xBEEF9646A5287455 (.sel a), word 64 0xBEEF9646A5287459 (.mov a), word 64 0xBEEF9646A528745D (.lea a),
   word 64 0xBEEF9646A5287461 (.gaddr a), word 64 0xBEEF9646A52874C1 (.fadd a), word 64 0xBEEF9646A52874C5 (.fsub a),
   word 64 0xBEEF9646A52874C9 (.fmul a), word 64 0xBEEF9646A52874CD (.fma a), word 64 0xBEEF9646A52874D1 (.fdiv a),
   word 64 0xBEEF9646A52874D5 (.fsqrt a), word 64 0xBEEF9646A52874D9 (.fmin a), word 64 0xBEEF9646A52874DD (.fmax a),
   word 64 0xBEEF9646A52874E1 (.fcmp a), word 64 0xBEEF9646A52874E5 (.fsgn a), word 64 0xBEEF9646A52874E9 (.fcvt a),
   word 64 0xBEEF9646A52874ED (.frnd a), word 64 0xBEEF9646A52874F1 (.fexp2 a), word 64 0xBEEF9646A52874F5 (.flog2 a),
   word 64 0xBEEF9646A5287581 (.vbcast a), word 64 0xBEEF9646A5287585 (.vred a), word 64 0xBEEF9646A5287589 (.vshuf a),
   word 64 0xBEEF9646A528758D (.vcomp a), word 64 0xBEEF9646A5287591 (.viota a), word 64 0xBEEF9646A5287595 (.vgath a),
   word 64 0xBEEF9646A5287599 (.vscat a), word 64 0xBEEF9646A528759D (.vld a), word 64 0xBEEF9646A52875A1 (.vst a),
   word 64 0xBEEF9646A52875A5 (.vext a), word 64 0xBEEF9646A52875A9 (.vins a), word 64 0xBEEF9646A52875B1 (.plog a),
   word 64 0xBEEF9646A52875B5 (.pmov a)]) id = true := by decide +kernel

/-- R56, R60-R64: The other opcodes of F64-A. -/
theorem test_words_control_64 : List.all (
  let a : F64A := ⟨5, 1, 33, 18, 41, 6, 9, 37, 0xBEEF⟩
  [word 64 0xBEEF9646A52875E9 (.bind a), word 64 0xBEEF9646A52875ED (.unbind a), word 64 0xBEEF9646A52875F5 (.barinit a),
   word 64 0xBEEF9646A52875F9 (.bararv a), word 64 0xBEEF9646A52875FD (.barwait a), word 64 0xBEEF9646A5287601 (.bardef a),
   word 64 0xBEEF9646A5287621 (.qbind a), word 64 0xBEEF9646A5287625 (.qadv a), word 64 0xBEEF9646A5287629 (.qpub a),
   word 64 0xBEEF9646A528762D (.qavail a), word 64 0xBEEF9646A5287631 (.acton a), word 64 0xBEEF9646A5287635 (.actoff a),
   word 64 0xBEEF9646A5287639 (.fend a), word 64 0xBEEF9646A528763D (.spawn a), word 64 0xBEEF9646A5287641 (.migr a),
   word 64 0xBEEF9646A5287645 (.nestcfg a), word 64 0xBEEF9646A5287649 (.nestgo a), word 64 0xBEEF9646A528764D (.alignh a),
   word 64 0xBEEF9646A5287669 (.jr a), word 64 0xBEEF9646A5287671 (.ret a), word 64 0xBEEF9646A5287675 (.bopush a),
   word 64 0xBEEF9646A5287681 (.omclaim a), word 64 0xBEEF9646A5287685 (.omrel a), word 64 0xBEEF9646A528768D (.accz a),
   word 64 0xBEEF9646A5287691 (.accrd a), word 64 0xBEEF9646A5287695 (.accwr a), word 64 0xBEEF9646A5287699 (.mprog a),
   word 64 0xBEEF9646A528769D (.semwait a), word 64 0xBEEF9646A52876A1 (.semsig a), word 64 0xBEEF9646A52876B1 (.tfmt a),
   word 64 0xBEEF9646A52876B5 (.tqry a), word 64 0xBEEF9646A52876C1 (.chseq a), word 64 0xBEEF9646A52876C5 (.chtail a),
   word 64 0xBEEF9646A52876C9 (.strbind a), word 64 0xBEEF9646A52876CD (.mcpoll a), word 64 0xBEEF9646A52876E1 (.tlook a),
   word 64 0xBEEF9646A52876E5 (.tins a), word 64 0xBEEF9646A52876E9 (.tevict a), word 64 0xBEEF9646A5287721 (.evqld a),
   word 64 0xBEEF9646A5287725 (.evslope a), word 64 0xBEEF9646A5287729 (.evrun a), word 64 0xBEEF9646A528772D (.evgvt a),
   word 64 0xBEEF9646A5287731 (.evstat a), word 64 0xBEEF9646A5287741 (.pair a), word 64 0xBEEF9646A5287745 (.unpair a),
   word 64 0xBEEF9646A5287749 (.fpck a), word 64 0xBEEF9646A528774D (.errq a), word 64 0xBEEF9646A5287781 (.trap a),
   word 64 0xBEEF9646A5287785 (.eret a), word 64 0xBEEF9646A5287789 (.csrr a), word 64 0xBEEF9646A528778D (.csrw a),
   word 64 0xBEEF9646A5287791 (.wfe a), word 64 0xBEEF9646A5287795 (.tsc a), word 64 0xBEEF9646A5287799 (.cyc a),
   word 64 0xBEEF9646A528779D (.halt a)]) id = true := by decide +kernel

/-- R56, R60-R64: F64-M, F64-B and F64-I. -/
theorem test_words_memory_and_immediates_64 : List.all (
  let m : F64M := ⟨5, 1, 33, 18, 9, 6, 5, 2, 3, 0x2ABCDE⟩
  let b : F64B := ⟨5, 1, 33, 18, 9, 0x2ABCDEF12⟩
  let i : F64I := ⟨5, 1, 33, 18, 9, 0x2ABCDEF12⟩
  [word 64 0xAAF379D5A52875C1 (.ld m), word 64 0xAAF379D5A52875C5 (.st m), word 64 0xAAF379D5A52875C9 (.fest m),
   word 64 0xAAF379D5A52875CD (.feq m), word 64 0xAAF379D5A52875D1 (.atom m), word 64 0xAAF379D5A52875E1 (.acq m),
   word 64 0xAAF379D5A52875E5 (.rel m), word 64 0xAAF379D5A52875F1 (.fence m), word 64 0xAAF379D5A5287605 (.waitseq m),
   word 64 0xAAF379D5A5287701 (.tlbinv m), word 64 0xAAF379D5A5287705 (.probe m), word 64 0xAAF37BC4A5287661 (.b b),
   word 64 0xAAF37BC4A528766D (.call b), word 64 0xAAF37BC4A5287679 (.brq b), word 64 0xAAF37BC4A5287481 (.addImm i),
   word 64 0xAAF37BC4A5287485 (.andImm i), word 64 0xAAF37BC4A5287489 (.orImm i), word 64 0xAAF37BC4A528748D (.xorImm i),
   word 64 0xAAF37BC4A5287491 (.shlImm i), word 64 0xAAF37BC4A5287495 (.shrImm i), word 64 0xAAF37BC4A5287499 (.sraImm i),
   word 64 0xAAF37BC4A528749D (.cmpImm i), word 64 0xAAF37BC4A52874A1 (.movImm i), word 64 0xAAF37BC4A5287665 (.j i)]) id = true := by decide +kernel

/-- R56, R60-R64: F96-Q. -/
theorem test_words_queue_wait_96 : List.all (
  let q : F96Q := ⟨⟨5, 1, 33, 18, 41, 6, 9, 37, 0xBEEF⟩, 0x91, 0x82, 0x73, 0x64⟩
  [word 96 0x64738291BEEF9646A5287402 (.nop96 q), word 96 0x64738291BEEF9646A5287606 (.addQw q),
   word 96 0x64738291BEEF9646A528760A (.subQw q), word 96 0x64738291BEEF9646A528760E (.mulQw q),
   word 96 0x64738291BEEF9646A5287612 (.mulhQw q), word 96 0x64738291BEEF9646A5287616 (.divQw q),
   word 96 0x64738291BEEF9646A528761A (.remQw q), word 96 0x64738291BEEF9646A528761E (.andQw q),
   word 96 0x64738291BEEF9646A5287622 (.orQw q), word 96 0x64738291BEEF9646A5287626 (.xorQw q),
   word 96 0x64738291BEEF9646A528762A (.shlQw q), word 96 0x64738291BEEF9646A528762E (.shrQw q),
   word 96 0x64738291BEEF9646A5287632 (.sraQw q), word 96 0x64738291BEEF9646A5287636 (.rotQw q),
   word 96 0x64738291BEEF9646A528763A (.minQw q), word 96 0x64738291BEEF9646A528763E (.maxQw q),
   word 96 0x64738291BEEF9646A5287642 (.clzQw q), word 96 0x64738291BEEF9646A5287646 (.popcQw q),
   word 96 0x64738291BEEF9646A528764A (.bfxQw q), word 96 0x64738291BEEF9646A528764E (.bfiQw q),
   word 96 0x64738291BEEF9646A5287652 (.cmpQw q), word 96 0x64738291BEEF9646A5287656 (.selQw q),
   word 96 0x64738291BEEF9646A528765A (.movQw q), word 96 0x64738291BEEF9646A528765E (.leaQw q),
   word 96 0x64738291BEEF9646A5287662 (.gaddrQw q), word 96 0x64738291BEEF9646A52876C2 (.faddQw q),
   word 96 0x64738291BEEF9646A52876C6 (.fsubQw q), word 96 0x64738291BEEF9646A52876CA (.fmulQw q),
   word 96 0x64738291BEEF9646A52876CE (.fmaQw q), word 96 0x64738291BEEF9646A52876D2 (.fdivQw q),
   word 96 0x64738291BEEF9646A52876D6 (.fsqrtQw q), word 96 0x64738291BEEF9646A52876DA (.fminQw q),
   word 96 0x64738291BEEF9646A52876DE (.fmaxQw q), word 96 0x64738291BEEF9646A52876E2 (.fcmpQw q),
   word 96 0x64738291BEEF9646A52876E6 (.fsgnQw q), word 96 0x64738291BEEF9646A52876EA (.fcvtQw q),
   word 96 0x64738291BEEF9646A52876EE (.frndQw q), word 96 0x64738291BEEF9646A52876F2 (.fexp2Qw q),
   word 96 0x64738291BEEF9646A52876F6 (.flog2Qw q), word 96 0x64738291BEEF9646A5287782 (.vbcastQw q),
   word 96 0x64738291BEEF9646A5287786 (.vredQw q), word 96 0x64738291BEEF9646A528778A (.vshufQw q),
   word 96 0x64738291BEEF9646A528778E (.vcompQw q), word 96 0x64738291BEEF9646A5287792 (.viotaQw q),
   word 96 0x64738291BEEF9646A5287796 (.vgathQw q), word 96 0x64738291BEEF9646A528779A (.vscatQw q),
   word 96 0x64738291BEEF9646A528779E (.vldQw q), word 96 0x64738291BEEF9646A52877A2 (.vstQw q),
   word 96 0x64738291BEEF9646A52877A6 (.vextQw q), word 96 0x64738291BEEF9646A52877AA (.vinsQw q),
   word 96 0x64738291BEEF9646A52877B2 (.plogQw q), word 96 0x64738291BEEF9646A52877B6 (.pmovQw q)]) id = true := by decide +kernel

/-- R56, R60-R64: F96-E, F96-I and F128-C. -/
theorem test_words_wide : List.all (
  let e : F96E := ⟨5, 1, 33, 18, 41, 6, 0xA1, 0xB2, 0xC3, 1, 0xDEADBEEF⟩
  let l : F96I := ⟨5, 1, 33, 18, 9, 2, 0x0123456789ABCDEF⟩
  let c : F128C := ⟨5, 1, 33, 18, 41, 6, 0x5A, 0x2BCDE, 0xFEDCBA9876543210⟩
  [word 96 0xDEADBEEF70ECA846A5287442 (.mma e), word 96 0xDEADBEEF70ECA846A5287446 (.copy e),
   word 96 0xDEADBEEF70ECA846A528744A (.get e), word 96 0xDEADBEEF70ECA846A528744E (.push e),
   word 96 0xDEADBEEF70ECA846A5287452 (.chapp e), word 96 0x123456789ABCDEFA5287406 (.li l),
   word 128 0xFEDCBA9876543210AF379686A5287403 (.nop128 c), word 128 0xFEDCBA9876543210AF379686A5287407 (.launch c),
   word 128 0xFEDCBA9876543210AF379686A528740B (.coll c), word 128 0xFEDCBA9876543210AF379686A528740F (.puts c),
   word 128 0xFEDCBA9876543210AF379686A5287413 (.tdef c), word 128 0xFEDCBA9876543210AF379686A5287417 (.tdup c),
   word 128 0xFEDCBA9876543210AF379686A528741B (.tlbw c), word 128 0xFEDCBA9876543210AF379686A528741F (.evdef c),
   word 128 0xFEDCBA9876543210AF379686A5287423 (.evdep c), word 128 0xFEDCBA9876543210AF379686A5287427 (.evsamp c)]) id = true := by decide +kernel

/-! ## Issue, end and integers -/

/-- A state with canonical memory whose next step is a store. -/
theorem witness_MemoryStaysCanonical : List.all (
  let s := { regs [(2, own 0 64), (3, 5)] (seated (.a 0)) with agenda := [.run (.a 0)] }
  [s.memOk, (after (step s)).memOk]) id = true := by decide +kernel

/-- A sequencer of no pair: the issue moves the time on, the end the program counter alone. -/
theorem witness_IssueAndEndFrame : List.all (
  let s := seated (.a 0)
  [!isPaired s (.a 0), decide (s.time ≤ (issued s).time),
   decide ((complete false (.a 0) (.add (fA 3 1 2 0 3 0 0)) 8 .fall s).seq (.a 0) = { s.seq (.a 0) with wait := none, deadline := none, pc := 8 }),
   decide (((complete false (.a 0) (.jr (fA 3 1 0 0 0 0 0)) 8 (.jump 32) s).seq (.a 0)).pc = 32)]) id = true := by decide +kernel

/-- p1 is 0 after reset, so an instruction under it is over at once; MMA is no A-seq's, and a reserved type fails. -/
theorem witness_PredicatesAndDecodeChecks : List.all (
  let s := regs [(1, 6), (2, 7)] (seated (.a 0))
  let f := { fA 3 1 2 0 3 0 0 with pred := 1 }
  let g := fA 3 1 2 0 15 0 0
  [!pairStalled s s.focus, decodeOk s s.focus (.add f), !predHolds (s.seq s.focus) f.pred f.pneg,
   same (exec (.add f) s) (.next (setPc s.focus 8 (retire false s.focus (issued s)))),
   !decodeOk s s.focus (.add g), same (exec (.add g) s) (traps s (.add g) 0x01 (lowBits (.add g))),
   !decodeOk s s.focus (.tlbw (fC 0 1 2 3 1 0 0))]) id = true := by decide +kernel

/-- 32-bit signed sums wrap and come out sign-extended (R82); a byte sum of 100 and 100 is -56; an immediate source. -/
theorem witness_IntegerResults_scalar : List.all (
  let s := regs [(1, 0x7FFFFFFF), (2, 1), (4, 100), (5, 100)] (seated (.a 0))
  let u := issued s
  [runs s (.add (fA 3 1 2 0 2 0 0)) [scalarsAt u 2 2 (fA 3 1 2 0 2 0 0) == some (0x7FFFFFFF, 1, 0), xFree u 3]
     (falls s (.add (fA 3 1 2 0 2 0 0)) (withX 3 0xFFFFFFFF80000000 false u)),
   runs s (.add (fA 3 4 5 0 0 0 0)) [scalarsAt u 2 0 (fA 3 4 5 0 0 0 0) == some (100, 100, 0)]
     (falls s (.add (fA 3 4 5 0 0 0 0)) (withX 3 (-56) false u)),
   runs s (.subQw (fQ (fA 3 4 60 0 3 0 300) 0 0 0 0)) [] (falls s (.subQw (fQ (fA 3 4 60 0 3 0 300) 0 0 0 0)) (withX 3 (-200) false u)),
   runs s (.div (fA 3 1 0 0 3 0 0)) [] (falls s (.div (fA 3 1 0 0 3 0 0)) (withX 3 (BitVec.allOnes 64) false u)),
   runs s (.add (fA 0 4 5 0 3 0 0)) [] (falls s (.add (fA 0 4 5 0 3 0 0)) u)]) id = true := by decide +kernel

/-- Bytes of a vector register and an immediate in every element; D is v5. -/
theorem witness_IntegerResults_vector : List.all (
  let s := vreg 1 0x0A0B0C0D (seated (.x 0))
  let u := issued s
  let f := fA 5 1 60 0 0 32 1
  [f.isVec, vFree u 5, runs s (.add f) [(vectorsAt u 2 0 f).isSome]
     (falls s (.add f) (withV 5 (buildElements 8 (fun j => [0x0E, 0x0D, 0x0C, 0x0B].getD j 1)) 0 u))]) id = true := by decide +kernel

/-- ADD's and MOV's immediate forms, LI, and the three forms of a compare: -1 is less than 1 signed, not unsigned. -/
theorem witness_ImmediateFormsAndCompares : List.all (
  let s := regs [(1, 2 ^ 64 - 1), (2, 1)] (seated (.a 0))
  let u := issued s
  let i34 := 2 ^ 34 - 4
  let x := seated (.x 0)
  [runs s (.addImm (fI 3 2 3 i34)) [scalarAt u 3 2 0 == some 1] (falls s (.addImm (fI 3 2 3 i34)) (withX 3 (-3) false u)),
   runs s (.movImm (fI 3 0 3 i34)) [] (falls s (.movImm (fI 3 0 3 i34)) (withX 3 (-4) false u)),
   runs s (.li ⟨0, 0, 4, 0, 3, 0, 77⟩) [] (falls s (.li ⟨0, 0, 4, 0, 3, 0, 77⟩) (withX 4 77 false u)),
   runs s (.cmp (fA 1 1 2 0 3 2 0)) [] (falls s (.cmp (fA 1 1 2 0 3 2 0)) (withP 1 true u)),
   runs s (.cmp (fA 1 1 2 0 3 4 0)) [] (falls s (.cmp (fA 1 1 2 0 3 4 0)) (withP 1 false u)),
   runs s (.cmpImm (fI 17 1 3 1)) [] (falls s (.cmpImm (fI 17 1 3 1)) (withP 1 true u)),
   runs x (.fcmp (fA 2 0 0 0 11 0 0)) [] (falls x (.fcmp (fA 2 0 0 0 11 0 0)) (withFlags 0 (withP 2 true (issued x))))]) id = true := by decide +kernel

/-- A poisoned x1 moves with its mark, an immediate without; SEL takes B where p1 is 0; a vector moves lane by lane. -/
theorem witness_MoveAndSelectCarryPoison : List.all (
  let s := seqOf (fun q => q.setX 1 9 true) (regs [(2, 5)] (seated (.a 0)))
  let u := issued s
  let v := vreg 1 77 (seated (.x 0))
  [runs s (.mov (fA 3 1 0 0 3 0 0)) [xFree u 1, xFree u 3] (falls s (.mov (fA 3 1 0 0 3 0 0)) (withX 3 9 true u)),
   runs s (.mov (fA 3 60 0 0 3 0 4)) [] (falls s (.mov (fA 3 60 0 0 3 0 4)) (withX 3 4 false u)),
   runs s (.sel (fA 3 1 2 0 3 1 0)) [] (falls s (.sel (fA 3 1 2 0 3 1 0)) (withX 3 5 false u)),
   runs s (.sel (fA 3 1 2 0 3 0 0)) [] (falls s (.sel (fA 3 1 2 0 3 0 0)) (withX 3 9 true u)),
   runs v (.mov (fA 3 1 0 0 0 32 0)) [] (falls v (.mov (fA 3 1 0 0 0 32 0)) (withV 3 77 0 (issued v)))]) id = true := by decide +kernel

/-- The three NOPs on an A-seq. -/
theorem witness_NopsChangeNothing : List.all (
  let s := seated (.a 0)
  [goes s (.nop (fA 0 0 0 0 0 0 0)) [] (falls s (.nop (fA 0 0 0 0 0 0 0)) (issued s)),
   goes s (.nop96 (fQ (fA 0 0 0 0 0 0 0) 0 0 0 0)) [] (falls s (.nop96 (fQ (fA 0 0 0 0 0 0 0) 0 0 0 0)) (issued s)),
   goes s (.nop128 (fC 0 0 0 0 0 0 0)) [] (falls s (.nop128 (fC 0 0 0 0 0 0 0)) (issued s)),
   decide ((encodeBits (.nop (fA 0 0 0 0 0 0 0))).2 >>> 14 = 0), decide ((encodeBits (.nop96 (fQ (fA 0 0 0 0 0 0 0) 0 0 0 1))).2 >>> 14 ≠ 0), !pairStalled s s.focus,
   same (exec (.nop96 (fQ (fA 0 0 0 0 0 0 0) 0 0 0 1)) s) (traps s (.nop96 (fQ (fA 0 0 0 0 0 0 0) 0 0 0 1)) 0x01 0x2),
   same (exec (.nop (fA 0 0 0 0 0 0 1)) s) (traps s (.nop (fA 0 0 0 0 0 0 1)) 0x01 0x0001000000000001)]) id = true := by decide +kernel

/-- A poisoned source, and a pending one. -/
theorem witness_SourceMarksStopIntegers : List.all (
  let s := seqOf (fun q => q.setX 1 9 true) (seated (.a 0))
  let t := seqOf (fun q => q.setPending 1 true) (seated (.a 0))
  let i := Instr.add (fA 3 1 2 0 3 0 0)
  [runs s i [(here (issued s)).xPoison.getLsbD 1, !(here (issued s)).xPending.getLsbD 1] (.next (consumePoison s.focus (noteConsumed s.focus 0 (issued s)))),
   runs t i [(here (issued t)).xPending.getLsbD 1] (.next (recordWait t.focus .pending t))]) id = true := by decide +kernel

/-! ## Floating point, predicates, vectors -/

/-- Operands of each special case of R363: a signalling NaN, two infinities, 0 by 0, and 1 by -0, in fp32. -/
theorem witness_FloatValues : List.all (
  [((fmtOf 10).decode 0x7F800001).isSignalling, decide (faddOp .rne 10 0 0x7F800001 0 0 = ⟨0x7FC00000, flagNV⟩),
   decide ((fmtOf 10).decode 0x7F800000 = .inf false), decide (faddOp .rdn 10 0 0x7F800000 0xFF800000 0 = ⟨0x7FC00000, flagNV⟩),
   (match (fmtOf 10).decode 0 with
    | .fin _ 0 _ => true
    | _ => false), decide (fdivOp .rne 10 0 0 0 0 = ⟨0x7FC00000, flagNV⟩),
   decide (fmulOp .rne 10 0 0 0x7F800000 0 = ⟨0x7FC00000, flagNV⟩), decide (fdivOp .rne 10 0 0x3F800000 0x80000000 0 = ⟨0xFF800000, flagDZ⟩)]) id = true := by decide +kernel

/-- 1 + 1/3 in fp64 is inexact; FEXP2 of an fp32 immediate-free source; two fp64 elements of a vector. -/
theorem witness_FloatResults : List.all (
  let s := regs [(1, 0x3FF0000000000000), (2, 0x3FD5555555555555), (3, 0x40400000)] (seated (.x 0))
  let u := issued s
  let v := vreg 1 0x3FF0000000000000 (vreg 2 0x4000000000000000 (seated (.x 0)))
  [runs s (.fadd (fA 4 1 2 0 11 0 0)) [(scalarsAt u 2 11 (fA 4 1 2 0 11 0 0)).isSome, xFree u 4]
     (falls s (.fadd (fA 4 1 2 0 11 0 0)) (withFlags flagNX (withX 4 0x3FF5555555555555 false u))),
   runs s (.fexp2 (fA 4 3 0 0 10 0 0)) [] (falls s (.fexp2 (fA 4 3 0 0 10 0 0)) (withFlags 0 (withX 4 0x41000000 false u))),
   runs v (.fadd (fA 4 1 2 0 11 32 0)) [] (falls v (.fadd (fA 4 1 2 0 11 32 0)) (withFlags 0 (withV 4 0x4008000000000000 0 (issued v))))]) id = true := by decide +kernel

/-- i32 -7 to fp64 (R368); fp64 elements narrowed into part 0 of a vector of fp32. -/
theorem witness_ConversionResult : List.all (
  let s := regs [(1, 2 ^ 32 - 7)] (seated (.x 0))
  let v := vreg 1 0x3FF0000000000000 (seated (.x 0))
  let f := fA 3 1 0 0 11 2 0
  let g := fA 3 1 60 0 10 43 0
  [runs s (.fcvt f) [scalarAt (issued s) 2 1 0 == some 0xFFFFFFF9] (falls s (.fcvt f) (withFlags 0 (withX 3 0xC01C000000000000 false (issued s)))),
   runs v (.fcvt g) [] (falls v (.fcvt g) (withFlags 0 (withV 3 0x3F800000 0 (issued v))))]) id = true := by decide +kernel

/-- PLOG of p0 and p1; PMOV from bit 0 of x1, of p0 to x3, of all predicates, and to all predicates. -/
theorem witness_PredicateInstructions : List.all (
  let s := regs [(1, 5)] (seated (.a 0))
  let u := issued s
  [goes s (.plog (fA 2 0 1 0 0 1 0)) [] (falls s (.plog (fA 2 0 1 0 0 1 0)) (withP 2 true u)),
   goes s (.plog (fA 2 0 0 0 0 3 0)) [] (falls s (.plog (fA 2 0 0 0 0 3 0)) (withP 2 false u)),
   goes s (.pmov (fA 2 1 0 0 0 0 0)) [] (falls s (.pmov (fA 2 1 0 0 0 0 0)) (withP 2 true u)),
   goes s (.pmov (fA 3 0 0 0 0 1 0)) [] (falls s (.pmov (fA 3 0 0 0 0 1 0)) (withX 3 1 false u)),
   goes s (.pmov (fA 3 0 0 0 0 2 0)) [] (falls s (.pmov (fA 3 0 0 0 0 2 0)) (withX 3 1 false u)),
   goes s (.pmov (fA 0 1 0 0 0 3 0)) [] (falls s (.pmov (fA 0 1 0 0 0 3 0)) (withP 2 true u)),
   same (exec (.plog (fA 8 0 1 0 0 1 0)) s) (traps s (.plog (fA 8 0 1 0 0 1 0)) 0x01 (lowBits (.plog (fA 8 0 1 0 0 1 0)))),
   same (exec (.plog (fA 2 0 1 0 0 4 0)) s) (traps s (.plog (fA 2 0 1 0 0 4 0)) 0x01 (lowBits (.plog (fA 2 0 1 0 0 4 0)))),
   same (exec (.plog (fA 2 0 1 0 0 3 0)) s) (traps s (.plog (fA 2 0 1 0 0 3 0)) 0x01 (lowBits (.plog (fA 2 0 1 0 0 3 0)))),
   same (exec (.plogQw (fQ (fA 2 0 1 0 0 1 0) 0 1 0 0)) s) (traps s (.plogQw (fQ (fA 2 0 1 0 0 1 0) 0 1 0 0)) 0x01 (lowBits (.plogQw (fQ (fA 2 0 1 0 0 1 0) 0 1 0 0))))]) id = true := by decide +kernel

/-- Words of 32 bits: VBCAST of element 1, VRED's sum, VSHUF, VCOMP by a mask, VIOTA, VEXT and VINS. -/
theorem witness_VectorRegisterResult : List.all (
  let s := vreg 1 0x300000002000000010000000A (vreg 2 0x000000030000000000000001 (regs [(4, 2)] (seated (.x 0))))
  let u := issued s
  let e := fun (l : List Nat) (d : Nat) => buildElements 32 (fun j => l.getD j d)
  [runs s (.vbcast (fA 3 1 60 0 2 32 1)) [] (falls s (.vbcast (fA 3 1 60 0 2 32 1)) (withV 3 (e [] 1) 0 u)),
   runs s (.vred (fA 3 2 0 0 2 32 0)) [] (falls s (.vred (fA 3 2 0 0 2 32 0)) (withFlags 0 (withV 3 4 0 u))),
   runs s (.vshuf (fA 3 1 2 0 2 32 0)) []
     (falls s (.vshuf (fA 3 1 2 0 2 32 0)) (withV 3 (e [element ((here u).v 1) 32 1, element ((here u).v 1) 32 0, element ((here u).v 1) 32 3]
       (element ((here u).v 1) 32 0)) 0 u)),
   runs s (.vcomp (fA 3 1 2 0 2 32 0)) [] (falls s (.vcomp (fA 3 1 2 0 2 32 0)) (withV 3 (e [element ((here u).v 1) 32 0, element ((here u).v 1) 32 2] 0) 0 u)),
   runs s (.viota (fA 3 4 60 0 2 32 2)) [] (falls s (.viota (fA 3 4 60 0 2 32 2)) (withV 3 (buildElements 32 (fun j => 2 + 2 * j)) 0 u)),
   runs s (.vext (fA 3 2 60 0 2 32 2)) [] (falls s (.vext (fA 3 2 60 0 2 32 2)) (withX 3 3 false u)),
   runs s (.vins (fA 2 0 60 0 2 32 1)) [] (falls s (.vins (fA 2 0 60 0 2 32 1)) (withV 2 0x000000030000000000000001 0 u))]) id = true := by decide +kernel

/-! ## Queues, streams and memory -/

/-- An unbound handle; a queue of two 8-byte slots at offset 512 with one slot filled, read at its head and written at its tail; an empty and a full one; a stream register unbound, short, and with one element of its last. -/
theorem witness_QueueAndStreamOperands : List.all (
  let s := store 0 512 8 0x1122 ((seqOf (fun q => { q with handles := q.handles.setIfInBounds 1 (some (.tile 0 512)) }) (regs [(2, 7)] (seated (.a 0)))).modTile 0
    (fun w => { w with queues := w.queues.set 512 ⟨3, 1, 1, 0, false⟩ }))
  let u := issued s
  let empty := s.modTile 0 (fun w => { w with queues := w.queues.set 512 ⟨3, 1, 1, 1, false⟩ })
  let full := s.modTile 0 (fun w => { w with queues := w.queues.set 512 ⟨3, 1, 2, 0, false⟩ })
  let read := fQ (fA 3 33 0 0 3 0 0) 1 0 0 0
  let write := fQ (fA 33 2 0 0 3 0 0) 0 0 0 1
  let unbound := fQ (fA 3 34 0 0 3 0 0) 1 0 0 0
  let x := fun (r : Stream) => seqOf (fun q => { q with sds := q.sds.setIfInBounds 0 r }) (seated (.m 0))
  let mov := fA 3 48 0 0 3 0 0
  let last : Stream := { Stream.reset with bound := true, ty := 0, left := 1, fifo := [(0x80, true)] }
  let short : Stream := { Stream.reset with bound := true, ty := 1, left := 1, fifo := [(0x80, true)] }
  [(waitOf 1).2 == 1, runs s (.movQw unbound) [unbound.waitsOk] (traps s (.movQw unbound) 0x0E 34),
   runs s (.movQw read) [read.waitsOk, cleanBytes u.mem (scratchKey 0 512) 8] (falls s (.movQw read) (withX 3 0x1122 false u)),
   runs s (.movQw write) [write.waitsOk] (falls s (.movQw write) (withBytes (scratchKey 0 520) (toBytes 8 7) false u)),
   runs empty (.movQw read) [] (.next (recordWait s.focus .queue empty)), runs full (.movQw write) [] (.next (recordWait s.focus .queue full)),
   goes (x Stream.reset) (.mov mov) [] (traps (x Stream.reset) (.mov mov) 0x15 0),
   goes (x short) (.mov mov) [] (.next (recordWait (.m 0) .queue (x short))),
   goes (x last) (.mov mov) [xFree (issued (x last)) 3] (falls (x last) (.mov mov) (withX 3 0xFFFFFFFFFFFFFF80 true
     (seqOf (fun q => { q with sds := q.sds.setIfInBounds 0 { last with fifo := [], left := 0, bound := false } }) (issued (x last)))))]) id = true := by decide +kernel

/-- ADD x3, q1, #1 with one filled slot. -/
theorem witness_IntegerOperandsInEveryForm : List.all (
  let s := store 0 512 8 0x1122 ((seqOf (fun q => { q with handles := q.handles.setIfInBounds 1 (some (.tile 0 512)) }) (seated (.a 0))).modTile 0
    (fun w => { w with queues := w.queues.set 512 ⟨3, 1, 1, 0, false⟩ }))
  let f := fQ (fA 3 33 60 0 3 0 1) 1 0 0 0
  [goes s (.addQw f) [f.waitsOk,
     (match (queueWaits (operands 2 f false false false false false)).run (issued s) with
      | .ok _ t => decide (t = issued s)
      | _ => false),
     (match (useABC 2 3 f).run (issued s) with
      | .ok r t => decide (r = (0x1122, 1, 0)) && decide (t = issued s)
      | _ => false)] (falls s (.addQw f) (withX 3 0x1123 false (issued s)))]) id = true := by decide +kernel

/-- ST of 8 bytes at offset 72 and at the last word; LD of a byte above 127, sign-extended, and of a poisoned word; with slack, LD of a word whose last write the agent need not see, LD without, and ST that only its own agent sees. -/
theorem witness_LoadAndStoreOwnScratchpad : List.all (
  let s := regs [(2, own 0 64), (3, 0x1122334455667788), (4, own 0 (2 ^ 20 - 16))] (seated (.a 0))
  let u := issued s
  let st := fM 3 2 3 0 0 0 0 8
  let top := fM 3 4 3 0 0 0 0 8
  let ld := fM 5 2 0 0 0 0 0 8
  let t := store 0 72 8 0x1122334455667788 s
  let p := t.modMem (fun m => m.addPoison (wordUnit (scratchKey 0 72)))
  let e : Unseen := ⟨7, scratchKey 0 72 / 8, [0x11, 0, 0, 0, 0, 0, 0, 0], [], [.seen (.a 1)]⟩
  let b := { t.modMem (fun m => { m with unseen := [e] }) with slack := 1 }
  let h := { s with slack := 1 }
  [runs s (.st st) [xOk u 2, ownScratch u (addressOf u st) 8 8, xFree u 3] (falls s (.st st) (withBytes (scratchKey 0 72) (toBytes 8 0x1122334455667788) false u)),
   runs s (.st top) [ownScratch u (addressOf u top) 8 8]
     (falls s (.st top) (withBytes (scratchKey 0 (2 ^ 20 - 8)) (toBytes 8 0x1122334455667788) false u)),
   runs t (.ld ld) [ownScratch (issued t) (addressOf u ld) 1 1, cleanBytes t.mem (scratchKey 0 72) 1]
     (falls t (.ld ld) (withX 5 0xFFFFFFFFFFFFFF88 false (issued t))),
   runs p (.ld ld) [(issued p).mem.isPoisoned (wordUnit (scratchKey 0 72))] (falls p (.ld ld) (withX 5 0xFFFFFFFFFFFFFF88 true (issued p))),
   ready b (.ld ld) && unpaired (issued b) && decide ((issued b).mem.oldest (Unseen.known (.a 0)) (scratchKey 0 72 / 8) = some e) &&
     alike (exec (.ld ld) b) (falls b (.ld ld) (withX 5 0x11 false (issued b))),
   alike (exec (.ld ld) { b with slack := 0 })
     (falls { b with slack := 0 } (.ld ld) (withX 5 0xFFFFFFFFFFFFFF88 false (reads (.a 0) [scratchKey 0 72 / 8] (issued { b with slack := 0 })))),
   ready h (.st st) && unpaired (issued h) && canHide (issued h) (scratchKey 0 72 / 8) [] &&
     alike (exec (.st st) h) (falls h (.st st) (hidePlain (issued h) (.a 0) (scratchKey 0 72) 8
       (withBytes (scratchKey 0 72) (toBytes 8 0x1122334455667788) false (issued h)))),
   decide ((after (exec (.st st) h)).mem.unseen.map (fun x => (x.word, x.old, x.marks)) =
     [(scratchKey 0 72 / 8, List.replicate 8 0, [.seen (.a 0)])])]) id = true := by decide +kernel

/-- LD .wf and .wfe of a full word and of an empty one, ST .we and .wef to an empty word, FEST and FEQ. -/
theorem witness_FullEmptyInstructions : List.all (
  let s := store 0 72 8 5 (regs [(2, own 0 64), (3, 6)] (seated (.a 0)))
  let u := issued s
  let full := s.modTile 0 (fun w => { w with full := [9] })
  let v := issued full
  let wf := fM 4 2 3 0 0 1 0 8
  let wfe := fM 4 2 3 0 0 2 0 8
  let we := fM 3 2 3 0 0 1 0 8
  let wef := fM 3 2 3 0 0 2 0 8
  let fest := fM 0 2 3 0 0 0 1 8
  let feq := fM 6 2 3 0 0 0 0 8
  let w6 := withBytes (scratchKey 0 72) (toBytes 8 6) false u
  [runs full (.ld wf) [isFull v 0 9, ownScratch v (addressOf v wf) 8 8] (falls full (.ld wf) (withX 4 5 false v)),
   runs full (.ld wfe) [isFull v 0 9] (falls full (.ld wfe) (withX 4 5 false (changeState false 0 9 false v))),
   runs s (.ld wf) [!isFull u 0 9] (.next ((recordWait s.focus .word s).modTile 0 (fun w => { w with waiters := [⟨s.focus, .wf, 72, 8, 0, false, false, none, none⟩] }))),
   runs full (.st we) [isFull v 0 9] (.next ((recordWait full.focus .word full).modTile 0 (fun w => { w with waiters := [⟨s.focus, .we, 72, 8, 6, false, false, none, none⟩] }))),
   runs s (.st we) [!isFull u 0 9, acknowledged u] (falls s (.st we) w6), runs s (.st wef) [] (falls s (.st wef) (changeState false 0 9 true w6)),
   runs s (.fest fest) [] (falls s (.fest fest) (changeState false 0 9 true u)),
   runs s (.feq feq) [] (falls s (.feq feq) (withX 6 0 false u)), runs full (.feq feq) [] (falls full (.feq feq) (withX 6 1 false v))]) id = true := by decide +kernel

/-- Tile 1 of the same gang, from tile 0. -/
theorem witness_RemoteAccessesAreRequests : List.all (
  let s := (regs [(2, own 1 64), (3, 6)] (seated (.a 0))).modGang 1 (fun g => { g with tiles := [0, 1], groups := [[0, 1]] })
  let u := issued s
  let p := Place.scratch 1 72
  let ld := fM 4 2 3 0 0 0 0 8
  let st := fM 3 2 3 0 0 0 0 8
  let fest := fM 0 2 3 0 0 0 1 8
  let feq := fM 5 2 3 0 0 0 0 8
  [runs s (.ld ld) [mayReach u u.focus 1, gtileOf u (addressOf u ld) == 1, decide (outstanding u u.focus < 64)]
     (falls s (.ld ld) (pendingX 4 (sent (.load ⟨p.key, 0, 8⟩ 3 4) p false false none u))),
   runs s (.st st) [] (falls s (.st st) (sent (.store [⟨p.key, 0, marked (toBytes 8 6) false⟩]) p false false none u)),
   runs s (.fest fest) [] (falls s (.fest fest) (sent (.setState 1 9 true) p true false none u)),
   runs s (.feq feq) [] (falls s (.feq feq) (pendingX 5 (sent (.getState 1 9 5) p true false none u)))]) id = true := by decide +kernel

/-- A reserved form; 8 bytes that end past 2^54 and past a scratchpad's end; a misaligned address; a tile outside the group. -/
theorem witness_AddressChecksInOrder : List.all (
  let s := regs [(1, 2 ^ 63), (2, 2 ^ 54 - 4), (3, own 0 (2 ^ 20 - 4)), (4, own 0 4), (5, own 1 8)] (seated (.a 0))
  let ld := fun (n : Nat) => fM 6 n 3 0 0 0 0 0
  [runs s (.ld (ld 1)) [] (traps s (.ld (ld 1)) 0x04 (BitVec.ofNat 64 (2 ^ 63))),
   runs s (.ld (ld 2)) [] (traps s (.ld (ld 2)) 0x05 (BitVec.ofNat 64 (2 ^ 54 - 4))),
   runs s (.ld (ld 3)) [] (traps s (.ld (ld 3)) 0x04 (BitVec.ofNat 64 (own 0 (2 ^ 20 - 4)))),
   runs s (.st (ld 4)) [] (traps s (.st (ld 4)) 0x0A (BitVec.ofNat 64 (own 0 4))),
   runs s (.st (ld 5)) [!mayReach (issued s) s.focus 1] (traps s (.st (ld 5)) 0x0B (BitVec.ofNat 64 (own 1 8)))]) id = true := by decide +kernel

/-- A memory core with a page of its own slice readable and writable at address 0, one without rights, and no entry. -/
theorem witness_TranslatedAccessesOfTheOwner : List.all (
  let core := regs [(2, 64), (3, 9)] (seated (.m 0))
  let leaf := fun (bits : Nat) => (⟨0, 0, 0, 2 ^ 14, BitVec.ofNat 62 bits⟩ : TlbEntry)
  let s := modTlb (.m 0) (fun t => { t with entries := [leaf 0x7F] }) core
  let u := issued s
  let denied := modTlb (.m 0) (fun t => { t with entries := [leaf 0x61] }) core
  let ld := fM 4 2 3 0 0 0 0 0
  let st := fM 3 2 3 0 0 0 0 0
  let key := leafKey 0 0x7F 64
  [goes s (.ld ld) [isOwn u.focus (.ext key 0x7F), installed key, !inFlight u u.focus (wordsOf key 8),
     (match lookup (u.mcore 0).tlb (u.partOf u.focus) 64 .read with
      | .hit e => decide (e = leaf 0x7F)
      | _ => false)] (falls s (.ld ld) (withX 4 0 false u)),
   goes s (.st st) [acknowledged u] (falls s (.st st) (u.modMem (fun m => writeDecoded m (leafEntry u 0 0x7F) key (toBytes 8 9) false))),
   goes denied (.ld ld) [] (traps denied (.ld ld) 0x08 64),
   goes core (.ld ld) [] (.next (raiseTrap core.focus 0x07 64 (some .read) 8 (issued core)))]) id = true := by decide +kernel

/-- Fetch-and-add of 5 to 7; a compare of 7 with 7 that stores 5, and one with 8 that fails. -/
theorem witness_AtomicAtOwnScratchpad : List.all (
  let s := store 0 72 8 7 (regs [(2, own 0 64), (4, 5), (5, 7)] (seated (.a 0)))
  let u := issued s
  let add := fM 4 2 3 0 0 0 0 8
  let cas := fM 4 2 3 0 0 0 7 8
  let t := regs [(5, 8)] s
  [runs s (.atom add) [cleanBytes u.mem (scratchKey 0 72) 8, ownScratch u (addressOf u add) 8 8]
     (falls s (.atom add) (withX 4 7 false (withBytes (scratchKey 0 72) (toBytes 8 12) false u))),
   runs s (.atom cas) [xOk u 5] (falls s (.atom cas) (withX 4 7 false (withBytes (scratchKey 0 72) (toBytes 8 5) false u))),
   runs t (.atom cas) [] (falls t (.atom cas) (withX 4 7 false (issued t)))]) id = true := by decide +kernel

/-- ACQ, ACQ .ge and WAITSEQ at their boundary 7 and one past it, REL and REL .add, FENCE with scope 0, with a scope, and with a load out. -/
theorem witness_SynchronisingAccesses : List.all (
  let s := store 0 72 8 7 (regs [(2, own 0 64), (4, 7), (5, 8)] (seated (.a 0)))
  let u := issued s
  let r := (after (exec (.ld (fM 8 2 3 0 0 0 0 8)) ((regs [(2, own 1 64)] s).modGang 1 (fun g => { g with tiles := [0, 1], groups := [[0, 1]] }))))
  let f := fun (d fn : Nat) => fM d 2 3 0 0 0 fn 8
  let fence := fun (sc fn : Nat) => fM 0 0 0 sc 0 0 fn 0
  [runs s (.acq (f 6 0)) [] (falls s (.acq (f 6 0)) (withX 6 7 false u)), runs s (.acq (f 4 1)) [] (falls s (.acq (f 4 1)) (withX 4 7 false u)),
   runs s (.acq (f 5 1)) [] (.next (watch s.focus (scratchKey 0 72) 8 (recordWait s.focus .memory s))), runs s (.waitseq (f 4 0)) [] (falls s (.waitseq (f 4 0)) (withX 4 7 false u)),
   runs s (.waitseq (f 5 0)) [] (.next (watch s.focus (scratchKey 0 72) 8 (recordWait s.focus .memory s))),
   runs s (.rel (f 5 0)) [acknowledged u] (falls s (.rel (f 5 0)) (withBytes (scratchKey 0 72) (toBytes 8 8) false u)),
   runs s (.rel (f 5 1)) [] (falls s (.rel (f 5 1)) (withBytes (scratchKey 0 72) (toBytes 8 15) false u)),
   runs s (.fence (fence 1 0)) [] (falls s (.fence (fence 1 0)) u), runs s (.fence (fence 1 2)) [] (falls s (.fence (fence 1 2)) u),
   runs r (.fence (fence 1 0)) [] (.next (recordWait s.focus .outstanding r)), runs r (.fence (fence 0 0)) [] (falls r (.fence (fence 0 0)) (issued r))]) id = true := by decide +kernel

/-- Fences of two tiles of one gang on one die, with a write that the first has seen, and a region of it bound to the word at offset 512 (the spec's examples 3.1 and 4.2). -/
theorem witness_FencesAndEdges : List.all (
  let d : Unseen := ⟨7, scratchKey 0 128 / 8, List.replicate 8 0, [], [.seen (.a 0)]⟩
  let z : Unseen := ⟨8, scratchKey 0 256 / 8, List.replicate 8 0, [], [.seen (.a 0)]⟩
  let f := scratchKey 0 512
  let s := (store 0 256 8 1 (store 0 128 8 1 (regs [(2, own 0 512), (4, 1)] (seated (.a 0))))).modGang 1 (fun g =>
    { g with tiles := [0, 1], groups := [[0, 1]], bindings := [⟨BitVec.ofNat 64 (own 0 128), 64, BitVec.ofNat 64 (own 0 512)⟩] })
  let u := { s with slack := 1, mem := { s.mem with unseen := [d, z] } }
  let t := { u with tiles := u.tiles.set 1 { u.tile 1 with gang := 1 } }
  let rel := after (exec (.rel (fM 4 2 3 3 0 0 0 0)) t)
  let load := fun (off : Nat) (y : Sync) => (⟨50, .a 1, none, 0, 1, 0, .load ⟨scratchKey 0 off, 0, 8⟩ 3 5, 0, false, 9, 0, .delivered 0, Way.start 0 0, none, false, none, y, 0, []⟩ : Request)
  let acq := fun (sc : Nat) (s : State) => match (performRequest (load 512 ⟨none, some sc, none, false⟩)).run s with
    | .ok (some (v, _)) s' => (v.toNat, s')
    | _ => (99, s)
  let value := fun (off : Nat) (s : State) => match (performRequest (load off Sync.none)).run s with
    | .ok (some (v, _)) _ => v.toNat
    | _ => 99
  let fence := fun (fn : Nat) => exec (.fence (fM 0 0 0 5 0 0 fn 0)) t
  let met := fun (s : State) => reads (.a 1) [f / 8] (wrote (.a 0) [f / 8] s)
  [bound u (.a 0) 1 f d, !bound u (.a 0) 1 f z, pairs t (.a 0) 3 (.a 1) 3, !pairs t (.a 0) 3 (.a 1) 1,
   (acq 3 rel).1 == 1, value 128 (acq 3 rel).2 == 1, value 256 (acq 3 rel).2 == 0, value 128 (acq 1 rel).2 == 0,
   value 128 (fenceAcquire (.a 1) 5 (met (after (fence 1)))) == 1, value 256 (fenceAcquire (.a 1) 5 (met (after (fence 1)))) == 1, value 256 (met (after (fence 1))) == 0,
   value 128 (fenceAcquire (.a 1) 5 (after (fence 1))) == 0, value 128 (fenceAcquire (.a 1) 1 (met (after (fence 1)))) == 0,
   ready t (.fence (fM 0 0 0 5 0 0 2 0)) && allAcknowledged (issued t) (.a 0) &&
     alike (fence 2) (falls t (.fence (fM 0 0 0 5 0 0 2 0)) (fenceAcquire (.a 0) 5 (fenceOrder (.a 0) 5 (fenceRelease (.a 0) 5 (issued t))))),
   inScope t (.a 0) 2 (.s 0), !inScope t (.a 0) 2 (.a 4), inScope t (.a 0) 3 (.x 1), !inScope t (.m 0) 2 (.m 1), inScope t (.m 0) 4 (.a 0), !inScope t (.a 0) 4 (.a 512)]) id = true := by decide +kernel

/-- A command's write (R209): a join of its number brings it, one of an earlier number does not; the signal of a PUTS on the word at offset 64 of tile 1 brings it to an acquire there (R177); a gondola's or a child's start brings what the sequencer sees. -/
theorem test_joinsAndSignals : List.all (
  let e : Unseen := ⟨7, scratchKey 1 128 / 8, List.replicate 8 0, [], [.command 0 0 1]⟩
  let s := (seated (.a 0)).modMem (fun m => { m with unseen := [e] })
  let sees := fun (q : SeqId) (s : State) => s.mem.unseen.all (·.seenBy q)
  let r : Request := ⟨50, .a 0, some (0, 1), 0, 1, 0, .add ⟨scratchKey 1 64, 0, 8⟩ 5 (BitVec.ofNat 64 (own 1 64)), 1, true, 9, 0, .delivered 0, Way.start 0 0, none, false, none, Sync.none, 0, []⟩
  let signal := match (performRequest r).run s with
    | .ok _ s' => s'
    | _ => s
  [sees (.a 2) (commandJoined 0 0 1 (.a 2) s), !sees (.a 2) (commandJoined 0 0 0 (.a 2) s), !sees (.a 1) (acquired (.a 1) 7 (scratchKey 1 64) s),
   sees (.a 1) (acquired (.a 1) 7 (scratchKey 1 64) signal), (spread (.a 2) (commandJoined 0 0 1 (.a 2) s)).mem.unseen.isEmpty,
   !(spread (.a 2) s).mem.unseen.isEmpty]) id = true := by decide +kernel

/-- R118, R312, R317: a gondola takes along what its issuer sees; the start of a gang elsewhere sees it only after a FENCE `.rel` at SYS scope (row 7 of R321); until then another command may read the old word, and the command's own reads give the new one (R209). -/
theorem test_gondolaAndStart : List.all (
  let e : Unseen := ⟨7, scratchKey 1 128 / 8, List.replicate 8 0, [], [.command 0 0 1]⟩
  let s := (seated (.a 0)).modMem (fun m => { m with unseen := [e] })
  let s := embark 9 (.a 2) (.core 3) (commandJoined 0 0 1 (.a 2) s)
  let b := disembark 9 (.m 3) s
  let sees := fun (q : SeqId) (s : State) => s.mem.unseen.all (·.seenBy q)
  let new := marked (toBytes 8 5) false
  [sees (.m 3) b, !sees (.m 3) s, !sees (.m 3) (disembark 8 (.m 3) s), !sees (.x 5) (startsOn 4 9 5 b),
   sees (.x 5) (startsOn 4 9 5 (releasesOn (launchObject 9) (.m 3) 6 b)), sees (.a 5) (startsOn 4 9 5 (loads 4 [e.word] s)),
   !sees (.a 5) (startsOn 6 9 5 (loads 4 [e.word] s)),
   decide (commandView 5 0 1 (scratchKey 1 128) new { b with slack := 1 } = marked (List.replicate 8 0) false),
   decide (commandView 0 0 1 (scratchKey 1 128) new { b with slack := 1 } = new),
   decide (commandView 5 0 1 (scratchKey 1 128) new { (forked 5 0 1 (.m 3) b) with slack := 1 } = new),
   (passOn (.m 3) [e.word] b).mem.unseen.isEmpty, !(passOn (.m 3) [0] b).mem.unseen.isEmpty]) id = true := by decide +kernel

/-- BIND of a new region, of the same again, of one that meets it, and into a full table; UNBIND of a base bound and not bound; PROBE. -/
theorem witness_BindUnbindProbe : List.all (
  let s := regs [(2, own 0 128), (3, own 0 256), (4, 64), (6, own 0 64), (7, 128)] (seated (.a 0))
  let u := issued s
  let b : Binding := ⟨BitVec.ofNat 64 (own 0 128), 64, BitVec.ofNat 64 (own 0 256)⟩
  let bound := s.modGang 1 (fun g => { g with bindings := [b] })
  let full := s.modGang 1 (fun g => { g with bindings := List.replicate 256 ⟨0, 1, 0⟩ })
  let bind := fA 5 2 4 3 0 0 0
  let other := fA 5 6 7 3 0 0 0
  let probe := fM 5 2 3 0 0 0 0 0
  [runs s (.bind bind) [] (falls s (.bind bind) (withX 5 0 false (u.modGang 1 (fun g => { g with bindings := [b] })))),
   runs bound (.bind bind) [] (falls bound (.bind bind) (withX 5 0 false (issued bound))),
   runs bound (.bind other) [] (falls bound (.bind other) (withX 5 2 false (issued bound))),
   runs full (.bind bind) [] (falls full (.bind bind) (withX 5 1 false (issued full))),
   runs bound (.unbind (fA 5 2 0 0 0 0 0)) [] (falls bound (.unbind (fA 5 2 0 0 0 0 0)) (withX 5 0 false u)),
   runs s (.unbind (fA 5 2 0 0 0 0 0)) [] (falls s (.unbind (fA 5 2 0 0 0 0 0)) (withX 5 1 false u)),
   runs s (.probe probe) [] (falls s (.probe probe) (withX 5 0x4000000000000000 false u)),
   (let t := regs [(2, 2 ^ 63)] s; runs t (.probe probe) [] (falls t (.probe probe) (withX 5 0x8000000000000004 false (issued t))))]) id = true := by decide +kernel

/-- VST and VLD at offset 256; VGATH and VSCAT of 32 words; an address of form 0b00 raises 0x09. -/
theorem witness_VectorAccesses : List.all (
  let s := vreg 3 (0x0123456789abcdef0011223344556677 * 2 ^ 700 + 12345) (regs [(2, own 0 256), (4, 64)] (seated (.x 0)))
  let u := issued s
  let st := fA 3 2 60 0 3 32 0
  let t := after (exec (.vst st) s)
  let v := issued t
  let ld := fA 5 2 60 0 3 32 0
  let g := vreg 7 ((List.range 32).foldl (fun n j => n + (4 * j) * 2 ^ (32 * j)) 0) t
  let ga := fA 6 2 7 0 2 32 0
  let sc := fA 3 2 7 0 2 32 0
  [ready s (.vst st), solo u, ownScratch u (BitVec.ofNat 64 (own 0 256)) 128 8, vOk u 3,
   t.mem.bytes (scratchKey 0 256) 128 == toBytes 128 ((here u).v 3).toNat,
   runs t (.vld ld) [cleanBytes t.mem (scratchKey 0 256) 128] (falls t (.vld ld) (withV 5 ((here u).v 3) 0 v)),
   runs g (.vgath ga) [] (falls g (.vgath ga) (withV 6 ((here u).v 3) 0 (issued g))),
   ready g (.vscat sc) && decide ((after (exec (.vscat sc) g)).mem = g.mem),
   runs s (.vld (fA 5 4 60 0 3 32 0)) [] (traps s (.vld (fA 5 4 60 0 3 32 0)) 0x09 64)]) id = true := by decide +kernel

/-! ## Control flow, queues and barriers -/

/-- An A-seq of no pair. -/
theorem witness_RegisterWritesFrame : List.all (
  let u := seated (.a 0)
  [role u == .alone, decide (withX 0 5 true u = u), decide ((here (withX 3 5 true u)).x 3 = 5), decide ((here (withX 3 5 true u)).x 2 = 0)]) id = true := by decide +kernel

/-- Every CC of B at 1 and -1; J and JR to a multiple of 4 and not; BOPUSH and BRQ with the queue empty and full. -/
theorem witness_BranchesAndJumps : List.all (
  let s := regs [(1, 1), (2, 2 ^ 64 - 1), (3, 0x102)] (seated (.a 0))
  let u := issued s
  let b := fun (cc : Nat) => Instr.b (fB 1 2 cc 3)
  let far := fun (cc : Nat) => jumps s (b cc) 12 u
  let on := fun (cc : Nat) => falls s (b cc) u
  let full := s.modTile 0 (fun w => { w with toX := List.replicate 64 true })
  let sent_ := s.modTile 0 (fun w => { w with toA := [false, true] })
  let push := fA 0 0 0 0 0 0 0
  [runs s (b 0) [xOk u 1, xOk u 2] (on 0), runs s (b 1) [] (far 1), runs s (b 2) [] (on 2), runs s (b 3) [] (far 3), runs s (b 4) [] (far 4),
   runs s (b 5) [] (on 5), runs s (.b (fB 0 0 6 (2 ^ 34 - 1))) [] (jumps s (.b (fB 0 0 6 (2 ^ 34 - 1))) (-4) u),
   runs s (.b (fB 0 0 7 3)) [] (jumps s (.b (fB 0 0 7 3)) 12 u), runs s (.b (fB 1 0 8 3)) [] (jumps s (.b (fB 1 0 8 3)) 12 u),
   runs s (.j (fI 0 3 0 2)) [] (jumps s (.j (fI 0 3 0 2)) 0x104 u), runs s (.j (fI 0 3 0 0)) [] (traps s (.j (fI 0 3 0 0)) 0x0A 0x102),
   (let t := regs [(3, 0x100)] s; runs t (.jr (fA 5 3 0 0 0 0 0)) [] (jumps t (.jr (fA 5 3 0 0 0 0 0)) 0x100 (withX 5 8 false (issued t)))),
   runs s (.jr (fA 5 3 0 0 0 0 0)) [] (traps s (.jr (fA 5 3 0 0 0 0 0)) 0x0A 0x102),
   runs s (.bopush push) [] (falls s (.bopush push) (u.modTile 0 (fun w => { w with toX := [true] }))),
   runs full (.bopush push) [] (.next (recordWait s.focus .branch full)), runs s (.brq (fB 0 0 7 3)) [] (.next (recordWait s.focus .branch s)),
   runs sent_ (.brq (fB 0 0 7 3)) [] (falls sent_ (.brq (fB 0 0 7 3)) ((issued sent_).modTile 0 (fun w => { w with toA := [true] }))),
   runs sent_ (.brq (fB 0 0 8 3)) [] (jumps sent_ (.brq (fB 0 0 8 3)) 12 ((issued sent_).modTile 0 (fun w => { w with toA := [true] })))]) id = true := by decide +kernel

/-- BOPUSH of predicate 8, BRQ with CC 6, and a BRQ on p1, which is false: none of them touches a queue. -/
theorem witness_BranchesAndJumps_checks : List.all (
  let s := seated (.a 0)
  let off := { fB 0 0 7 5 with pred := 1 }
  [!pairStalled s s.focus, same (exec (.bopush (fA 0 8 0 0 0 0 0)) s) (traps s (.bopush (fA 0 8 0 0 0 0 0)) 0x01 (lowBits (.bopush (fA 0 8 0 0 0 0 0)))),
   same (exec (.brq (fB 0 0 6 5)) s) (traps s (.brq (fB 0 0 6 5)) 0x01 (lowBits (.brq (fB 0 0 6 5)))),
   decodeOk s s.focus (.brq off), !predHolds (s.seq s.focus) off.pred off.pneg,
   same (exec (.brq off) s) (.next (setPc s.focus (nextPc s s.focus (.brq off)) (retire false s.focus (issued s))))]) id = true := by decide +kernel

/-- CALL with 15 and 16 addresses kept, with room for one spill and without; RET from the store, from the spill area, at its base, and to an address that is no multiple of 4. -/
theorem witness_CallsAndReturns : List.all (
  let sp := fun (n at_ limit : Nat) => seqOf (fun q => { q with
    returns := List.replicate n 64, cspill := BitVec.ofNat 64 (own 0 at_), csplim := BitVec.ofNat 40 (4096 * 2 ^ 20 + limit) }) (seated (.a 0))
  let c := fB 0 0 6 3
  let r := fA 0 0 0 0 0 0 0
  let s15 := sp 15 4096 4104
  let s16 := sp 16 4096 4104
  let sFull := sp 16 4104 4104
  let s1 := sp 1 4096 4104
  let spilled := store 0 4096 8 128 (sp 0 4104 4104)
  let bad := store 0 4096 8 130 (sp 0 4104 4104)
  [runs s15 (.call c) [] (jumps s15 (.call c) 12 (seqOf (fun q => { q with returns := 8 :: List.replicate 15 64 }) (issued s15))),
   runs s16 (.call c) [] (jumps s16 (.call c) 12 (seqOf (fun q => { q with returns := 8 :: List.replicate 15 64, cspill := q.cspill + 8 })
     (withBytes (scratchKey 0 4096) (toBytes 8 64) false (issued s16)))),
   runs sFull (.call c) [] (traps sFull (.call c) 0x0D (BitVec.ofNat 64 (4096 * 2 ^ 20 + 4104))),
   runs s1 (.ret r) [] (jumps s1 (.ret r) 64 (seqOf (fun q => { q with returns := [] }) (issued s1))),
   runs spilled (.ret r) [] (jumps spilled (.ret r) 128 (seqOf (fun q => { q with cspill := q.cspill - 8 }) (issued spilled))),
   runs bad (.ret r) [] (traps bad (.ret r) 0x0A 130), (let t := sp 0 4096 4104; runs t (.ret r) [] (traps t (.ret r) 0x0C 0))]) id = true := by decide +kernel

/-- QBIND of a sound geometry, of log2(z) 2, of a misaligned base, and over a queue of another geometry; QADV, QPUB and QAVAIL. -/
theorem witness_QueueInstructions : List.all (
  let s := regs [(1, own 0 512), (2, own 0 520), (3, own 1 512)] (seated (.a 0))
  let u := issued s
  let bound := (seqOf (fun q => { q with handles := q.handles.setIfInBounds 1 (some (.tile 0 512)) }) s).modTile 0
    (fun w => { w with queues := w.queues.set 512 ⟨3, 1, 1, 0, false⟩ })
  let v := issued bound
  let qbind := fun (a geo : Nat) => fA 33 a 60 0 0 0 geo
  let move := fun (n : Nat) => fA 0 33 60 0 0 0 n
  let unfit := fun (t : State) (_ : F64A) => Host.Outcome.next (raiseTrap t.focus 0x0E 33 none 8 (bindHandle 33 none (issued t)))
  [runs s (.qbind (qbind 1 0x13)) [] (falls s (.qbind (qbind 1 0x13)) (bindHandle 33 (some (.tile 0 512)) (u.modTile 0 (fun w =>
     { w with queues := w.queues.set 512 ⟨3, 1, 0, 0, false⟩ })))),
   runs s (.qbind (qbind 1 0x12)) [] (unfit s (qbind 1 0x12)), runs s (.qbind (qbind 2 0x13)) [] (traps s (.qbind (qbind 2 0x13)) 0x0A (BitVec.ofNat 64 (own 0 520))),
   runs bound (.qbind (qbind 1 0x23)) [] (unfit bound (qbind 1 0x23)),
   runs bound (.qbind (qbind 1 0x13)) [] (falls bound (.qbind (qbind 1 0x13)) v),
   runs bound (.qadv (move 1)) [] (falls bound (.qadv (move 1)) (latchTile 0 1 (v.modTile 0 (fun w => { w with queues := w.queues.set 512 ⟨3, 1, 1, 1, false⟩ })))),
   runs bound (.qpub (move 1)) [] (falls bound (.qpub (move 1)) (latchTile 0 1 (v.modTile 0 (fun w => { w with queues := w.queues.set 512 ⟨3, 1, 2, 0, false⟩ })))),
   runs bound (.qadv (move 2)) [] (.next (recordWait s.focus .queue bound)),
   runs bound (.qadv (move 0)) [] (traps bound (.qadv (move 0)) 0x01 (lowBits (.qadv (move 0)))),
   runs bound (.qpub (move 3)) [] (traps bound (.qpub (move 3)) 0x01 (lowBits (.qpub (move 3)))),
   runs bound (.qavail (fA 4 33 0 0 0 0 0)) [] (falls bound (.qavail (fA 4 33 0 0 0 0 0)) (withX 4 1 false v))]) id = true := by decide +kernel

/-- A barrier of the gang's only tile: started, arrived at (which ends the phase at once), waited for after an arrival, without one, and after a release; one that does not exist, and a group that is not the tile's. -/
theorem witness_BarrierInstructions : List.all (
  let s := regs [(2, 1)] (seated (.a 0))
  let u := issued s
  let f := fA 0 0 0 0 0 0 5
  let w := fA 3 0 0 0 0 0 5
  let b : Barrier := ⟨0, 1, 5, [0], 0, [], [], [], []⟩
  let with_ := fun (b : Barrier) => s.modLaunch (fun l => { l with barriers := [b] })
  let t := with_ b
  let past := with_ { b with phase := 1, last := [(0, 0)] }
  let now := with_ { b with members := [0, 1], phase := 0, arrived := [0], last := [(0, 0)] }
  let freed := with_ { b with released := [.a 0] }
  let left := fun (b : Barrier) => (issued (with_ b))
  [runs s (.barinit f) [(u.gang? 1).isSome] (falls s (.barinit f) (u.modLaunch (fun l => { l with barriers := [b] }))),
   runs s (.barinit (fA 0 2 0 0 0 0 5)) [] (traps s (.barinit (fA 0 2 0 0 0 0 5)) 0x0B 0),
   runs s (.bararv f) [] (traps s (.bararv f) 0x0B 0), runs s (.bardef f) [] (traps s (.bardef f) 0x0B 0),
   runs t (.bararv f) [acknowledged (issued t)] (falls t (.bararv f) (latchTile 0 8 (left { b with phase := 1, last := [(0, 0)] }))),
   runs t (.bardef f) [] (falls t (.bardef f) (latchTile 0 8 (left { b with phase := 1, last := [(0, 0)] }))),
   runs now (.bararv f) [] (.next (recordWait s.focus .barrier now)),
   runs past (.barwait w) [] (falls past (.barwait w) (withX 3 0 false (issued past))),
   runs t (.barwait w) [] (falls t (.barwait w) (withX 3 2 false (issued t))),
   runs now (.barwait w) [] (.next ((recordWait s.focus .barrier (with_ { b with members := [0, 1], arrived := [0], last := [(0, 0)], waiting := [.a 0] })))),
   runs freed (.barwait w) [] (falls freed (.barwait w) (withX 3 1 false (left { b with released := [] })))]) id = true := by decide +kernel

/-! ## Actors, gondolas, tags, translation, system -/

/-- ACTON of an actor of the A-seq's table; NESTCFG of a sound image and of one with an extent 0; NESTGO of an empty slot and of a nest; ALIGNH with nothing ahead. -/
theorem witness_ActorsReelAndAlignment : List.all (
  let s := regs [(2, own 0 64), (3, own 0 128)] (store 0 72 8 (1 + 2 ^ 32) (store 0 64 8 (1 + 2 ^ 32) (store 0 80 8 (own 0 512) (store 0 88 8 (1 + 2 ^ 16 + 2 ^ 32) (seated (.a 0))))))
  let u := issued s
  let acton := fA 0 0 0 0 0 0 3
  let cfg := fun (r : Nat) => fA 0 r 0 0 0 0 1
  let go := fA 0 0 0 0 0 0 9
  let t := after (exec (.nestcfg (cfg 2)) s)
  [goes s (.acton acton) [] (falls s (.acton acton) (u.modTile 0 (fun w => { w with a := setEnabled 3 true w.a }))),
   runs s (.nestcfg (cfg 2)) [ownScratch u (BitVec.ofNat 64 (own 0 64)) 64 8] (.next t),
   decide (((t.seq (.a 0)).nest 1).nest = some ⟨1, 1, 1, 1, BitVec.ofNat 64 (own 0 512), 1, 1, 1⟩),
   runs s (.nestcfg (cfg 3)) [] (traps s (.nestcfg (cfg 3)) 0x01 (lowBits (.nestcfg (cfg 3)))),
   runs s (.nestgo go) [] (traps s (.nestgo go) 0x01 (lowBits (.nestgo go))),
   runs t (.nestgo go) [acknowledged (issued t)] (falls t (.nestgo go) (seqOf (bindReel (issued t).time 1 2) (issued t))),
   runs s (.alignh (fA 0 0 0 0 0 0 4)) [!isAhead u u.focus 4] (falls s (.alignh (fA 0 0 0 0 0 0 4)) u),
   (let far := seqOf (fun q => { q with pc := 320 }) ((seatSeq (.x 0) (seated (.a 0))))
    ready far (.alignh (fA 0 0 0 0 0 0 4)) && isAhead (issued far) far.focus 4 && ((here (after (exec (.alignh (fA 0 0 0 0 0 0 4)) far))).deadline).isSome)]) id = true := by decide +kernel

/-- FEND with nothing outstanding and with a pending register; SPAWN to the own tile, at LIVELIM, and to an odd address; MIGR of an actor. -/
theorem witness_FiringsAndGondolas : List.all (
  let s := regs [(1, 0x100), (2, own 0 0), (3, 0x102)] (seated (.a 0))
  let u := issued s
  let fend := fA 0 0 0 0 0 0 0
  let spawn := fA 4 1 2 0 0 0 0
  let odd := fA 4 3 2 0 0 0 0
  let migr := fA 0 1 2 0 0 0 0
  let pend := seqOf (fun q => q.setPending 5 true) s
  let many := s.modGang 1 (fun g => { g with live := 4096 })
  let v := { u with next := u.next + 1 }.modGang 1 (fun g => { g with live := g.live + 1 })
  let gondola := seqOf (fun q => { q with firing := q.firing.map (fun f => { f with gondola := true }) }) s
  [goes s (.fend fend) [outstanding u u.focus == 0] (finishes s (.fend fend) (seqOf (fun q => { q with firing := none }) u)),
   goes pend (.fend fend) [] (.next (recordWait s.focus .outstanding pend)),
   goes s (.spawn spawn) [(match (gondolaPlace (BitVec.ofNat 64 (own 0 0))).run u with
     | .ok p t => decide (p = .scratch 0 0) && decide (t = u) && roomFor u 1 (destOf u p)
     | _ => false)] (falls s (.spawn spawn) (withX 4 0 false (launchGondola u.focus (transitOf u.focus (packet u u.focus u.next 0x100) (.tile 0) u) v))),
   goes many (.spawn spawn) [] (falls many (.spawn spawn) (withX 4 1 false (issued many))),
   goes s (.spawn odd) [] (traps s (.spawn odd) 0x0A 0x102),
   goes s (.migr migr) [] (traps s (.migr migr) 0x01 (lowBits (.migr migr))),
   goes gondola (.migr migr) [writesAcknowledged (issued gondola) s.focus] (finishes gondola (.migr migr) (seqOf (fun q => { q with firing := none })
     (launchGondola s.focus (transitOf s.focus (packet (issued gondola) s.focus 1 0x100) (.tile 0) (issued gondola)) (voidRequests s.focus 1 (issued gondola)))))]) id = true := by decide +kernel

/-- TLOOK, TINS and TEVICT of a tag; a semaphore at 0, 1 and 255; STRBIND with 1, 65535 and 65536 elements. -/
theorem witness_TagsSemaphoresStreams : List.all (
  let s := regs [(1, 0x12345400), (2, own 0 0), (3, 65536)] (seated (.a 0))
  let u := issued s
  let tag : BitVec 44 := 0x12345400 / 1024
  let held := s.modTile 0 (fun w => { w with tags := [(7, tag)] })
  let look := fA 4 1 0 0 0 0 0
  let ins := fA 4 1 60 0 0 0 9
  let ev := fA 4 60 0 0 0 0 7
  let sem := fun (n : Nat) => s.modTile 0 (fun w => { w with sems := w.sems.setIfInBounds 3 (BitVec.ofNat 8 n) })
  let f := fA 0 0 0 0 0 0 3
  let x := seated (.x 0)
  let bind := fun (n : Nat) => fA 0 48 60 0 2 0 n
  [runs s (.tlook look) [] (falls s (.tlook look) (withX 4 (BitVec.allOnes 64) false u)),
   runs held (.tlook look) [] (falls held (.tlook look) (withX 4 7 false (issued held))),
   runs s (.tlook (fA 4 2 0 0 0 0 0)) [] (traps s (.tlook (fA 4 2 0 0 0 0 0)) 0x04 (BitVec.ofNat 64 (own 0 0))),
   runs held (.tins ins) [] (falls held (.tins ins) (withX 4 (BitVec.allOnes 64) false ((issued held).modTile 0 (fun w => { w with tags := [(9, tag)] })))),
   runs held (.tevict ev) [] (falls held (.tevict ev) (withX 4 0x12345400 false ((issued held).modTile 0 (fun w => { w with tags := [] })))),
   runs (sem 0) (.semwait f) [] (.next (recordWait s.focus .sem (sem 0))),
   runs (sem 1) (.semwait f) [] (falls (sem 1) (.semwait f) (issued (sem 0))), runs (sem 255) (.semsig f) [] (.next (recordWait s.focus .sem (sem 255))),
   runs (sem 254) (.semsig f) [] (falls (sem 254) (.semsig f) (latchTile 0 4 (issued (sem 255)))),
   runs x (.strbind (bind 1)) [] (falls x (.strbind (bind 1)) (seqOf (fun q => { q with sds := q.sds.setIfInBounds 0 { Stream.reset with bound := true, ty := 2, left := 1 } }) (issued x))),
   runs x (.strbind (bind 65535)) [] (.next (after (exec (.strbind (bind 65535)) x))),
   runs x (.strbind (bind 0)) [] (traps x (.strbind (bind 0)) 0x01 (lowBits (.strbind (bind 0))))]) id = true := by decide +kernel

/-- TLBW of a 16 KiB page for its own core with no miss, a stale miss and a pending one, and of a bad target; TLBINV of an address and of a bad form. -/
theorem witness_TranslationInstructions : List.all (
  let s := regs [(1, 0), (2, 0x7F), (3, 1), (4, 2 ^ 63)] (seated (.s 0))
  let u := issued s
  let miss := fun (stale : Bool) => modTlb (.s 0) (fun t => { t with misses := [⟨0, 64, .read, stale, []⟩] }) s
  let w := fC 5 1 2 0 0 0 0x1000
  let inv := fM 0 1 3 2 0 0 0 0
  [solo u, ready s (.tlbw w), installOk u 0 0 0 0 0x7F, (match tlbTarget 0 0x1000 with
    | some q => decide (modTlb q (fun t => { t with misses := [⟨0, 64, .read, false, []⟩] }) s = miss false)
    | none => false),
   goes s (.tlbw w) [] (falls s (.tlbw w) (withX 5 2 false u)), goes (miss true) (.tlbw w) [] (falls (miss true) (.tlbw w) (withX 5 1 false u)),
   goes (miss false) (.tlbw w) [] (falls (miss false) (.tlbw w) (withX 5 0 false (install (.s 0) ⟨0, 0, 0, 2 ^ 14, 0x7F⟩ u))),
   goes s (.tlbw (fC 5 1 2 0 0 0 0x7FFF)) [(tlbTarget 0 0x7FFF).isNone] (traps s (.tlbw (fC 5 1 2 0 0 0 0x7FFF)) 0x01 (lowBits (.tlbw (fC 5 1 2 0 0 0 0x7FFF)))),
   goes s (.tlbinv inv) [accessesDone 0 (invalidateAll 2 0 0 0 0 u)] (falls s (.tlbinv inv) (invalidateAll 2 0 0 0 0 u)),
   goes s (.tlbinv (fM 0 4 3 2 0 0 0 0)) [] (traps s (.tlbinv (fM 0 4 3 2 0 0 0 0)) 0x04 (BitVec.ofNat 64 (2 ^ 63)))]) id = true := by decide +kernel

/-- CSRR of STATUS and of a register that is not there, CSRW of FPRM; ERRQ; TSC, CYC; WFE with the latch 0, with a time, and set; HALT of a service core with no trap, with one queued and with one in hand. -/
theorem witness_ControlRegistersAndClocks : List.all (
  let s := regs [(1, 7)] (seated (.x 0))
  let u := issued s
  let num := fun (c : Csr) => (((List.range 4096).find? (fun n => Csr.ofNumber n == some c)).getD 0)
  let none_ := ((List.range 4096).find? (fun n => Csr.ofNumber n == none)).getD 0
  let r := fun (n : Nat) => fA 3 0 0 0 0 0 n
  let w := fun (n : Nat) => fA 0 1 0 0 0 0 n
  let set := seqOf (fun q => { q with latch := 5 }) s
  let t : Trap := ⟨0, 0, 0x14, 64, 9, 1, 0, .instruction (.a 0), none⟩
  let core := seated (.s 0)
  let queued := core.modCluster 0 (fun c => { c with traps := [t] })
  let inHand := core.modCluster 0 (fun c => { c with inHand := some t })
  let halt := fA 0 0 0 0 0 0 0
  let wfe := fun (n : Nat) => fA 3 0 0 0 0 0 n
  [goes s (.csrr (r (num .status))) [] (falls s (.csrr (r (num .status))) (withX 3 (csrValue u (.x 0) .status) false u)),
   goes s (.csrr (r none_)) [] (traps s (.csrr (r none_)) 0x01 (lowBits (.csrr (r none_)))),
   goes s (.csrw (w (num .fprm))) [Csr.fprm.writable .x] (falls s (.csrw (w (num .fprm))) (seqOf (fun q => { q with fprm := 3 }) u)),
   goes s (.csrw (w (num .status))) [!Csr.status.writable .x] (traps s (.csrw (w (num .status))) 0x01 (lowBits (.csrw (w (num .status))))),
   goes s (.errq (r 0)) [] (falls s (.errq (r 0)) (withX 3 0 false u)),
   goes s (.tsc (r 0)) [] (falls s (.tsc (r 0)) (withX 3 (BitVec.ofNat 64 (cycleStart u (.x 0) / State.tickUnits)) false u)),
   goes s (.cyc (r 0)) [] (falls s (.cyc (r 0)) (withX 3 0 false u)),
   ready s (.wfe (wfe 1)) && decide ((after (exec (.wfe (wfe 1)) s)).seq (.x 0) = { (recordWait (.x 0) .wfe s).seq (.x 0) with deadline := some (64 * State.tickUnits) }),
   goes set (.wfe (wfe 0)) [] (falls set (.wfe (wfe 0)) (withX 3 5 false u)),
   goes core (.halt halt) [] (.next (recordWait (.s 0) .wfe core)),
   goes queued (.halt halt) [acknowledged (issued queued)] (finishes queued (.halt halt) (takeTrap 0 (issued queued))),
   goes inHand (.halt halt) [] (traps inHand (.halt halt) 0x01 (lowBits (.halt halt)))]) id = true := by decide +kernel

/-- TRAP; a cause raised at an A-seq; a trap delivered and taken; ERET 0, 1 and 2 with a trap in hand and without. -/
theorem witness_TrapEntryAndReturn : List.all (
  let s := seated (.a 0)
  let trap := fA 0 0 0 0 0 0 77
  let raised := after (exec (.trap trap) s)
  let delivered := after (exec .trapDelivery { raised with subject := 0 })
  let t : Trap := ⟨0, 0, 0x14, 0, 77, 1, 0, .instruction (.a 0), none⟩
  let core := { ((seatSeq (.s 0) (raised.modLaunch (fun l => { l with undelivered := [] }))).modCluster 0 (fun c => { c with inHand := some t, causeCode := 0x14, epc := 0 })) with focus := .s 0 }
  let eret := fun (n : Nat) => fA 0 0 0 0 0 0 n
  let idle := seated (.s 0)
  [goes s (.trap trap) [acknowledged (issued s)] (traps s (.trap trap) 0x14 77), decide (raised.launch.undelivered = [t]),
   (raised.seq (.a 0)).suspended, decide (delivered.launch.undelivered = []),
   decide ((delivered.cluster 0).traps = [t] ∨ (delivered.cluster 0).inHand = some t),
   goes core (.eret (eret 0)) [acknowledged (issued core), bothStopped (issued core) 0] (falls core (.eret (eret 0)) (resume 0 false (issued core))),
   goes core (.eret (eret 1)) [] (falls core (.eret (eret 1)) (resume 0 true (issued core))),
   goes core (.eret (eret 2)) [] (falls core (.eret (eret 2)) (stand 0 0x14 (issued core))),
   goes idle (.eret (eret 0)) [(idle.cluster 0).inHand.isNone] (falls idle (.eret (eret 0)) (issued idle)),
   ((resume 0 false core).seq (.a 0)).suspended == false]) id = true := by decide +kernel

/-! ## Operand memory, the matrix unit, engines -/

/-- OMCLAIM by number of a free and of a claimed slot, of the lowest free one and with none free; OMREL; TDEF of a sound image and of one with no rows; TQRY; TFMT of a sound and of a reserved format; TDUP of an absent tensor and of two without a map. -/
theorem witness_OperandMemoryAndTensors : List.all (
  let img := store 0 64 8 (own 0 4096) (store 0 72 8 (2 + 10 * 256) (store 0 80 8 (4 + 8 * 2 ^ 32) (store 0 88 8 32 (seated (.x 0)))))
  let s := regs [(2, own 0 64), (3, own 0 192), (4, 2 ^ 32)] img
  let u := issued s
  let sa := seated (.a 0)
  let claims := fun (m : BitVec 32) => sa.modTile 0 (fun w => { w with claims := m })
  let by_ := fun (n : Nat) => fA 5 0 0 0 0 0 n
  let tdef := fun (r n : Nat) => fC 0 r 0 0 n 0 0
  let e : Tensor := #v[BitVec.ofNat 64 (own 0 4096), 2 + 10 * 256, 4 + 8 * 2 ^ 32, 32, 0, 0, 0, 0]
  let t := s.modTile 0 (setTensor 7 e)
  let bad := store 0 200 8 2 s
  let rel := fA 0 0 0 0 0 0 3
  [runs sa (.omclaim (by_ 3)) [] (falls sa (.omclaim (by_ 3)) (withX 5 0 false (issued (claims 8)))),
   runs (claims 8) (.omclaim (by_ 3)) [] (falls (claims 8) (.omclaim (by_ 3)) (withX 5 1 false (issued (claims 8)))),
   runs (claims 7) (.omclaim (by_ 32)) [] (falls (claims 7) (.omclaim (by_ 32)) (withX 5 3 false (issued (claims 15)))),
   runs (claims (BitVec.allOnes 32)) (.omclaim (by_ 32)) [] (falls (claims (BitVec.allOnes 32)) (.omclaim (by_ 32)) (withX 5 (BitVec.allOnes 64) false (issued (claims (BitVec.allOnes 32))))),
   runs (claims 15) (.omrel rel) [] (falls (claims 15) (.omrel rel) (issued (claims 7))),
   runs s (.tdef (tdef 2 7)) [tensorOk e, cleanBytes u.mem (scratchKey 0 64) 64] (falls s (.tdef (tdef 2 7)) (issued t)),
   runs bad (.tdef (tdef 3 7)) [] (traps bad (.tdef (tdef 3 7)) 0x16 7),
   runs s (.tdef (tdef 3 7)) [] (falls s (.tdef (tdef 3 7)) (u.modTile 0 (setTensor 7 absentTensor))),
   runs t (.tqry (fA 5 0 0 0 0 0 (7 + 2 * 256))) [] (falls t (.tqry (fA 5 0 0 0 0 0 (7 + 2 * 256))) (withX 5 (4 + 8 * 2 ^ 32) false (issued t))),
   runs s (.tfmt (fA 5 4 0 0 0 0 0)) [] (traps s (.tfmt (fA 5 4 0 0 0 0 0)) 0x01 (lowBits (.tfmt (fA 5 4 0 0 0 0 0)))),
   runs s (.tdup (fC 0 0 0 0 7 8 0)) [] (traps s (.tdup (fC 0 0 0 0 7 8 0)) 0x16 7),
   runs t (.tdup (fC 0 0 0 0 7 8 0)) [] (traps t (.tdup (fC 0 0 0 0 7 8 0)) 0x16 8),
   (let v := t.modTile 0 (setTensor 8 e); runs v (.tdup (fC 0 0 0 0 7 8 0)) [] (falls v (.tdup (fC 0 0 0 0 7 8 0)) (issued v)))]) id = true := by decide +kernel

/-- The accumulator is idle; its address of 16 KiB lies in the scratchpad; one that an MMA names makes ACCZ wait; MPROG with no MMA. -/
theorem witness_Accumulators : List.all (
  let s := regs [(2, own 0 65536)] (seated (.x 0))
  let u := issued s
  let m : Mma := ⟨1, .fp32, true, 0, 0, absentTensor, absentTensor, 0, 0, 1, 2, 0, none, 1, 0, [], [], 0, false, none⟩
  let busy := s.modTile 0 (fun w => { w with matrix := [m] })
  let f := fA 0 0 0 0 0 0 0
  let rd := fA 0 2 0 0 0 0 1024
  let img := s.modTile 0 (setTensor 7 #v[BitVec.ofNat 64 (own 0 4096), 2 + 10 * 256, 4 + 8 * 2 ^ 32, 32, 0, 0x3F800000, 0, 0])
  [ready s (.accz f), solo u, ready s (.accwr (fA 0 2 0 0 0 0 0)), ready s (.accrd rd), ownScratch u (BitVec.ofNat 64 (own 0 65536)) 16384 64,
   runs busy (.accz f) [] (.next (recordWait s.focus .matrix busy)), ready img (.accrd (fA 0 0 0 0 0 0 28)),
   runs s (.accrd (fA 0 0 0 0 0 0 28)) [] (traps s (.accrd (fA 0 0 0 0 0 0 28)) 0x16 7),
   (let v := (after (exec (.accrd (fA 0 0 0 0 0 0 28)) (img.modMem (fun m => m.setByte (accKey 0 0 3) 0x40)))); v.mem.bytes (scratchKey 0 4096) 4 == [0, 0, 0, 0x40]),
   runs s (.mprog (fA 5 0 0 0 0 0 1)) [] (falls s (.mprog (fA 5 0 0 0 0 0 1)) (withX 5 0 false u)),
   runs busy (.mprog (fA 5 0 0 0 0 0 0)) [] (falls busy (.mprog (fA 5 0 0 0 0 0 0)) (withX 5 (BitVec.ofNat 64 (2 ^ 63)) false (issued busy)))]) id = true := by decide +kernel

/-- An absent tensor; the tag of the other kind; slots unclaimed and claimed; a slot-form MMA behind none, one and two; its k-step and its end. -/
theorem witness_MatrixMultiply : List.all (
  let a : Tensor := #v[1, 3 + 10 * 256, 64 + 4 * 2 ^ 32, 16, 0, 0, 0, 0]
  let b : Tensor := #v[2, 3 + 10 * 256, 4 + 64 * 2 ^ 32, 256, 0, 0, 0, 0]
  let s := (seated (.x 0)).modTile 0 (fun w => setTensor 1 a (setTensor 2 b w))
  let f := fE 0 0 0 0 1 2 (2 ^ 16 + 1 * 64 + 2 * 2048)
  let m : Mma := ⟨1, .fp32, true, 1, 2, a, b, 0, 0, 1, 2, 0, none, 1, 0, [], [], 0, false, none⟩
  let set := fun (n : Nat) => s.modTile 0 (fun w => { w with claims := 6, matrix := List.replicate n m })
  let done := { (s.modTile 0 (fun w => { w with matrix := [{ m with p := 1 }] })) with subject := 0 }
  let sem := { (s.modTile 0 (fun w => { w with matrix := [{ m with p := 1, sig := some 3 }] })) with subject := 0 }
  let tagged := s.modTile 0 (fun w => { w with accTag := 1 })
  [runs (seated (.x 0)) (.mma f) [] (traps (seated (.x 0)) (.mma f) 0x16 1), decide (modeOf a b = some .fp32), tensorOk a, tensorOk b,
   runs s (.mma f) [] (traps s (.mma f) 0x0F 1), runs (set 0) (.mma f) [] (falls (set 0) (.mma f) (issued (set 1))),
   runs (set 1) (.mma f) [] (falls (set 1) (.mma f) (issued (set 2))), runs (set 2) (.mma f) [] (.next (recordWait s.focus .matrix (set 2))),
   runs tagged (.mma f) [] (traps tagged (.mma f) 0x01 (lowBits (.mma f))),
   !mmaReady { s with subject := 0 } 0, mmaReady done 0,
   same (exec .mmaKstep done) (.next (latchTile 0 16 ({ s with subject := 0 }.modTile 0 (fun w => { w with lastSteps := 1, kstep := s.time })))),
   same (exec .mmaKstep sem) (.next (semIncrement 0 3 (latchTile 0 16 ({ s with subject := 0 }.modTile 0 (fun w => { w with lastSteps := 1, kstep := s.time }))))),
   (let r := { (set 1) with subject := 0 }; mmaReady r 0)]) id = true := by decide +kernel

/-- COPY, GET and PUTS of 64 bytes within the own scratchpad; a GET to another tile; CHTAIL and CHSEQ with nothing appended, and of a number not given; CHAPP of a record in form 0b00. -/
theorem witness_EngineCommands : List.all (
  let s := regs [(1, own 0 4096), (2, own 0 64), (3, 64), (4, own 1 64)] (seated (.a 0))
  let u := issued s
  let cp := fE 5 1 2 3 0 0 0
  let get := fE 5 4 2 3 0 0 0
  let puts := fC 5 1 2 3 0 0 0
  let prep := fun (p : Exec (CmdOp × List Span)) => match p.run u with
    | .ok r t => if decide (t = u) then some r else none
    | _ => none
  let made := fun (i : Instr) (r : Option (CmdOp × List Span)) => match r with
    | some (op, spans) => solo u && ready s i && acknowledged u && alike (exec i s) (falls s i (withX 5 1 false (publishAll 0 0 1 (withCommand 0 0 op .none none spans u))))
    | none => false
  [(u.engine 0 0).next == 1, made (.copy cp) (prep (prepareCopy (BitVec.ofNat 64 (own 0 4096)) (BitVec.ofNat 64 (own 0 64)) 64 0)),
   made (.get (fE 5 1 2 3 0 0 0)) (prep (prepareGet (BitVec.ofNat 64 (own 0 4096)) (BitVec.ofNat 64 (own 0 64)) 64)),
   made (.puts puts) (prep (preparePuts (BitVec.ofNat 64 (own 0 4096)) (BitVec.ofNat 64 (own 0 64)) 64 0 0)),
   runs s (.get get) [] (traps s (.get get) 0x04 (BitVec.ofNat 64 (own 1 64))),
   runs s (.chtail (fA 0 0 0 0 0 0 0)) [] (falls s (.chtail (fA 0 0 0 0 0 0 0)) u),
   runs s (.chseq (fA 5 0 0 0 0 0 0)) [] (falls s (.chseq (fA 5 0 0 0 0 0 0)) (withX 5 0 false u)),
   runs s (.chseq (fA 5 0 3 0 0 0 0)) [] (traps s (.chseq (fA 5 0 3 0 0 0 0)) 0x15 0),
   runs s (.chapp (fE 5 3 0 0 0 0 0)) [] (traps s (.chapp (fE 5 3 0 0 0 0 0)) 0x15 64)]) id = true := by decide +kernel

/-- A published COPY that starts; one that has landed and completes; numbers not held; PUTS's counter of 5; an MCPOLL with no request and with one; a PUSH of one row; a block delivered; a request returned. -/
theorem witness_CommandsAndMemoryCoreCopies : List.all (
  let s := regs [(1, own 0 4096), (2, own 0 64), (3, 64)] (seated (.a 0))
  let base := untoken (after (exec (.copy (fE 5 1 2 3 0 0 0)) s))
  let c0 := (findCmd base 0 0 1)
  let doneCmd := base.modEngine 0 0 (fun g => { g with cmds := g.cmds.map (fun c => { c with state := .running, landed := true, signalled := true }) })
  let puts := (untoken (after (exec (.puts (fC 5 1 2 3 8 0 (own 0 256))) (store 0 256 8 5 s)))).modEngine 0 0 (fun g =>
    { g with cmds := g.cmds.map (fun c => { c with state := .running, landed := true, signalled := false }) })
  let core := seated (.m 0)
  let req := (regs [] core).modMCore 0 (fun v => { v with p := v.p + 1, slots := v.slots.setIfInBounds 0 (Vector.replicate 8 7) })
  let block : Pushed := ⟨9, 0, 1, 1, 0, 0, 64, 0, false, [(5, false)], [], 0, { Way.start (routerOf 0) 0 with hop := .router (routerOf 0) }, none⟩
  let pushed := { (seated (.a 0)).modLaunch (fun l => { l with pushes := [block] }) with subject := 0 }
  let v := after (exec .pushDelivery pushed)
  [enginesRun base 0, (match (base.engine 0 0).nextToStart, c0 with
    | some c, some d => decide (c = d) && c.wait == .none && !c.isColl && same (exec (.commandStart 0 0) base) (.next (noteLanded 0 0 c.number
        (markRecord 0 c (toBytes 2 2) 62 (modCmd 0 0 c.number (fun d => { d with state := .running }) base))))
    | _, _ => false),
   (findCmd s 0 0 1).isNone, same (exec (.commandCompletion 0 0 1) s) (.next s), same (exec (.commandCompletion 0 0 1) base) (.next base),
   (match findCmd doneCmd 0 0 1 with
    | some c => c.finished && same (exec (.commandCompletion 0 0 1) doneCmd) (.next (completeCmd 0 0 c doneCmd))
    | none => false),
   (match findCmd puts 0 0 1 with
    | some c => decide (placeAt puts c (BitVec.ofNat 64 (own 0 256)) = some (scratchKey 0 256, 0)) &&
        decide (homeAt puts c (BitVec.ofNat 64 (own 0 256)) = some 0) &&
        same (exec (.putsSignal 0 0 1) puts) (.next (modCmd 0 0 1 (fun d => { d with awaiting := 1 }) (addRequest (.a 0) (some (0, 1)) 0 1 0
          (.add ⟨scratchKey 0 256, 0, 8⟩ (0 - 8) (BitVec.ofNat 64 (own 0 256))) 0 true none none puts)))
    | none => false),
   goes core (.mcpoll (fA 0 0 0 0 0 0 0)) [] (.next (recordWait (.m 0) .queue core)), ready req (.mcpoll (fA 0 0 0 0 0 0 0)),
   decide ((here (after (exec (.mcpoll (fA 0 0 0 0 0 0 0)) req))).x 15 = 7),
   pushReady pushed 0 0 block, !fenced pushed 0, decide (v.launch.pushes = []), v.mem.byte (scratchKey 0 64) == 5,
   same (exec .mcRequestCompletion { core with subject := 0 }) (.next { core with subject := 0 })]) id = true := by decide +kernel

/-- A reference that is the launch's own and one that is not; EVGVT and EVSTAT of a free engine; EVRUN with a bound below 0 and a sound one. -/
theorem witness_EventInstructions : List.all (
  let s := regs [(1, 0xBFF0000000000000), (2, 0x3FF0000000000000)] (seated (.a 0))
  let on := s.modPart 0 (fun p => { p with featacc0 := 0xFF })
  let u := issued on
  let k := clusterOf 0
  let run := fun (a : Nat) => fA 5 a 2 0 11 0 0
  [ready on (.evgvt (fA 5 0 0 0 11 0 0)), ready on (.evstat (fA 5 0 0 0 0 0 0)), decide ((engineAt u k).gang = 0),
   runs on (.evgvt (fA 5 0 0 0 11 0 0)) [] (falls on (.evgvt (fA 5 0 0 0 11 0 0)) (withX 5 0 false u)),
   runs on (.evstat (fA 5 0 0 0 0 0 1)) [] (falls on (.evstat (fA 5 0 0 0 0 0 1)) (withX 5 (statOf EvEngine.reset 1) false u)),
   runs on (.evrun (run 1)) [] (falls on (.evrun (run 1)) (withX 5 2 false (takeEngine k 1 u))),
   runs on (.evrun (run 0)) [acknowledged u] (falls on (.evrun (run 0)) (withX 5 0 false (applyEvent k 1 (.run ⟨0, 0x3FF0000000000000, none⟩) (takeEngine k 1 u))))]) id = true := by decide +kernel

/-- COLL by a descriptor of the tiles of launch-local indices 0 and 1; CHAPP of a record that copies 64 bytes. -/
theorem witness_EngineCommands_records : List.all (
  let s := regs [(1, own 0 4096), (2, own 0 64), (3, 1), (4, own 0 512)]
    (store 0 256 8 (2 + 5 * 2 ^ 32) (store 0 264 8 (256 * 2 ^ 32) (store 0 512 8 1 (store 0 520 8 (own 0 4096) (store 0 528 8 (own 0 64) (store 0 536 8 64 (seated (.a 0)))))))) 
  let u := issued s
  let coll := fC 5 1 2 3 0x30 0 256
  let op := CmdOp.coll (BitVec.ofNat 64 (own 0 4096)) (BitVec.ofNat 64 (own 0 64)) 1 0 0 3 0 false 256 5 [(0, 0), (0, 1)]
  let chapp := fE 6 4 0 0 0 0 0
  let v := (withCommand 0 0 (.copy (BitVec.ofNat 64 (own 0 4096)) (BitVec.ofNat 64 (own 0 64)) 64 0) .none (some (own 0 512)) [] u).modEngine 0 0 (fun g =>
    { g with last := some 512 })
  let closed := withBytes (scratchKey 0 568) (toBytes 4 1 ++ toBytes 4 0) false (withBytes (scratchKey 0 560) (toBytes 8 0) false v)
  [solo u, ready s (.coll coll), decide ((u.tile 0).index = 0), scratchRange u (BitVec.ofNat 64 (own 0 64)) 8 8, scratchRange u (BitVec.ofNat 64 (own 0 4096)) 8 8,
   alike (exec (.coll coll) s) (falls s (.coll coll) (withX 5 1 false (publishAll 0 1 1 (withCommand 0 1 op .none none [] u)))),
   ready s (.chapp chapp), alike (exec (.chapp chapp) s) (falls s (.chapp chapp) (withX 6 0 false closed))]) id = true := by decide +kernel

/-- A PUSH of one row of 8 bytes that a tile owns: the block leaves with one pull of what it has still to fetch; a slot that is not claimed. -/
theorem witness_CommandsAndMemoryCoreCopies_push : List.all (
  let s := regs [(1, own 0 128), (2, 8), (3, 1), (4, own 0 64)] (seated (.m 0))
  let u := issued s
  let aux := 7 * 2 ^ 13
  let f := fE 4 1 2 3 0 0 aux
  let part : Place × Nat := (.scratch 0 128, 8)
  let asked := pulls u [part]
  let block : Pushed := ⟨u.next, 0, u.firingOf u.focus, (u.tile 0).gang, 0, 0, 64, 0, false, marked (List.replicate 8 0) false, [], asked.length, Way.start (routerOfSeq (.m 0)) u.time, none⟩
  let leaves : State := { (u.modLaunch (fun l => { l with pushes := l.pushes ++ [block] })) with next := u.next + 1 }
  [pushFits (BitVec.ofNat 32 aux) 1, scratchRange u (BitVec.ofNat 64 (own 0 128)) 8 1, asked.length == 1,
   runs s (.push f) [] (falls s (.push f) (asked.foldl (fun v rs => addRequest v.focus none (v.firingOf v.focus) (v.gangOf v.focus)
     (v.partOf v.focus) (.pull rs u.next) (homeOfKey ((rs.map (·.2.key)).headD 0)) false none none v) leaves)),
   runs s (.push (fE 4 1 2 3 0 0 (aux + 2 ^ 30 + 7 * 2 ^ 25))) [] (traps s (.push (fE 4 1 2 3 0 0 (aux + 2 ^ 30 + 7 * 2 ^ 25))) 0x01 (lowBits (.push (fE 4 1 2 3 0 0 (aux + 2 ^ 30 + 7 * 2 ^ 25)))))]) id = true := by decide +kernel

/-- EVDEF of a sound image and of one with no quantum; EVDEP and EVSLOPE of the variable so defined and of another; EVQLD of it at its own engine and at another's; EVSAMP of a sound range. -/
theorem witness_EventInstructions_variables : List.all (
  let one := 0x3FF0000000000000
  let onX := fun (s : State) => { (seatSeq (.x 0) s) with focus := .x 0 }
  let a := ((regs [(1, 3), (2, own 0 64), (3, 0), (4, own 0 1024), (6, own 0 65536), (7, one)] { (seated (.a 0)) with mem := (store 0 64 8 0 (store 0 72 8 one (store 0 104 8 one (store 0 96 8 one
    (store 0 120 8 1 (store 0 112 8 0 (store 0 80 8 0 (store 0 88 8 0 (seated (.a 0))))))))) ).mem }).modPart 0 (fun p => { p with featacc0 := 0xFF }))
  let img : Vector Word 8 := #v[0, 0x3FF0000000000000, 0, 0, 0x3FF0000000000000, 0x3FF0000000000000, 0, 1]
  let u := issued a
  let k := clusterOf 0
  let def_ := fC 5 1 2 0 0 0 0
  let made := after (exec (.evdef def_) a)
  let x := regs [(1, 3), (2, 4), (3, 3 + 4096), (4, one)] (onX made)
  let dep := fC 0 1 3 3 0 0 0
  let slope := fA 5 1 0 60 11 0 0
  let qld := fA 5 1 60 0 11 0 0
  let other := regs [(1, 3 + 4096)] ((onX made).modEvent 1 (fun e => { e with gang := 1, recs := [(3, absentRec)] }))
  let samp := fC 5 6 7 0 0 0 0
  [imageOk u k 1 ⟨img, 0, 0, []⟩, namesOwn u k 3,
   runs a (.evdef def_) [] (falls a (.evdef def_) (withX 5 0 false (applyEvent k 1 (.define 3 img) (takeEngine k 1 u)))),
   runs a (.evdef (fC 5 1 4 0 0 0 0)) [] (traps a (.evdef (fC 5 1 4 0 0 0 0)) 0x17 3), (engineAt made k).defined 3,
   runs made (.evdep dep) [] (falls made (.evdep dep) (applyEvent k 1 (.depend 3 0 0 0) (issued made))),
  
   runs x (.evslope slope) [] (falls x (.evslope slope) (withX 5 1 false (applyEvent k 1 (.slope 3 0 0) (issued x)))),
   runs x (.evslope (fA 5 2 0 60 11 0 0)) [] (traps x (.evslope (fA 5 2 0 60 11 0 0)) 0x17 4),
   runs x (.evqld qld) [] (falls x (.evqld qld) (withX 5 (quantised ((engineAt x k).rec_ 3) false 0) false (issued x))),
   runs other (.evqld qld) [decide (engineOfRef (issued other) (3 + 4096) = 1)] (falls other (.evqld qld) (pendingX 5
     (sent (.record 1 3 0 false 5) (.scratch 4 0) false false none (issued other)))),
   runs a (.evsamp samp) [] (falls a (.evsamp samp) (withX 5 0 false (applyEvent k 1 (.sample (BitVec.ofNat 64 (own 0 65536)) 0x3FF0000000000000) (takeEngine k 1 u))))]) id = true := by decide +kernel

/-- An engine with no item, none due, a token that is due and a due event; a remote token that finds room, and one for a peer; a reduction at tick 0; a value received, and none. -/
theorem witness_EventEngineSteps : List.all (
  let one : Word := 0x3FF0000000000000
  let half : Word := 0x3FE0000000000000
  let bare := { (seated (.a 0)) with subject := 0 }
  let withEngine := fun (f : EvEngine → EvEngine) => bare.modEvent 0 (fun e => f { e with gang := 1, window := some ⟨one, one, none⟩ })
  let token := withEngine (fun e => { e with tokens := [⟨3, half⟩] })
  let late := withEngine (fun e => { e with tokens := [⟨3, one⟩] })
  let rec0 : EvRec := ⟨Vector.replicate 8 half, 0, 0, []⟩
  let event := withEngine (fun e => { e with recs := [(2, rec0)] })
  let item := withEngine (fun e => { e with item := some ⟨half, [], 0, 0⟩ })
  let came := (withEngine id).modLaunch (fun l => { l with tokens := [⟨9, 1, 1, 0, ⟨3, half⟩, { Way.start (routerOf 4) 0 with hop := .router (routerOf 0) }⟩] })
  let gone := (withEngine id).modLaunch (fun l => { l with tokens := [⟨9, 1, 0, 512, ⟨3, half⟩, { Way.start (routerOf 0) 0 with hop := .across }⟩] })
  let value := withEngine (fun e => { e with incoming := some half })
  [same (exec .eventItem bare) (.next bare), (firstItem (engineAt late 0)).isSome, !due (engineAt late 0) one, same (exec .eventItem late) (.next late),
   (match firstItem (engineAt token 0) with | some (.token t) => decide (t = ⟨3, half⟩) | _ => false), engineRuns token 0,
   due (engineAt token 0) half, same (exec .eventItem token) (.next (beginToken 0 ⟨3, half⟩ (captureAbove 0 half token))),
   (match firstItem (engineAt event 0) with
    | some (.event t i) => engineRuns event 0 && due (engineAt event 0) t &&
        same (exec .eventItem event) (.next (beginEvent 0 i (captureAbove 0 t event)))
    | _ => false),
   same (exec .eventItem item) (.next (makeWakes 0 1 item)), same (exec .remoteTokenAccept bare) (.next bare),
   (servingEngine came 1 0).isSome, decide ((engineAt (after (exec .remoteTokenAccept came)) 0).tokens = [⟨3, half⟩]),
   decide ((engineAt (after (exec .remoteTokenAccept came)) 0).received = 1), decide ((after (exec .remoteTokenAccept gone)).launch.tokens = []),
   (bare.gang? 1).isSome, decide (bare.ticks % 1000 = 0), same (exec (.gvtReduction 9 0) bare) (.next bare),
   ((after (exec (.gvtReduction 1 half) (withEngine id))).gang? 1).isSome,
   decide (((after (exec (.gvtReduction 1 one) event)).gang? 1).map (·.gvt) = some half), decide ((engineAt (after (exec (.gvtReduction 1 one) event)) 0).incoming = some half),
   decide (((after (exec (.gvtReduction 1 half) late)).gang? 1).map (·.gvt) = some half), same (exec .gvtReceive bare) (.next bare),
   decide ((engineAt (after (exec .gvtReceive value)) 0).gvt = half), decide ((engineAt (after (exec .gvtReceive value)) 0).incoming = none)]) id = true := by decide +kernel

/-! ## Pairs, launches, the fabric and the host -/

/-- PAIR of a tile that is no primary, of a pair with a launch and of a free one; FPCK alone and in a pair; LAUNCH of a malformed address, past LDEPTH, with the pool full, and into the pool; boundaries that agree, that disagree a first and a second time, and one not asked for. -/
theorem witness_PairsAndChildLaunches : List.all (
  let base := regs [(1, 0), (2, 1)] ((seated (.s 0)).modPart 0 (fun p => { p with featacc0 := 0xFF }))
  let held := base.modTile 0 (fun t => { t with gang := 1 })
  let pair := fun (a : Nat) => fA 5 a 0 0 0 0 0
  let paired := fun (s : State) => { (s.modTile 0 (fun t => { t with twin := .primary })).modTile 1 (fun t => { t with twin := .twin, gang := 1 }) with pairs := [(0, { Pair.reset with gang := 1 })], subject := 0 }
  let tile := (seated (.a 0)).modPart 0 (fun p => { p with featacc0 := 0xFF })
  let bound := paired tile
  let granted := seqOf (fun q => { q with wait := some ⟨.pair, 0, some (0, false)⟩ }) bound
  let child := regs [(1, own 0 4096), (2, 2 ^ 63)] tile
  let deep := child.modGang 1 (fun g => { g with ldepth := 0 })
  let full := child.modGang 1 (fun g => { g with lpool := 0 })
  let launch := fC 5 1 0 0 0 0 0
  let asked := (paired tile).modPair 0 (fun p => { p with boundary := some (0, 0), primary := tile.tile 0, twin := tile.tile 1 })
  let off := asked.modTile 1 (fun t => { t with a := { t.a with print := 0 } })
  let twice := off.modPair 0 (fun p => { p with disagreed := true })
  let two := { (paired tile) with subject := 1 }
  let agreed := after (exec .pairBoundary asked)
  let back := after (exec .pairBoundary off)
  [ready base (.pair (pair 2)), same (exec (.pair (pair 2)) base) (falls base (.pair (pair 2)) (withX 5 2 false (issued base))),
   ready held (.unpair (pair 1)), same (exec (.unpair (pair 1)) held) (falls held (.unpair (pair 1)) (withX 5 1 false (issued held))),
   same (exec (.unpair (pair 1)) base) (falls base (.unpair (pair 1)) (withX 5 0 false ((issued base).modCluster 0 (fun w => { w with pairs := 2 })))),
   runs tile (.fpck (fA 0 0 0 0 0 0 0)) [] (falls tile (.fpck (fA 0 0 0 0 0 0 0)) (issued tile)),
   ready bound (.fpck (fA 0 0 0 0 0 0 0)), same (exec (.fpck (fA 0 0 0 0 0 0 0)) bound) (.next (askBoundary 0 (recordWait (.a 0) .pair bound))),
   ready granted (.fpck (fA 0 0 0 0 0 0 0)), same (exec (.fpck (fA 0 0 0 0 0 0 0)) granted) (falls granted (.fpck (fA 0 0 0 0 0 0 0)) (issued granted)),
   runs child (.launch (fC 5 2 0 0 0 0 0)) [!formOk (BitVec.ofNat 64 (2 ^ 63))]
     (traps child (.launch (fC 5 2 0 0 0 0 0)) 0x04 (BitVec.ofNat 64 (2 ^ 63))),
   solo (issued child), ready child (.launch launch), ownScratch (issued child) (BitVec.ofNat 64 (own 0 4096)) 192 64,
   !pushesToward (issued child) (.a 0) 0, decide ((here (after (exec (.launch launch) child))).x 5 = 0),
   decide ((after (exec (.launch launch) child)).launch.pool.length = 1), decide ((here (after (exec (.launch launch) deep))).x 5 = 9),
   decide ((here (after (exec (.launch launch) full))).x 5 = 8),
   !astray asked 0, boundaryReady asked 0, printsAgree asked 0, decide ((agreed.pair 0).boundary = none),
   boundaryReady off 0, !printsAgree off 0, !(off.pair 0).disagreed, decide ((back.pair 0).rollbacks = 1), decide ((back.tile 1).a.print = BitVec.allOnes 64),
   same (exec .pairBoundary twice) (.next (endGang 1 1 0x12 (quarantineTile 1 1 (quarantineTile 1 0 twice)))),
   !boundaryReady bound 0, same (exec .pairBoundary bound) (.next bound), same (exec .pairBoundary two) (.next two),
   same (exec .pairWaitTimeout asked) (.next asked)]) id = true := by decide +kernel

/-- Job memory with one page; a kick that fits and one that passes; a record read and found fine, refused with cause 1, and dropped; a dependence that is met, one that is not, and one that faults. -/
theorem witness_RecordsAndPlacement_checks : List.all (
  let root := keyOf 0 spaceHbm 0
  let page := keyOf 0 spaceHbm 0x100000
  let table := withBytes root (toBytes 4 0x10001 ++ toBytes 12 0 ++ toBytes 8 0 ++ toBytes 8 0x100000 ++ toBytes 8 0x10007F) false State.reset
  let job := table.modPart 0 (fun p => { p with atcfg := 0x11, ringsize := 8, allow := 1 })
  let record : LaunchRecord := #v[0x0001000000005331, 1, 0x1000, 0x1000, 0, 0, 0x4000, 0, 0, 0, 0, 0, 0, 0, 0, 0, 0x2000, 0x2040, 0, 0, 0, 0, 0, 0]
  let bytes := fun (r : LaunchRecord) => (r.toList.map (fun w => toBytes 8 w.toNat)).flatten
  let queued := fun (r : LaunchRecord) (s : State) =>
    (withBytes page (bytes r) false (withBytes (page + 0x4000) (toBytes 8 1 ++ toBytes 8 0x100000010 ++ toBytes 2 0) false s)).modQueue 0 (fun q =>
      { q with en := true, tail := 1 })
  let s := queued record job
  let bad := queued (record.set 23 1) job
  let lost := queued (record.set 16 0) job
  let far := queued (record.set 16 0x200000) job
  let checked := after (exec (.launchRecordCheck (.queue 0)) s)
  let waits := fun (v : Nat) (a : Word) => (checked.modQueue 0 (fun q => { q with record := some ⟨(record.set 8 a).set 12 (BitVec.ofNat 64 v), true, none, false, 0, 0, 4096, 64, 24⟩ }))
  let eligible := after (exec (.dependencePoll (.queue 0)) checked)
  let pool := (job.modLaunch (fun l => { l with pool := [(7, ⟨record, false, none, false, 1, 3, 4096, 64, 24⟩)] }))
  [decide (((after (exec (.launchQueueKick 0 2) s)).queue 0).tail = 2), same (exec (.launchQueueKick 0 3) s) (.next s),
   orphaned pool (.pool 7), same (exec (.dependencePoll (.pool 7)) pool) (.next (finishRecord (.pool 7) 5 0 pool)),
   recordOk s 0 false record, saveAreaOk s record, !recordOk s 0 false (record.set 23 1),
   decide ((checked.queue 0).record = some ⟨record, true, none, false, 0, 0, 4096, 64, 24⟩),
   same (exec (.launchRecordCheck (.queue 0)) checked) (.next checked),
   decide (((after (exec (.launchRecordCheck (.queue 0)) bad)).queue 0).head = 1),
   (after (exec (.launchRecordCheck (.queue 0)) bad)).mem.byte (page + 0x2000) == 1,
   decide (((after (exec (.launchRecordCheck (.queue 0)) lost)).part 0).errcnt.getD 7 0 = 1),
   decide (((after (exec (.launchRecordCheck (.queue 0)) far)).part 0).errcnt.getD 7 0 = 1),
   decide ((eligible.queue 0).record = some ⟨record, true, some 0, false, 0, 0, 4096, 64, 24⟩),
   same (exec (.dependencePoll (.queue 0)) (waits 1 0x3000)) (.next (waits 1 0x3000)),
   decide (((after (exec (.dependencePoll (.queue 0)) (waits 0 0x3000))).queue 0).record.bind (·.eligible) = some 0),
   decide (((after (exec (.dependencePoll (.queue 0)) (waits 0 0x200000))).queue 0).head = 1)]) id = true := by decide +kernel

/-- A placement that goes, one on a wrong tile, a record that never fits and one that wants rings; a blocking record. -/
theorem witness_RecordsAndPlacement_places : List.all (
  let root := keyOf 0 spaceHbm 0
  let page := keyOf 0 spaceHbm 0x100000
  let table := withBytes root (toBytes 4 0x10001 ++ toBytes 12 0 ++ toBytes 8 0 ++ toBytes 8 0x100000 ++ toBytes 8 0x10007F) false State.reset
  let job := table.modPart 0 (fun p => { p with atcfg := 0x11, ringsize := 8, allow := 1 })
  let record : LaunchRecord := #v[0x0001000000005331, 1, 0x1000, 0x1000, 0, 0, 0x4000, 0, 0, 0, 0, 0, 0, 0, 0, 0, 0x2000, 0x2040, 0, 0, 0, 0, 0, 0]
  let bytes := fun (r : LaunchRecord) => (r.toList.map (fun w => toBytes 8 w.toNat)).flatten
  let queued := fun (r : LaunchRecord) (s : State) =>
    (withBytes page (bytes r) false (withBytes (page + 0x4000) (toBytes 8 1 ++ toBytes 8 0x100000010 ++ toBytes 2 0) false s)).modQueue 0 (fun q =>
      { q with en := true, tail := 1 })
  let s := queued record job
  let checked := after (exec (.launchRecordCheck (.queue 0)) s)
  let eligible := after (exec (.dependencePoll (.queue 0)) checked)
  let placed := after (exec (.gangPlacement (.queue 0) [2]) eligible)
  let change := fun (r : LaunchRecord) => eligible.modQueue 0 (fun q => { q with record := some ⟨r, true, some 0, false, 0, 0, 4096, 64, 24⟩ })
  let wide := change (record.set 1 5)
  let ringless := eligible.modPart 0 (fun p => { p with ringsize := 0 })
  let busy := { (change record).modPart 0 (fun p => { p with ringsTaken := List.range 8 }) with time := 1700000 }
  [canEverFit eligible record, fitsNow eligible record, placementOk eligible record [2], !placementOk eligible record [4],
   (placed.gang? eligible.next).isSome, decide ((placed.tile 2).gang = eligible.next), decide ((placed.queue 0).head = 1),
   same (exec (.gangPlacement (.queue 0) [4]) eligible) (.next eligible), !canEverFit wide (record.set 1 5),
   decide (((after (exec (.gangPlacement (.queue 0) [2]) wide)).queue 0).head = 1), ringsNever ringless record,
   same (exec (.gangPlacement (.queue 0) [2]) ringless) (.next (finishRecord (.queue 0) 7 9 ringless)), !fitsNow busy record,
   decide (((after (exec (.recordBlocking (.queue 0)) busy)).queue 0).record.map (·.blocking) = some true)]) id = true := by decide +kernel

/-- A part of one module, in time and late; a part of several that has read go, and one that has not; the commit of a full count and of a short one; a gang that is idle, one with a child, a killed one, a restartable one that cannot fit again; a wait that lasts the period, and a killed peer. -/
theorem witness_GangLife : List.all (
  let root := keyOf 0 spaceHbm 0
  let page := keyOf 0 spaceHbm 0x100000
  let table := withBytes root (toBytes 4 0x10001 ++ toBytes 12 0 ++ toBytes 8 0 ++ toBytes 8 0x100000 ++ toBytes 8 0x10007F) false (seated (.a 0))
  let job := { table.modPart 0 (fun p => { p with atcfg := 0x11, ringsize := 8, allow := 1 }) with subject := 1 }
  let count := fun (v : Nat) (s : State) => withBytes (page + 0x3000) (toBytes 8 v) false s
  let alone : LaunchRecord := (Vector.replicate 24 0).set 0 0x100000
  let parts : LaunchRecord := ((alone.set 11 0x3000).set 15 2).set 7 64001
  let put := fun (r : LaunchRecord) (f : Gang → Gang) => job.modGang 1 (fun g => f { g with record := r, phase := .placed })
  let intime := put alone (fun g => { g with added := true })
  let toolate := put alone (fun g => { g with added := false })
  let early := put parts (fun g => { g with go := false })
  let later := { early with time := 64001 * 17 }
  let gone := { put parts (fun g => { g with go := true }) with time := 64001 * 17 }
  let again := { (put parts (fun g => { g with go := true })).modGang 1 (fun g => { g with phase := .running }) with time := 164001 * 17 }
  let full := { count 2 early with subject := 65, time := 17 }
  let short := { count 1 early with subject := 65, time := 17 }
  let idle := job.modTile 0 (fun t => { t with a := { t.a with firing := none } })
  let child := idle.modLaunch (fun l => { l with gangs := l.gangs.set 2 { gangAt job 4 with parent := 1, tiles := [] } })
  let killed := fun (s : State) => s.modGang 1 (fun g => { g with killing := some (1, 0x12), phase := .waiting })
  let restart := (killed job).modGang 1 (fun g => { g with record := ((alone.set 0 0x0001000000015331).set 1 9) })
  let stuck := { seqOf (fun q => { q with wait := some ⟨.queue, 0, none⟩ }) job with time := 10000 * 1000 * 17000 }
  let peer := early.modFabric (fun u => { u with peers := [⟨0, 0x3000, 2048, 1, [], some (3, 0x13), true⟩] })
  let ends := fun (s : State) (i : Instr) (p : Option (Nat × Nat)) => decide ((((after (exec i s)).gang? 1).map (·.killing)) = some p)
  [same (exec .startTick intime) (.next (intime.modGang 1 (fun w => { w with phase := .running, start := 0 }))),
   ends toolate .startTick (some (5, 0)), parts.spans, !alone.spans, same (exec .startTick early) (.next early), ends later .startTick (some (5, 0)),
   (after (exec .startTick later)).mem.byte (page + 0x3007) == 0x40,
   decide (((after (exec .startTick gone)).gang? 1).map (·.phase) = some .running), ends again .rendezvousRecheck none,
   same (exec .rendezvousRecheck early) (.next early),
   decide (commitTick parts = 1), (partNamed full 65).isSome, (after (exec .rendezvousCommit full)).mem.byte (page + 0x3007) == 0x80,
   (after (exec .rendezvousCommit short)).mem.byte (page + 0x3007) == 0x40, same (exec .rendezvousCommit { early with subject := 65 }) (.next { early with subject := 65 }),
   !((after (exec .rendezvousRead (count (2 ^ 63) early))).gang? 1 |>.map (·.abort)).getD true,
   decide (((after (exec .rendezvousRead (count (2 ^ 63) early))).gang? 1).map (·.go) = some true),
   !gangIdle job 1 ((job.gang? 1).getD (gangAt job 0)), same (exec .gangCompletion job) (.next job),
   decide ((after (exec .gangCompletion idle)).gang? 1 = none), decide (((after (exec .gangCompletion child)).gang? 1).map (·.phase) = some .waiting),
   same (exec .gangCompletion (after (exec .gangCompletion child))) (.next (after (exec .gangCompletion child))),
   same (exec .gangCompletion (killed child)) (.next (endGang 2 5 0 (killed child))),
   decide ((after (exec .gangCompletion (killed idle))).gang? 1 = none), same (exec (.reexecution 1 []) idle) (.next idle),
   (match restart.gang? 1 with | some u => toReexecute u && !canEverFit restart u.record | none => false),
   same (exec .gangCompletion restart) (.next restart),
   same (exec (.reexecution 1 []) restart) (.next (restart.modGang 1 (fun w => { w with final := true }))),
   ends stuck .watchdogExpiry (some (3, 0x13)), same (exec .watchdogExpiry job) (.next job), ends peer .watchdogExpiry (some (3, 0x13)),
   same (exec .startTick { job with subject := 9 }) (.next { job with subject := 9 })]) id = true := by decide +kernel

/-- The end of a gang; PREEMPT without flag 3 and with it, through to the save; RESUME of a saved part, and of one whose save area is broken. -/
theorem witness_EndAndPreemption : List.all (
  let base := regs [(1, 77)] { (seated (.a 0)) with subject := 1 }
  let may := base.modGang 1 (fun g => { g with record := (Vector.replicate 24 0).set 0 0x80000 })
  let stopping := may.modGang 1 (fun g => { g with phase := .stopping })
  let stopped := after (exec .preempt may)
  let saved := after (exec .preempt stopped)
  let broken := saved.modGang 1 (fun g => { g with saved := g.saved.map (fun v => { v with broken := true }) })
  let back := after (exec .preemptResume saved)
  let phase := fun (s : State) => (s.gang? 1).map (·.phase)
  [decide (((endGang 1 3 0x13 base).gang? 1).map (·.killing) = some (some (3, 0x13))), decide (((endGang 1 3 0x13 base).tile 0).gang = 0),
   (match base.gang? 1 with
    | some u => let child := (base.modLaunch (fun l => { l with gangs := l.gangs ++ [(2, { u with parent := 1, tiles := [1] })] })).modTile 1 (fun t => { t with gang := 2 })
      decide (((endGang 1 3 0x13 child).gang? 2).map (·.killing) = some (some (5, 0))) && decide (((endGang 1 3 0x13 child).tile 1).gang = 0)
    | none => false), same (.next (endGang 1 1 2 (endGang 1 3 0x13 base))) (.next (endGang 1 3 0x13 base)),
   same (exec .preempt base) (.next base), decide (phase stopped = some .preempted),
   enginesSettled stopping 1, (pairsOf stopping 1).isEmpty, same (exec .preempt stopping) (.next (stopPart 1 stopping)),
   (match stopped.gang? 1 with | some u => partDrained stopped 1 u && same (exec .preempt stopped) (.next (savePart 1 u stopped)) | none => false),
   decide (((saved.gang? 1).bind (·.saved)).map (·.complete) = some true), same (exec .preempt saved) (.next saved),
   (match (saved.gang? 1).bind (·.saved) with
    | some v => canResume saved 1 v && !v.broken && v.engines.isEmpty && v.pairs.isEmpty && (v.tiles.length == 1) &&
        same (exec .preemptResume saved) (.next (restorePart 1 v saved))
    | none => false),
   decide (((back.tile 0).a.x 1) = 77), decide ((back.tile 0).gang = 1), same (exec .preemptResume stopped) (.next stopped),
   same (exec .preemptResume base) (.next base), same (exec .preemptResume broken) (.next (contextLost 1 broken)),
   decide (((contextLost 1 broken).gang? 1).map (·.killing) ≠ some none), same (exec .preempt { base with subject := 5 }) (.next { base with subject := 5 })]) id = true := by decide +kernel

/-- A busy sequencer, one with nothing ready, one with an actor and one with a gondola; a claim of a nest and one past its end; ALIGNH and WFE at their deadlines; a deferred arrival; gondolas that find room and none, at a tile and a memory core; a packet read back from the ring. -/
theorem witness_SelectionsAndArrivals : List.all (
  let base := { (seated (.a 0)) with subject := 0 }
  let idle := seqOf (fun q => { q with firing := none }) base
  let acting := seqOf (fun q => { q with actors := q.actors.set 3 { Actor.absent with present := true, enabled := true, entry := 640, prio := 2 } }) idle
  let x : Gondola := ⟨9, 1, 320, #v[1, 2, 3, 4, 5, 6, 7], 0, false⟩
  let landed := idle.modTile 0 (fun t => { t with arrivals := [x] })
  let fired := after (exec (.actorSelection (.a 0)) acting)
  let gone := after (exec (.actorSelection (.a 0)) landed)
  let nest : Nest := ⟨4, 3, 2, 1, BitVec.ofNat 64 (own 0 64), 1, 1, 2⟩
  let slot : NestSlot := ⟨1, some nest, some 0, true, 0, 0, some 0⟩
  let claiming := { store 0 64 8 3 (seqOf (fun q => { q with nests := q.nests.set 0 slot }) base) with focus := .a 0 }
  let wrong := seqOf (fun q => { q with nests := q.nests.set 0 { slot with nest := some { nest with counter := 2 ^ 63 } } }) base
  let wait := fun (why : Why) (d : Nat) => seqOf (fun q => { q with wait := some ⟨why, 0, none⟩, deadline := some d }) base
  let b : Barrier := ⟨0, 1, 2, [0], 0, [], [], [], []⟩
  let d : Deferred := ⟨1, 0, 2, []⟩
  let deferred := base.modLaunch (fun l => { l with barriers := [b], deferred := [d] })
  let transit := fun (t : Dest) (s : State) => s.modLaunch (fun l => { l with transit := [⟨x, t, false, { Way.start (routerOf 0) 0 with hop := match t with | .away _ => .across | d => .router (routerOfDest d) }⟩] })
  let narrow := base.modTile 0 (fun t => { t with arrcap := 0 })
  let crowd := base.modMCore 0 (fun c => { c with arrivals := List.replicate 64 x })
  let frozen := base.modGang 1 (fun g => { g with phase := .preempted, saved := some ⟨[], [], [], [], [], 0, 0, false, false⟩ })
  let unread := (writeRing x (base.tile 0) base).modTile 0 (fun t => { t with arrivals := [{ x with unread := true, pc := 0, regs := Vector.replicate 7 0 }] })
  let claim0 := claimBy false (.a 0) 0 nest
  let at_ := fun (n : Nat) => withBytes (ownKey claiming nest.counter) (toBytes 8 n) false claiming
  [same (exec (.actorSelection (.a 0)) base) (.next base), same (exec (.actorSelection (.a 0)) idle) (.next idle),
   decide (selected acting (.a 0) = some 3), entrantReady acting (.a 0) 3, !isPaired acting (.a 0), decide ((fired.tile 0).a.pc = 640),
   decide ((fired.tile 0).a.xs = Vector.replicate 32 0), decide (selected landed (.a 0) = some 16), decide ((gone.tile 0).a.x 7 = 7), decide ((gone.tile 0).a.pc = 320),
   same (exec (.reelClaim (.a 0) 0) base) (.next base), solo claiming, ownScratch claiming nest.counter 8 8, decide (nest.total = 24),
   Claims.cleanBytes claiming.mem (ownKey claiming nest.counter) 8,
   (match claim0.run claiming with | .ok _ t => decide (t = giveChunk false (.a 0) 0 (some (3, 24)) (at_ 24)) | _ => false),
   (match claim0.run (at_ 24) with | .ok _ t => decide (t = giveChunk false (.a 0) 0 none (at_ 24)) | _ => false),
   same (exec (.reelClaim (.a 0) 0) claiming) (match claim0.run claiming with
    | .ok _ t => .next ({ t with focus := claiming.focus })
    | _ => .next base),
   decide (((after (exec (.reelClaim (.a 0) 0) wrong)).launch.undelivered.map (·.code)) = [0x04]), decide (indexOf nest 23 = #v[3, 2, 1, 0]),
   same (exec (.alignhTimeout (.a 0)) base) (.next base), decide (((after (exec (.alignhTimeout (.a 0)) (wait .align 0))).tile 0).a.wait = some ⟨.align, 0, some (0, false)⟩),
   same (exec (.alignhTimeout (.a 0)) (wait .align 9)) (.next (wait .align 9)), decide (((after (exec (.wfeTimeout (.a 0)) (wait .wfe 0))).tile 0).a.latch = 0x80),
   same (exec (.wfeTimeout (.a 0)) (wait .wfe 9)) (.next (wait .wfe 9)), same (exec (.deferredArrival 1 0) base) (.next base), deferredReady deferred d,
   same (exec (.deferredArrival 1 0) deferred) (.next ((arrive 0 b deferred).modLaunch (fun l => { l with deferred := [] }))),
   same (exec .gondolaArrival base) (.next base), decide (((after (exec .gondolaArrival (transit (.tile 0) base))).tile 0).arrivals = [x]),
   decide (((after (exec .gondolaArrival (transit (.tile 0) narrow))).tile 0).ring = [x]),
   same (exec .gondolaArrival (transit (.tile 0) frozen)) (.next (landInRing x 0 frozen)), isPreempted frozen 1,
   same (exec .gondolaArrival (transit (.away 3) base)) (.next base), decide (((after (exec .mcGondolaArrival (transit (.core 0) base))).mcore 0).arrivals = [x]),
   same (exec .mcGondolaArrival (transit (.core 0) crowd)) (.next (transit (.core 0) crowd)),
   decide ((((after (exec .mcGondolaArrival (transit (.core 0) frozen))).gang? 1).bind (·.saved)).map (·.parked) = some [(0, x)]),
   decide (((after (exec .ringReturn unread)).tile 0).arrivals = [x]), same (exec .ringReturn base) (.next base)]) id = true := by decide +kernel

/-- A request at its issuer, drained and not, on its way, behind an older packet, at an invalid entry, at its home for the first time and again, answered from the cache, performed, and answered, its answer on the way and back; the next and the eighth time-out. -/
theorem witness_PacketsAndAccesses : List.all (
  let way := fun (h : Hop) (n : Nat) => ({ Way.start (routerOf 0) 0 with hop := h, timeouts := n } : Way)
  let mk := fun (st : ReqStage) (w : Way) => (⟨0, .a 0, none, 1, 1, 0, .load ⟨scratchKey 64 64, 0, 4⟩ 6 9, 64, false, 77, 0, st, w, none, false, none, Sync.none, 0, []⟩ : Request)
  let at_ := fun (r : Request) => let s := { (store 64 64 4 0xFFFFFFFE (seated (.a 0))) with subject := 0 }; (s.modTile 64 (fun t => { t with gang := 1 })).modFabric (fun u => { u with requests := [r], minimalActive := 1 })
  let on := fun (h : Hop) => at_ (mk .sent (way h 0))
  let req := fun (s : State) => findRequest s 0
  let hop := fun (s : State) => ((req s).map (·.way.hop) : Option Hop)
  let stage := fun (s : State) => ((req s).map (·.stage) : Option ReqStage)
  let start := on (.router (routerOf 0))
  let first := (routeNext start (routerOf 0) (routerOf 64) 0).map (·.1)
  let older := start.modFabric (fun u => { u with requests := { mk .sent (way (.router (routerOf 0)) 0) with id := 3 } :: u.requests })
  let home := on (.router (routerOf 64))
  let again := home.modFabric (fun u => { u with delivered := [(77, 0)] })
  let kept := again.modFabric (fun u => { u with cache := [⟨64, 77, 0, 5, 0⟩] })
  let come := at_ (mk (.delivered 5) (way (.router (routerOf 64)) 0))
  let back := fun (h : Hop) => at_ (mk (.answered 0xFFFFFFFE 0) (way h 0))
  let done := back (.router (routerOf 0))
  let late := { (on .lost) with time := 50 * 17000 }
  let last := { (at_ (mk .sent (way .lost 7))) with time := 50 * 17000 }
  let empty := { (seated (.a 0)) with subject := 0 }
  let drained := (on .issuer).modFabric (fun u => { u with drain := u.drain.set 0 .stopped })
  let lost := start.modFabric (fun u => { u with minimalActive := 0 })
  [same (exec .ownerAccess empty) (.next empty), same (exec .packetForward empty) (.next empty), same (exec .packetForward drained) (.next drained),
   decide (hop (after (exec .packetForward (on .issuer))) = some (.router (routerOf 0))), routerOf 0 != routerOf 64, first.isSome,
   decide (hop (after (exec .packetForward start)) = (match first with | some (Behind.router n) => some (Hop.router n) | _ => (none : Option Hop))), contended older 3 (routerOf 0) (first.getD (.router 0)),
   decide (hop (after (exec .packetForward lost)) = some .lost), decide (((after (exec .packetForward lost)).part 0).errcnt.getD 7 0 = 1),
   same (exec .packetForward home) (.next home), !waitsBefore home (mk .sent (way .issuer 0)), !behindPush home (mk .sent (way .issuer 0)),
   decide (stage (after (exec .packetDelivery home)) = some (.delivered home.next)),
   decide ((after (exec .packetDelivery home)).fabric.delivered = [(77, 0)]), decide (stage (after (exec .packetDelivery again)) = some (.delivered home.next)),
   decide (((after (exec .packetDelivery again)).part 0).errcnt.getD 6 0 = 1), decide (stage (after (exec .packetDelivery kept)) = some (.answered 5 0)),
   !refused come (mk (.delivered 5) (way .issuer 0)), !behindOther come (mk (.delivered 5) (way .issuer 0)) 5, cleanBytes come.mem (scratchKey 64 64) 4,
   decide (stage (after (exec .ownerAccess come)) = some (.answered 0xFFFFFFFE 0)), same (exec .requestResponse (back (.router 39))) (.next (back (.router 39))),
   decide (((after (exec .requestResponse done)).tile 0).a.x 9 = 0xFFFFFFFE), decide (stage (after (exec .requestResponse done)) = none),
   same (exec .endToEndTimeout (on .lost)) (.next (on .lost)), timedOut late (.request 0), decide (hop (after (exec .endToEndTimeout late)) = some .issuer),
   decide (((after (exec .endToEndTimeout late)).part 0).errcnt.getD 6 0 = 1),
   decide (((after (exec .endToEndTimeout last)).gang? 1).map (·.killing) = some (some (3, 0x13)))]) id = true := by decide +kernel

/-- A multicast packet with two destinations, at a router where both branches are free, and behind an older packet. -/
theorem witness_PacketsAndAccesses_multicast : List.all (
  let m : Multicast := ⟨7, 1, 0, [64, 400], { Way.start (routerOf 0) 0 with hop := .router (routerOf 0) }⟩
  let s := ({ (seated (.a 0)) with subject := 4 * carrierBase }.modFabric (fun u => { u with minimalActive := 1 })).modLaunch (fun l => { l with multicasts := [m] })
  let bs := branches s m (routerOf 0)
  [decide (carrierOf s.subject = .multicast 0), !bs.isEmpty, bs.all (fun b => match b with | some (x, _) => !contended s 7 (routerOf 0) x | none => false),
   same (exec .packetForward s) (.next (s.modLaunch (fun l => { l with multicasts := splitMulticast s m (routerOf 0) })))]) id = true := by decide +kernel

/-- A drain and the swap that follows; a group on a tether whose CRC fails, and an empty one, which is not what was sent; a link that retrains; a revoked switch. -/
theorem witness_TablesLinksAndSwitches : List.all (
  let base := { (seated (.a 0)) with subject := 0 }
  let drained := after (exec .routingDrain base)
  let shadow := drained.modFabric (fun u => { u with shadow := [(16, 0x8001)] })
  let up := after (exec (.linkRetrain 0 ⟨5, 9, 2⟩ (digestOf ⟨5, 9, 2⟩)) base)
  let down := after (exec (.linkRetrain 0 ⟨5, 9, 2⟩ 6) base)
  let failed := after (exec (.linkRetrain 0 ⟨5, 9, 2⟩ 6) (after (exec .linkDown (after (exec (.linkRetrain 0 ⟨5, 9, 2⟩ 6) (after (exec .linkDown down)))))))
  let link := fun (s : State) => (s.fabric.links.getD 0 Link.reset)
  let r : Request := ⟨0, .a 0, none, 1, 1, 0, .load ⟨scratchKey 4 64, 0, 4⟩ 6 9, 2 ^ 22 + 4, false, 77, 0, .sent, { Way.start (routerOf 0) 0 with hop := .tether 0 0 }, none, false, none, Sync.none, 0, []⟩
  let out := up.modFabric (fun u => { u with requests := [r] })
  let hop := fun (s : State) => ((findRequest s 0).map (·.way.hop) : Option Hop)
  let wrong : List (BitVec 256) := []
  let trusted := base.modFabric (fun u => { u with trust := u.trust.set 0 ⟨7, 3, 1⟩ })
  let sum : Collective := ⟨4, 1, 0, [(0, 0), (1, 0)], 0, 0, 3, 1, 0, [(0, 0, 1, true)], [(0, true, [5]), (1, true, [6])], some (true, [11]), none⟩
  let job := (trusted.modPart 0 (fun p => { p with tree := [⟨0, [0, 1], []⟩] })).modEngine 0 1 (fun g => { g with cmds := [⟨1, .copy 0 0 0 0, .none, none, 0, 1, .running, [], 0, [], 0, 0, false, false, 0, 0⟩] }) |>.modLaunch (fun l => { l with collectives := [sum] })
  let attest := fun (n : Nat) => exec (.switchAttestation n 3 7 ⟨[], [], true⟩)
  [same (exec .routingSwap base) (.next base), draining drained 0, !inFlightPart drained 0, !draining (after (exec .routingSwap drained)) 0,
   decide ((after (exec .routingSwap shadow)).fabric.active = [(16, 0x8001)]), decide ((after (exec .routingSwap shadow)).fabric.shadow = []),
   same (exec (.linkCrcGroup 0 [] 0) base) (.next base),
   decide ((link (after (exec (.linkCrcGroup 0 wrong (crc32 wrong + 1)) out))).replays = 1), decide (hop (after (exec (.linkCrcGroup 0 wrong (crc32 wrong)) out)) = some .lost),
   decide (((after (exec (.linkCrcGroup 0 wrong (crc32 wrong)) out)).part 0).errcnt.getD 5 0 = 1),
   decide ((link up) = ⟨.up, 0, 0, 5, 9, 2⟩), decide ((link down) = ⟨.down, 1, 0, 5, 9, 2⟩), decide ((link failed).state = .failed), same (exec .linkDown base) (.next base),
   decide ((link (after (exec .linkDown up))).state = .retraining), same (attest 512 base) (.next base), !attests base 0 ⟨[], [], true⟩,
   decide ((after (attest 0 base)).fabric.failedAttestations = 1), same (attest 0 trusted) (.next trusted),
   same (exec .switchRevocation base) (.next base), decide (hop (after (exec .linkDown out)) = some .lost), !sum.written job,
   decide (((after (exec .switchRevocation job)).launch.collectives.map (fun x => (x.values, x.settled))) = [([(0, false, [5])], none)]), decide (((after (exec .switchRevocation trusted)).fabric.trust.get ⟨0, 0, 0⟩ 0).state = 2)]) id = true := by decide +kernel

/-- A first and a second write of FEATACC0; a cleared fault; a rectangle that leaves a router out and one that takes a value; a layout entry and layout 0; each register at a bound of its range; a measurement; a BAR2 access to an address that is not mapped, and an empty one. -/
theorem witness_HostRegisters : List.all (
  let s := State.reset
  let on := after (exec (.feataccWrite 0 false 0xFFFF) s)
  let faulty := s.modPart 1 (fun p => { p with pfault := 7 })
  let w := fun (n : Nat) (r : HostReg) (v : Nat) => exec (.registerWrite n r (BitVec.ofNat 64 v)) s
  let queue := (s.modHost (fun h => { h with devstate := 2 })).modPart 0 (fun p => { p with featacc0 := 1 })
  let enabled := after (exec (.registerWrite 0 (.lqCfg 0) 0x8003) queue)
  let bad := after (exec (.bar2Access 0 false 0 [0, 0]) s)
  let recovering := s.modHost (fun h => { h with devstate := 3 })
  [decide ((on.part 0).featacc0 = 0xFF), decide (((after (exec (.feataccWrite 0 false 1) on)).part 0).featacc0 = 0xFF),
   decide (((after (exec (.pfaultClear 1 2) faulty)).part 1).pfault = 5), same (exec (.feataccWrite 16 false 1) s) (.next s),
   same (exec (.crectWrite 0 0 0) s) (.next s), same (exec (.crectWrite 0 0 0x8307) s) (.next (s.modFabric (fun u => { u with rects := u.rects.set 0 0x8307 }))),
   rectsCover (s.fabric.rects.set 0 0x8307) 0, !rectBusy s 0 0, same (exec (.layoutEntryWrite 0 0 0) s) (.next s),
   same (exec (.layoutEntryWrite 0 1 0) s) (.next (s.modPart 0 (fun u => { u with layouts := u.layouts.setIfInBounds 1 0 }))), same (w 0 .wdog 0) (.next s), same (w 3 .wdog 1) (.next (s.modPart 3 (fun p => { p with wdog := 1 }))),
   same (w 0 .timeout 1) (.next (s.modFabric (fun u => { u with timeout := 1 }))), same (w 0 .timeout 1000) (.next (s.modFabric (fun u => { u with timeout := 1000 }))),
   same (w 0 .timeout 1001) (.next s), same (w 0 .timeout 0) (.next s), same (w 0 .pwrCap 499) (.next s), same (w 0 .pwrCap 3201) (.next s), same (w 1 .pwrCap 600) (.next s),
   same (w 0 .pwrCap 500) (.next (s.modHost (fun h => { h with pwrcap := 500 }))), decide (((after (w 0 (.lqBase 63) 4096)).queue 63).base = 4096),
   same (w 1 (.lqBase 63) 4096) (.next s), (enabled.queue 0).en, decide (((after (exec (.registerWrite 0 (.lqBase 0) 4096) enabled)).queue 0).base = 0),
   same (w 1 (.lqOwn 0) 1) (.next s), same (w 0 (.readOnly 0) 1) (.next s), decide ((after (w 0 (.shadow 1 2 3) 0xFFFF)).fabric.shadow = [(4096 + 32 + 3, 0x981F)]),
   same (w 16 .wdog 5) (.next s), same (exec (.spdmRequest 0 6) s) (.next s), decide ((after (exec (.spdmRequest 0 1) (s.modHost (fun h => { h with measured := h.measured.set 0 9 })))).host.spdm.get 0 0 = 9),
   decide (bad.host.lastRead = [0xFF, 0xFF]), decide ((bad.part 0).pfault = 4), decide ((bad.part 0).errcnt.getD 7 0 = 1), same (exec (.bar2Access 16 false 0 [0]) s) (.next s),
   same (exec (.bar2Access 0 true 0 []) s) (.next s), same (exec (.deviceIdentifierAssign 7) s) (.next (s.modHost (fun h => { h with devid := 7, assigned := true }))),
   same (exec (.registerWrite 0 .pwrCap 500) recovering) (.next recovering), same (exec (.registerWrite 3 .wdog 1) recovering) (.next (recovering.modPart 3 (fun p => { p with wdog := 1 }))),
   decide (bar0Word 0 0x100000 (recovering.modQueue 0 (fun q => { q with base := 4096 })) = 0), decide (bar0Word 0 0x100000 (s.modQueue 0 (fun q => { q with base := 4096 })) = 4096), decide (bar0Word 0 0x10 recovering = 0), decide (bar0Word 0 0x38 recovering = 10000)]) id = true := by decide +kernel

/-- Bring-up in each state of DEVSTATE; a function reset with a queue of the partition and one of another; a module reset; a rectangle that was killed. -/
theorem witness_ResetsAndBringUp : List.all (
  let s := { State.reset with subject := 0 }
  let started := s.modHost (fun h => { h with devstate := 1 })
  let ready := after (exec (.firmwareStartComplete true) started)
  let recovery := s.modHost (fun h => { h with devstate := 3 })
  let queues := (s.modQueue 0 (fun q => { q with en := true, tail := 3 })).modQueue 1 (fun q => { q with en := true, owner := 2, tail := 3 })
  let flr := after (exec .functionReset queues)
  let seat := { (seated (.a 0)) with subject := 0 }
  let reset := after (exec .functionReset seat)
  let killed := s.modFabric (fun u => { u with rectState := [(0, 1)] })
  let dirty := killed.modTile 5 (fun t => { t with a := { t.a with pc := 9 }, quarantined := true })
  [same (exec .bootRomVerify started) (.next started), same (exec (.recoveryImage []) started) (.next started), decide (recovery.host.devstate = 3),
   same (exec (.firmwareStartComplete true) s) (.next s), same (exec (.firmwareStartComplete false) started) (.next (started.modHost (fun h => { h with devstate := 3 }))),
   decide (ready.host.devstate = 2), decide ((ready.part 0).ringsize = 2048),
   same (exec .functionReset { s with subject := 16 }) (.next { s with subject := 16 }), decide (gangsOf queues 0 = []), !(flr.queue 0).en, decide ((seat.gang? 1).isSome), decide ((reset.gang? 1).isNone), decide ((reset.tile 0).gang = 0),
   decide ((flr.queue 0).head = 3), (flr.queue 1).en, decide ((after (exec .moduleReset (seated (.a 0)))).tiles = []),
   same (exec (.rectangleReset 0 0) s) (.next s), !rectBusy dirty 0 0, decide (((after (exec (.rectangleReset 0 0) dirty)).tile 5).a.pc = 0),
   ((after (exec (.rectangleReset 0 0) dirty)).tile 5).quarantined, decide ((after (exec (.rectangleReset 0 0) dirty)).fabric.rectState.get 0 0 = 0)]) id = true := by decide +kernel

/-- Temperatures below, between and above the thresholds, at each bound; a power estimate above the cap; a trip, a second in its cycle, and the end of the stretch and of the ballast. -/
theorem witness_MonitorsAndDroop : List.all (
  let s := { (seated (.a 0)) with subject := 0 }
  let temp := fun (v : Nat) (s : State) => after (exec (.monitorRefresh (.temp 5) (BitVec.ofNat 16 v)) s)
  let hot := temp 1680 s
  let on := s.modCluster 0 (fun c => { c with stepTrip := some (State.edgesAt c s.time) })
  let trip := after (exec (.droopTrip 0 false) on)
  let stretch := fun (b : Nat) (t : Nat) => { (s.modCluster 0 (fun c => { c with droop := .stretch b })) with time := t }
  let dying := s.modGang 1 (fun g => { g with killing := some (2, 0x11) })
  let cutOff := after (exec (.droopTrip 0 false) (s.modCluster 0 (fun c => { c with droop := .ballast 0, stepTrip := some 1 })))
  let ballast := fun (t : Nat) => { (s.modCluster 0 (fun c => { c with droop := .ballast 0 })) with time := t }
  [same (exec (.monitorRefresh (.temp 168) 0) s) (.next s), decide (hot.host.hot = [5]), decide ((temp 1679 s).host.hot = []), decide ((temp 1600 hot).host.hot = [5]),
   decide ((temp 1599 hot).host.hot = []), decide ((temp 1599 hot).host.peak.get 0 5 = 1680), !(temp 1839 s).host.stopped, (temp 1840 s).host.stopped,
   decide ((((temp 1840 s).gang? 1).map (·.killing)) = some (some (4, 0))), decide ((((temp 1840 dying).gang? 1).map (·.killing)) = some (some (4, 0))), same (exec (.monitorRefresh (.volt 512) 3) s) (.next s),
   decide ((after (exec (.monitorRefresh (.volt 511) 3) s)).host.volt.get 0 511 = 3), (after (exec .powerEstimate { s with subject := 3201 })).host.overPower,
   !(after (exec .powerEstimate { s with subject := 3200 })).host.overPower, same (exec (.droopTrip 512 true) s) (.next s), same (exec (.droopTrip 0 false) s) (.next s),
   decide ((trip.cluster 0).trips = 1), decide ((trip.cluster 0).droop = .stretch (State.edgesAt (on.cluster 0) 0 + 1)), (trip.cluster 0).tripSource,
   decide (((after (exec (.droopTrip 0 true) trip)).cluster 0).trips = 1), !((after (exec (.droopTrip 0 true) trip)).cluster 0).tripSource,
   decide (((after (exec .stretchEnd (stretch 0 1000000))).cluster 0).droop = .ballast 6), decide (((after (exec .stretchEnd (stretch 0 0))).cluster 0).droop = .stretch 0),
   decide (((after (exec .ballastEnd (ballast 1000000))).cluster 0).droop = .none), decide (((after (exec .ballastEnd (ballast 0))).cluster 0).droop = .ballast 0),
   decide (((after (exec .ballastEnd s)).cluster 0).droop = .none), decide ((cutOff.cluster 0).cut = some 0), decide ((cutOff.cluster 0).droop = .stretch 2),
   ballastAt (cutOff.cluster 0) 1, !cutOff.mayIssue 0 1]) id = true := by decide +kernel

end Sys2Proof.Tests
end

section
/-! SUPPORT. What a function and the host do to the registers: one rule per device step of the host interface, and the statement
about them assembled from these (R7, R30, R136, R252, R257, R269, R277, R289-R297). -/

namespace Sys2Proof.Machine

/-! ## Updates that depend on the old value only -/

theorem State.modPart_congr {s : State} {p : Nat} {f g : Part → Part} (h : f (s.part p) = g (s.part p)) :
    s.modPart p f = s.modPart p g := by
  simp only [State.modPart, h]

theorem State.modPart_eq_self {s : State} {p : Nat} {f : Part → Part} (h : f (s.part p) = s.part p) : s.modPart p f = s := by
  rw [State.modPart, h]
  simp only [State.part, Vector.set_getElem_self]

/-! ## Features and faults (R290, R292) -/

section Features
variable {s : State} {p : Nat} (v : Word)

theorem exec_feataccWrite (upper : Bool) (h : p < 16) :
    exec (.feataccWrite p upper v) s = .next (s.modPart p (fun u =>
      if upper then (if u.written1 then u else { u with featacc1 := v &&& featcap s p upper, written1 := true })
      else if u.written0 then u else { u with featacc0 := v &&& featcap s p upper, written0 := true })) :=
  congrArg Host.Outcome.next (if_neg (by omega))

theorem exec_feataccWrite_outside (upper : Bool) (h : 16 ≤ p) : exec (.feataccWrite p upper v) s = .next s :=
  congrArg Host.Outcome.next (if_pos h)

theorem exec_feataccWrite_first (hp : p < 16) (hw : (s.part p).written0 = false) :
    exec (.feataccWrite p false v) s =
      .next (s.modPart p (fun u => { u with featacc0 := v &&& featcap s p false, written0 := true })) := by
  rw [exec_feataccWrite v false hp]
  exact congrArg Host.Outcome.next (State.modPart_congr (by simp [hw]))

theorem exec_feataccWrite_again (hp : p < 16) (hw : (s.part p).written0 = true) : exec (.feataccWrite p false v) s = .next s := by
  rw [exec_feataccWrite v false hp]
  exact congrArg Host.Outcome.next (State.modPart_eq_self (by simp [hw]))

/-- Outside recovery the physical function is offered the module's features, another function what the physical one accepted. -/
theorem featcap_lower (h : s.host.devstate ≠ recoveryState) :
    featcap s p false = if p = 0 then 0xFF else (s.part 0).featacc0 := by
  simp only [featcap, h, if_false, Bool.false_eq_true, offered]

theorem featcap_recovery (upper : Bool) (h : s.host.devstate = recoveryState) : featcap s p upper = 0 := if_pos h

theorem exec_pfaultClear (h : p < 16) :
    exec (.pfaultClear p v) s = .next (s.modPart p (fun u => { u with pfault := u.pfault &&& ~~~(v.extractLsb' 0 3) })) :=
  congrArg Host.Outcome.next (if_neg (by omega))

theorem exec_pfaultClear_outside (h : 16 ≤ p) : exec (.pfaultClear p v) s = .next s := congrArg Host.Outcome.next (if_pos h)

end Features

/-! ## Rectangles and layouts (R269, R277) -/

/-- A rectangle register takes its value under the conditions of R277, and keeps it otherwise. -/
theorem exec_crectWrite (d n : Nat) (v : Word) (s : State) :
    exec (.crectWrite d n v) s = .next
      (if d < 4 ∧ n < 16 ∧ rectOk (rectFields v) = true ∧
          rectsCover (s.fabric.rects.set (d * 16 + n) (rectFields v)) d = true ∧ rectBusy s d n = false
        then s.modFabric (fun u => { u with rects := s.fabric.rects.set (d * 16 + n) (rectFields v) }) else s) := by
  change Host.Outcome.next (writeRect d n v s) = _
  rw [writeRect, ← ite_not]
  simp only [Bool.or_eq_true, decide_eq_true_eq, Bool.not_eq_true', not_or, Nat.not_le, Bool.not_eq_false, Bool.not_eq_true, and_assoc]

/-- A layout entry takes its value unless it is entry 0 or its layout breaks the budget of R270. -/
theorem exec_layoutEntryWrite (p c : Nat) (v : BitVec 32) (s : State) :
    exec (.layoutEntryWrite p c v) s = .next
      (if p < 16 ∧ c ≠ 0 ∧ c < 16 ∧ (Layout.ofEntry (layoutFields v)).all Layout.valid = true
        then s.modPart p (fun u => { u with layouts := u.layouts.setIfInBounds c (layoutFields v) }) else s) := by
  change Host.Outcome.next (writeLayout p c v s) = _
  rw [writeLayout, ← ite_not]
  cases Layout.ofEntry (layoutFields v) <;>
    simp only [Bool.or_eq_true, decide_eq_true_eq, Bool.not_eq_true', not_or, Nat.not_le, Bool.not_eq_false, and_assoc, ne_eq,
      Option.all_none, Option.all_some]

/-! ## The other registers (R7, R136, R252, R257, R290, R291, R297) -/

section Registers
variable {s : State} {n : Nat} {r : HostReg} {v : Word}

theorem answers_of_not_recovery (r : HostReg) (h : s.host.devstate ≠ recoveryState) : answers s r = true := by
  cases r <;> simp [answers, h]

theorem exec_registerWrite (hn : n < 16) (ha : answers s r = true) : exec (.registerWrite n r v) s = .next (writeRegister n r v s) :=
  congrArg Host.Outcome.next (if_pos (by simp [hn, ha]))

theorem exec_registerWrite_outside (hn : 16 ≤ n) : exec (.registerWrite n r v) s = .next s :=
  congrArg Host.Outcome.next (if_neg (by simp; omega))

/-- A register that answers outside recovery alone keeps its value in recovery (R294). -/
theorem exec_registerWrite_recovery (h : s.host.devstate = recoveryState)
    (ha : answers s r = decide (s.host.devstate ≠ recoveryState)) : exec (.registerWrite n r v) s = .next s :=
  congrArg Host.Outcome.next (if_neg (by simp [ha, h]))

theorem writeRegister_wdog_zero (h : v.extractLsb' 0 32 = 0) : writeRegister n .wdog v s = s := if_pos h

theorem writeRegister_wdog (h : v.extractLsb' 0 32 ≠ 0) :
    writeRegister n .wdog v s = s.modPart n (fun u => { u with wdog := v.extractLsb' 0 32 }) := if_neg h

theorem writeRegister_timeout (h1 : 1 ≤ (v.extractLsb' 0 10).toNat) (h2 : (v.extractLsb' 0 10).toNat ≤ 1000) :
    writeRegister 0 .timeout v s = s.modFabric (fun u => { u with timeout := v.extractLsb' 0 10 }) := if_pos ⟨h1, h2⟩

theorem writeRegister_timeout_ignored (h : n ≠ 0 ∨ (v.extractLsb' 0 10).toNat = 0 ∨ 1000 < (v.extractLsb' 0 10).toNat) :
    writeRegister n .timeout v s = s := by
  by_cases hn : n = 0
  · exact (if_pos hn).trans (if_neg (by omega))
  · exact if_neg hn

theorem writeRegister_pwrCap (h1 : 500 ≤ (v.extractLsb' 0 12).toNat) (h2 : (v.extractLsb' 0 12).toNat ≤ 3200) :
    writeRegister 0 .pwrCap v s = s.modHost (fun h =>
      { h with pwrcap := v.extractLsb' 0 12, overPower := decide ((v.extractLsb' 0 12).toNat < h.estimate) }) := if_pos ⟨rfl, h1, h2⟩

theorem writeRegister_pwrCap_ignored (h : n ≠ 0 ∨ (v.extractLsb' 0 12).toNat < 500 ∨ 3200 < (v.extractLsb' 0 12).toNat) :
    writeRegister n .pwrCap v s = s := if_neg (by omega)

/-- The partition control block is the physical function's (R291). -/
theorem writeRegister_controlBlock_virtual (hn : n ≠ 0) :
    (∀ q, writeRegister n (.lqOwn q) v s = s) ∧ (∀ p i, writeRegister n (.allow p i) v s = s) ∧
    (∀ p, writeRegister n (.ringBase p) v s = s ∧ writeRegister n (.ringSize p) v s = s) := by
  simp only [writeRegister, hn, and_false, false_and, if_false, implies_true, and_self]

theorem writeRegister_shadow_virtual {r d p : Nat} (hn : n ≠ 0) : writeRegister n (.shadow r d p) v s = s := if_neg hn

theorem writeRegister_shadow {r d p : Nat} (hr : r < 168) (hd : d < 168) (hp : p < 16) :
    writeRegister 0 (.shadow r d p) v s =
      s.modFabric (fun u => { u with shadow := u.shadow.set (r * 4096 + d * 16 + p) (v.extractLsb' 0 16 &&& 0x981F) }) :=
  if_pos ⟨hr, hd, hp⟩

/-! ### The registers of a launch queue (R136) -/

variable {q : Nat}

theorem writeRegister_lq_not_owner (h : (s.queue q).owner.toNat ≠ n) :
    writeRegister n (.lqBase q) v s = s ∧ writeRegister n (.lqCfg q) v s = s := by
  simp only [writeRegister, h, and_false, if_false, and_self]

theorem writeRegister_lqBase (hq : q < 64) (ho : (s.queue q).owner.toNat = n) :
    writeRegister n (.lqBase q) v s = writeLqBase q v s := if_pos ⟨hq, ho⟩

theorem writeRegister_lqCfg (hq : q < 64) (ho : (s.queue q).owner.toNat = n) :
    writeRegister n (.lqCfg q) v s = writeLqCfg q v s := if_pos ⟨hq, ho⟩

/-- An enabled queue keeps its LQBASE. -/
theorem queue_writeLqBase_base : ((writeLqBase q v s).queue q).base = if (s.queue q).en then (s.queue q).base else v := by
  simp only [writeLqBase, State.queue_modQueue_same, apply_ite LaunchQueue.base]

/-- Writing EN to a disabled queue, after FEATACC0 and in DEVSTATE 2, takes LOG2N and enables the queue. -/
theorem queue_writeLqCfg_enable (he : (s.queue q).en = false) (hv : v.getLsbD 15 = true)
    (hf : (s.part (s.queue q).owner.toNat).featacc0 ≠ 0) (hd : s.host.devstate = 2) :
    (writeLqCfg q v s).queue q = { s.queue q with log2n := v.extractLsb' 0 4, en := true } := by
  have hne : ¬ (s.part (s.queue q).owner.toNat).featacc0 = 0#64 := hf
  simp [writeLqCfg, he, hv, hne, hd]

end Registers

/-! ## DEVID and measurement (R30, R295) -/

theorem exec_deviceIdentifierAssign (d : BitVec 8) (s : State) :
    exec (.deviceIdentifierAssign d) s = .next (s.modHost (fun h => { h with devid := d, assigned := true })) := rfl

theorem exec_spdmRequest {n k : Nat} (s : State) (hn : n < 16) (h1 : 1 ≤ k) (h5 : k ≤ 5) :
    exec (.spdmRequest n k) s = .next (s.modHost (answerSpdm n (measurement s n k))) :=
  congrArg Host.Outcome.next (if_pos ⟨h1, h5, hn⟩)

theorem exec_spdmRequest_ignored {n k : Nat} (s : State) (h : k = 0 ∨ 5 < k ∨ 16 ≤ n) : exec (.spdmRequest n k) s = .next s :=
  congrArg Host.Outcome.next (if_neg (by omega))

/-! ## What BAR0 reads (R289-R291, R294) -/

section Bar0
variable {s : State} (n : Nat) {o : Nat}

/-- In recovery nothing above the identity block answers. -/
theorem bar0Word_recovery (h : s.host.devstate = recoveryState) (ho : 0x100000 ≤ o) : bar0Word n o s = 0 := by
  unfold bar0Word
  rw [if_neg (by omega), if_pos h]

/-- LQKICK, at 0x18 of each queue's block, is write-only. -/
theorem bar0Word_lqkick {q : Nat} (hq : q < 64) : bar0Word n (0x100018 + 0x40 * q) s = 0 := by
  by_cases h : s.host.devstate = recoveryState
  · exact bar0Word_recovery n h (by omega)
  · have hoff : (0x100018 + 0x40 * q) % 0x40 = 0x18 := by omega
    unfold bar0Word
    rw [if_neg (by omega), if_neg h, if_pos (by omega), hoff]
    exact ite_self 0

/-- The monitor block and the partition control block are not mapped for a virtual function. -/
theorem bar0Word_virtual {n : Nat} (hn : n ≠ 0) (ho : 0x180000 ≤ o) : bar0Word n o s = 0 := by
  unfold bar0Word
  rw [if_neg (by omega), if_neg (by omega : ¬ o < 0x101000), if_pos hn, ite_self]

theorem bar0Word_monitor (h : s.host.devstate ≠ recoveryState) (h1 : 0x180000 ≤ o) (h2 : o < 0x1C0000) :
    bar0Word 0 o s = monitorWord s.host ((o - 0x180000) / 8) := by
  unfold bar0Word
  rw [if_neg (by omega), if_neg h, if_neg (by omega), if_neg (by simp), if_pos (by simp [h1, h2])]

end Bar0

/-! ## BAR2 (R289) -/

@[simp] theorem part_countError (s : State) (p i n : Nat) :
    (countError s p i n).part p = { s.part p with
      errcnt := (s.part p).errcnt.setIfInBounds i (BitVec.ofNat 64 (min (((s.part p).errcnt.getD i 0).toNat + n) (2 ^ 64 - 1))) } :=
  State.part_modPart_same ..

@[simp] theorem part_setPfault (s : State) (p : Nat) (bits : BitVec 3) :
    (setPfault s p bits).part p = { s.part p with
      pfault := (s.part p).pfault ||| bits
      msix0 := (s.part p).msix0 || (((s.part p).pfault ||| bits) != (s.part p).pfault) } :=
  State.part_modPart_same ..

section Bar2Failed
variable (p n : Nat) (write : Bool) (s : State)

@[simp] theorem mem_bar2Failed : (bar2Failed p n write s).mem = s.mem := by cases write <;> rfl

theorem part_bar2Failed : (bar2Failed p n write s).part p = (setPfault (countError s p 7 1) p 4).part p := by cases write <;> rfl

theorem pfault_bar2Failed : ((bar2Failed p n write s).part p).pfault = (s.part p).pfault ||| 4 := by simp [part_bar2Failed]

theorem errcnt_bar2Failed : ((bar2Failed p n write s).part p).errcnt = (s.part p).errcnt.setIfInBounds 7
    (BitVec.ofNat 64 (min (((s.part p).errcnt.getD 7 0).toNat + 1) (2 ^ 64 - 1))) := by simp [part_bar2Failed]

theorem errcnt7_bar2Failed : ((bar2Failed p n write s).part p).errcnt.getD 7 0 =
    BitVec.ofNat 64 (min (((s.part p).errcnt.getD 7 0).toNat + 1) (2 ^ 64 - 1)) := by
  simp [errcnt_bar2Failed, Vector.getD]

theorem lastRead_bar2Failed : (bar2Failed p n false s).host.lastRead = List.replicate n 0xFF := rfl

end Bar2Failed

/-- Whether BAR2 does not answer: in recovery, past its span, or for no function. -/
def Bar2Silent (s : State) (p : Nat) (a : Word) (n : Nat) : Prop :=
  s.host.devstate = recoveryState ∨ bar2Size < a.toNat + n ∨ 16 ≤ p

section Bar2
variable {s t : State} {p : Nat} {write : Bool} {a : Word} {data : List Byte}

theorem bar2Silent_iff (s : State) (p : Nat) (a : Word) (n : Nat) :
    (s.host.devstate = recoveryState || bar2Size < a.toNat + n || 16 ≤ p) = true ↔ Bar2Silent s p a n := by
  simp only [Bar2Silent, Bool.or_eq_true, decide_eq_true_eq, or_assoc]

theorem exec_bar2Access_silent (h : Bar2Silent s p a data.length) : exec (.bar2Access p write a data) s = .next s :=
  if_pos ((bar2Silent_iff ..).mpr h)

theorem exec_bar2Access (p : Nat) (write : Bool) (a : Word) (data : List Byte) (s : State) :
    exec (.bar2Access p write a data) s = execBar2Access p write a data s := rfl

variable (h : ¬ Bar2Silent s p a data.length)
include h

theorem exec_bar2Access_ok (hr : (bar2 p write a data).run s = .ok () t) : exec (.bar2Access p write a data) s = .next t := by
  rw [exec_bar2Access, execBar2Access, if_neg (mt (bar2Silent_iff ..).mp h), hr]

theorem exec_bar2Access_poison {w : Word} (hr : (bar2 p write a data).run s = .error (.poison w) t) :
    exec (.bar2Access p write a data) s = .next (partitionFault p (keepFindings s t)) := by
  rw [exec_bar2Access, execBar2Access, if_neg (mt (bar2Silent_iff ..).mp h), hr]

/-- An access whose miss is not answered yet is made again (R188). -/
theorem exec_bar2Access_miss {register : State → State} (hr : (bar2 p write a data).run s = .error (.wait .miss register) t) :
    exec (.bar2Access p write a data) s = .next (register s) := by
  rw [exec_bar2Access, execBar2Access, if_neg (mt (bar2Silent_iff ..).mp h), hr]

theorem exec_bar2Access_trap {code : Byte} {tval : Word} {miss : Option Access}
    (hr : (bar2 p write a data).run s = .error (.trap code tval miss) t) :
    exec (.bar2Access p write a data) s = .next (bar2Failed p data.length write s) := by
  rw [exec_bar2Access, execBar2Access, if_neg (mt (bar2Silent_iff ..).mp h), hr]

end Bar2

/-- An access to no bytes translates nothing. -/
theorem run_bar2_nil (p : Nat) (write : Bool) (a : Word) (s : State) :
    (bar2 p write a []).run s = .ok () (if write then s else s.modHost (fun h => { h with lastRead := [] })) := by
  cases write <;> rfl

/-! ## The statement -/

/-- Settles O58: each clause is the rule of its device step. -/
theorem hostRegisters : Obligations.HostRegisters := by
  unfold Obligations.HostRegisters
  intro s
  refine ⟨fun p v hp hd => ⟨fun hw => ?firstAccept, fun hw => ?laterAccept⟩, fun p v hp => ?clearFault,
    fun p up v hp => ⟨exec_feataccWrite_outside v up hp, exec_pfaultClear_outside v hp⟩, fun d n v => ?rectangle, fun p c v => ?layout,
    fun n v hn hd => ?registers, fun n r v hn => exec_registerWrite_outside hn, fun hd n v => ?registersInRecovery,
    fun d => exec_deviceIdentifierAssign d s, fun n k => ⟨exec_spdmRequest_ignored s, exec_spdmRequest s⟩,
    fun n q o => ?bar0, fun p write a data => ?bar2⟩
  case firstAccept =>
    refine ⟨_, exec_feataccWrite_first v hp hw, ?_⟩
    simp only [State.part_modPart_same, featcap_lower hd, State.mem_modPart, State.launch_modPart, and_self]
  case laterAccept => exact ⟨s, exec_feataccWrite_again v hp hw, rfl⟩
  case clearFault =>
    refine ⟨_, exec_pfaultClear v hp, ?_⟩
    simp only [State.part_modPart_same, State.mem_modPart, and_self]
  case rectangle =>
    exact ⟨fun h => (exec_crectWrite d n v s).trans (congrArg _ (if_pos h)),
      fun h => (exec_crectWrite d n v s).trans (congrArg _ (if_neg h))⟩
  case layout =>
    rw [exec_layoutEntryWrite]
    simp only [Option.all_eq_true]
    exact ⟨fun h => congrArg _ (if_pos h), fun h => congrArg _ (if_neg h)⟩
  case registers =>
    have hw (r : HostReg) : exec (.registerWrite n r v) s = .next (writeRegister n r v s) :=
      exec_registerWrite hn (answers_of_not_recovery r hd)
    simp only [hw]
    refine ⟨fun o => rfl, fun h => ?wdogZero, fun h => ?wdog, ⟨?timeout, fun h => ?timeoutIgnored⟩, ⟨?pwrCap, fun h => ?pwrCapIgnored⟩,
      fun q hq he ho => ⟨_, rfl, ?baseKept⟩, fun q hq he ho => ⟨_, rfl, ?baseTaken, ?baseMem⟩, fun q hq ho => ?notOwner,
      fun q hq ho he hv hf hd2 => ⟨_, rfl, ?enable⟩, fun h => ?controlBlock, fun r d p h => ?shadowVirtual, ?shadow⟩
    case wdogZero => rw [writeRegister_wdog_zero h]
    case wdog => rw [writeRegister_wdog h]
    case timeout =>
      rintro rfl h1 h2
      rw [writeRegister_timeout h1 h2]
    case timeoutIgnored => rw [writeRegister_timeout_ignored h]
    case pwrCap =>
      rintro rfl h1 h2
      rw [writeRegister_pwrCap h1 h2]
    case pwrCapIgnored => rw [writeRegister_pwrCap_ignored h]
    case baseKept => rw [writeRegister_lqBase hq ho, queue_writeLqBase_base, if_pos he]
    case baseTaken => rw [writeRegister_lqBase hq ho, queue_writeLqBase_base, he, if_neg Bool.false_ne_true]
    case baseMem => rw [writeRegister_lqBase hq ho, writeLqBase, State.mem_modQueue]
    case notOwner => rw [(writeRegister_lq_not_owner ho).1, (writeRegister_lq_not_owner ho).2, and_self]
    case enable =>
      subst ho
      rw [writeRegister_lqCfg hq rfl, queue_writeLqCfg_enable he hv hf hd2]
      exact ⟨rfl, rfl, rfl⟩
    case controlBlock =>
      obtain ⟨hOwn, hAllow, hRing⟩ := writeRegister_controlBlock_virtual (s := s) (v := v) h
      simp only [hOwn, hAllow, hRing, implies_true, and_self]
    case shadowVirtual => rw [writeRegister_shadow_virtual h]
    case shadow =>
      rintro r d p rfl hr hd hp
      rw [writeRegister_shadow hr hd hp]
  case registersInRecovery =>
    refine ⟨fun q => ⟨?_, ?_, ?_⟩, fun p i => ⟨?_, ?_, ?_⟩, ?_, fun hn h => ?wdog⟩
    case wdog => rw [exec_registerWrite hn rfl, writeRegister_wdog h]
    all_goals exact exec_registerWrite_recovery hd rfl
  case bar0 =>
    exact ⟨bar0Word_lqkick n, bar0Word_virtual, rfl, rfl,
      fun h => ⟨featcap_recovery false h, featcap_recovery true h, bar0Word_recovery n h⟩, bar0Word_monitor⟩
  case bar2 =>
    refine ⟨exec_bar2Access_silent, fun h => ⟨fun t => exec_bar2Access_ok h, ?empty, fun w t => exec_bar2Access_poison h, ?failed,
      fun register t => exec_bar2Access_miss h⟩⟩
    case empty =>
      rintro rfl
      exact exec_bar2Access_ok h (run_bar2_nil p write a s)
    case failed =>
      intro code tval miss t hr
      refine ⟨_, exec_bar2Access_trap h hr, mem_bar2Failed .., pfault_bar2Failed .., ?_, ?_, ?_⟩
      · rw [errcnt7_bar2Failed, BitVec.toNat_ofNat, Nat.mod_eq_of_lt (by omega)]
      · rw [errcnt7_bar2Failed, errcnt_bar2Failed]
      · rintro rfl
        exact lastRead_bar2Failed ..

end Sys2Proof.Machine
end

section
/-! SUPPORT. How an encoded instruction comes to its body: every one is issued under its own predicate, and the statement about
predicates and decode checks (R37, R38, R71). -/

namespace Sys2Proof.Machine

open Sys2Proof.Claims

/-- Every encoded instruction is the issue of a body of its own under its PRED and PNEG (R37, R38). -/
theorem exec_issues {i : Instr} {p : BitVec 3} {n : BitVec 1} (h : guardOf i = some (p, n)) :
    ∃ body, ∀ s, exec i s = issue i p n body s := by
  cases i with
  | nop f => cases h; exact ⟨pure .fall, fun _ => rfl⟩
  | nop96 f => cases h; exact ⟨pure .fall, fun _ => rfl⟩
  | nop128 f => cases h; exact ⟨pure .fall, fun _ => rfl⟩
  | _ => cases h <;> exact ⟨_, fun _ => rfl⟩

/-- An encoded instruction whose predicate does not hold is over with no effect (R38). -/
theorem exec_nullified {s : State} {i : Instr} {p : BitVec 3} {n : BitVec 1} (g : guardOf i = some (p, n))
    (hs : pairStalled s s.focus = false) (hd : decodeOk s s.focus i = true) (hp : predHolds (s.seq s.focus) p n = false) :
    exec i s = .next (setPc s.focus (nextPc s s.focus i) (retire (isPaired s s.focus) s.focus (issued s))) := by
  obtain ⟨body, hb⟩ := exec_issues g
  rw [hb, issue_nullified hs hd hp]

/-- An encoded instruction that fails a decode check raises 0x01 whatever its predicate (R71). -/
theorem exec_illegal {s : State} {i : Instr} {g : BitVec 3 × BitVec 1} (hg : guardOf i = some g)
    (hs : pairStalled s s.focus = false) (hd : decodeOk s s.focus i = false) : exec i s = traps s i 0x01 (lowBits i) := by
  obtain ⟨body, hb⟩ := exec_issues hg
  rw [hb, issue_illegal hs hd]

theorem exec_unassignedOpcode (w : BitVec 128) (s : State) :
    exec (.unassignedOpcode w) s = .next (raiseTrap s.focus 0x01 (w.setWidth 64) none
      ((s.seq s.focus).pc + BitVec.ofNat 64 (wordLength (w.setWidth 32))) s) := rfl

theorem exec_illegalFormat (w : BitVec 32) (s : State) :
    exec (.illegalFormat w) s = .next (raiseTrap s.focus 0x02 (w.setWidth 64) none
      ((s.seq s.focus).pc + BitVec.ofNat 64 (wordLength w)) s) := rfl

/-- Settles O9: every encoded instruction is an issue, which makes its decode checks before it looks at its predicate. -/
theorem predicatesAndDecodeChecks : Obligations.PredicatesAndDecodeChecks := by
  unfold Obligations.PredicatesAndDecodeChecks
  exact ⟨fun s i p n => exec_nullified, fun s =>
    ⟨fun i g => exec_illegal, fun w => ⟨_, exec_unassignedOpcode w s⟩, fun w => ⟨_, exec_illegalFormat w s⟩⟩⟩

end Sys2Proof.Machine
end

section
/-! SUPPORT. The integer instructions of opcodes 0x01 to 0x18: every row of `intRow` issues one body, and what that body does with
register, constant and immediate operands and with operands in general (R35, R36, R39, R40, R57, R64, R75, R76, R82). -/

namespace Sys2Proof.Machine

open Sys2Proof.Claims

section IntegerRows
variable {s t : State} {i : Instr} {r : IntRow} (hr : intRow i = some r)
include hr

/-- Both forms of an integer instruction issue the body of its row. -/
theorem exec_intRow (s : State) :
    exec i s = issue i r.f.base.pred r.f.base.pneg (intBody r.n r.ty r.op r.f) s := by
  cases i <;> cases hr <;> rfl

/-- An integer instruction has one to three sources. -/
theorem intRow_sources : 1 ≤ r.n ∧ r.n ≤ 3 := by
  cases i <;> cases hr <;> simp

/-- An integer instruction that is ready and whose body runs falls through to the next one. -/
theorem exec_intRow_falls (h : Ready s i r.f.base.pred r.f.base.pneg)
    (hb : (intBody r.n r.ty r.op r.f).run (issued s) = .ok .fall t) : exec i s = falls s i t := by
  rw [exec_intRow hr, issue_runs h hb, falls]

end IntegerRows

section IntegerBody
variable {n ty : Nat} {op : IntOp} {f : F96Q} {u t v : State}

/-- The scalar class: the waits, the sources, then the destination. -/
theorem run_intBody_scalar {a b c : Word} (hv : f.base.isVec = false)
    (hw : (queueWaits (operands n f false false false false false)).run u = .ok () u)
    (hs : (useABC n ty f).run u = .ok (a, b, c) t)
    (hd : (putDest f.base.d.toNat f.wd (extend ty (op ty f.base.fn5 a.toNat b.toNat c.toNat)) false).run t = .ok () v) :
    (intBody n ty op f).run u = .ok .fall v := by
  simp only [intBody, hv, Bool.false_eq_true, if_false, EStateM.run_bind, hw, hs, hd, EStateM.run_pure]

/-- The vector class: the waits, the sources, then the destination (R57, R76). -/
theorem run_intBody_vector {a b c : VReg} (hv : f.base.isVec = true)
    (hw : (queueWaits (operands n f false true true true true)).run u = .ok () u)
    (hs : (useVABC n ty f).run u = .ok (a, b, c) t)
    (hd : (putVDest f.base.d.toNat f.wd (buildElements (tyWidth ty) (fun j =>
      op ty f.base.fn5 (element a (tyWidth ty) j) (element b (tyWidth ty) j) (element c (tyWidth ty) j))) 0).run t = .ok () v) :
    (intBody n ty op f).run u = .ok .fall v := by
  simp only [intBody, hv, if_true, EStateM.run_bind, hw, hs, hd, EStateM.run_pure]

end IntegerBody

/-- Settles O12: the row's body with sources that are no queue and no stream and a register for D. -/
theorem integerResults : Obligations.IntegerResults := by
  unfold Obligations.IntegerResults
  refine ⟨fun s i r a b c => ?scalar, fun s i r a b c => ?vector⟩ <;> intro f d
  case scalar =>
    intro hr h hv hs hd hf
    obtain ⟨h1, h3⟩ := intRow_sources hr
    exact exec_intRow_falls hr h
      (run_intBody_scalar hv (waits_scalar h1 h3 hs hd) (run_useABC hs) (run_putDest _ _ _ hd hf))
  case vector =>
    intro w hr h hv hs hd hf
    obtain ⟨h1, h3⟩ := intRow_sources hr
    exact exec_intRow_falls hr h
      (run_intBody_vector hv (waits_vector h1 h3 hs hd) (run_useVABC hs) (run_putVDest _ _ _ hd hf))

/-- Settles O23: the row's body over whatever its sources and its destination do. -/
theorem integerOperandsInEveryForm : Obligations.IntegerOperandsInEveryForm := by
  unfold Obligations.IntegerOperandsInEveryForm
  intro s t v i r a b c f hr h hv hw hs hd
  exact exec_intRow_falls hr h (run_intBody_scalar hv hw hs hd)

end Sys2Proof.Machine
end

section
/-! SUPPORT. What a register write of the sequencer in focus leaves (R35, R37, R75, R276): the registers of one sequencer after a
write, the units of the state around that sequencer, and the statement about both. -/

namespace Sys2Proof.Machine

open Sys2Proof.Claims

/-! ## Marks -/

section Marks
variable {w : Nat} (m : BitVec w) {n j : Nat} (b : Bool)

/-- A word of marks with mark `n` set or cleared. -/
def withMark (n : Nat) : BitVec w := if b then m ||| (1#w <<< n) else m &&& ~~~(1#w <<< n)

theorem getLsbD_withMark_same (h : n < w) : (withMark m b n).getLsbD n = b := by
  cases b <;> simp [withMark, h]

theorem getLsbD_withMark_other (h : j ≠ n) : (withMark m b n).getLsbD j = m.getLsbD j := by
  have hne : (1#w <<< n).getLsbD j = false := by
    simp only [BitVec.getLsbD_shiftLeft, BitVec.getLsbD_one]
    by_cases hj : j < n
    · simp [hj]
    · simp [show j - n ≠ 0 by omega]
  cases b
  · simp only [withMark, Bool.false_eq_true, if_false, BitVec.getLsbD_and, BitVec.getLsbD_not, hne, Bool.not_false, Bool.and_true]
    by_cases hj : j < w
    · simp [hj]
    · simp [BitVec.getLsbD_of_ge, Nat.le_of_not_lt hj]
  · simp [withMark, hne]

end Marks

/-! ## The registers of one sequencer -/

theorem getD_setIfInBounds_other {α : Type} {k : Nat} (xs : Vector α k) {n j : Nat} (v d : α) (h : j ≠ n) :
    (xs.setIfInBounds n v).getD j d = xs.getD j d := by
  simp only [Vector.getD, Array.getD_eq_getD_getElem?, Vector.toArray_setIfInBounds, Array.getElem?_setIfInBounds_ne (Ne.symm h)]

theorem getD_setIfInBounds_same {α : Type} {k : Nat} (xs : Vector α k) {n : Nat} (v d : α) (h : n < k) :
    (xs.setIfInBounds n v).getD n d = v := by
  simp [Vector.getD, h]

section SeqRegisters
variable (q : Seq) {n j : Nat} (v : Word) (w : VReg) (m : Bool) (k : BitVec 32) (b : Bool)

theorem Seq.setX_eq (h0 : n ≠ 0) : q.setX n v m = { q with xs := q.xs.setIfInBounds n v, xPoison := withMark q.xPoison m n } := by
  rw [Seq.setX, if_neg h0]; rfl

theorem Seq.setP_eq (h0 : n ≠ 0) : q.setP n b = { q with ps := withMark q.ps b n } := by
  rw [Seq.setP, if_neg h0]; rfl

theorem Seq.x_setX_same (h0 : n ≠ 0) (h : n < 32) : (q.setX n v m).x n = v := by
  rw [Seq.setX_eq q v m h0, Seq.x, if_neg h0]
  exact getD_setIfInBounds_same _ _ _ h

theorem Seq.x_setX_other (h : j ≠ n) : (q.setX n v m).x j = q.x j := by
  by_cases h0 : n = 0
  · rw [Seq.setX, if_pos h0]
  · rw [Seq.setX_eq q v m h0, Seq.x, Seq.x]
    exact congrArg (ite _ _) (getD_setIfInBounds_other _ _ _ h)

theorem Seq.xPoison_setX_same (h0 : n ≠ 0) (h : n < 32) : (q.setX n v m).xPoison.getLsbD n = m := by
  rw [Seq.setX_eq q v m h0]
  exact getLsbD_withMark_same _ _ h

theorem Seq.xPoison_setX_other (h0 : n ≠ 0) (h : j ≠ n) : (q.setX n v m).xPoison.getLsbD j = q.xPoison.getLsbD j := by
  rw [Seq.setX_eq q v m h0]
  exact getLsbD_withMark_other _ _ h

theorem Seq.v_setV_same (h : n < 32) : (q.setV n w k).v n = w := getD_setIfInBounds_same _ _ _ h

theorem Seq.v_setV_other (h : j ≠ n) : (q.setV n w k).v j = q.v j := getD_setIfInBounds_other _ _ _ h

theorem Seq.vPoison_setV_same (h : n < 32) : (q.setV n w k).vPoison.getD n 0 = k := getD_setIfInBounds_same _ _ _ h

theorem Seq.vPoison_setV_other (h : j ≠ n) : (q.setV n w k).vPoison.getD j 0 = q.vPoison.getD j 0 :=
  getD_setIfInBounds_other _ _ _ h

theorem Seq.p_setP_same (h0 : n ≠ 0) (h : n < 8) : (q.setP n b).p n = b := by
  rw [Seq.setP_eq q b h0, Seq.p, getLsbD_withMark_same _ _ h]
  simp [h0]

theorem Seq.p_setP_other (h0 : n ≠ 0) (h : j ≠ n) : (q.setP n b).p j = q.p j := by
  rw [Seq.setP_eq q b h0, Seq.p, Seq.p, getLsbD_withMark_other _ _ h]

end SeqRegisters

/-! ## The units around a sequencer -/

section Units
variable (s : State) (q : SeqId) (f : Seq → Seq) (n : Nat)

/-- A change of a sequencer leaves of every tile what is not one of its sequencers. -/
theorem tile_modSeq :
    (s.modSeq q f).tile n = { s.tile n with a := ((s.modSeq q f).tile n).a, x := ((s.modSeq q f).tile n).x } := by
  cases q with
  | m c => rfl
  | s c => rfl
  | a t | x t =>
    by_cases h : n = t
    · subst h; simp [State.modSeq]
    · simp [State.modSeq, State.tile_modTile_other _ _ h]

theorem cluster_modSeq : (s.modSeq q f).cluster n = { s.cluster n with svc := ((s.modSeq q f).cluster n).svc } := by
  cases q with
  | s c =>
    by_cases h : n = c
    · subst h; simp [State.modSeq]
    · simp [State.modSeq, State.cluster_modCluster_other _ _ h]
  | _ => rfl

theorem mcore_modSeq : (s.modSeq q f).mcore n = { s.mcore n with m := ((s.modSeq q f).mcore n).m } := by
  cases q with
  | m c =>
    by_cases h : n = c
    · subst h; simp [State.modSeq]
    · simp [State.modSeq, State.mcore_modMCore_other _ _ h]
  | _ => rfl

/-- A change of a sequencer leaves every field of the module but its units. -/
theorem modSeq_eq : s.modSeq q f =
    { s with tiles := (s.modSeq q f).tiles, clusters := (s.modSeq q f).clusters, mcores := (s.modSeq q f).mcores } := by
  cases q <;> rfl

end Units

/-- A change that leaves the firing of the sequencer in focus leaves its part in a pair. -/
theorem role_modSeq {u : State} {f : Seq → Seq} (h : (f (here u)).firing = (here u).firing) :
    role (u.modSeq u.focus f) = role u := by
  have ht : ∀ t, ((u.modSeq u.focus f).tile t).twin = (u.tile t).twin := fun t => by rw [tile_modSeq]
  have hg : isGondola ((u.modSeq u.focus f).seq u.focus) = isGondola (u.seq u.focus) := by
    rw [State.seq_modSeq_same, isGondola, isGondola]
    exact congrArg (fun x => (Option.map Firing.gondola x).getD false) h
  simp only [role, memberOf, State.focus_modSeq, hg, ht]

/-! ## Writes of the sequencer in focus, outside a pair -/

section Writes
variable {u : State} (n : Nat) (v : Word) (w : VReg) (m b : Bool) (k : BitVec 32) (fl : Flags)

theorem noted_alone (bs : List Byte) (h : role u = .alone) : noted bs u = u := if_pos h

@[simp] theorem withX_zero : withX 0 v m u = u := rfl
@[simp] theorem withP_zero : withP 0 b u = u := rfl

variable (h : role u = .alone)
include h

theorem withX_alone {n : Nat} (h0 : n ≠ 0) : withX n v m u = u.modSeq u.focus (fun q => q.setX n v m) := by
  rw [withX, if_neg h0]
  refine noted_alone _ ((role_modSeq ?_).trans h)
  rw [Seq.setX_eq _ _ _ h0]

theorem withV_alone : withV n w k u = u.modSeq u.focus (fun q => q.setV n w k) := noted_alone _ ((role_modSeq rfl).trans h)

theorem withP_alone {n : Nat} (h0 : n ≠ 0) : withP n b u = u.modSeq u.focus (fun q => q.setP n b) := by
  rw [withP, if_neg h0]
  refine noted_alone _ ((role_modSeq ?_).trans h)
  rw [Seq.setP_eq _ _ h0]

end Writes

/-! ## What a write of registers leaves -/

/-- A state that differs from another in registers and flags of its sequencer in focus only. -/
structure RegistersOnly (u t : State) : Prop where
  fields : t = { u with tiles := t.tiles, clusters := t.clusters, mcores := t.mcores }
  seqs : ∀ q, q ≠ u.focus → t.seq q = u.seq q
  tiles : ∀ k, t.tile k = { u.tile k with a := (t.tile k).a, x := (t.tile k).x }
  clusters : ∀ k, t.cluster k = { u.cluster k with svc := (t.cluster k).svc }
  mcores : ∀ k, t.mcore k = { u.mcore k with m := (t.mcore k).m }
  registers : here t = { here u with
    xs := (here t).xs, xPoison := (here t).xPoison, vs := (here t).vs, vPoison := (here t).vPoison, ps := (here t).ps
    fpstat := (here t).fpstat }

theorem RegistersOnly.refl (u : State) : RegistersOnly u u := ⟨rfl, fun _ _ => rfl, fun _ => rfl, fun _ => rfl, fun _ => rfl, rfl⟩

theorem RegistersOnly.modSeq {u : State} {f : Seq → Seq}
    (hf : f (here u) = { here u with
      xs := (f (here u)).xs, xPoison := (f (here u)).xPoison, vs := (f (here u)).vs, vPoison := (f (here u)).vPoison
      ps := (f (here u)).ps, fpstat := (f (here u)).fpstat }) : RegistersOnly u (u.modSeq u.focus f) where
  fields := modSeq_eq ..
  seqs _ := State.seq_modSeq_other _ _
  tiles _ := tile_modSeq ..
  clusters _ := cluster_modSeq ..
  mcores _ := mcore_modSeq ..
  registers := by rw [here_modSeq]; exact hf

section Frame
variable {u : State} (n : Nat) (v : Word) (w : VReg) (m b : Bool) (k : BitVec 32) (fl : Flags) (h : role u = .alone)

theorem registersOnly_withFlags : RegistersOnly u (withFlags fl u) := .modSeq rfl

include h

theorem registersOnly_withX : RegistersOnly u (withX n v m u) := by
  by_cases h0 : n = 0
  · subst h0; exact .refl u
  · rw [withX_alone v m h h0]
    exact .modSeq (by rw [Seq.setX_eq _ _ _ h0])

theorem registersOnly_withV : RegistersOnly u (withV n w k u) := by
  rw [withV_alone n w k h]
  exact .modSeq rfl

theorem registersOnly_withP : RegistersOnly u (withP n b u) := by
  by_cases h0 : n = 0
  · subst h0; exact .refl u
  · rw [withP_alone b h h0]
    exact .modSeq (by rw [Seq.setP_eq _ _ h0])

end Frame

/-- Settles O33: outside a pair a write is one change of the sequencer in focus, whose registers hold what was written. -/
theorem registerWritesFrame : Obligations.RegisterWritesFrame := by
  unfold Obligations.RegisterWritesFrame
  intro u n v w b m k fl hr hn
  refine ⟨withX_zero .., withP_zero .., fun h0 => ?x, ?v, ?vMarks, fun j hj => ?vOthers, fun h0 hp => ?p, ?flags, ?frame⟩
  case x =>
    rw [withX_alone v m hr h0, here_modSeq]
    exact ⟨Seq.x_setX_same _ _ _ h0 hn, Seq.xPoison_setX_same _ _ _ h0 hn,
      fun j hj => ⟨Seq.x_setX_other _ _ _ hj, Seq.xPoison_setX_other _ _ _ h0 hj⟩⟩
  case v => rw [withV_alone n w k hr, here_modSeq]; exact Seq.v_setV_same _ _ _ hn
  case vMarks => rw [withV_alone n w k hr, here_modSeq]; exact Seq.vPoison_setV_same _ _ _ hn
  case vOthers =>
    rw [withV_alone n w k hr, here_modSeq]
    exact ⟨Seq.v_setV_other _ _ _ hj, Seq.vPoison_setV_other _ _ _ hj⟩
  case p =>
    rw [withP_alone b hr h0, here_modSeq]
    exact ⟨Seq.p_setP_same _ _ h0 hp, fun j hj => Seq.p_setP_other _ _ h0 hj⟩
  case flags => exact congrArg Seq.fpstat (here_modSeq ..)
  case frame =>
    intro t ht
    have hf : RegistersOnly u t := by
      obtain rfl | rfl | rfl | rfl := ht
      · exact registersOnly_withX n v m hr
      · exact registersOnly_withV n w k hr
      · exact registersOnly_withP n b hr
      · exact registersOnly_withFlags fl
    exact ⟨hf.fields, hf.seqs, hf.tiles, hf.clusters, hf.mcores, hf.registers⟩

end Sys2Proof.Machine
end

section
/-! SUPPORT. Branches, jumps and the branch-outcome queues: what each body does, and the statement about them (R44, R111, R341,
R346, R382). -/

namespace Sys2Proof.Machine

open Sys2Proof.Claims

/-! ## Ends of an instruction -/

@[simp] theorem keepFindings_self (t : State) : keepFindings t t = t := rfl

/-- A body that raises a cause before it changes anything leaves the state at the issue to the trap. -/
theorem issue_traps_unchanged {s : State} {i : Instr} {p : BitVec 3} {n : BitVec 1} {body : Exec Flow} {c : Byte} {v : Word}
    (h : Ready s i p n) (hb : body.run (issued s) = .error (.trap c v none) (issued s)) (hc : c ≠ 0x01) :
    issue i p n body s = traps s i c v := by
  rw [issue_traps h hb, if_neg hc, keepFindings_self, traps]

/-- Where a branch goes: its target or on (R44). -/
def branchFlow (f : F64B) (u : State) (taken : Bool) : Flow :=
  if taken then .jump ((here u).pc + (f.disp34.signExtend 64 <<< 2)) else .fall

theorem run_branch (f : F64B) (u : State) (taken : Bool) :
    (if taken then (do return .jump (← branchTarget f)) else return .fall : Exec Flow).run u = .ok (branchFlow f u taken) u := by
  cases taken <;> rfl

/-- A branch whose body runs is over at its target or falls. -/
theorem issue_branches {s t : State} {i : Instr} {p : BitVec 3} {n : BitVec 1} {body : Exec Flow} {f : F64B} {taken : Bool}
    (h : Ready s i p n) (hb : body.run (issued s) = .ok (branchFlow f t taken) t) :
    issue i p n body s =
      if taken then jumps s i ((here t).pc + (f.disp34.signExtend 64 <<< 2)) t else falls s i t := by
  rw [issue_runs h hb]
  cases taken <;> rfl

/-! ## B (R341) -/

section B
variable {f : F64B} {u : State}

theorem run_bBody_always (hc : f.cc = 6) : (bBody f).run u = .ok (branchFlow f u true) u := by
  simp only [bBody, hc, EStateM.run_bind, run_mySeq]
  exact run_branch f u true

theorem run_bBody_predicate (hc : f.cc = 7) : (bBody f).run u = .ok (branchFlow f u ((here u).p f.a.toNat)) u := by
  simp only [bBody, hc, EStateM.run_bind, run_mySeq]
  exact run_branch f u _

theorem run_bBody_notPredicate (hc : f.cc = 8) : (bBody f).run u = .ok (branchFlow f u (!(here u).p f.a.toNat)) u := by
  simp only [bBody, hc, EStateM.run_bind, run_mySeq]
  exact run_branch f u _

/-- A comparison reads both registers and changes nothing. -/
theorem run_bBody_compare (hc : f.cc.toNat < 6) (ha : xOk u f.a.toNat = true) (hb : xOk u f.b.toNat = true) :
    (bBody f).run u = .ok (branchFlow f u (branchHolds f.cc.toNat ((here u).x f.a.toNat) ((here u).x f.b.toNat))) u := by
  simp only [bBody, EStateM.run_bind, run_mySeq]
  split
  iterate 3 omega
  simp only [EStateM.run_bind, run_useX ha, run_useX hb, EStateM.run_pure]
  exact run_branch f u _

end B

theorem exec_b (f : F64B) (s : State) : exec (.b f) s = issue (.b f) f.pred f.pneg (bBody f) s := rfl

/-- B of a comparison goes where the comparison says. -/
theorem exec_b_compare {s : State} {f : F64B} {taken : Bool} (h : Ready s (.b f) f.pred f.pneg) (hc : f.cc.toNat < 6)
    (ha : xOk (issued s) f.a.toNat = true) (hb : xOk (issued s) f.b.toNat = true)
    (ht : branchHolds f.cc.toNat ((here (issued s)).x f.a.toNat) ((here (issued s)).x f.b.toNat) = taken) :
    exec (.b f) s = if taken then jumps s (.b f) ((here (issued s)).pc + (f.disp34.signExtend 64 <<< 2)) (issued s)
      else falls s (.b f) (issued s) := by
  subst ht
  rw [exec_b, issue_branches h (run_bBody_compare hc ha hb)]

/-! ## J and JR (R382) -/

theorem exec_j (f : F64I) (s : State) : exec (.j f) s = issue (.j f) f.pred f.pneg (jBody f) s := rfl
theorem exec_jr (f : F64A) (s : State) : exec (.jr f) s = issue (.jr f) f.pred f.pneg (jrBody f) s := rfl

theorem run_jBody {f : F64I} {u : State} (ha : xOk u f.a.toNat = true)
    (h0 : ((here u).x f.a.toNat + f.imm34.signExtend 64).toNat % 4 = 0) :
    (jBody f).run u = .ok (.jump ((here u).x f.a.toNat + f.imm34.signExtend 64)) u := by
  simp only [jBody, EStateM.run_bind, run_useX ha, run_check, h0, decide_true, if_true, EStateM.run_pure]

theorem run_jBody_misaligned {f : F64I} {u : State} (ha : xOk u f.a.toNat = true)
    (h0 : ((here u).x f.a.toNat + f.imm34.signExtend 64).toNat % 4 ≠ 0) :
    (jBody f).run u = .error (.trap 0x0A ((here u).x f.a.toNat + f.imm34.signExtend 64) none) u := by
  simp only [jBody, EStateM.run_bind, run_useX ha, run_check, h0, decide_false, Bool.false_eq_true, if_false]

theorem run_jrBody {f : F64A} {u : State} (ha : xOk u f.a.toNat = true) (hd : xFree u f.d.toNat = true)
    (h0 : ((here u).x f.a.toNat).toNat % 4 = 0) :
    (jrBody f).run u = .ok (.jump ((here u).x f.a.toNat)) (withX f.d.toNat ((here u).pc + 8) false u) := by
  simp only [jrBody, EStateM.run_bind, run_useX ha, run_check, h0, decide_true, if_true, run_mySeq, run_putX _ _ hd, EStateM.run_pure]

/-- A target that is no multiple of 4 is found before D is written. -/
theorem run_jrBody_misaligned {f : F64A} {u : State} (ha : xOk u f.a.toNat = true) (h0 : ((here u).x f.a.toNat).toNat % 4 ≠ 0) :
    (jrBody f).run u = .error (.trap 0x0A ((here u).x f.a.toNat) none) u := by
  simp only [jrBody, EStateM.run_bind, run_useX ha, run_check, h0, decide_false, Bool.false_eq_true, if_false]

/-! ## The branch-outcome queues (R111, R346) -/

section Outcomes
variable (t : Nat) (mine : Bool) (l : List Bool) (w : Tile)

@[simp] theorem outcomes_a : outcomes (.a t) mine w = if mine then w.toA else w.toX := by cases mine <;> simp [outcomes, SeqId.kind]
@[simp] theorem outcomes_x : outcomes (.x t) mine w = if mine then w.toX else w.toA := by cases mine <;> simp [outcomes, SeqId.kind]
@[simp] theorem setOutcomes_a :
    setOutcomes (.a t) mine l = if mine then (fun w => { w with toA := l }) else fun w => { w with toX := l } := by
  funext w; cases mine <;> simp [setOutcomes, SeqId.kind]
@[simp] theorem setOutcomes_x :
    setOutcomes (.x t) mine l = if mine then (fun w => { w with toX := l }) else fun w => { w with toA := l } := by
  funext w; cases mine <;> simp [setOutcomes, SeqId.kind]

end Outcomes

theorem home_a {u : State} {t : Nat} (h : u.focus = .a t) : home u = t := by rw [home, h]; rfl
theorem home_x {u : State} {t : Nat} (h : u.focus = .x t) : home u = t := by rw [home, h]; rfl

theorem exec_bopush (f : F64A) (s : State) : exec (.bopush f) s = issue (.bopush f) f.pred f.pneg (bopushBody f) s := rfl
theorem exec_brq (f : F64B) (s : State) : exec (.brq f) s = issue (.brq f) f.pred f.pneg (brqBody f) s := rfl

section OutcomeBodies
variable {u : State}

theorem run_bopushBody {f : F64A} (h : (outcomes u.focus false (u.tile (home u))).length < 64) :
    (bopushBody f).run u = .ok .fall (u.modTile (home u) (fun w =>
      setOutcomes u.focus false (outcomes u.focus false w ++ [(here u).p f.a.toNat]) w)) := by
  simp only [bopushBody, EStateM.run_bind, run_me, run_myTile, run_waitUntil, h, decide_true, if_true, run_mySeq, run_modMyTile,
    EStateM.run_pure]

theorem run_bopushBody_full {f : F64A} (h : 64 ≤ (outcomes u.focus false (u.tile (home u))).length) :
    (bopushBody f).run u = .error (.wait .branch id) u := by
  simp only [bopushBody, EStateM.run_bind, run_me, run_myTile, run_waitUntil, Nat.not_lt.mpr h, decide_false, Bool.false_eq_true,
    if_false]

theorem run_brqBody_empty {f : F64B} (h : outcomes u.focus true (u.tile (home u)) = []) :
    (brqBody f).run u = .error (.wait .branch id) u := by
  simp only [brqBody, EStateM.run_bind, run_me, run_myTile, h, run_waitFor]

/-- The oldest outcome is taken and branches on 1 with CC 7, on 0 with CC 8. -/
theorem run_brqBody {f : F64B} {bit : Bool} {rest : List Bool} (h : outcomes u.focus true (u.tile (home u)) = bit :: rest) :
    (brqBody f).run u = .ok (branchFlow f (u.modTile (home u) (setOutcomes u.focus true rest)) (bit == decide (f.cc = 7)))
      (u.modTile (home u) (setOutcomes u.focus true rest)) := by
  have hcc : (bit = true) = (f.cc.toNat = 7) ↔ (bit == decide (f.cc = 7)) = true := by
    cases bit <;> simp [← BitVec.toNat_inj]
  simp only [brqBody, EStateM.run_bind, run_me, run_myTile, h, run_modMyTile, hcc]
  exact run_branch f _ _

end OutcomeBodies

/-- BRQ at a sequencer whose outcomes are `l`. -/
theorem exec_brq_takes {s : State} {f : F64B} (h : Ready s (.brq f) f.pred f.pneg) :
    let u := issued s
    (outcomes u.focus true (u.tile (home u)) = [] → exec (.brq f) s = .next (recordWait s.focus .branch s)) ∧
    (∀ bit rest, outcomes u.focus true (u.tile (home u)) = bit :: rest →
      let v := u.modTile (home u) (setOutcomes u.focus true rest)
      exec (.brq f) s = if bit = decide (f.cc = 7) then jumps s (.brq f) ((here v).pc + (f.disp34.signExtend 64 <<< 2)) v
        else falls s (.brq f) v) := by
  refine ⟨fun he => ?_, fun bit rest ho => ?_⟩
  · exact (exec_brq f s).trans (issue_waits h (run_brqBody_empty he))
  · simpa only [beq_iff_eq] using (exec_brq f s).trans (issue_branches h (run_brqBody ho))

/-- BOPUSH at a sequencer with room for one more outcome toward the other, and with none. -/
theorem exec_bopush_adds {s : State} {f : F64A} (h : Ready s (.bopush f) f.pred f.pneg) :
    let u := issued s
    ((outcomes u.focus false (u.tile (home u))).length < 64 → exec (.bopush f) s = falls s (.bopush f)
      (u.modTile (home u) (fun w => setOutcomes u.focus false (outcomes u.focus false w ++ [(here u).p f.a.toNat]) w))) ∧
    (64 ≤ (outcomes u.focus false (u.tile (home u))).length → exec (.bopush f) s = .next (recordWait s.focus .branch s)) :=
  ⟨fun hl => (exec_bopush f s).trans (issue_runs h (run_bopushBody hl)),
    fun hl => (exec_bopush f s).trans (issue_waits h (run_bopushBody_full hl))⟩

/-- Settles O34: each body's run, at the sequencer that issues it. -/
theorem branchesAndJumps : Obligations.BranchesAndJumps := by
  unfold Obligations.BranchesAndJumps
  refine ⟨fun s => ⟨fun f h => ?b, fun f h ha => ?j, fun f h ha hd => ?jr⟩,
    fun s t => ⟨fun f hs ha => ?bopushField, fun f hs hf => ?brqField, fun f => exec_nullified rfl, fun f h => ?bopush, fun f h => ?brq⟩⟩
  case b =>
    intro a b x y goes
    refine ⟨fun hc => issue_branches h (run_bBody_always hc), fun hc => issue_branches h (run_bBody_predicate hc),
      fun hc => issue_branches h (run_bBody_notPredicate hc), fun ha hb => ⟨?_, ?_, ?_, ?_, ?_, ?_⟩⟩
    all_goals
      intro hc
      refine exec_b_compare h (by rw [hc]; decide) ha hb ?_
      rw [hc]
    case refine_1 => exact beq_eq_decide ..
    case refine_2 => exact (congrArg not (beq_eq_decide ..)).trans (decide_not ..).symm
    case refine_3 => rfl
    case refine_4 => exact (decide_not ..).symm.trans (decide_eq_decide.mpr Int.not_lt)
    case refine_5 => rfl
    case refine_6 => exact (decide_not ..).symm.trans (decide_eq_decide.mpr Nat.not_lt)
  case j =>
    exact ⟨fun h0 => issue_runs h (run_jBody ha h0),
      fun h0 => issue_traps_unchanged h (run_jBody_misaligned ha h0) (by decide)⟩
  case jr =>
    exact ⟨fun h0 => issue_runs h (run_jrBody ha hd h0),
      fun h0 => issue_traps_unchanged h (run_jrBody_misaligned ha h0) (by decide)⟩
  case bopushField =>
    refine exec_illegal rfl hs ?_
    simp [decodeOk, fieldsOk, ARule.ok, roleOk, Nat.not_lt.mpr ha]
  case brqField =>
    refine exec_illegal rfl hs ?_
    simp [decodeOk, fieldsOk, brqOk]
    tauto
  case bopush =>
    have hx := exec_bopush_adds h
    refine ⟨fun hq => ?_, fun hq => ?_⟩
    · simpa only [hq, home_a hq, outcomes_a, setOutcomes_a, Bool.false_eq_true, if_false] using hx
    · simpa only [hq, home_x hq, outcomes_x, setOutcomes_x, Bool.false_eq_true, if_false] using hx
  case brq =>
    have hx := exec_brq_takes h
    refine ⟨fun hq => ?_, fun hq => ?_⟩
    · simpa only [hq, home_a hq, outcomes_a, setOutcomes_a, if_true] using hx
    · simpa only [hq, home_x hq, outcomes_x, setOutcomes_x, if_true] using hx

end Sys2Proof.Machine
end

section
/-! SUPPORT. Operands in queues and streams: the waits of an instruction with one queue operand, what a slot and a stream give,
what a write to a slot leaves, and the statement about MOV with them (R39, R40, R106, R163, R275). -/

namespace Sys2Proof.Machine

open Sys2Proof.Claims

/-! ## The state at the issue -/

theorem settleBefore_mem (s : State) (q : SeqId) : (settleBefore s q).mem = s.mem := by
  cases q with
  | m c => rfl
  | _ => simp only [settleBefore]; split <;> rfl

@[simp] theorem mem_issued (s : State) : (issued s).mem = s.mem := by
  simp only [issued, atIssue, State.mem_modSeq, settleBefore_mem]

/-! ## Words -/

theorem ofBytes_lt (bs : List Byte) : ofBytes bs < 256 ^ bs.length := by
  induction bs with
  | nil => simp [ofBytes]
  | cons b bs ih =>
    have := b.isLt
    rw [ofBytes, List.length_cons, Nat.pow_succ]
    omega

/-- Up to 8 bytes fit a word. -/
theorem toNat_ofNat_ofBytes {bs : List Byte} (h : bs.length ≤ 8) : (BitVec.ofNat 64 (ofBytes bs)).toNat = ofBytes bs := by
  rw [BitVec.toNat_ofNat, Nat.mod_eq_of_lt]
  calc ofBytes bs < 256 ^ bs.length := ofBytes_lt bs
    _ ≤ 256 ^ 8 := Nat.pow_le_pow_right (by decide) h
    _ = 2 ^ 64 := by decide

@[simp] theorem poisoned_marked (bs : List Byte) : (marked bs false).poisoned = false := by
  simp [Marked.poisoned, marked]

@[simp] theorem length_toBytes (n v : Nat) : (toBytes n v).length = n := by
  induction n generalizing v with
  | zero => rfl
  | succ n ih => rw [toBytes, List.length_cons, ih]

/-! ## Clean words of a scratchpad -/

section CleanScratch
variable {u : State} {t off : Nat} {bs : List Byte} {p : Bool}

/-- Bytes of a scratchpad lie in no external memory. -/
theorem scratch_bytes_not_external {n : Nat} (hn : off + n ≤ 2 ^ 20) : ∀ i, i < n → isExternal (scratchKey t off + i) = false := by
  intro i hi
  rw [scratch_add]
  exact scratch_not_external (by omega)

/-- A write to clean words corrects nothing first: memory alone changes. -/
theorem withBytes_clean (hn : off + bs.length ≤ 2 ^ 20) (hc : Claims.cleanBytes u.mem (scratchKey t off) bs.length = true) :
    withBytes (scratchKey t off) bs p u = { u with mem := writeMarked u.mem 0 (scratchKey t off) (marked bs p) } := by
  have hl : (marked bs p).length = bs.length := by simp [marked]
  have hcp := correctPart_clean 0 u.mem u.free (scratchKey t off) bs.length (fun i hi =>
    ⟨scratch_bytes_not_external hn i hi, List.all_eq_true.mp hc i (by simpa using hi)⟩)
  rw [withBytes, writeBytes, hl, hcp]
  rfl

/-- A write to a scratchpad leaves every byte that it does not name. -/
theorem byte_withBytes_outside (hn : off + bs.length ≤ 2 ^ 20) (hc : Claims.cleanBytes u.mem (scratchKey t off) bs.length = true) {k : Nat}
    (hk : k < scratchKey t off ∨ scratchKey t off + bs.length ≤ k) :
    (withBytes (scratchKey t off) bs p u).mem.byte k = u.mem.byte k := by
  rw [withBytes_clean hn hc]
  exact (byte_writeMarked _ _ _ _ (by simpa [marked] using scratch_bytes_not_external hn) k).trans
    (by rw [bytes_marked, Mem.byte_setBytes_outside _ _ _ hk])

theorem role_withBytes (hn : off + bs.length ≤ 2 ^ 20) (hc : Claims.cleanBytes u.mem (scratchKey t off) bs.length = true) :
    role (withBytes (scratchKey t off) bs p u) = role u := by
  rw [withBytes_clean hn hc]; rfl

/-- A write to a scratchpad by a sequencer in no pair; a tile of this module that it reaches is in none either. -/
theorem run_putScratch_solo (h : Solo u) (ht : t < 2048 → (u.tile t).twin = .alone)
    (hr : State.tileOf u.focus = some t ∨ fenced u t = false)
    (hf : inFlight u u.focus (wordsOf (scratchKey t off) bs.length) = false) (hp : pushesToward u u.focus t = false) :
    (putScratch t off (marked bs p)).run u = .ok () (withBytes (scratchKey t off) bs p u) := by
  have hl : (marked bs p).length = bs.length := by simp [marked]
  have hx : (State.tileOf u.focus != some t && fenced u t) = false := by
    rcases hr with hr | hr <;> simp [hr]
  have hw : writeScratch (inPair u u.focus t) (u.partOf u.focus) (u.gangOf u.focus) t off (marked bs p) u =
      withBytes (scratchKey t off) bs p u := if_neg fun ⟨h1, h2⟩ => h2 (ht h1)
  have hq : (!inFlight u u.focus (wordsOf (scratchKey t off) (marked bs p).length) && !pushesToward u u.focus t) = true := by
    rw [hl, hf, hp]; rfl
  simp only [putScratch, EStateM.run_bind, EStateM.run_get, run_waitUntil]
  rw [hq, if_pos rfl]
  simp only [run_outsideTile_alone t (solo_alone h), Bool.false_eq_true, if_false, hx, EStateM.run_modify, wrote_calm h.2.2, hw]

end CleanScratch

/-! ## Handles -/

/-- A specifier of a queue handle that stands for no request queue of its own (R35, R169). -/
def OrdinaryHandle (u : State) (spec : Nat) : Prop := 32 ≤ spec ∧ spec < 48 ∧ ∀ c, u.focus = .m c → spec ≠ 47

/-- An unbound handle raises 0x0E with the specifier (R128). -/
theorem run_boundQueue_unbound {u : State} {spec : Nat} (hm : ∀ c, u.focus = .m c → spec ≠ 47)
    (hb : (here u).handles.getD (spec - 32) none = none) :
    (boundQueue spec).run u = .error (.trap 0x0E (BitVec.ofNat 64 spec) none) u := by
  have hb' : (u.seq u.focus).handles.getD (spec - 32) none = none := hb
  simp only [boundQueue, EStateM.run_bind, EStateM.run_get]
  cases hf : u.focus <;> rw [hf] at hb' <;> simp only [hb', run_trap]
  case m c => rw [if_neg (hm c hf), run_trap]

/-! ## The waits of one queue operand (R39, R40) -/

/-- Whether an operand names a queue. -/
def QOperand.isQueue (o : QOperand) : Bool := 32 ≤ o.spec && o.spec < 48

/-- Whether a queue has what an operand's wait byte asks for. -/
def QOperand.ready (o : QOperand) (q : Queue) : Bool :=
  if o.isDest then (waitOf o.wait).2 ≤ q.free else (waitOf o.wait).2 ≤ q.filled

section Waits
variable {u : State} {ops rest : List QOperand} {o : QOperand}

/-- The first queue operand that is unbound stops the instruction. -/
theorem run_queueWaits_unbound (hq : ops.filter QOperand.isQueue = o :: rest) (hm : ∀ c, u.focus = .m c → o.spec ≠ 47)
    (hb : (here u).handles.getD (o.spec - 32) none = none) :
    (queueWaits ops).run u = .error (.trap 0x0E (BitVec.ofNat 64 o.spec) none) u := by
  have hq' : ops.filter (fun o => decide (32 ≤ o.spec) && decide (o.spec < 48)) = o :: rest := hq
  simp only [queueWaits, hq', List.forIn_cons, EStateM.run_bind, run_boundQueue_unbound hm hb]

section Bound
variable {t base : Nat} (hs : Solo u) (hq : ops.filter QOperand.isQueue = [o]) (hv : o.vector = false)
  (hm : ∀ c, u.focus = .m c → o.spec ≠ 47) (hb : (here u).handles.getD (o.spec - 32) none = some (.tile t base))
include hs hq hv hm hb

theorem run_queueWaits_poison (hp : (seenQueue u (.tile t base)).poison = true) :
    (queueWaits ops).run u = .error (.poison 0) u := by
  have hq' : ops.filter (fun o => decide (32 ≤ o.spec) && decide (o.spec < 48)) = [o] := hq
  simp only [queueWaits, hq', List.forIn_cons, List.forIn_nil, EStateM.run_bind, run_boundQueue_solo hs hm hb, EStateM.run_get, run_check,
    hv, Bool.not_false, Bool.true_or, if_true, EStateM.run_pure, useQueue, hp, run_consumed]

theorem run_queueWaits_single {b : Bool} (hp : (seenQueue u (.tile t base)).poison = false)
    (hr : o.ready (seenQueue u (.tile t base)) = b) :
    (queueWaits ops).run u = if b then .ok () u else .error (.wait .queue id) u := by
  have hq' : ops.filter (fun o => decide (32 ≤ o.spec) && decide (o.spec < 48)) = [o] := hq
  simp only [QOperand.ready] at hr
  simp only [queueWaits, hq', List.forIn_cons, List.forIn_nil, EStateM.run_bind, run_boundQueue_solo hs hm hb, EStateM.run_get, run_check,
    hv, Bool.not_false, Bool.true_or, if_true, EStateM.run_pure, run_useQueue hp, run_echoedQueue_alone (solo_alone hs), Bool.false_or,
    run_waitUntil, hr]
  cases b <;> rfl

end Bound
end Waits

/-! ## A slot as a source and as a destination (R40, R106) -/

/-- A register as a source gives its value with its mark, poisoned or not. -/
theorem run_source_register {u : State} {ty spec : Nat} {imm : BitVec 16} {w : BitVec 8} (hn : spec < 32) (h : xFree u spec = true) :
    (source ty spec imm w).run u = .ok ⟨(here u).x spec, spec != 0 && (here u).xPoison.getLsbD spec, 0⟩ u := by
  simp only [source, hn, if_true, EStateM.run_bind, run_getX h, EStateM.run_pure]

section Slots
variable {u : State} {spec t base : Nat} {w : BitVec 8} (hs : Solo u) (ho : OrdinaryHandle u spec)
  (hb : (here u).handles.getD (spec - 32) none = some (.tile t base))
include hs ho hb

/-- A slot of clean words gives the 8 bytes at its offset from C. -/
theorem run_source_slot {ty : Nat} {imm : BitVec 16} {off : Nat}
    (hoff : base + (seenQueue u (.tile t base)).slotOffset (seenQueue u (.tile t base)).c (waitOf w).1 = off)
    (hn : off + 8 ≤ 2 ^ 20) (hr : State.tileOf u.focus = some t ∨ fencedKey u (scratchKey t off) = false)
    (hf : inFlight u u.focus (wordsOf (scratchKey t off) 8) = false) (hp : pushesToward u u.focus t = false)
    (hc : Claims.cleanBytes u.mem (scratchKey t off) 8 = true) :
    ∃ a, (source ty spec imm w).run u = .ok ⟨BitVec.ofNat 64 (wordAt u.mem (scratchKey t off) 8), false, a⟩ u := by
  obtain ⟨h32, h48, hm⟩ := ho
  have ht := run_takeScratch (solo_alone hs) (by omega) hn hr hf hp hs.2.2 hc
  simp only [source, Nat.not_lt.mpr h32, h48, if_false, if_true, EStateM.run_bind, run_boundQueue_solo hs hm hb, EStateM.run_get,
    readSlot, hoff, ht, EStateM.run_pure, bytes_marked, poisoned_marked, wordAt]
  exact ⟨_, rfl⟩

/-- A destination slot takes the 8 bytes at its offset from P. -/
theorem run_putDest_slot {v : Word} {p : Bool} {off : Nat}
    (hoff : base + (seenQueue u (.tile t base)).slotOffset (seenQueue u (.tile t base)).p (waitOf w).1 = off)
    (ht : t < 2048 → (u.tile t).twin = .alone) (hn : off + 8 ≤ 2 ^ 20)
    (hr : State.tileOf u.focus = some t ∨ fenced u t = false)
    (hf : inFlight u u.focus (wordsOf (scratchKey t off) 8) = false) (hp : pushesToward u u.focus t = false)
    (hc : Claims.cleanBytes u.mem (scratchKey t off) 8 = true) :
    (putDest spec w v p).run u = .ok () (withBytes (scratchKey t off) (toBytes 8 v.toNat) p u) := by
  obtain ⟨h32, h48, hm⟩ := ho
  have hl := length_toBytes 8 v.toNat
  have hw := run_putScratch_solo (p := p) (bs := toBytes 8 v.toNat) hs ht hr (by rw [hl]; exact hf) hp
  have hx := noted_alone (BitVec.ofNat 8 spec :: toBytes 8 v.toNat)
    ((role_withBytes (p := p) (bs := toBytes 8 v.toNat) (by rw [hl]; exact hn) (by rw [hl]; exact hc)).trans (solo_alone hs))
  simp only [putDest, Nat.not_lt.mpr h32, if_false, EStateM.run_bind, run_boundQueue_solo hs hm hb, EStateM.run_get, writeSlot,
    writeSlotAt, hoff, Nat.add_zero, hw, run_takeIn, hx]

end Slots

/-! ## Streams (R163) -/

section Streams
variable {u : State} {k n c : Nat}

theorem run_takeStream_unbound (h : ((here u).sds.getD k Stream.reset).bound = false) :
    (takeStream k n c).run u = .error (.trap 0x15 0 none) u := by
  simp only [takeStream, EStateM.run_bind, run_mySeq, run_check, h, Bool.false_eq_true, if_false]

theorem run_takeStream_short (h : ((here u).sds.getD k Stream.reset).bound = true)
    (hn : ((here u).sds.getD k Stream.reset).fifo.length < n) : (takeStream k n c).run u = .error (.wait .queue id) u := by
  simp only [takeStream, EStateM.run_bind, run_mySeq, run_check, h, if_true, run_waitUntil, Nat.not_le.mpr hn, decide_false,
    Bool.false_eq_true, if_false]

/-- A stream register with `n` bytes and `c` elements taken. -/
def Stream.taken (r : Stream) (n c : Nat) : Stream :=
  { r with fifo := r.fifo.drop n, left := r.left - c, bound := (r.left - c) != 0 }

theorem run_takeStream (h : ((here u).sds.getD k Stream.reset).bound = true)
    (hn : n ≤ ((here u).sds.getD k Stream.reset).fifo.length) :
    (takeStream k n c).run u = .ok (((here u).sds.getD k Stream.reset).fifo.take n)
      (u.modSeq u.focus (fun q => { q with sds := q.sds.setIfInBounds k (((here u).sds.getD k Stream.reset).taken n c) })) := by
  simp only [takeStream, EStateM.run_bind, run_mySeq, run_check, h, if_true, run_waitUntil, hn, decide_true, run_modMe,
    EStateM.run_pure, Stream.taken]

/-! ### A stream register as a source: one element of its type -/

section Source
variable {ty spec : Nat} {imm : BitVec 16} {w : BitVec 8} {r : Stream} (h48 : 48 ≤ spec) (h56 : spec < 56)
  (hr : (here u).sds.getD (spec - 48) Stream.reset = r)
include h48 h56 hr

theorem run_source_stream_unbound (h : r.bound = false) :
    (source ty spec imm w).run u = .error (.trap 0x15 0 none) u := by
  subst hr
  simp only [source, Nat.not_lt.mpr h48, Nat.not_lt.mpr (Nat.le_trans (by decide) h48 : 32 ≤ spec), h56, if_true, if_false,
    EStateM.run_bind, run_mySeq, run_takeStream_unbound h]

theorem run_source_stream_short (h : r.bound = true) (hn : r.fifo.length < tyWidth r.ty.toNat / 8) :
    (source ty spec imm w).run u = .error (.wait .queue id) u := by
  subst hr
  simp only [source, Nat.not_lt.mpr h48, Nat.not_lt.mpr (Nat.le_trans (by decide) h48 : 32 ≤ spec), h56, if_true, if_false,
    EStateM.run_bind, run_mySeq, run_takeStream_short h hn]

theorem run_source_stream (h : r.bound = true) {n : Nat} (ht : tyWidth r.ty.toNat / 8 = n) (hn : n ≤ r.fifo.length) :
    (source ty spec imm w).run u =
      .ok ⟨extend r.ty.toNat (ofBytes ((r.fifo.take n).map (·.1))), (r.fifo.take n).any (·.2), 0⟩
        (u.modSeq u.focus (fun q => { q with sds := q.sds.setIfInBounds (spec - 48) (r.taken n 1) })) := by
  subst hr ht
  simp only [source, Nat.not_lt.mpr h48, Nat.not_lt.mpr (Nat.le_trans (by decide) h48 : 32 ≤ spec), h56, if_true, if_false,
    EStateM.run_bind, run_mySeq, run_takeStream h hn, EStateM.run_pure]

end Source

end Streams

/-! ## MOV -/

section Mov
variable {f : F96Q} {u t v : State}

theorem run_movBody (hv : f.base.isVec = false) {a : Src}
    (hw : (queueWaits (operands 1 f false false false false false)).run u = .ok () u)
    (hs : (source f.base.ty.toNat f.base.a.toNat f.base.imm16 f.wa).run u = .ok a t)
    (hd : (putDest f.base.d.toNat f.wd (extend f.base.ty.toNat a.val.toNat) a.poison).run t = .ok () v) :
    (movBody f).run u = .ok .fall v := by
  simp only [movBody, hv, EStateM.run_bind, hw, Bool.false_eq_true, if_false, hs, hd, EStateM.run_pure]

theorem run_movBody_waits_stop (hv : f.base.isVec = false) {e : Stop}
    (hw : (queueWaits (operands 1 f false false false false false)).run u = .error e u) : (movBody f).run u = .error e u := by
  simp only [movBody, hv, EStateM.run_bind, hw]

theorem run_movBody_source_stop (hv : f.base.isVec = false) {e : Stop}
    (hw : (queueWaits (operands 1 f false false false false false)).run u = .ok () u)
    (hs : (source f.base.ty.toNat f.base.a.toNat f.base.imm16 f.wa).run u = .error e u) : (movBody f).run u = .error e u := by
  simp only [movBody, hv, EStateM.run_bind, hw, Bool.false_eq_true, if_false, hs]

/-- The queue operands of MOV: A if it names a queue, then D if it does. -/
theorem queues_of_mov_source (ha : 32 ≤ f.base.a.toNat ∧ f.base.a.toNat < 48) :
    (operands 1 f false false false false false).filter QOperand.isQueue =
      ⟨f.base.a.toNat, f.wa, false, false⟩ :: [⟨f.base.d.toNat, f.wd, true, false⟩].filter QOperand.isQueue :=
  List.filter_cons_of_pos (by simp [QOperand.isQueue, ha])

theorem queues_of_mov_register (ha : f.base.a.toNat < 32) :
    (operands 1 f false false false false false).filter QOperand.isQueue =
      [⟨f.base.d.toNat, f.wd, true, false⟩].filter QOperand.isQueue :=
  List.filter_cons_of_neg (by simp [QOperand.isQueue]; omega)

theorem queues_of_register (hd : f.base.d.toNat < 32) :
    [(⟨f.base.d.toNat, f.wd, true, false⟩ : QOperand)].filter QOperand.isQueue = [] :=
  List.filter_cons_of_neg (by simp [QOperand.isQueue]; omega)

theorem queues_of_slot (hd : 32 ≤ f.base.d.toNat ∧ f.base.d.toNat < 48) :
    [(⟨f.base.d.toNat, f.wd, true, false⟩ : QOperand)].filter QOperand.isQueue = [⟨f.base.d.toNat, f.wd, true, false⟩] :=
  List.filter_cons_of_pos (by simp [QOperand.isQueue, hd])

end Mov

theorem exec_movQw (f : F96Q) (s : State) :
    exec (.movQw f) s = issue (.movQw f) f.base.pred f.base.pneg (movBody f) s := rfl
theorem exec_mov (f : F64A) (s : State) : exec (.mov f) s = issue (.mov f) f.pred f.pneg (movBody (plain f)) s := rfl

/-- MOV from a queue to a register: the queue's waits, then the slot at C. -/
theorem exec_mov_from_slot {s : State} {f : F96Q} {t base off : Nat} (h : Ready s (.movQw f) f.base.pred f.base.pneg)
    (hv : f.base.isVec = false) (hs : Solo (issued s)) (ha : OrdinaryHandle (issued s) f.base.a.toNat) (hd : f.base.d.toNat < 32)
    (hb : (here (issued s)).handles.getD (f.base.a.toNat - 32) none = some (.tile t base)) :
    let u := issued s
    let q := seenQueue u (.tile t base)
    (q.poison = true → exec (.movQw f) s = .next (consumePoison s.focus (noteConsumed s.focus 0 u))) ∧
    (q.poison = false → q.filled < (waitOf f.wa).2 → exec (.movQw f) s = .next (recordWait s.focus .queue s)) ∧
    (q.poison = false → (waitOf f.wa).2 ≤ q.filled → xFree u f.base.d.toNat = true →
      base + q.slotOffset q.c (waitOf f.wa).1 = off → inFlight u u.focus (wordsOf (scratchKey t off) 8) = false →
      pushesToward u u.focus t = false → off + 8 ≤ 2 ^ 20 →
      (State.tileOf u.focus = some t ∨ fencedKey u (scratchKey t off) = false) →
      Claims.cleanBytes u.mem (scratchKey t off) 8 = true →
      exec (.movQw f) s = falls s (.movQw f)
        (withX f.base.d.toNat (extend f.base.ty.toNat (wordAt u.mem (scratchKey t off) 8)) false u)) := by
  obtain ⟨h32, h48, hm⟩ := ha
  have hq := (queues_of_mov_source (f := f) ⟨h32, h48⟩).trans (congrArg _ (queues_of_register hd))
  rw [exec_movQw]
  refine ⟨fun hp => ?poison, fun hp hl => ?short, fun hp hl hx hoff hf hpush hn hr hc => ?filled⟩
  case poison =>
    exact issue_consumes h (run_movBody_waits_stop hv (run_queueWaits_poison hs hq rfl hm hb hp))
  case short =>
    exact issue_waits h (run_movBody_waits_stop hv
      ((run_queueWaits_single hs hq rfl hm hb hp (decide_eq_false (Nat.not_le.mpr hl))).trans rfl))
  case filled =>
    obtain ⟨a, hsrc⟩ := run_source_slot hs ⟨h32, h48, hm⟩ hb hoff hn hr hf hpush hc
    refine issue_runs h (run_movBody hv
      ((run_queueWaits_single hs hq rfl hm hb hp (decide_eq_true hl)).trans rfl) hsrc ?_)
    simp only [wordAt, toNat_ofNat_ofBytes (Nat.le_of_eq (length_bytes _ _ 8))]
    exact run_putDest _ _ _ hd hx

/-- MOV from a register to a queue: the queue's waits, then the slot at P. -/
theorem exec_mov_to_slot {s : State} {f : F96Q} {t base off : Nat} (h : Ready s (.movQw f) f.base.pred f.base.pneg)
    (hv : f.base.isVec = false) (hs : Solo (issued s)) (hd : OrdinaryHandle (issued s) f.base.d.toNat) (ha : f.base.a.toNat < 32)
    (hb : (here (issued s)).handles.getD (f.base.d.toNat - 32) none = some (.tile t base))
    (ht : t < 2048 → ((issued s).tile t).twin = .alone) :
    let u := issued s
    let q := seenQueue u (.tile t base)
    (q.poison = false → q.free < (waitOf f.wd).2 → exec (.movQw f) s = .next (recordWait s.focus .queue s)) ∧
    (q.poison = false → (waitOf f.wd).2 ≤ q.free → xFree u f.base.a.toNat = true →
      base + q.slotOffset q.p (waitOf f.wd).1 = off → inFlight u u.focus (wordsOf (scratchKey t off) 8) = false →
      pushesToward u u.focus t = false → off + 8 ≤ 2 ^ 20 → (State.tileOf u.focus = some t ∨ fenced u t = false) →
      Claims.cleanBytes u.mem (scratchKey t off) 8 = true →
      exec (.movQw f) s = falls s (.movQw f)
        (withBytes (scratchKey t off) (toBytes 8 (extend f.base.ty.toNat ((here u).x f.base.a.toNat).toNat).toNat)
          (f.base.a.toNat != 0 && (here u).xPoison.getLsbD f.base.a.toNat) u)) := by
  obtain ⟨h32, h48, hm⟩ := hd
  have hq := (queues_of_mov_register ha).trans (queues_of_slot (f := f) ⟨h32, h48⟩)
  rw [exec_movQw]
  refine ⟨fun hp hl => ?full, fun hp hl hx hoff hf hpush hn hr hc => ?room⟩
  case full =>
    exact issue_waits h (run_movBody_waits_stop hv
      ((run_queueWaits_single hs hq rfl hm hb hp (decide_eq_false (Nat.not_le.mpr hl))).trans rfl))
  case room =>
    exact issue_runs h (run_movBody hv ((run_queueWaits_single hs hq rfl hm hb hp (decide_eq_true hl)).trans rfl)
      (run_source_register ha hx) (run_putDest_slot hs ⟨h32, h48, hm⟩ hb hoff ht hn hr hf hpush hc))

/-- MOV from a stream register to an x register. -/
theorem exec_mov_from_stream {s : State} {f : F64A} (h : Ready s (.mov f) f.pred f.pneg) (hv : f.isVec = false)
    (h48 : 48 ≤ f.a.toNat) (h56 : f.a.toNat < 56) (hd : f.d.toNat < 32) (hx : xFree (issued s) f.d.toNat = true) :
    let u := issued s
    let k := f.a.toNat - 48
    let r := (here u).sds.getD k Stream.reset
    let n := tyWidth r.ty.toNat / 8
    (r.bound = false → exec (.mov f) s = traps s (.mov f) 0x15 0) ∧
    (r.bound = true → r.fifo.length < n → exec (.mov f) s = .next (recordWait s.focus .queue s)) ∧
    (r.bound = true → n ≤ r.fifo.length →
      exec (.mov f) s = falls s (.mov f)
        (withX f.d.toNat (extend f.ty.toNat (extend r.ty.toNat (ofBytes ((r.fifo.take n).map (·.1)))).toNat)
          ((r.fifo.take n).any (·.2)) (u.modSeq u.focus (fun q => { q with sds := q.sds.setIfInBounds k (r.taken n 1) })))) := by
  have hv' : (plain f).base.isVec = false := hv
  have hq : (decide (32 ≤ f.a.toNat) && decide (f.a.toNat < 48)) = false := by simp only [Nat.not_lt.mpr h48, decide_false, Bool.and_false]
  have hw : (queueWaits (operands 1 (plain f) false false false false false)).run (issued s) = .ok () (issued s) :=
    run_queueWaits_operands _ (Nat.le_refl 1) (by decide) hq (fun h => absurd h (by decide)) (fun h => absurd h (by decide)) hd
  rw [exec_mov]
  refine ⟨fun hb => ?unbound, fun hb hl => ?short, fun hb hl => ?taken⟩
  case unbound =>
    exact issue_traps_unchanged h (run_movBody_source_stop hv' hw (run_source_stream_unbound h48 h56 rfl hb)) (by decide)
  case short =>
    exact issue_waits h (run_movBody_source_stop hv' hw (run_source_stream_short h48 h56 rfl hb hl))
  case taken =>
    refine issue_runs h (run_movBody hv' hw (run_source_stream h48 h56 rfl hb rfl hl) (run_putDest _ _ _ hd ?_))
    rw [← hx]
    simp only [xFree, here_modSeq, plain]

/-- Settles O22: a queue operand's waits come first, then the slot; a stream register is taken from as the source is read. -/
theorem queueAndStreamOperands : Obligations.QueueAndStreamOperands := by
  unfold Obligations.QueueAndStreamOperands
  refine ⟨fun s f h hv => ?queues, fun s f h hv h48 h56 hd hx => exec_mov_from_stream h hv h48 h56 hd hx⟩
  intro u a d ty ordinary hs
  refine ⟨fun ha hb => ?unboundSource, fun ha hd hb => ?unboundDest, fun t base ha hd hb => ?source, fun t base hd ha hb ht => ?dest⟩
  case unboundSource =>
    obtain ⟨h32, h48, hm⟩ := ha
    exact (exec_movQw f s).trans (issue_traps_unchanged h
      (run_movBody_waits_stop hv (run_queueWaits_unbound (queues_of_mov_source ⟨h32, h48⟩) hm hb)) (by decide))
  case unboundDest =>
    obtain ⟨h32, h48, hm⟩ := hd
    exact (exec_movQw f s).trans (issue_traps_unchanged h
      (run_movBody_waits_stop hv (run_queueWaits_unbound ((queues_of_mov_register ha).trans (queues_of_slot ⟨h32, h48⟩)) hm hb))
      (by decide))
  case source =>
    obtain ⟨hpoison, hshort, hfilled⟩ := exec_mov_from_slot h hv hs ha hd hb
    exact ⟨hpoison, hshort, fun hp hl hx hf hpush hn hr hc => hfilled hp hl hx rfl hf hpush hn hr hc⟩
  case dest =>
    obtain ⟨hfull, hroom⟩ := exec_mov_to_slot h hv hs hd ha hb ht
    refine ⟨hfull, fun hp hl hx hf hpush hn hr hc => ⟨hroom hp hl hx rfl hf hpush hn hr hc, fun k hk => ?_⟩⟩
    rw [← mem_issued s]
    exact byte_withBytes_outside (by rw [length_toBytes]; exact hn) (by rw [length_toBytes]; exact hc)
      (by rw [length_toBytes]; exact hk)

end Sys2Proof.Machine
end

section
/-! SUPPORT. Tiles in no pair stay in none (R279): what a full/empty change with its waiters, the containment of poison and the end
of gangs leave of the focus and of the tiles that belong to no pair. -/

namespace Sys2Proof.Machine

open Sys2Proof.Claims

/-- The focus is as before, and every tile that was in no pair is in none. -/
structure KeepsSingles (s t : State) : Prop where
  focus : t.focus = s.focus
  single : ∀ k, (s.tile k).twin = .alone → (t.tile k).twin = .alone

namespace KeepsSingles

theorem refl (s : State) : KeepsSingles s s := ⟨rfl, fun _ h => h⟩

section Steps
variable {s t u : State} (h : KeepsSingles s t)
include h

/-- A change of anything but the focus and the tiles. -/
theorem of_tiles (hf : u.focus = t.focus) (ht : u.tiles = t.tiles) : KeepsSingles s u :=
  ⟨hf.trans h.focus, fun k hk => by rw [State.tile, ht]; exact h.single k hk⟩

/-- A change of the tiles, each by itself. -/
theorem of_mapTiles {f : Tile → Tile} (hu : ∀ w, (f w).twin = w.twin) (hf : u.focus = t.focus)
    (ht : u.tiles = t.tiles.map (fun e => (e.1, f e.2))) : KeepsSingles s u := by
  refine ⟨hf.trans h.focus, fun k hk => ?_⟩
  have hm : ∀ l : Assoc Tile, (Assoc.get Tile.reset (l.map (fun e => (e.1, f e.2))) k).twin = (Assoc.get Tile.reset l k).twin := by
    intro l
    induction l with
    | nil => rfl
    | cons e l ih =>
      simp only [List.map_cons, Assoc.get]
      split
      · exact hu _
      · exact ih
  rw [State.tile, ht, hm]
  exact h.single k hk

theorem modTile (n : Nat) {f : Tile → Tile} (hu : ∀ w, w.twin = .alone → (f w).twin = .alone) : KeepsSingles s (t.modTile n f) := by
  refine ⟨h.focus, fun k hk => ?_⟩
  by_cases e : k = n
  · subst e; rw [State.tile_modTile_same]; exact hu _ (h.single k hk)
  · rw [State.tile_modTile_other _ _ e]; exact h.single k hk

theorem modSeq (q : SeqId) (f : Seq → Seq) : KeepsSingles s (t.modSeq q f) :=
  ⟨(State.focus_modSeq ..).trans h.focus, fun k hk => by rw [tile_modSeq]; exact h.single k hk⟩

theorem modUnseen (f : List Unseen → List Unseen) : KeepsSingles s (t.modUnseen f) :=
  h.of_tiles (focus_modUnseen ..) (tiles_modUnseen ..)

theorem foldl {α : Type} {f : State → α → State} (hf : ∀ u x, KeepsSingles s u → KeepsSingles s (f u x)) (l : List α) :
    KeepsSingles s (l.foldl f t) := by
  induction l generalizing t with
  | nil => exact h
  | cons x l ih => exact ih (hf t x h)

end Steps

theorem ite {s t u : State} {c : Prop} [Decidable c] (h : KeepsSingles s t) (g : KeepsSingles s u) :
    KeepsSingles s (if c then t else u) := by
  split
  · exact h
  · exact g

theorem ite_snd {s : State} {c : Prop} [Decidable c] {x y : Bool × State} (h : KeepsSingles s x.2) (g : KeepsSingles s y.2) :
    KeepsSingles s (if c then x else y).2 := by
  split
  · exact h
  · exact g

/-- The two ways on of a loop that looks for its next waiter. -/
theorem next {s : State} {o : Option FeWaiter} {f : FeWaiter → State} {u : State} (hf : ∀ x, KeepsSingles s (f x)) (hu : KeepsSingles s u) :
    KeepsSingles s (match o with | some x => f x | none => u) := by
  cases o with
  | none => exact hu
  | some x => exact hf x

/-- What a structural recursion on fuel has for the smaller fuel keeps the singles (the shape of `wakeWaiters`). -/
def BelowKeeps (s : State) : (n : Nat) → Nat.below (motive := fun _ => State → State) n → Prop
  | 0, _ => True
  | _ + 1, b => ∀ t, KeepsSingles s t → KeepsSingles s (b.1 t)

theorem brecOn {s : State} {F : (n : Nat) → Nat.below (motive := fun _ => State → State) n → State → State}
    (hF : ∀ n b, BelowKeeps s n b → ∀ t, KeepsSingles s t → KeepsSingles s (F n b t)) (n : Nat) :
    ∀ {t}, KeepsSingles s t → KeepsSingles s (Nat.brecOn (motive := fun _ => State → State) n F t) := by
  induction n with
  | zero => exact hF 0 _ trivial _
  | succ n ih => exact hF (n + 1) _ (fun _ h => ih h) _

section Operations
variable {s t : State} (h : KeepsSingles s t)
include h

/-! ## Containment and the end of gangs (R149, R273, R278) -/

theorem noteClass (p g cls : Nat) : KeepsSingles s (noteClass p g t cls) := .ite h (h.of_tiles rfl rfl)

theorem afterFindings (p g : Nat) (d : Decoded) : KeepsSingles s (afterFindings p g d t) :=
  foldl (h.of_tiles (by rfl) (by rfl)) (fun _ c hu => hu.noteClass p g c) _

theorem modTlb (q : SeqId) (f : Tlb → Tlb) : KeepsSingles s (modTlb q f t) := by
  cases q <;> exact h.of_tiles rfl rfl

theorem forgetMiss (x : Trap) : KeepsSingles s (forgetMiss x t) := by
  rw [Machine.forgetMiss]
  split
  · exact h.modTlb ..
  · exact h

theorem withdrawTraps (gone : Trap → Bool) : KeepsSingles s (withdrawTraps gone t) :=
  (foldl (f := fun s t => Machine.forgetMiss t s) h (fun _ x hu => hu.forgetMiss x) _).of_tiles rfl rfl

theorem removeLive (g : Nat) : KeepsSingles s (removeLive g t) :=
  h.of_mapTiles (f := fun e => { e with
    arrivals := e.arrivals.filter (fun x => x.gang != g), ring := e.ring.filter (fun x => x.gang != g)
    waiters := e.waiters.filter (fun w => t.gangOf w.seq != g) }) (fun _ => rfl) rfl rfl

theorem stopTiles (g : Nat) (l : List Nat) :
    KeepsSingles s (l.foldl (fun s t => if (s.tile t).gang = g then s.modTile t stopTile else s) t) :=
  h.foldl (fun _ k hu => .ite (hu.modTile k fun _ _ => rfl) hu) l

theorem releaseGang (g : Nat) : KeepsSingles s (releaseGang g t) := by
  rw [Machine.releaseGang]
  split
  · exact h
  · exact withdrawTraps (of_tiles (removeLive (of_tiles (stopTiles (h.modUnseen _) g _) (by rfl) (by rfl)) g) (by rfl) (by rfl)) _

theorem endGang (g status cause : Nat) : KeepsSingles s (endGang g status cause t) := by
  rw [Machine.endGang]
  split
  · exact h
  · exact .ite h (foldl (of_tiles (h.releaseGang g) (by rfl) (by rfl)) (fun _ e hu => hu.releaseGang e.1) _)

theorem killRect (r : Nat) : KeepsSingles s (killRect r t) :=
  foldl (h.of_tiles (by rfl) (by rfl)) (fun _ e hu => hu.endGang e.1 2 0x11) _

theorem killRectsOf (g : Nat) : KeepsSingles s (killRectsOf g t) := by
  rw [Machine.killRectsOf]
  split
  · exact h
  · exact h.foldl (fun _ r hu => hu.killRect r) _

theorem partitionFault (p : Nat) : KeepsSingles s (partitionFault p t) :=
  foldl (h.of_tiles (by rfl) (by rfl)) (fun _ e hu => (hu.endGang e.1 2 0x11).of_tiles rfl rfl) _

theorem servicePoison (c : Nat) : KeepsSingles s (servicePoison c t) := by
  rw [Machine.servicePoison]
  refine of_tiles (partitionFault ?_ _) (by rfl) (by rfl)
  split
  · exact h.forgetMiss _
  · exact h

theorem dropFiring (q : SeqId) : KeepsSingles s (dropFiring q t) := by
  have hm := h.modSeq q (fun u => { u with firing := none, wait := none, hold := none, suspended := false })
  cases q <;> exact hm.of_tiles rfl rfl

theorem consumePoison (q : SeqId) : KeepsSingles s (consumePoison q t) := by
  cases q with
  | a k => exact h.killRect _
  | x k => exact h.killRect _
  | m c => exact (h.dropFiring (.m c)).killRectsOf _
  | s c => exact h.servicePoison c

/-! ## Scratchpad writes (R272, R280) -/

theorem writeBytes (p g : Nat) (entry : BitVec 32) (key : Nat) (bytes : Marked) :
    KeepsSingles s (writeBytes p g entry key bytes t) := of_tiles (h.afterFindings p g _) (by rfl) (by rfl)

theorem undoFull (n : Nat) : KeepsSingles s (undoFull n t) := .ite (h.of_tiles rfl rfl) h

theorem logUndo (k off n : Nat) : KeepsSingles s (logUndo k off n t) := by
  rw [Machine.logUndo]
  split
  · exact h
  · exact undoFull (h.of_tiles (by rfl) (by rfl)) _
  · exact undoFull (h.of_tiles (by rfl) (by rfl)) _

theorem writeScratch (inside : Bool) (p g k off : Nat) (bytes : Marked) :
    KeepsSingles s (writeScratch inside p g k off bytes t) := by
  rw [Machine.writeScratch]
  refine .ite (.ite ?_ (.ite ?_ (h.writeBytes ..))) (h.writeBytes ..)
  · exact writeBytes (logUndo (.ite (h.modUnseen _) h) _ _ _) _ _ _ _ _
  · exact writeBytes (writeBytes (h.of_tiles (by rfl) (by rfl)) _ _ _ _ _) _ _ _ _ _

/-! ## Full/empty words and their waiters (R158) -/

theorem latch (q : SeqId) (bits : BitVec 8) : KeepsSingles s (latch q bits t) := h.modSeq q _

theorem latchTile (k : Nat) (bits : BitVec 8) : KeepsSingles s (latchTile k bits t) := (h.latch (.a k) bits).latch (.x k) bits

theorem setFull (inside : Bool) (k w : Nat) (v : Bool) : KeepsSingles s (setFull inside k w v t) := by
  rw [Machine.setFull]
  refine foldl ?_ (fun u n hu => ?_) _
  · exact .ite (h.logUndo ..) (.ite (h.of_tiles rfl rfl) h)
  have hm : KeepsSingles s (u.modTile n (fun w' => { w' with full := if v then insertNat w'.full w else w'.full.filter (· != w) })) :=
    hu.modTile n (fun _ h => h)
  exact .ite hm (hm.latchTile ..)

theorem grantWaiter (x : FeWaiter) (v : Word) (poison : Bool) : KeepsSingles s (grantWaiter x v poison t) := by
  rw [Machine.grantWaiter]
  split
  · exact h.of_tiles rfl rfl
  · exact .ite (.ite (h.consumePoison _) h) (h.modSeq ..)

theorem reads (q : SeqId) (ws : List Nat) : KeepsSingles s (reads q ws t) := h.modUnseen _
theorem wrote (q : SeqId) (ws : List Nat) : KeepsSingles s (wrote q ws t) := h.modUnseen _
theorem acquired (q : SeqId) (scope key : Nat) : KeepsSingles s (acquired q scope key t) := h.modUnseen _
theorem released (q : SeqId) (scope key : Nat) : KeepsSingles s (released q scope key t) := h.modUnseen _

theorem noteConsumed (q : SeqId) (a : Word) : KeepsSingles s (noteConsumed q a t) := h.of_tiles rfl rfl

theorem performWaiter (k : Nat) (x : FeWaiter) : KeepsSingles s (performWaiter k x t).2 := by
  have hd : ∀ d, KeepsSingles s (Machine.afterFindings (t.partOf x.seq) (t.gangOf x.seq) d
      (t.modTile k (fun u => { u with waiters := u.waiters.filter (· != x) }))) :=
    fun d => by refine afterFindings (h.modTile k ?_) _ _ d; exact fun _ h => h
  refine ite_snd (grantWaiter (.ite ((hd _).noteConsumed _ _) (hd _)) _ _ _) (ite_snd (grantWaiter ?_ _ _ _) (grantWaiter ?_ _ _ _))
  · cases x.scope
    · exact (hd _).reads _ _
    · exact ((hd _).reads _ _).acquired ..
  · cases x.scope
    · exact ((hd _).writeScratch ..).wrote ..
    · exact (((hd _).writeScratch ..).wrote ..).released ..

/-- Unfolded by hand with `performWaiter` opaque: checking `wakeWaiters`'s own equation, the kernel computes the key of the word
that a waiter reads, whose literals are beyond it. -/
theorem wakeWaiters (k w fuel : Nat) : KeepsSingles s (wakeWaiters k w fuel t) := by
  delta Machine.wakeWaiters
  refine brecOn (F := wakeWaiters._f k w) (fun n b ih t h => ?_) fuel h
  have hp : ∀ t x, KeepsSingles s t → KeepsSingles s (Machine.performWaiter k x t).2 := fun _ x h => h.performWaiter k x
  delta wakeWaiters._f
  generalize Machine.performWaiter k = perform at hp ⊢
  split
  · exact h
  · extract_lets waiting u
    have hu : KeepsSingles s u := h.foldl (fun _ x hu => hp _ x hu) _
    clear_value u waiting
    refine next (fun x => ?_) hu
    have hx := hp u x hu
    generalize perform x u = r at hx ⊢
    obtain ⟨done, v⟩ := r
    exact ih _ (.ite (hx.setFull ..) hx)

theorem changeState (inside : Bool) (k w : Nat) (v : Bool) : KeepsSingles s (changeState inside k w v t) :=
  foldl (h.setFull inside k w v) (fun _ n hu => hu.wakeWaiters n w _) _

end Operations
end KeepsSingles

/-- A sequencer of a tile in no pair has no part in one, whatever has become of its firing. -/
theorem KeepsSingles.role_alone {s t : State} (h : KeepsSingles s t) (hs : Unpaired s) : role t = .alone := by
  rw [role, memberOf, h.focus]
  split
  · next k hk => rw [h.single k (hs k hk).1, ite_self]
  · rfl

end Sys2Proof.Machine
end

section
/-! SUPPORT. Full/empty accesses to the own scratchpad: what an address of it resolves to, what a clean word of it gives, what a
store to it leaves, and the access of a bank unit (R156, R158, R159, R198). -/

namespace Sys2Proof.Machine

open Sys2Proof.Claims

/-! ## The state at the issue, beyond memory -/

section Issue
variable (s : State) (q : SeqId)

/-- A step of the clock's trip changes clusters alone. -/
theorem settleBefore_eq : ∃ l, settleBefore s q = { s with clusters := l } := by
  cases q with
  | m c => exact ⟨_, rfl⟩
  | _ => simp only [settleBefore]; split <;> exact ⟨_, rfl⟩

/-- An issue changes the units and the time alone. -/
theorem issued_eq : ∃ ts cs ms n, issued s = { s with tiles := ts, clusters := cs, mcores := ms, time := n } := by
  obtain ⟨l, hl⟩ := settleBefore_eq s s.focus
  rw [issued, atIssue, hl]
  exact ⟨_, _, _, _, modSeq_eq _ _ _⟩

@[simp] theorem focus_issued : (issued s).focus = s.focus := by
  obtain ⟨_, _, _, _, h⟩ := issued_eq s
  rw [h]

/-- Where the reads of an instruction find nothing, the state in which it waits keeps what it had. -/
theorem keepFindings_issued (f : Seq → Seq) : keepFindings (s.modSeq q f) (issued s) = s.modSeq q f := by
  obtain ⟨_, _, _, _, h⟩ := issued_eq s
  rw [h, modSeq_eq]
  rfl

end Issue

/-! ## An address of the own scratchpad (R156) -/

/-- What `ownScratch` says of an address of the issuing tile's scratchpad. -/
structure OwnAddress (u : State) (a : Word) (n align : Nat) : Prop where
  tile : State.tileOf u.focus = some (home u)
  ok : formOk a = true
  form : formOf a = 1
  reached : shutOut u u.focus a = false
  gtile : gtileOf u a = home u
  fits : offsetOf a + n ≤ 2 ^ 20
  aligned : a.toNat % align = 0
  calm : inFlight u u.focus (wordsOf (scratchKey (home u) (offsetOf a)) n) = false

theorem ownAddress {u : State} {a : Word} {n align : Nat} (h : ownScratch u a n align = true) : OwnAddress u a n align := by
  simp only [ownScratch, Bool.and_eq_true, Bool.not_eq_true', beq_iff_eq, decide_eq_true_eq] at h
  obtain ⟨⟨⟨⟨⟨⟨⟨ht, hk⟩, hf⟩, ho⟩, hg⟩, hn⟩, ha⟩, hc⟩ := h
  obtain ⟨t, ht⟩ := Option.isSome_iff_exists.mp ht
  exact ⟨by rw [ht, tileOf_home ht], hk, hf, ho, hg, hn, ha, hc⟩

/-- Every sequencer reaches its own tile (R99). -/
theorem mayReach_own {u : State} {t : Nat} (h : State.tileOf u.focus = some t) : mayReach u u.focus t = true := by
  simp only [mayReach, h]
  split <;> simp

namespace OwnAddress

section
variable {u : State} {a : Word} {n align : Nat} (ha : OwnAddress u a n align)
include ha

theorem run_checkAddress : (checkAddress a n align).run u = .ok () u := by
  have hr : rangeCause a n = none := by
    rw [rangeCause, if_neg (by rw [ha.form]; decide), if_neg (Nat.not_lt.mpr ha.fits)]
  simp only [checkAddress, EStateM.run_bind, EStateM.run_get, run_check, ha.ok, ha.reached, Bool.not_false, Bool.and_self, if_true, hr,
    ha.aligned, decide_true, ha.form, ha.gtile, mayReach_own ha.tile]

/-- The place that the address names. -/
theorem run_resolve (hs : Solo u) (acc : Access) :
    (resolve a n align acc).run u = .ok (.scratch (home u) (offsetOf a)) u := by
  simp only [resolve, EStateM.run_bind, ha.run_checkAddress, EStateM.run_get, ha.form, if_true, EStateM.run_pure, ha.gtile,
    mirrored_solo hs]

theorem run_locate (hs : Solo u) (acc : Access) (q : Bool) :
    (locate a n align acc [] q).run u = .ok (.inl (.scratch (home u) (offsetOf a))) u := by
  have hf := ha.tile
  have h1 : ¬ formOf a = 0 := by rw [ha.form]; decide
  simp only [locate, EStateM.run_bind, EStateM.run_get]
  cases hq : u.focus with
  | a t => simp only [EStateM.run_bind, ha.run_resolve hs, h1, if_false, EStateM.run_pure]
  | x t => simp only [EStateM.run_bind, ha.run_checkAddress, ha.run_resolve hs, h1, if_false, EStateM.run_pure]
  | m c => rw [hq] at hf; cases hf
  | s c => rw [hq] at hf; cases hf

theorem run_scratchOnly : (scratchOnly a).run u = .ok () u := by
  simp only [scratchOnly, run_check, ha.form]
  rfl

theorem isOwn : isOwn u.focus (.scratch (home u) (offsetOf a)) = true := by
  have hf := ha.tile
  cases hq : u.focus with
  | a t => simp only [Machine.isOwn, home_a hq, beq_self_eq_true]
  | x t => simp only [Machine.isOwn, home_x hq, beq_self_eq_true]
  | m c => rw [hq] at hf; cases hf
  | s c => rw [hq] at hf; cases hf

theorem pushesToward (g : Nat) : pushesToward u u.focus g = false := by
  have hf := ha.tile
  cases hq : u.focus with
  | m c => rw [hq] at hf; cases hf
  | _ => rfl

/-- No earlier access of the sequencer is on its way to the word (R170, R198). -/
theorem run_ownOrder : (ownOrder (.scratch (home u) (offsetOf a)) n).run u = .ok () u := by
  have hc : inFlight u u.focus (wordsOf (Place.scratch (home u) (offsetOf a)).key n) = false := ha.calm
  simp only [ownOrder, EStateM.run_bind, EStateM.run_get, run_waitUntil, ha.pushesToward]
  rw [hc]
  rfl

end
end OwnAddress

theorem run_baseAddress {u : State} {f : F64M} (h : xOk u f.base.toNat = true) : (baseAddress f).run u = .ok (addressOf u f) u := by
  simp only [baseAddress, EStateM.run_bind, run_useX h, EStateM.run_pure]
  rfl

/-! ## Outside a pair -/

theorem run_outsidePair_solo {u : State} (h : Solo u) (p : Place) : (outsidePair p).run u = .ok false u := by
  simp only [outsidePair, EStateM.run_bind, EStateM.run_get, solo_isPaired h, Bool.false_and, EStateM.run_pure]

theorem heldAtWord_solo {u : State} (h : Solo u) (p : Place) : heldAtWord u p = false := by
  simp only [heldAtWord, solo_isPaired h]
  cases State.tileOf u.focus <;> cases p <;> rfl

/-- A release of a sequencer outside a pair waits for nothing more once its accesses are acknowledged (R201). -/
theorem run_releaseAt_solo {u : State} (hs : Solo u) (h : acknowledged u = true) (scope : Nat) :
    (releaseAt false scope).run u = .ok () u := by
  have hp := solo_isPaired hs
  simp only [releaseAt, EStateM.run_bind, run_awaitAcks (acknowledged_iff.mp h).1, Bool.not_false, Bool.true_and]
  split <;> simp only [EStateM.run_bind, run_settleHeld_alone hs, EStateM.run_get, EStateM.run_pure, hp, Bool.false_eq_true, if_false]

/-- An ordered access marks no write where there is none that an agent need not see. -/
theorem run_syncOwn_calm {u : State} (h : u.mem.unseen = []) (f : F64M) (r a : Bool) (p : Place) :
    (syncOwn (syncOf f r a) p).run u = .ok () u := by
  cases r <;> cases a <;>
    simp [syncOwn, syncOf, acquire, released, acquired, seesReleased, markUnseen, modUnseen_calm h]

/-! ## The word of an access -/

/-- The bytes of a type: 1, 2, 4 or 8. -/
theorem tyBytes_cases (ty : Nat) : tyWidth ty / 8 = 1 ∨ tyWidth ty / 8 = 2 ∨ tyWidth ty / 8 = 4 ∨ tyWidth ty / 8 = 8 := by
  unfold tyWidth
  split <;> decide

/-- An aligned access of a type lies in one word. -/
theorem aligned_in_word {a : Word} {n : Nat} (hn : n = 1 ∨ n = 2 ∨ n = 4 ∨ n = 8) (h : a.toNat % n = 0) :
    offsetOf a % 8 + n ≤ 8 := by
  have ho : offsetOf a = a.toNat % 2 ^ 20 := by simp [offsetOf]
  rw [ho]
  rcases hn with rfl | rfl | rfl | rfl <;> omega

theorem tileOfKey_scratchKey {t off : Nat} (h : off < 2 ^ 20) : tileOfKey (scratchKey t off) = t := by
  unfold tileOfKey scratchKey keyOf spaceScratch
  omega

section Word
variable {m : Mem} {t off n : Nat}

/-- A word of which an access's bytes are clean is clean. -/
theorem cleanBytes_word (hn : 0 < n) (h : Claims.cleanBytes m (scratchKey t off) n = true) :
    Claims.cleanBytes m (scratchKey t (off / 8 * 8)) 8 = true := by
  have h0 := List.all_eq_true.mp h 0 (by simpa using hn)
  refine List.all_eq_true.mpr fun i hi => ?_
  have hk : (scratchKey t (off / 8 * 8) + i) / 8 = (scratchKey t off + 0) / 8 := by
    have := List.mem_range.mp hi
    unfold scratchKey keyOf spaceScratch
    omega
  rw [hk]
  exact h0

/-- The bytes of an access among those of its word. -/
theorem bytes_of_word (hw : off % 8 + n ≤ 8) :
    ((m.bytes (scratchKey t (off / 8 * 8)) 8).drop (off % 8)).take n = m.bytes (scratchKey t off) n := by
  have hk : scratchKey t (off / 8 * 8) + off % 8 = scratchKey t off := by
    unfold scratchKey keyOf
    omega
  rw [bytes_drop, bytes_take, hk, Nat.min_eq_left (by omega)]

end Word

/-! ## A store where every agent sees every write -/

theorem unseen_setBytes (m : Mem) (k : Nat) (bs : List Byte) : (m.setBytes k bs).unseen = m.unseen := by
  induction bs generalizing m k with
  | nil => rfl
  | cons b bs ih => exact ih ..

theorem unseen_writeWordPart (m : Mem) (k : Nat) (bs : Marked) : (writeWordPart m k bs).unseen = m.unseen := by
  have h : (writeWordPart m k bs).unseen = (m.setBytes k bs.bytes).unseen := by
    rw [writeWordPart]
    split
    · split <;> rfl
    · split <;> rfl
  exact h.trans (unseen_setBytes ..)

theorem unseen_writeUnits (entry : BitVec 32) (fuel : Nat) (m : Mem) (key : Nat) (bs : Marked)
    (hk : ∀ i, i < bs.length → isExternal (key + i) = false) : (writeUnits entry fuel m key bs).unseen = m.unseen := by
  induction fuel generalizing m key bs with
  | zero => rfl
  | succ fuel ih =>
    rw [writeUnits]
    split
    · rfl
    · next he =>
      have hpos : 0 < bs.length := List.length_pos_iff.mpr (by simpa using he)
      have hx : isExternal key = false := hk 0 hpos
      simp only [hx, Bool.false_eq_true, if_false]
      rw [ih, unseen_writeWordPart]
      intro i hi
      rw [List.length_drop] at hi
      rw [Nat.add_assoc]
      exact hk _ (by omega)

/-- A write to clean words of a scratchpad hides nothing from any agent. -/
theorem unseen_withBytes {u : State} {t off : Nat} {bs : List Byte} {p : Bool} (hu : u.mem.unseen = [])
    (hn : off + bs.length ≤ 2 ^ 20) (hc : Claims.cleanBytes u.mem (scratchKey t off) bs.length = true) :
    (withBytes (scratchKey t off) bs p u).mem.unseen = [] := by
  rw [withBytes_clean hn hc]
  have hw := unseen_writeUnits 0 ((marked bs p).length / 8 + 2) u.mem (scratchKey t off) (marked bs p)
    (by simpa [marked] using scratch_bytes_not_external hn)
  simp only [writeMarked, Mem.notice, Mem.pass, hw, hu]
  rfl

/-! ## The access of the bank unit (R158) -/

/-- A waiting access joins its word's, unless its sequencer waits there already. -/
def joinWaiters (g : Nat) (x : FeWaiter) (s : State) : State :=
  if (s.tile g).waiters.any (fun y => y.seq == s.focus && !y.released) then s
  else s.modTile g (fun w => { w with waiters := w.waiters ++ [x] })

theorem run_waits (why : Why) (u : State) : ∃ b, (waits why).run u = .ok b u := by
  simp only [waits, EStateM.run_bind, run_mySeq]
  split <;> exact ⟨_, rfl⟩

/-- Whether the sequencer has been granted the value of a word (R158). -/
def NoGrant (u : State) : Prop := ∀ w t, (here u).wait = some w → w.grant = some t → w.why ≠ .word

theorem run_granted_none {u : State} (h : NoGrant u) : (granted .word).run u = .ok none u := by
  simp only [granted, EStateM.run_bind, run_mySeq, EStateM.run_pure]
  cases hw : (here u).wait with
  | none => rfl
  | some w =>
    cases hg : w.grant with
    | none => simp only [hg, ite_self]
    | some t => simp only [if_neg (h w t hw hg)]

theorem run_bind_ok {α β : Type} {x : Exec α} {f : α → Exec β} {s t : State} {v : α} (h : x.run s = .ok v t) :
    (x >>= f).run s = (f v).run t := by rw [EStateM.run_bind, h]

/-- A step that is made in one case and changes nothing. -/
theorem run_when_bind {β : Type} {c : Prop} [Decidable c] {x : Exec Unit} {f : Exec β} {s : State} (h : c → x.run s = .ok () s) :
    (if c then x >>= fun _ => f else f).run s = f.run s := by
  split
  · next hc => exact run_bind_ok (h hc)
  · rfl

/-- What the bank unit does for an access once its word has been read: the access itself, or the wait for the word's state. -/
def bankAccess (p : Place) (a : Word) (x : FeWaiter) (bs : List Byte) (u : State) : Exec Word := do
  if feReady u (tileOfKey p.key) x then
    let loads := x.op == .wf || x.op == .wfe
    if loads then viewNewest u.focus p.key x.width
    else
      modify (writeScratch (inPair u u.focus (tileOfKey p.key)) (u.partOf u.focus) (u.gangOf u.focus) (tileOfKey p.key) (offsetOf a)
        (marked (toBytes x.width x.data.toNat) x.poison))
      noteWrite p x.width
    match x.scope with
    | some scope => modify (if loads then acquired u.focus scope p.key else released u.focus scope p.key)
    | none => pure ()
    if x.op == .wfe || x.op == .wef then
      modify (changeState (inPair u u.focus (tileOfKey p.key)) (tileOfKey p.key) (offsetOf a / 8) (x.op == .wef))
    return if loads then BitVec.ofNat 64 (ofBytes ((bs.drop (offsetOf a % 8)).take x.width)) else 0
  else throw (.wait .word (fun s => joinWaiters (tileOfKey p.key) x (keepFindings s u)))

theorem acquired_calm {u : State} (h : u.mem.unseen = []) (q : SeqId) (scope key : Nat) : acquired q scope key u = u :=
  modUnseen_calm h _

theorem released_calm {u : State} (h : u.mem.unseen = []) (q : SeqId) (scope key : Nat) : released q scope key u = u :=
  markUnseen_calm h _ _

section Bank
variable {u v : State} {t : Nat} {p : Place} {a : Word} {x : FeWaiter} {bs : List Byte} (hk : tileOfKey p.key = t)
include hk

/-- A word in the other state makes the instruction wait at the bank unit, which keeps its access. -/
theorem run_bankAccess_waits (hr : feReady u t x = false) : (bankAccess p a x bs u).run u =
    .error (.wait .word (fun s => joinWaiters t x (keepFindings s u))) u := by
  rw [bankAccess, hk, if_neg (by rw [hr]; decide)]
  rfl

variable (hs : role u = .alone) (hr : feReady u t x = true)
include hs hr

/-- A load takes the word, and changes its state if its form says so. -/
theorem run_bankAccess_load (hu : u.mem.unseen = []) (hl : (x.op == .wf || x.op == .wfe) = true) :
    (bankAccess p a x bs u).run u = .ok (BitVec.ofNat 64 (ofBytes ((bs.drop (offsetOf a % 8)).take x.width)))
      (if (x.op == .wfe || x.op == .wef) = true then changeState false t (offsetOf a / 8) (x.op == .wef) u else u) := by
  rw [bankAccess, hk, if_pos hr]
  simp only [hl, if_true, EStateM.run_bind, run_viewNewest hu, inPair_alone hs]
  cases x.scope <;> cases (x.op == .wfe || x.op == .wef) <;>
    simp only [EStateM.run_bind, EStateM.run_modify, EStateM.run_pure, acquired_calm hu, if_true, if_false, Bool.false_eq_true]

/-- A store writes the word, and changes its state if its form says so. -/
theorem run_bankAccess_store (hl : (x.op == .wf || x.op == .wfe) = false)
    (hw : writeScratch false (u.partOf u.focus) (u.gangOf u.focus) t (offsetOf a) (marked (toBytes x.width x.data.toNat) x.poison) u = v)
    (hv : v.mem.unseen = []) :
    (bankAccess p a x bs u).run u = .ok 0
      (if (x.op == .wfe || x.op == .wef) = true then changeState false t (offsetOf a / 8) (x.op == .wef) v else v) := by
  rw [bankAccess, hk, if_pos hr]
  simp only [hl, if_false, Bool.false_eq_true, EStateM.run_bind, EStateM.run_modify, inPair_alone hs, hw, noteWrite, wrote_calm hv]
  cases x.scope <;> cases (x.op == .wfe || x.op == .wef) <;>
    simp only [EStateM.run_bind, EStateM.run_modify, EStateM.run_pure, released_calm hv, if_true, if_false, Bool.false_eq_true]

end Bank

section Access
variable {u : State} {a : Word} {n : Nat} (ha : OwnAddress u a n n) (hn : 0 < n)
  (hc : Claims.cleanBytes u.mem (ownKey u a) n = true)
include ha hn

theorem tileOfKey_own : tileOfKey (Place.scratch (home u) (offsetOf a)).key = home u :=
  tileOfKey_scratchKey (by have := ha.fits; omega)

include hc

/-- The word of an access is read whole. -/
theorem run_fetchWord (p g : Nat) : (fetchBytes p g 0 (scratchKey (home u) (offsetOf a / 8 * 8)) 8).run u =
    .ok (u.mem.bytes (scratchKey (home u) (offsetOf a / 8 * 8)) 8, List.replicate 8 false) u := by
  have hf := ha.fits
  exact run_fetchClean (scratch_not_external (by omega)) (read_scratch (by omega) (cleanBytes_word hn hc))

variable (hg : NoGrant u) {op : FeOp} {d : Word} {sc : Option Nat}
include hg

/-- An access to a clean word of the own scratchpad comes to the bank unit. The read is kept opaque, since the kernel would
compute its keys. -/
theorem run_feAccess : (feAccess (.scratch (home u) (offsetOf a)) a op n d false sc).run u =
    (bankAccess (.scratch (home u) (offsetOf a)) a ⟨u.focus, op, offsetOf a, n, d, false, false, none, sc⟩
      (u.mem.bytes (scratchKey (home u) (offsetOf a / 8 * 8)) 8) u).run u := by
  have hk := tileOfKey_own ha hn
  have hp : (List.replicate 8 false).any id = false := rfl
  have hF := run_fetchWord ha hn hc
  have ho : ¬(!isOwn u.focus (.scratch (home u) (offsetOf a))) = true := by rw [ha.isOwn]; decide
  rw [feAccess, bankAccess]
  generalize fetchBytes = F at hF ⊢
  simp only [EStateM.run_bind, run_granted_none hg, EStateM.run_get]
  rw [if_neg ho, hk]
  refine (run_bind_ok (hF _ _)).trans ?_
  rw [if_neg (by rw [hp]; decide)]
  exact (run_bind_ok (EStateM.run_get u)).trans rfl

theorem run_feAccess_waits (hr : isFull u (home u) (offsetOf a / 8) ≠ (op == .wf || op == .wfe)) :
    (feAccess (.scratch (home u) (offsetOf a)) a op n d false sc).run u =
      .error (.wait .word (fun s => joinWaiters (home u) ⟨u.focus, op, offsetOf a, n, d, false, false, none, sc⟩ (keepFindings s u))) u :=
  (run_feAccess ha hn hc hg).trans (run_bankAccess_waits (tileOfKey_own ha hn) (beq_eq_false_iff_ne.mpr hr))

variable (hs : Solo u)
include hs

/-- What a load's form leaves of a full word. -/
theorem run_feAccess_load (hw : offsetOf a % 8 + n ≤ 8) (hl : (op == .wf || op == .wfe) = true)
    (hf : isFull u (home u) (offsetOf a / 8) = true) : (feAccess (.scratch (home u) (offsetOf a)) a op n d false sc).run u =
      .ok (BitVec.ofNat 64 (wordAt u.mem (ownKey u a) n))
        (if (op == .wfe || op == .wef) = true then changeState false (home u) (offsetOf a / 8) (op == .wef) u else u) := by
  have h := (run_feAccess (op := op) (d := d) (sc := sc) ha hn hc hg).trans
    (run_bankAccess_load (tileOfKey_own ha hn) (solo_alone hs) (beq_iff_eq.mpr (hf.trans hl.symm)) hs.2.2 hl)
  rwa [bytes_of_word hw] at h

/-- What a store's form leaves of an empty word. -/
theorem run_feAccess_store (hl : (op == .wf || op == .wfe) = false) (hf : isFull u (home u) (offsetOf a / 8) = false) {v : State}
    (hv : withBytes (ownKey u a) (toBytes n d.toNat) false u = v) :
    (feAccess (.scratch (home u) (offsetOf a)) a op n d false sc).run u =
      .ok 0 (if (op == .wfe || op == .wef) = true then changeState false (home u) (offsetOf a / 8) (op == .wef) v else v) := by
  have hl8 := length_toBytes n d.toNat
  have hu := unseen_withBytes (p := false) hs.2.2 (bs := toBytes n d.toNat) (by rw [hl8]; exact ha.fits) (by rw [hl8]; exact hc)
  have hw : writeScratch false (u.partOf u.focus) (u.gangOf u.focus) (home u) (offsetOf a) (marked (toBytes n d.toNat) false) u = v :=
    (if_neg fun h => h.2 (hs.1 _ ha.tile).1).trans hv
  exact (run_feAccess ha hn hc hg).trans (run_bankAccess_store (tileOfKey_own ha hn) (solo_alone hs)
    (beq_iff_eq.mpr (hf.trans hl.symm)) hl hw (hv ▸ hu))

end Access

/-! ## LD and ST in the waiting forms (R384, R416) -/

theorem run_strongBefore_scratch (t off : Nat) (u : State) : (strongBefore (.scratch t off)).run u = .ok () u := rfl

section Bodies
variable {f : F64M} {u : State} (hs : Solo u) (hb : xOk u f.base.toNat = true) (hd : f.d.toNat < 32) (hfe : f.fe ≠ 0)
  (ha : OwnAddress u (addressOf u f) (tyWidth f.ty.toNat / 8) (tyWidth f.ty.toNat / 8))
include hs hb hd hfe ha

/-- LD comes to the access of the bank unit. -/
theorem run_ldBody_fe : (ldBody f).run u =
    (feAccess (.scratch (home u) (offsetOf (addressOf u f))) (addressOf u f) (if f.fe = 1 then .wf else .wfe) (tyWidth f.ty.toNat / 8) 0
      false (if f.fe = 2 ∨ f.ord = 1 then some f.sc.toNat else none) >>= fun v =>
        loadInto f.ty.toNat f.d.toNat v.toNat false >>= fun _ => pure .fall).run u := by
  have hq : (queueWaits [⟨f.d.toNat, 0, true, false⟩]).run u = .ok () u := run_queueWaits u (by simp; omega)
  obtain ⟨b, hw⟩ := run_waits .word u
  rw [ldBody]
  generalize feAccess = F
  simp only [EStateM.run_bind, hq, run_baseAddress hb, hfe, ne_eq, not_false_eq_true, if_true, if_false, ha.run_scratchOnly,
    ha.run_locate hs, run_strongBefore_scratch, EStateM.run_get, run_outsidePair_solo hs, Bool.false_eq_true, hw]
  cases b <;>
    simp only [Bool.not_true, Bool.not_false, if_true, if_false, Bool.false_eq_true, EStateM.run_bind, ha.run_ownOrder, EStateM.run_get,
      heldAtWord_solo hs]

/-- ST comes to the access of the bank unit, its release over. -/
theorem run_stBody_fe (hx : xOk u f.d.toNat = true) (hack : (f.ord = 2 ∨ f.fe = 2) → acknowledged u = true) : (stBody f).run u =
    (feAccess (.scratch (home u) (offsetOf (addressOf u f))) (addressOf u f) (if f.fe = 1 then .we else .wef) (tyWidth f.ty.toNat / 8)
      ((here u).x f.d.toNat) false (if f.ord = 2 ∨ f.fe = 2 then some f.sc.toNat else none) >>= fun _ =>
        takeIn (toBytes 8 (addressOf u f).toNat ++ toBytes (tyWidth f.ty.toNat / 8) ((here u).x f.d.toNat).toNat) >>= fun _ =>
          pure .fall).run u := by
  have hq : (queueWaits [⟨f.d.toNat, 0, false, false⟩]).run u = .ok () u := run_queueWaits u (by simp; omega)
  have hv : (source f.ty.toNat f.d.toNat 0 0).run u = .ok ⟨(here u).x f.d.toNat, false, 0⟩ u :=
    run_source 0 (by simp only [scalarAt, hd, if_true, hx])
  have hrel : ∀ b, ((f.ord == 2 || f.fe == 2) && !b) = true → (releaseAt false f.sc.toNat).run u = .ok () u := fun b h =>
    run_releaseAt_solo hs (hack (by simpa using (Bool.and_eq_true_iff.mp h).1)) _
  obtain ⟨b, hw⟩ := run_waits .word u
  rw [stBody]
  generalize feAccess = F
  simp only [EStateM.run_bind, hq, run_baseAddress hb, hfe, ne_eq, not_false_eq_true, if_true, if_false, ha.run_scratchOnly,
    ha.run_locate hs, hv, hw, run_outsidePair_solo hs]
  rw [run_when_bind (hrel b)]
  simp only [EStateM.run_bind, run_strongBefore_scratch, EStateM.run_get, Bool.false_eq_true, if_false]
  rw [run_when_bind fun _ => ha.run_ownOrder]
  simp only [EStateM.run_bind, Bool.or_eq_true, beq_iff_eq]

variable (hc : Claims.cleanBytes u.mem (ownKey u (addressOf u f)) (tyWidth f.ty.toNat / 8) = true) (hg : NoGrant u)
include hc hg

/-- LD of a full word takes it; `w` is the state in which its form leaves the word. -/
theorem run_ldBody_full {w : State} (hf : isFull u (home u) (offsetOf (addressOf u f) / 8) = true)
    (hw : (if f.fe = 1 then u else changeState false (home u) (offsetOf (addressOf u f) / 8) false u) = w)
    (hx : xFree w f.d.toNat = true) : (ldBody f).run u = .ok .fall (withX f.d.toNat
      (extend f.ty.toNat (wordAt u.mem (ownKey u (addressOf u f)) (tyWidth f.ty.toNat / 8))) false w) := by
  have hn := tyBytes_cases f.ty.toNat
  have hb8 : (u.mem.bytes (ownKey u (addressOf u f)) (tyWidth f.ty.toNat / 8)).length ≤ 8 := by rw [length_bytes]; omega
  rw [run_ldBody_fe hs hb hd hfe ha]
  refine (run_bind_ok (t := w) (v := BitVec.ofNat 64 (wordAt u.mem (ownKey u (addressOf u f)) (tyWidth f.ty.toNat / 8))) ?_).trans
    ((run_bind_ok (v := ()) ?_).trans (EStateM.run_pure ..))
  · rw [run_feAccess_load ha (by omega) hc hg hs (aligned_in_word hn ha.aligned) (by split <;> rfl) hf, ← hw]
    by_cases h1 : f.fe = 1 <;> simp only [h1, if_true, if_false] <;> rfl
  · rw [wordAt, toNat_ofNat_ofBytes hb8]
    exact run_putDest 0 _ _ hd hx

theorem run_ldBody_empty (hf : isFull u (home u) (offsetOf (addressOf u f) / 8) = false) :
    (ldBody f).run u = .error (.wait .word (fun s => joinWaiters (home u) ⟨u.focus, if f.fe = 1 then .wf else .wfe,
      offsetOf (addressOf u f), tyWidth f.ty.toNat / 8, 0, false, false, none, if f.fe = 2 ∨ f.ord = 1 then some f.sc.toNat else none⟩
        (keepFindings s u))) u := by
  have hn := tyBytes_cases f.ty.toNat
  rw [run_ldBody_fe hs hb hd hfe ha, EStateM.run_bind,
    run_feAccess_waits ha (by omega) hc hg (by rw [hf]; split <;> decide)]

section Store
variable (hx : xOk u f.d.toNat = true) (hack : (f.ord = 2 ∨ f.fe = 2) → acknowledged u = true)
include hx hack

/-- ST to an empty word writes it; `w` is the state in which its form leaves the word. -/
theorem run_stBody_empty {v w : State} (hf : isFull u (home u) (offsetOf (addressOf u f) / 8) = false)
    (hv : withBytes (ownKey u (addressOf u f)) (toBytes (tyWidth f.ty.toNat / 8) ((here u).x f.d.toNat).toNat) false u = v)
    (hw : (if f.fe = 1 then v else changeState false (home u) (offsetOf (addressOf u f) / 8) true v) = w)
    (hr : role w = .alone) : (stBody f).run u = .ok .fall w := by
  have hn := tyBytes_cases f.ty.toNat
  rw [run_stBody_fe hs hb hd hfe ha hx hack]
  refine (run_bind_ok (t := w) (v := 0) ?_).trans ((run_bind_ok (v := ()) (t := w) ?_).trans (EStateM.run_pure ..))
  · rw [run_feAccess_store ha (by omega) hc hg hs (by split <;> rfl) hf hv, ← hw]
    by_cases h1 : f.fe = 1 <;> simp only [h1, if_true, if_false] <;> rfl
  · rw [run_takeIn, noted_alone _ hr]

theorem run_stBody_full (hf : isFull u (home u) (offsetOf (addressOf u f) / 8) = true) :
    (stBody f).run u = .error (.wait .word (fun s => joinWaiters (home u) ⟨u.focus, if f.fe = 1 then .we else .wef,
      offsetOf (addressOf u f), tyWidth f.ty.toNat / 8, (here u).x f.d.toNat, false, false, none,
      if f.ord = 2 ∨ f.fe = 2 then some f.sc.toNat else none⟩ (keepFindings s u))) u := by
  have hn := tyBytes_cases f.ty.toNat
  rw [run_stBody_fe hs hb hd hfe ha hx hack, EStateM.run_bind,
    run_feAccess_waits ha (by omega) hc hg (by rw [hf]; split <;> decide)]

end Store
end Bodies

/-! ## FEST and FEQ (R159, R371) -/

section State
variable {f : F64M} {u : State} (hs : Solo u) (hb : xOk u f.base.toNat = true) (ha : OwnAddress u (addressOf u f) 8 8)
  (hc : Claims.cleanBytes u.mem (ownKey u (addressOf u f)) 8 = true)
include hs ha hc

/-- A clean word of the own scratchpad may be used (R275). -/
theorem run_useWord : (useWord (.scratch (home u) (offsetOf (addressOf u f))) (addressOf u f)).run u = .ok () u := by
  have hF : ∀ p g, (fetchBytes p g 0 (scratchKey (home u) (offsetOf (addressOf u f))) 8).run u =
      .ok (u.mem.bytes (scratchKey (home u) (offsetOf (addressOf u f))) 8, List.replicate 8 false) u := fun p g =>
    run_fetchClean (scratch_not_external (by have := ha.fits; omega)) (read_scratch ha.fits hc)
  have hz := zip_replicate_false (u.mem.bytes (scratchKey (home u) (offsetOf (addressOf u f))) 8) 8 (length_bytes ..)
  have hh : (heldAt (.scratch (home u) (offsetOf (addressOf u f))) 8).run u =
      .ok (marked (u.mem.bytes (scratchKey (home u) (offsetOf (addressOf u f))) 8) false) u := by
    rw [← hz, heldAt]
    generalize fetchBytes = F at hF ⊢
    exact (run_bind_ok (EStateM.run_get u)).trans ((run_bind_ok (hF _ _)).trans rfl)
  have hg : (getBytes (.scratch (home u) (offsetOf (addressOf u f))) 8).run u =
      .ok (marked (u.mem.bytes (scratchKey (home u) (offsetOf (addressOf u f))) 8) false) u := by
    rw [getBytes]
    exact (run_bind_ok hh).trans ((run_bind_ok (EStateM.run_get u)).trans
      ((run_bind_ok (run_viewNewest hs.2.2 ..)).trans (EStateM.run_pure ..)))
  rw [useWord]
  refine (run_bind_ok hg).trans ?_
  rw [poisoned_marked]
  rfl

include hb

theorem run_festBody (hack : f.ord = 2 → acknowledged u = true) : (festBody f).run u =
    .ok .fall (changeState false (home u) (offsetOf (addressOf u f) / 8) (f.fn3.getLsbD 0) u) := by
  have hrel : (f.ord == 2) = true → (releaseAt false f.sc.toNat).run u = .ok () u := fun h =>
    run_releaseAt_solo hs (hack (beq_iff_eq.mp h)) _
  have hw : (noteWrite (.scratch (home u) (offsetOf (addressOf u f))) 8).run u = .ok () u := by
    rw [noteWrite, EStateM.run_modify, wrote_calm hs.2.2]
  rw [festBody]
  simp only [EStateM.run_bind, run_baseAddress hb, ha.run_scratchOnly, ha.run_locate hs, run_outsidePair_solo hs]
  rw [run_when_bind hrel]
  refine (run_bind_ok (EStateM.run_get u)).trans ?_
  rw [if_neg (by decide), if_pos ha.isOwn, tileOfKey_own ha (by decide)]
  refine (run_bind_ok ha.run_ownOrder).trans ((run_bind_ok (run_useWord hs ha hc)).trans ((run_bind_ok hw).trans
    ((run_bind_ok (run_syncOwn_calm hs.2.2 ..)).trans ?_)))
  rw [inPair_alone (solo_alone hs)]
  rfl

theorem run_feqBody (hd : xFree u f.d.toNat = true) : (feqBody f).run u =
    .ok .fall (withX f.d.toNat (if isFull u (home u) (offsetOf (addressOf u f) / 8) then 1 else 0) false u) := by
  rw [feqBody]
  simp only [EStateM.run_bind, run_baseAddress hb, ha.run_scratchOnly, ha.run_locate hs, EStateM.run_get]
  rw [if_pos ha.isOwn, tileOfKey_own ha (by decide)]
  exact (run_bind_ok ha.run_ownOrder).trans ((run_bind_ok (run_useWord hs ha hc)).trans
    ((run_bind_ok (run_syncOwn_calm hs.2.2 ..)).trans ((run_bind_ok (EStateM.run_get u)).trans
      ((run_bind_ok (run_putX _ _ hd)).trans (EStateM.run_pure ..)))))

end State

/-! ## The statement -/

theorem exec_ld (f : F64M) (s : State) : exec (.ld f) s = issue (.ld f) f.pred f.pneg (ldBody f) s := rfl
theorem exec_st (f : F64M) (s : State) : exec (.st f) s = issue (.st f) f.pred f.pneg (stBody f) s := rfl
theorem exec_fest (f : F64M) (s : State) : exec (.fest f) s = issue (.fest f) f.pred f.pneg (festBody f) s := rfl
theorem exec_feq (f : F64M) (s : State) : exec (.feq f) s = issue (.feq f) f.pred f.pneg (feqBody f) s := rfl

/-- An instruction that waits at the bank unit leaves the state before it, with its wait and its access there. -/
theorem issue_joins {s : State} {i : Instr} {p : BitVec 3} {n : BitVec 1} {body : Exec Flow} {g : Nat} {x : FeWaiter} (h : Ready s i p n)
    (hb : body.run (issued s) = .error (.wait .word (fun v => joinWaiters g x (keepFindings v (issued s)))) (issued s))
    (hw : ∀ y ∈ (s.tile g).waiters, y.seq ≠ s.focus) : issue i p n body s =
      .next ((recordWait s.focus .word s).modTile g (fun v => { v with waiters := v.waiters ++ [x] })) := by
  have hk : keepFindings (recordWait s.focus .word s) (issued s) = recordWait s.focus .word s := keepFindings_issued s _ _
  have hf : (recordWait s.focus .word s).focus = s.focus := State.focus_modSeq ..
  have ht : ((recordWait s.focus .word s).tile g).waiters = (s.tile g).waiters := by rw [recordWait, tile_modSeq]
  have hn : ¬((recordWait s.focus .word s).tile g).waiters.any (fun y => y.seq == (recordWait s.focus .word s).focus && !y.released) =
      true := by
    rw [ht, hf]
    simpa using fun y hy he => absurd he (hw y hy)
  rw [issue_waits h hb, hk, joinWaiters, if_neg hn]

/-- Settles O25: an aligned access of a type lies in one word of the own scratchpad, whose read finds nothing, and comes to the bank
unit. A change of the word's state may complete others' accesses, but puts no tile into a pair. -/
theorem fullEmptyInstructions : Obligations.FullEmptyInstructions := by
  unfold Obligations.FullEmptyInstructions
  refine ⟨fun s => ?_, fun s f => ?_⟩
  · intro u hs hg
    refine ⟨fun f h hfe => ?_, fun f h hfe => ?_⟩
    · intro ty n d a key op hb ha hc hd hx
      have hne : f.fe ≠ 0 := by rcases hfe with e | e <;> rw [e] <;> decide
      have ha := ownAddress ha
      refine ⟨fun hf h1 => ?_, fun hf h2 hxc => ?_, fun hf hw => ?_⟩
      · rw [exec_ld]
        exact issue_runs h (run_ldBody_full hs hb hd hne ha hc hg hf (if_pos h1) hx)
      · rw [exec_ld]
        exact issue_runs h (run_ldBody_full hs hb hd hne ha hc hg hf (if_neg (by rw [h2]; decide)) hxc)
      · have hb := run_ldBody_empty hs hb hd hne ha hc hg hf
        rw [focus_issued] at hb
        exact issue_joins h hb hw
    · intro n d a key hb ha hc hd hx hack t
      have hne : f.fe ≠ 0 := by rcases hfe with e | e <;> rw [e] <;> decide
      have ha := ownAddress ha
      have ht : KeepsSingles u t := (KeepsSingles.refl u).writeBytes ..
      refine ⟨fun hf => ⟨fun h1 => ?_, fun h2 => ?_⟩, fun hf hw => ?_⟩
      · rw [exec_st]
        exact issue_runs h (run_stBody_empty hs hb hd hne ha hc hg hx hack hf rfl (if_pos h1) (ht.role_alone hs.1))
      · rw [exec_st]
        exact issue_runs h (run_stBody_empty hs hb hd hne ha hc hg hx hack hf rfl (if_neg (by rw [h2]; decide))
          ((ht.changeState ..).role_alone hs.1))
      · have hb := run_stBody_full hs hb hd hne ha hc hg hx hack hf
        rw [focus_issued] at hb
        exact issue_joins h hb hw
  · intro u a w hs hb ha hc
    have ha := ownAddress ha
    exact ⟨fun h hack => issue_runs h (run_festBody hs hb ha hc hack), fun h _ hx => issue_runs h (run_feqBody hs hb ha hc hx)⟩

end Sys2Proof.Machine
end

section
/-! SUPPORT. The encoder and the decoder are inverse to each other, on bits and on lists of bytes: little-endian bytes of a number and
back, the bits of a format written back from its fields, and the two statements about the round trip (R2, R52-R64). -/

namespace Sys2Proof

/-! ## Little-endian bytes (R2) -/

theorem ofBytes_toBytes (n v : Nat) : ofBytes (toBytes n v) = v % 256 ^ n := by
  induction n generalizing v with
  | zero => rw [toBytes, ofBytes, Nat.pow_zero, Nat.mod_one]
  | succ n ih =>
    have h8 : (BitVec.ofNat 8 v).toNat = v % 256 := BitVec.toNat_ofNat ..
    rw [toBytes, ofBytes, ih, h8, Nat.pow_succ', Nat.mod_mul]

/-- The lowest byte of a number of bytes, and the number above it. -/
theorem byte_of_number (b : Byte) (n : Nat) : BitVec.ofNat 8 (b.toNat + 256 * n) = b ∧ (b.toNat + 256 * n) / 256 = n := by
  have hb := b.isLt
  refine ⟨BitVec.eq_of_toNat_eq ?_, by omega⟩
  rw [BitVec.toNat_ofNat]
  omega

theorem toBytes_ofBytes (bs : List Byte) : toBytes bs.length (ofBytes bs) = bs := by
  induction bs with
  | nil => rfl
  | cons b bs ih =>
    obtain ⟨hb, hn⟩ := byte_of_number b (ofBytes bs)
    rw [ofBytes, List.length_cons, toBytes, hb, hn, ih]

theorem toBytes_take (n k v : Nat) (h : k ≤ n) : (toBytes n v).take k = toBytes k v := by
  induction k generalizing n v with
  | zero => rfl
  | succ k ih =>
    obtain ⟨n, rfl⟩ : ∃ m, n = m + 1 := ⟨n - 1, by omega⟩
    rw [toBytes, List.take_succ_cons, ih n _ (by omega), toBytes]

/-- The first bytes of a list are its number's low digits. -/
theorem ofBytes_take {bs : List Byte} {k : Nat} (h : k ≤ bs.length) : ofBytes (bs.take k) = ofBytes bs % 256 ^ k := by
  rw [← ofBytes_toBytes, ← toBytes_take _ _ _ h, toBytes_ofBytes]

/-! ## The first word -/

theorem field_field (w : BitVec 128) {lo n m : Nat} (h : lo + n ≤ m) : (field w 0 m).extractLsb' lo n = field w lo n := by
  unfold field
  ext i hi
  have hlt : lo + i < m := by omega
  simp [hlt]

/-- The length of an instruction stands in its two lowest bits. -/
theorem lengthOf_class {w : BitVec 128} {n : BitVec 2} (h : field w 0 2 = n) : lengthOf (field w 0 32) = lengthOf (n.setWidth 32) := by
  have hn : (n.setWidth 32).extractLsb' 0 2 = n := by
    ext i hi
    have hlt : i < 32 := by omega
    simp [hlt, BitVec.getLsbD_eq_getElem hi]
  rw [lengthOf, lengthOf, field_field w (by decide), h, hn]

/-- An instruction has one to four words. -/
theorem lengthOf_words (first : BitVec 32) : 4 ≤ lengthOf first ∧ lengthOf first ≤ 16 := by
  unfold lengthOf
  split <;> decide

theorem field_keepBytes (w : BitVec 128) {lo n k : Nat} (h : lo + n ≤ 8 * k) :
    field (keepBytes w k) lo n = field w lo n := by
  unfold field keepBytes
  ext i hi
  have hk : lo + i < 8 * k := by omega
  simp only [BitVec.getElem_extractLsb', BitVec.getLsbD_ofNat, Nat.testBit_mod_two_pow, hk, decide_true, Bool.true_and]
  rw [← BitVec.getLsbD]
  by_cases hlt : lo + i < 128
  · simp only [hlt, decide_true, Bool.true_and]
  · simp only [hlt, decide_false, Bool.false_and, BitVec.getLsbD_of_ge _ _ (Nat.le_of_not_lt hlt)]

/-- Keeping an instruction's bytes is cutting its bits to their width. -/
theorem keepBytes_eq_setWidth (w : BitVec 128) (k : Nat) : keepBytes w k = (w.setWidth (8 * k)).setWidth 128 :=
  BitVec.eq_of_toNat_eq (by simp [keepBytes])

theorem toNat_keepBytes (w : BitVec 128) (k : Nat) : (keepBytes w k).toNat = w.toNat % 256 ^ k := by
  have h := Nat.lt_of_le_of_lt (Nat.mod_le w.toNat (2 ^ (8 * k))) w.isLt
  rw [keepBytes, BitVec.toNat_ofNat, Nat.mod_eq_of_lt h, Nat.pow_mul]

theorem keepBytes_of_lt {w : BitVec 128} {k : Nat} (h : w.toNat < 256 ^ k) : keepBytes w k = w :=
  BitVec.eq_of_toNat_eq ((toNat_keepBytes w k).trans (Nat.mod_eq_of_lt h))

/-! ## The bits of each format written back -/

/-- Adjoining fields are one field. -/
theorem field_append (w : BitVec 128) {hi lo m n : Nat} (h : hi = lo + n) : field w hi m ++ field w lo n = field w lo (m + n) := by
  subst h
  unfold field
  ext i hi
  simp only [BitVec.getElem_append, BitVec.getElem_extractLsb']
  split
  · rfl
  · congr 1; omega

theorem field_zero (w : BitVec 128) (n : Nat) : field w 0 n = w.setWidth n := by
  unfold field
  ext i hi
  simp

section Formats
variable {w : BitVec 128} {opc : BitVec 8} (ho : field w 2 8 = opc)
include ho

theorem F64A.toBits_ofBits (hl : field w 0 2 = 1#2) : ((F64A.ofBits w).toBits opc).setWidth 128 = keepBytes w 8 := by
  rw [keepBytes_eq_setWidth, ← field_zero w]
  simp (disch := omega) only [F64A.toBits, F64A.ofBits, ← hl, ← ho, field_append]

theorem F64M.toBits_ofBits (hl : field w 0 2 = 1#2) : ((F64M.ofBits w).toBits opc).setWidth 128 = keepBytes w 8 := by
  rw [keepBytes_eq_setWidth, ← field_zero w]
  simp (disch := omega) only [F64M.toBits, F64M.ofBits, ← hl, ← ho, field_append]

theorem F64B.toBits_ofBits (hl : field w 0 2 = 1#2) : ((F64B.ofBits w).toBits opc).setWidth 128 = keepBytes w 8 := by
  rw [keepBytes_eq_setWidth, ← field_zero w]
  simp (disch := omega) only [F64B.toBits, F64B.ofBits, ← hl, ← ho, field_append]

theorem F64I.toBits_ofBits (hl : field w 0 2 = 1#2) : ((F64I.ofBits w).toBits opc).setWidth 128 = keepBytes w 8 := by
  rw [keepBytes_eq_setWidth, ← field_zero w]
  simp (disch := omega) only [F64I.toBits, F64I.ofBits, ← hl, ← ho, field_append]

theorem F96Q.toBits_ofBits (hl : field w 0 2 = 2#2) : ((F96Q.ofBits w).toBits opc).setWidth 128 = keepBytes w 12 := by
  rw [keepBytes_eq_setWidth, ← field_zero w]
  simp (disch := omega) only [F96Q.toBits, F96Q.ofBits, F64A.ofBits, ← hl, ← ho, field_append]

theorem F96E.toBits_ofBits (hl : field w 0 2 = 2#2) : ((F96E.ofBits w).toBits opc).setWidth 128 = keepBytes w 12 := by
  rw [keepBytes_eq_setWidth, ← field_zero w]
  simp (disch := omega) only [F96E.toBits, F96E.ofBits, ← hl, ← ho, field_append]

theorem F96I.toBits_ofBits (hl : field w 0 2 = 2#2) : ((F96I.ofBits w).toBits opc).setWidth 128 = keepBytes w 12 := by
  rw [keepBytes_eq_setWidth, ← field_zero w]
  simp (disch := omega) only [F96I.toBits, F96I.ofBits, ← hl, ← ho, field_append]

theorem F128C.toBits_ofBits (hl : field w 0 2 = 3#2) : (F128C.ofBits w).toBits opc = w := by
  simp (disch := omega) only [F128C.toBits, F128C.ofBits, ← hl, ← ho, field_append]
  exact (field_zero w 128).trans (BitVec.setWidth_eq w)

end Formats

/-! ## The opcode maps (R60-R63) -/

section Maps
variable {w : BitVec 128} {i : Instr}

theorem opcode_of_toNat {opc : Nat} (h : (field w 2 8).toNat = opc) : field w 2 8 = BitVec.ofNat 8 opc := by
  rw [← h, BitVec.ofNat_toNat, BitVec.setWidth_eq]

/-- An instruction of the 64-bit class has the bits that it was read from. -/
theorem encodeBits_opcode64 (hl : field w 0 2 = 1#2) (h : opcode64 (field w 2 8).toNat w = some i) :
    encodeBits i = (8, keepBytes w 8) := by
  generalize ho : (field w 2 8).toNat = opc at h
  have hA := F64A.toBits_ofBits (opcode_of_toNat ho) hl
  have hM := F64M.toBits_ofBits (opcode_of_toNat ho) hl
  have hB := F64B.toBits_ofBits (opcode_of_toNat ho) hl
  have hI := F64I.toBits_ofBits (opcode_of_toNat ho) hl
  clear ho hl
  simp only [opcode64, Option.orElse_eq_some] at h
  obtain h | ⟨-, h | ⟨-, h | ⟨-, h | ⟨-, h⟩⟩⟩⟩ := h
  all_goals
    simp only [opcodes64a, opcodes64b, opcodes64c, opcodes64d, opcodes64e] at h
    split at h <;> cases h <;> simp only [encodeBits, hA, hM, hB, hI]

/-- An instruction of the 96-bit class has the bits that it was read from. -/
theorem encodeBits_opcode96 (hl : field w 0 2 = 2#2) (h : opcode96 (field w 2 8).toNat w = some i) :
    encodeBits i = (12, keepBytes w 12) := by
  generalize ho : (field w 2 8).toNat = opc at h
  have hQ := F96Q.toBits_ofBits (opcode_of_toNat ho) hl
  have hE := F96E.toBits_ofBits (opcode_of_toNat ho) hl
  have hI := F96I.toBits_ofBits (opcode_of_toNat ho) hl
  clear ho hl
  simp only [opcode96, Option.orElse_eq_some] at h
  obtain h | ⟨-, h | ⟨-, h⟩⟩ := h
  all_goals
    simp only [opcodes96a, opcodes96b, opcodes96c] at h
    split at h <;> cases h <;> simp only [encodeBits, hQ, hE, hI]

/-- An instruction of the 128-bit class has the bits that it was read from. -/
theorem encodeBits_opcode128 (hl : field w 0 2 = 3#2) (h : opcode128 (field w 2 8).toNat w = some i) :
    encodeBits i = (16, w) := by
  generalize ho : (field w 2 8).toNat = opc at h
  have hC := F128C.toBits_ofBits (opcode_of_toNat ho) hl
  clear ho hl
  simp only [opcode128, opcodes128a] at h
  split at h <;> cases h <;> simp only [encodeBits, hC]

end Maps

theorem keepBytes_whole (w : BitVec 128) : keepBytes w 16 = w := keepBytes_of_lt w.isLt

/-- The four length classes (R52). -/
theorem length_classes (n : BitVec 2) : n = 0#2 ∨ n = 1#2 ∨ n = 2#2 ∨ n = 3#2 := by
  revert n
  decide

/-- What bits decode to has their length and those of them that the length covers, whatever it is (R52, R53, R60-R63). -/
theorem encodeBits_decodeBits (w : BitVec 128) :
    encodeBits (decodeBits w) = (lengthOf (field w 0 32), keepBytes w (lengthOf (field w 0 32))) := by
  obtain hl | hl | hl | hl := length_classes (field w 0 2)
  case inl =>
    have hn : lengthOf (field w 0 32) = 4 := lengthOf_class hl
    simp only [hn, decodeBits, hl, BitVec.reduceToNat]
    split
    · next hp => simp only [encodeBits, ← hp, keepBytes_eq_setWidth, ← field_zero w]
    · simp only [encodeBits, keepBytes_eq_setWidth, ← field_zero w]
  case inr.inl =>
    have hn : lengthOf (field w 0 32) = 8 := lengthOf_class hl
    simp only [hn, decodeBits, hl, BitVec.reduceToNat]
    cases h : opcode64 (field w 2 8).toNat w with
    | some i => exact encodeBits_opcode64 hl h
    | none => simp only [Option.getD_none, encodeBits, field_keepBytes w (show 0 + 32 ≤ 8 * 8 by decide), hn]
  case inr.inr.inl =>
    have hn : lengthOf (field w 0 32) = 12 := lengthOf_class hl
    simp only [hn, decodeBits, hl, BitVec.reduceToNat]
    cases h : opcode96 (field w 2 8).toNat w with
    | some i => exact encodeBits_opcode96 hl h
    | none => simp only [Option.getD_none, encodeBits, field_keepBytes w (show 0 + 32 ≤ 8 * 12 by decide), hn]
  case inr.inr.inr =>
    have hn : lengthOf (field w 0 32) = 16 := lengthOf_class hl
    simp only [hn, decodeBits, hl, BitVec.reduceToNat, keepBytes_whole]
    cases h : opcode128 (field w 2 8).toNat w with
    | some i => exact encodeBits_opcode128 hl h
    | none => simp only [Option.getD_none, encodeBits, hn]

/-! ## Bytes (R52) -/

/-- The bits that stand in a list of bytes: at most those of the longest instruction. -/
theorem toNat_bitsOfBytes {bs : List Byte} (h : bs.length ≤ 16) : (BitVec.ofNat 128 (ofBytes bs)).toNat = ofBytes bs := by
  rw [BitVec.toNat_ofNat, Nat.mod_eq_of_lt]
  calc ofBytes bs < 256 ^ bs.length := Machine.ofBytes_lt bs
    _ ≤ 256 ^ 16 := Nat.pow_le_pow_right (by decide) h
    _ = 2 ^ 128 := by decide

/-- The first word of an instruction's bytes is the first word of its bits. -/
theorem firstWord_ofBytes {bs : List Byte} (h4 : 4 ≤ bs.length) :
    BitVec.ofNat 32 (ofBytes (bs.take 4)) = field (BitVec.ofNat 128 (ofBytes bs)) 0 32 := by
  rw [field_zero, ofBytes_take h4]
  apply BitVec.eq_of_toNat_eq
  simp

/-- The decoder reads an instruction where its bytes are as many as their first word says. -/
theorem decode_append {bs : List Byte} (hn : lengthOf (field (BitVec.ofNat 128 (ofBytes bs)) 0 32) = bs.length) (rest : List Byte) :
    decode (bs ++ rest) = .ok (decodeBits (BitVec.ofNat 128 (ofBytes bs)), rest) := by
  obtain ⟨h4, -⟩ := lengthOf_words (field (BitVec.ofNat 128 (ofBytes bs)) 0 32)
  rw [hn] at h4
  have hshort : ¬((bs ++ rest).length < 4 ∨ (bs ++ rest).length < bs.length) := by
    rw [List.length_append]
    omega
  simp only [decode]
  rw [List.take_append_of_le_length h4, firstWord_ofBytes h4, hn, if_neg hshort, List.take_left, List.drop_left]

/-- What the decoder answers, it has read from as many bytes as their first word says. -/
theorem decode_inv {bs rest : List Byte} {i : Instr} (h : decode bs = .ok (i, rest)) :
    ∃ is, bs = is ++ rest ∧ i = decodeBits (BitVec.ofNat 128 (ofBytes is)) ∧
      lengthOf (field (BitVec.ofNat 128 (ofBytes is)) 0 32) = is.length := by
  simp only [decode] at h
  split at h
  · cases h
  next hs =>
    obtain ⟨h4, -⟩ := lengthOf_words (BitVec.ofNat 32 (ofBytes (bs.take 4)))
    generalize hn : lengthOf (BitVec.ofNat 32 (ofBytes (bs.take 4))) = n at h hs h4
    have hl : (bs.take n).length = n := List.length_take_of_le (by omega)
    cases h
    refine ⟨bs.take n, (List.take_append_drop n bs).symm, rfl, ?_⟩
    rw [← firstWord_ofBytes (by omega), List.take_take, Nat.min_eq_left h4, hn, hl]

/-- The words of every instruction that has words of its own decode to it: those of an encoded instruction by its format, whose map
assigns the opcode that the encoder writes. -/
theorem decodeBits_encodeBits {i : Instr} (h : hasWords i = true) : decodeBits (encodeBits i).2 = i := by
  cases i with
  | illegalFormat w => exact Laws.RoundTrip.illegalFormat w h
  | unassignedOpcode w => exact Laws.RoundTrip.unassignedOpcode w h
  | pad => exact Laws.RoundTrip.pad h
  | _ =>
    cases h <;>
    next f => exact f.decodeBits_toBits _ _ (fun _ => rfl)

/-- The bits of an instruction have its length in their first word and nothing above it: cut to the length that they give, they are the
bits of what they decode to. -/
theorem encodeBits_own {i : Instr} (h : hasWords i = true) :
    lengthOf (field (encodeBits i).2 0 32) = i.length ∧ ofBytes (encode i) = (encodeBits i).2.toNat := by
  have he := encodeBits_decodeBits (encodeBits i).2
  rw [decodeBits_encodeBits h] at he
  have hn : lengthOf (field (encodeBits i).2 0 32) = i.length := (congrArg Prod.fst he).symm
  have hk : (keepBytes (encodeBits i).2 i.length).toNat = (encodeBits i).2.toNat := by
    rw [← hn]
    exact congrArg (fun x => x.2.toNat) he.symm
  refine ⟨hn, ?_⟩
  rw [encode, ofBytes_toBytes, ← toNat_keepBytes, hk]

/-- Settles O2: an instruction's bytes give its length and its bits, which decode to it. -/
theorem decodeInvertsEncode : Obligations.DecodeInvertsEncode := by
  unfold Obligations.DecodeInvertsEncode
  intro i rest h
  obtain ⟨hn, hb⟩ := encodeBits_own h
  have hw : BitVec.ofNat 128 (ofBytes (encode i)) = (encodeBits i).2 := by rw [hb, BitVec.ofNat_toNat, BitVec.setWidth_eq]
  have hd := decode_append (bs := encode i) (by rw [hw, hn, encode, Machine.length_toBytes]) rest
  rwa [hw, decodeBits_encodeBits h] at hd

/-- Settles O3: what the decoder has read from bytes has those bytes. -/
theorem encodeInvertsDecode : Obligations.EncodeInvertsDecode := by
  unfold Obligations.EncodeInvertsDecode
  intro bs rest i h
  obtain ⟨is, rfl, rfl, hn⟩ := decode_inv h
  have h16 := (lengthOf_words (field (BitVec.ofNat 128 (ofBytes is)) 0 32)).2
  rw [hn] at h16
  have hv := toNat_bitsOfBytes h16
  rw [encode, Instr.length, encodeBits_decodeBits, hn, keepBytes_of_lt (by rw [hv]; exact Machine.ofBytes_lt is), hv, toBytes_ofBytes]

end Sys2Proof
end

section
/-! SUPPORT. What a turn and a fetch come to: the rules of the fetch, the statement about a step and the one about what a fetch finds in
place of an instruction (R52-R54, R63, R71, R276). -/

namespace Sys2Proof.Machine

open Sys2Proof.Claims

/-! ## The decoder on code bytes -/

theorem encode_pad : encode .pad = toBytes 4 padWord.toNat := rfl

theorem encode_illegalFormat (w : BitVec 32) : encode (.illegalFormat w) = toBytes 4 w.toNat := by
  have hw : (w.setWidth 128).toNat = w.toNat := BitVec.toNat_setWidth_of_le (by decide)
  exact congrArg (toBytes 4) hw

/-- A first word with L = 0 is PAD or has a wrong format (R53). -/
theorem decode_wordOfNoLength {w : BitVec 32} (h : w.extractLsb' 0 2 = 0) :
    decode (toBytes 4 w.toNat) = .ok (if w = padWord then .pad else .illegalFormat w, []) := by
  split
  · next hp =>
    rw [hp, ← encode_pad, ← List.append_nil (encode .pad)]
    exact decodeInvertsEncode .pad [] rfl
  · next hp =>
    rw [← encode_illegalFormat, ← List.append_nil (encode _)]
    exact decodeInvertsEncode (.illegalFormat w) [] (by simp [hasWords, h, hp])

/-- The first word alone of an instruction of more words has a wrong format (R53). -/
theorem fetchedInstr_wordAlone {bs : List Byte} (h4 : bs.length = 4) (hl : (BitVec.ofNat 32 (ofBytes bs)).extractLsb' 0 2 ≠ 0) :
    fetchedInstr bs = .illegalFormat (BitVec.ofNat 32 (ofBytes bs)) := by
  have ht : bs.take 4 = bs := List.take_of_length_le (Nat.le_of_eq h4)
  have hn : 4 < lengthOf (BitVec.ofNat 32 (ofBytes bs)) := by
    obtain h0 | h1 | h2 | h3 := length_classes ((BitVec.ofNat 32 (ofBytes bs)).extractLsb' 0 2)
    · exact absurd h0 hl
    · rw [lengthOf, h1]; decide
    · rw [lengthOf, h2]; decide
    · rw [lengthOf, h3]; decide
  have hd : decode bs = .error .truncated := by
    simp only [decode, ht, h4]
    exact if_pos (.inr hn)
  rw [fetchedInstr, hd, ht]

/-! ## The fetch (R71) -/

section Fetch
variable {s : State} (hs : pairStalled s s.focus = false)
include hs

theorem fetch_misaligned (h : (s.seq s.focus).pc.toNat % 4 ≠ 0) :
    fetch s = .done (raiseTrap s.focus 0x0A (s.seq s.focus).pc none (s.seq s.focus).pc s) := by
  simp only [fetch, hs, Bool.false_eq_true, if_false]
  exact if_pos h

variable (ha : (s.seq s.focus).pc.toNat % 4 = 0) (hc : codeAbsent s s.focus (s.seq s.focus).pc = false)
include ha hc

theorem fetch_untranslated {denied : Bool} (h : codeBytes s s.focus (s.seq s.focus).pc 4 = .error denied) :
    fetch s = .run (.fetchTranslationFault (s.seq s.focus).pc denied) s := by
  simp only [fetch, hs, hc, h, Bool.false_eq_true, if_false]
  exact if_neg (not_not.mpr ha)

variable {d e : Decoded} (h : codeBytes s s.focus (s.seq s.focus).pc 4 = .ok d)
  (he : codeBytes s s.focus (s.seq s.focus).pc (fetchLength (s.seq s.focus).pc (BitVec.ofNat 32 (ofBytes d.bytes))) = .ok e)
include h he

theorem fetch_decoded :
    fetch s = if e.poison.any id then
        .done (consumePoison s.focus (noteConsumed s.focus (s.seq s.focus).pc (afterDecode s.focus e s)))
      else .run (fetchedInstr e.bytes) (afterDecode s.focus e s) := by
  simp only [fetch, hs, hc, h, he, Bool.false_eq_true, if_false]
  exact if_neg (not_not.mpr ha)

theorem fetch_poisoned (hp : e.poison.any id = true) :
    fetch s = .done (consumePoison s.focus (noteConsumed s.focus (s.seq s.focus).pc (afterDecode s.focus e s))) := by
  rw [fetch_decoded hs ha hc h he, if_pos hp]

theorem fetch_clean (hp : e.poison.any id = false) : fetch s = .run (fetchedInstr e.bytes) (afterDecode s.focus e s) := by
  rw [fetch_decoded hs ha hc h he, if_neg (by rw [hp]; decide)]

end Fetch

/-- A word whose instruction would cross its fetch block is fetched alone (R54). -/
theorem fetchLength_crossing {pc : Word} {first : BitVec 32} (h : 32 < pc.toNat % 32 + lengthOf first) : fetchLength pc first = 4 :=
  if_neg (Nat.not_le.mpr h)

/-! ## The step -/

theorem nextTurn_run {s : State} {q : SeqId} (h : (turnOf s).1 = .run q) (hr : runnable (turnOf s).2 q = true) :
    nextTurn s = fetch { (turnOf s).2 with focus := q } := by
  rw [nextTurn, h]
  exact if_pos hr

theorem step_of_run {s t : State} {i : Instr} (h : nextTurn s = .run i t) : step s = exec i t := by rw [step, h]

/-- Settles O1: a sequencer's turn fetches, and clean bytes that decode are the instruction that is executed. -/
theorem stepRunsDecodedInstruction : Obligations.StepRunsDecodedInstruction := by
  unfold Obligations.StepRunsDecodedInstruction
  refine ⟨fun s t rest h => ?given, fun s h => ?chosen, fun s q d e i tail => ?run, fun s i n h => ?event⟩
  case given => rw [turnOf, h]
  case chosen => rw [turnOf, h]
  case run =>
    intro t pc hq hr hs ha hc hd he hp hi
    refine step_of_run ((nextTurn_run hq hr).trans ?_)
    have hf : fetchedInstr e.bytes = i := by rw [fetchedInstr, hi]
    rw [fetch_clean (s := t) hs ha hc hd he hp, hf]
  case event => exact step_of_run (by rw [nextTurn, h]; rfl)

/-! ## What a fetch finds -/

theorem exec_fetchDenied (a : Word) (s : State) :
    exec (.fetchTranslationFault a true) s = .next (raiseTrap s.focus 0x08 a none (s.seq s.focus).pc s) := rfl

theorem exec_fetchMissed (a : Word) (s : State) :
    exec (.fetchTranslationFault a false) s = .next (raiseTrap s.focus 0x07 a (some .fetch) (s.seq s.focus).pc s) := rfl

theorem exec_pad (s : State) : exec .pad s = .next (setPc s.focus ((s.seq s.focus).pc + 4) s) := rfl

/-- Settles O5: the decoder on a first word, the meanings of what is found, and the rules of the fetch. -/
theorem fetchFindings : Obligations.FetchFindings := by
  unfold Obligations.FetchFindings
  refine ⟨fun s => ⟨fun w => decode_wordOfNoLength, exec_pad s, fun w => ⟨_, exec_illegalFormat w s⟩,
    fun w => ⟨_, exec_unassignedOpcode w s⟩, fun a => ⟨_, exec_fetchDenied a s⟩, fun a => ⟨_, exec_fetchMissed a s⟩⟩, fun s hs => ?_⟩
  refine ⟨fetch_misaligned hs, fun ha hc d hd => ⟨fun hx hp h4 hl => ?crossing, fun e he => fetch_poisoned hs ha hc hd he⟩,
    fun ha hc denied => fetch_untranslated hs ha hc⟩
  case crossing =>
    have he := hd
    rw [← fetchLength_crossing hx] at he
    rw [fetch_clean hs ha hc hd he hp, fetchedInstr_wordAlone h4 hl]

end Sys2Proof.Machine
end

section
/-! SUPPORT. Words written out from the encodings, and what the control registers read after reset (R56, R60-R62, R67-R69, R97, R98,
R120, R122, R145, R180, R182, R238, R284, R286, R300). -/

namespace Sys2Proof.Machine

/-- Settles O4: each word is decoded. -/
theorem writtenWordsDecode : Obligations.WrittenWordsDecode := by
  unfold Obligations.WrittenWordsDecode
  decide

/-! ## Units at reset -/

theorem firing_reset (q : SeqId) : (State.reset.seq q).firing = none := by cases q <;> rfl

theorem tilePaired_reset (q : SeqId) : tilePaired State.reset q = false := by cases q <;> rfl

/-- STATUS at reset holds SUP and KIND alone (R68). -/
theorem status_reset (q : SeqId) :
    csrValue State.reset q .status = BitVec.ofNat 64 ((if q.kind = .s then 2 ^ 9 else 0) + (kindCode q).toNat * 2 ^ 7) := by
  simp only [csrValue, statusWord, firing_reset, tilePaired_reset, Bool.false_eq_true, if_false, Nat.add_zero]

/-- DRPST at reset counts no trip and shows no throttling (R300). -/
theorem drpst_reset (q : SeqId) : csrValue State.reset q .drpst = 0 := by
  have hc : droopCluster State.reset q = Cluster.reset := rfl
  simp only [csrValue, drpstWord, hc]
  simp [settleTrip, droopBits, ballastAt, stretchedAt, Cluster.reset]

/-- Settles O7: the lists of units are empty, so every unit reads as its reset value. -/
theorem resetState : Obligations.ResetState := by
  unfold Obligations.ResetState
  refine ⟨⟨Mem.wf_reset, rfl, fun k => rfl⟩, fun n => ⟨?statusA, ?statusX, ?statusM, ?statusS, ?cause, rfl, rfl, rfl, rfl, rfl, rfl, rfl,
    rfl, rfl, rfl, rfl, rfl, rfl, rfl, rfl, rfl, ?interval, rfl, rfl, ?threshold, ?trips, fun i hi => ?counters⟩⟩
  case statusA | statusX | statusM | statusS => simp [status_reset, SeqId.kind, kindCode]
  case cause =>
    exact (by decide : BitVec.ofNat 64 ((0xFFFF#16).toNat * 2 ^ 48 + (0#2).toNat * 2 ^ 46 + (0#8).toNat) = 0xFFFF000000000000)
  case interval => exact (by decide : BitVec.ofNat 64 intervalLength = 4096)
  case threshold => exact (by decide : (0x04182D#24).setWidth 64 = 0x04182D)
  case trips => exact drpst_reset (.s n)
  case counters => interval_cases i <;> exact ⟨rfl, rfl⟩

end Sys2Proof.Machine
end

section
/-! SUPPORT. The F64-I forms, LI and the compares: what each body does with sources that are no queue and no stream, the values of the
integer conditions, and the statement about them (R58, R333, R351, R366, R387, R392). -/

namespace Sys2Proof.Machine

open Sys2Proof.Claims

/-! ## The bodies of the immediate forms (R58, R387) -/

/-- Every F64-I form with a source issues the body of its operation. -/
theorem exec_immRow {i : Instr} {op : IntOp} {f : F64I} (h : immRow i = some (op, f)) (s : State) :
    exec i s = issue i f.pred f.pneg (immBody op f) s := by
  cases i <;> cases h <;> rfl

theorem exec_movImm (f : F64I) (s : State) : exec (.movImm f) s = issue (.movImm f) f.pred f.pneg (movImmBody f) s := rfl
theorem exec_li (f : F96I) (s : State) : exec (.li f) s = issue (.li f) f.pred f.pneg (liBody f) s := rfl

/-- A destination register alone waits for nothing. -/
theorem run_queueWaits_dest {d : Nat} (w : BitVec 8) (u : State) (hd : d < 32) : (queueWaits [⟨d, w, true, false⟩]).run u = .ok () u :=
  run_queueWaits u (by simpa only [List.forall_mem_cons] using ⟨lt_noQueue hd, by simp⟩)

section Immediates
variable {u : State}

theorem run_immBody {op : IntOp} {f : F64I} {a : Word} (ha : scalarAt u f.ty.toNat f.a 0 = some a) (hd : f.d.toNat < 32)
    (hx : xFree u f.d.toNat = true) : (immBody op f).run u = .ok .fall (withX f.d.toNat
      (extend f.ty.toNat (op f.ty.toNat 0 a.toNat (f.imm34.signExtend 64).toNat 0)) false u) := by
  have hw : (queueWaits (immOperands f)).run u = .ok () u := run_queueWaits u (by
    simp only [immOperands, List.forall_mem_cons]
    exact ⟨scalarAt_noQueue ha, lt_noQueue hd, by simp⟩)
  simp only [immBody, EStateM.run_bind, hw, run_useSource _ ha, run_putDest _ _ _ hd hx, EStateM.run_pure, F64I.value]

theorem run_movImmBody {f : F64I} (hd : f.d.toNat < 32) (hx : xFree u f.d.toNat = true) : (movImmBody f).run u =
    .ok .fall (withX f.d.toNat (extend f.ty.toNat (f.imm34.signExtend 64).toNat) false u) := by
  simp only [movImmBody, EStateM.run_bind, run_queueWaits_dest _ _ hd, run_putDest _ _ _ hd hx, EStateM.run_pure, F64I.value]

theorem run_liBody {f : F96I} (hd : f.d.toNat < 32) (hx : xFree u f.d.toNat = true) :
    (liBody f).run u = .ok .fall (withX f.d.toNat f.imm64 false u) := by
  simp only [liBody, EStateM.run_bind, run_queueWaits_dest _ _ hd, run_putDest _ _ _ hd hx, EStateM.run_pure]

end Immediates

/-! ## The bodies of the compares (R351, R366) -/

theorem exec_cmpImm (f : F64I) (s : State) : exec (.cmpImm f) s = issue (.cmpImm f) f.pred f.pneg (cmpImmBody f) s := rfl

section Compares
variable {u : State} {f : F96Q} {a b c : Word}

/-- The sources of a compare wait for nothing when neither is a queue; its D names a predicate. -/
theorem run_queueWaits_compare {ty : Nat} (h : scalarsAt u 2 ty f.base = some (a, b, c)) :
    (queueWaits ((operands 2 f true false false false false).take 2)).run u = .ok () u := by
  obtain ⟨_, _, _, ha, hb, -⟩ := scalarsAt_inv h
  refine run_queueWaits u ?_
  simp only [operands, List.take, List.cons_append, List.nil_append, List.forall_mem_cons]
  exact ⟨scalarAt_noQueue ha, scalarAt_noQueue (hb (Nat.le_refl 2)), by simp⟩

theorem run_cmpBody (h : scalarsAt u 2 f.base.ty.toNat f.base = some (a, b, c)) : (cmpBody f).run u =
    .ok .fall (withP f.base.d.toNat (cmpHolds f.base.ty.toNat f.base.fn5 a.toNat b.toNat) u) := by
  simp only [cmpBody, EStateM.run_bind, run_queueWaits_compare h, run_useABC h, run_putP, EStateM.run_pure]

theorem run_fcmpBody (h : scalarsAt u 2 f.base.ty.toNat f.base = some (a, b, c)) {r : Bool × Flags}
    (hr : fcmp f.base.fn5 ((fmtOf f.base.ty.toNat).decode a.toNat) ((fmtOf f.base.ty.toNat).decode b.toNat) = r) :
    (fcmpBody f).run u = .ok .fall (withFlags r.2 (withP f.base.d.toNat r.1 u)) := by
  simp only [fcmpBody, EStateM.run_bind, run_queueWaits_compare h, run_useABC h, hr, run_putP, run_raiseFlags, EStateM.run_pure]

theorem run_cmpImmBody {f : F64I} (h : scalarAt u f.ty.toNat f.a 0 = some a) : (cmpImmBody f).run u =
    .ok .fall (withP (f.d.toNat % 8) (cmpHolds f.ty.toNat (f.d.toNat / 8) a.toNat (f.imm34.signExtend 64).toNat) u) := by
  have hw : (queueWaits ((immOperands f).take 1)).run u = .ok () u := run_queueWaits u (by
    simp only [immOperands, List.take, List.forall_mem_cons]
    exact ⟨scalarAt_noQueue h, by simp⟩)
  simp only [cmpImmBody, EStateM.run_bind, hw, run_useSource _ h, run_putP, EStateM.run_pure, F64I.value]

end Compares

/-! ## The integer conditions (R351) -/

theorem tyWidth_pos (ty : Nat) : 0 < tyWidth ty := by
  unfold tyWidth
  split <;> decide

/-- The signed number of a pattern of `w` bits. -/
theorem signedAtWidth_eq_toInt {w : Nat} (a : Nat) (hw : 0 < w) : signedAtWidth w a = (BitVec.ofNat w a).toInt := by
  obtain ⟨k, rfl⟩ : ∃ k, w = k + 1 := ⟨w - 1, by omega⟩
  have hp : 2 ^ (k + 1) = 2 * 2 ^ k := Nat.pow_succ'
  rw [signedAtWidth, BitVec.toInt_eq_toNat_cond, BitVec.toNat_ofNat, Nat.add_sub_cancel]
  split <;> split <;> push_cast <;> omega

theorem cmpHolds_value (ty cc a b : Nat) :
    let x := BitVec.ofNat (tyWidth ty) a
    let y := BitVec.ofNat (tyWidth ty) b
    cmpHolds ty cc a b = (match cc with
      | 0 => x == y
      | 1 => x != y
      | 2 => x.slt y
      | 3 => !x.slt y
      | 4 => x.ult y
      | _ => !x.ult y) := by
  have he : (BitVec.ofNat (tyWidth ty) a = BitVec.ofNat (tyWidth ty) b) ↔ a % 2 ^ tyWidth ty = b % 2 ^ tyWidth ty := by
    rw [← BitVec.toNat_inj, BitVec.toNat_ofNat, BitVec.toNat_ofNat]
  have hi : ∀ v, signedAtWidth (tyWidth ty) v = (BitVec.ofNat (tyWidth ty) v).toInt := fun v =>
    signedAtWidth_eq_toInt v (tyWidth_pos ty)
  simp only [cmpHolds, hi, BitVec.slt_eq_decide, BitVec.ult, BitVec.toNat_ofNat]
  match cc with
  | 0 => exact (decide_eq_decide.mpr he.symm).trans (beq_eq_decide ..).symm
  | 1 => exact (decide_not ..).trans (congrArg not ((decide_eq_decide.mpr he.symm).trans (beq_eq_decide ..).symm))
  | 2 => rfl
  | 3 => exact (decide_eq_decide.mpr Int.not_lt.symm).trans (decide_not ..)
  | 4 => rfl
  | n + 5 => exact (decide_eq_decide.mpr Nat.not_lt.symm).trans (decide_not ..)

/-- Settles O13: each body's run with such sources, and the conditions on patterns of the type's width. -/
theorem immediateFormsAndCompares : Obligations.ImmediateFormsAndCompares := by
  unfold Obligations.ImmediateFormsAndCompares
  refine ⟨⟨fun s i op f a hi h ha hd hx => ?imm, fun s f h hd hx => issue_runs h (run_movImmBody hd hx),
    fun s f h hd hx => issue_runs h (run_liBody hd hx)⟩, fun s i f a b c hi h hs => ?cmp,
    fun s f a h ha => issue_runs h (run_cmpImmBody ha), fun s i f a b c hi h hs => ?fcmp, fun ty cc a b _ => cmpHolds_value ty cc _ _⟩
  case imm =>
    rw [exec_immRow hi]
    exact issue_runs h (run_immBody ha hd hx)
  case cmp => exact either (body := cmpBody) hi rfl rfl h fun g hg => by rw [← hg] at hs ⊢; exact run_cmpBody hs
  case fcmp => exact either (body := fcmpBody) hi rfl rfl h fun g hg => by rw [← hg] at hs ⊢; exact run_fcmpBody hs rfl

end Sys2Proof.Machine
end

section
/-! SUPPORT. The address checks of an access: what each check of R156 raises where the ones before it pass, and that LD and ST make them
before anything else (R70, R156). -/

namespace Sys2Proof.Machine

open Sys2Proof.Claims

/-! ## The checks in their order (R156) -/

section Checks
variable {u : State} {a : Word} {n align : Nat}

theorem run_checkAddress_form (h : (formOk a && !shutOut u u.focus a) = false) :
    (checkAddress a n align).run u = .error (.trap 0x04 a none) u := by
  simp only [checkAddress, EStateM.run_bind, EStateM.run_get, run_check, h, Bool.false_eq_true, if_false]

variable (h : (formOk a && !shutOut u u.focus a) = true)
include h

theorem run_checkAddress_range {c : Byte} (hr : rangeCause a n = some c) :
    (checkAddress a n align).run u = .error (.trap c a none) u := by
  simp only [checkAddress, EStateM.run_bind, EStateM.run_get, run_check, h, if_true, hr, run_trap]

variable (hr : rangeCause a n = none)
include hr

theorem run_checkAddress_misaligned (ha : a.toNat % align ≠ 0) :
    (checkAddress a n align).run u = .error (.trap 0x0A a none) u := by
  simp only [checkAddress, EStateM.run_bind, EStateM.run_get, run_check, h, if_true, hr, ha, decide_false,
    Bool.false_eq_true, if_false]

theorem run_checkAddress_group (ha : a.toNat % align = 0) (hf : formOf a = 1) (hg : mayReach u u.focus (gtileOf u a) = false) :
    (checkAddress a n align).run u = .error (.trap 0x0B a none) u := by
  simp only [checkAddress, EStateM.run_bind, EStateM.run_get, run_check, h, if_true, hr, ha, decide_true, hf, hg,
    Bool.false_eq_true, if_false]

end Checks

/-! ## The instructions that make them -/

/-- An access that fails a check has no place. -/
theorem run_locate_stop {u : State} {a : Word} {n align : Nat} {e : Stop} (h : (checkAddress a n align).run u = .error e u)
    (acc : Access) (q : Bool) : (locate a n align acc [] q).run u = .error e u := by
  have hr : (resolve a n align acc).run u = .error e u := by simp only [resolve, EStateM.run_bind, h]
  simp only [locate, EStateM.run_bind, EStateM.run_get]
  split
  · simp only [EStateM.run_bind, h]
  · simp only [EStateM.run_bind, hr]

/-- LD or ST of a register operand that fails a check of its address raises the check's cause and has no other effect. -/
theorem exec_access_stop {s : State} {i : Instr} {f : F64M} {c : Byte} (hi : i = .ld f ∨ i = .st f) (h : Ready s i f.pred f.pneg)
    (hfe : f.fe = 0) (hd : f.d.toNat < 32) (hb : xOk (issued s) f.base.toNat = true) (hc : c ≠ 0x01)
    (ha : (checkAddress (addressOf (issued s) f) (tyWidth f.ty.toNat / 8) (tyWidth f.ty.toNat / 8)).run (issued s) =
      .error (.trap c (addressOf (issued s) f) none) (issued s)) :
    exec i s = traps s i c (addressOf (issued s) f) := by
  have hw : ∀ d, (queueWaits [⟨f.d.toNat, 0, d, false⟩]).run (issued s) = .ok () (issued s) := fun d =>
    run_queueWaits _ (by simpa only [List.forall_mem_cons] using ⟨lt_noQueue hd, by simp⟩)
  have hp : ¬ f.fe ≠ 0 := not_not.mpr hfe
  rcases hi with rfl | rfl
  · have hbody : (ldBody f).run (issued s) = .error (.trap c (addressOf (issued s) f) none) (issued s) := by
      rw [ldBody]
      simp only [EStateM.run_bind, hw, run_baseAddress hb, hp, if_false, run_locate_stop ha]
    rw [exec_ld, issue_traps_unchanged h hbody hc]
  · have hbody : (stBody f).run (issued s) = .error (.trap c (addressOf (issued s) f) none) (issued s) := by
      rw [stBody]
      simp only [EStateM.run_bind, hw, run_baseAddress hb, hp, if_false, run_locate_stop ha]
    rw [exec_st, issue_traps_unchanged h hbody hc]

/-- Settles O27: the first check that fails gives the cause. -/
theorem addressChecksInOrder : Obligations.AddressChecksInOrder := by
  unfold Obligations.AddressChecksInOrder
  intro s i f hi h hfe hd u n a hb form
  have stop := fun c => exec_access_stop (c := c) hi h hfe hd hb
  refine ⟨fun hf => ?form, fun hf h0 hr => ?range, fun hf h1 hr => ?offset, fun hf hr ha => ?alignment, fun hf hr ha h1 hg => ?group⟩
  case form => exact stop 0x04 (by decide) (run_checkAddress_form hf)
  case range => exact stop 0x05 (by decide) (run_checkAddress_range hf (by rw [rangeCause, if_pos h0, if_pos hr]))
  case offset =>
    exact stop 0x04 (by decide) (run_checkAddress_range hf (by rw [rangeCause, if_neg (by rw [h1]; decide), if_pos hr]))
  case alignment => exact stop 0x0A (by decide) (run_checkAddress_misaligned hf hr ha)
  case group => exact stop 0x0B (by decide) (run_checkAddress_group hf hr ha h1 hg)

end Sys2Proof.Machine
end

section
/-! SUPPORT. Control and status registers, counters, clocks and the waits WFE and HALT: what each body does outside a pair, what a write of
a register leaves, how a service core takes its oldest trap, and the statement about them (R67, R69, R70, R77, R79, R285, R301, R302, R354,
R355, R359, R381, R440, R441). -/

namespace Sys2Proof.Machine

open Sys2Proof.Claims

/-! ## Ends of an instruction -/

/-- A body that raises 0x01 before it changes anything leaves the state at the issue to the trap, with the instruction's low bits. -/
theorem issue_refuses {s : State} {i : Instr} {p : BitVec 3} {n : BitVec 1} {body : Exec Flow} (h : Ready s i p n)
    (hb : body.run (issued s) = .error (.trap 0x01 (lowBits i) none) (issued s)) : issue i p n body s = traps s i 0x01 (lowBits i) := by
  rw [issue_traps h hb, if_pos rfl, keepFindings_self, traps]

/-! ## A table whose values change one by one -/

/-- What a change of every value leaves of each, it leaves of what the table reads. -/
theorem get_map_of_kept {α β : Type} {g : α → β} {f : Nat × α → Nat × α} (hk : ∀ e, (f e).1 = e.1) (hg : ∀ e, g (f e).2 = g e.2)
    (d : α) (m : Assoc α) (k : Nat) : g (Assoc.get d (m.map f) k) = g (Assoc.get d m k) := by
  induction m with
  | nil => rfl
  | cons e m ih =>
    have he : f e = (e.1, (f e).2) := by rw [← hk e]
    rw [List.map_cons, he, Assoc.get, Assoc.get]
    split
    · exact hg e
    · exact ih

/-! ## What a write of a CSR leaves (R354) -/

/-- The focus, memory, every sequencer's firing and every tile's place in a pair are as before. -/
structure KeepsRoles (s t : State) : Prop where
  focus : t.focus = s.focus
  mem : t.mem = s.mem
  firing : ∀ q, (t.seq q).firing = (s.seq q).firing
  twin : ∀ k, (t.tile k).twin = (s.tile k).twin

namespace KeepsRoles
variable {s : State}

theorem refl (s : State) : KeepsRoles s s := ⟨rfl, rfl, fun _ => rfl, fun _ => rfl⟩

theorem role {t : State} (h : KeepsRoles s t) : role t = role s := by
  have hg : ∀ q, isGondola (t.seq q) = isGondola (s.seq q) := fun q => by rw [isGondola, isGondola, h.firing q]
  simp only [Claims.role, memberOf, h.focus, hg, h.twin]

theorem modSeq (q : SeqId) {f : Seq → Seq} (hf : ∀ u, (f u).firing = u.firing) : KeepsRoles s (s.modSeq q f) where
  focus := State.focus_modSeq ..
  mem := State.mem_modSeq ..
  firing r := by
    by_cases h : r = q
    · subst h; rw [State.seq_modSeq_same, hf]
    · rw [State.seq_modSeq_other _ _ h]
  twin k := by rw [tile_modSeq]

theorem modCluster (c : Nat) {f : Cluster → Cluster} (hf : ∀ u, (f u).svc = u.svc) : KeepsRoles s (s.modCluster c f) where
  focus := rfl
  mem := rfl
  firing q := by
    cases q with
    | s k =>
      by_cases h : k = c
      · subst h; rw [State.seq, State.cluster_modCluster_same, hf]; rfl
      · rw [State.seq, State.cluster_modCluster_other _ _ h]; rfl
    | _ => rfl
  twin _ := rfl

theorem modTile (n : Nat) {f : Tile → Tile} (ha : ∀ u, (f u).a = u.a) (hx : ∀ u, (f u).x = u.x) (ht : ∀ u, (f u).twin = u.twin) :
    KeepsRoles s (s.modTile n f) := by
  have hw : ∀ {α : Type} (g : Tile → α), (∀ u, g (f u) = g u) → ∀ k, g ((s.modTile n f).tile k) = g (s.tile k) := fun g hg k => by
    by_cases h : k = n
    · subst h; rw [State.tile_modTile_same, hg]
    · rw [State.tile_modTile_other _ _ h]
  refine ⟨rfl, rfl, fun q => ?_, hw Tile.twin ht⟩
  cases q with
  | a k => exact congrArg Seq.firing (hw Tile.a ha k)
  | x k => exact congrArg Seq.firing (hw Tile.x hx k)
  | _ => rfl

theorem modPart (p : Nat) (f : Part → Part) : KeepsRoles s (s.modPart p f) :=
  ⟨rfl, rfl, fun q => by rw [State.seq_modPart], fun _ => rfl⟩

theorem modGang (g : Nat) (f : Gang → Gang) : KeepsRoles s (s.modGang g f) :=
  ⟨rfl, rfl, fun q => by rw [State.seq_modGang], fun _ => rfl⟩

theorem dropPartition {t : State} (h : KeepsRoles s t) (p : Nat) : KeepsRoles s (dropPartition p t) where
  focus := h.focus
  mem := h.mem
  firing q := by
    rw [← h.firing q]
    cases q with
    | s k => refine get_map_of_kept (g := fun u : Cluster => u.svc.firing) ?_ ?_ _ _ k <;> exact fun _ => rfl
    | m k => refine get_map_of_kept (g := fun u : MCore => u.m.firing) ?_ ?_ _ _ k <;> exact fun _ => rfl
    | _ => rfl
  twin := h.twin

end KeepsRoles

/-- Every write of a CSR is a change of one unit that leaves firings, pairs and memory. -/
theorem keepsRoles_csrWrite (q : SeqId) (c : Csr) (v : Word) (s : State) : KeepsRoles s (csrWrite q c v s) := by
  cases c with
  | cause | epc | tval | tvec | drpth | drpst =>
    simp only [csrWrite]
    exact .modCluster _ fun _ => rfl
  | fprm | fpstat | cspill | csplim =>
    simp only [csrWrite]
    exact .modSeq _ fun _ => rfl
  | livelim | lpool | ldepth =>
    simp only [csrWrite]
    exact .modGang ..
  | atbase | errcnt =>
    simp only [csrWrite]
    exact .modPart ..
  | atcfg =>
    simp only [csrWrite]
    split
    · exact .modPart ..
    · exact (KeepsRoles.modPart ..).dropPartition _
  | evtmin =>
    simp only [csrWrite]
    split
    · exact .modCluster _ fun _ => rfl
    · exact .refl s
  | pairst =>
    simp only [csrWrite]
    split
    · exact .modCluster _ fun _ => rfl
    · exact .refl s
  | arrcap =>
    simp only [csrWrite]
    split
    · exact .refl s
    · split
      · exact .modTile _ (fun _ => rfl) (fun _ => rfl) (fun _ => rfl)
      · exact .refl s
    · exact .refl s
  | _ => exact .refl s

/-! ## What a register reads after its write -/

/-- The low bits of a word, alone. -/
theorem setWidth_extractLsb'_low (v : Word) (n : Nat) : (v.extractLsb' 0 n).setWidth 64 = v &&& BitVec.ofNat 64 (2 ^ n - 1) := by
  apply BitVec.eq_of_getLsbD_eq
  intro i hi
  simp only [BitVec.getLsbD_setWidth, BitVec.getLsbD_extractLsb', BitVec.getLsbD_and, BitVec.getLsbD_ofNat, hi, decide_true,
    Bool.true_and, Nat.zero_add, Nat.testBit_two_pow_sub_one, Bool.and_comm]

section Reads
variable (q : SeqId) (v : Word) (s : State)

theorem csrValue_write_fprm : csrValue (csrWrite q .fprm v s) q .fprm = v &&& 3 := by
  simp only [csrValue, csrWrite, State.seq_modSeq_same]
  exact setWidth_extractLsb'_low v 2

theorem csrValue_write_fpstat : csrValue (csrWrite q .fpstat v s) q .fpstat = v &&& 31 := by
  simp only [csrValue, csrWrite, State.seq_modSeq_same]
  exact setWidth_extractLsb'_low v 5

theorem csrValue_write_cspill : csrValue (csrWrite q .cspill v s) q .cspill = v := by
  simp only [csrValue, csrWrite, State.seq_modSeq_same]

theorem csrValue_write_csplim : csrValue (csrWrite q .csplim v s) q .csplim = v &&& 0xFFFFFFFFFF := by
  simp only [csrValue, csrWrite, State.seq_modSeq_same]
  exact setWidth_extractLsb'_low v 40

theorem csrValue_write_epc : csrValue (csrWrite q .epc v s) q .epc = v := by
  simp only [csrValue, csrWrite, State.cluster_modCluster_same]

theorem csrValue_write_tval : csrValue (csrWrite q .tval v s) q .tval = v := by
  simp only [csrValue, csrWrite, State.cluster_modCluster_same]

theorem csrValue_write_tvec : csrValue (csrWrite q .tvec v s) q .tvec = v &&& ~~~31#64 := by
  simp only [csrValue, csrWrite, State.cluster_modCluster_same]

end Reads

/-! ## CSRR, CSRW and ERRQ -/

theorem exec_csrr (f : F64A) (s : State) : exec (.csrr f) s = issue (.csrr f) f.pred f.pneg (csrrBody (.csrr f) f) s := rfl
theorem exec_csrw (f : F64A) (s : State) : exec (.csrw f) s = issue (.csrw f) f.pred f.pneg (csrwBody (.csrw f) f) s := rfl
theorem exec_errq (f : F64A) (s : State) : exec (.errq f) s = issue (.errq f) f.pred f.pneg (errqBody f) s := rfl

section Registers
variable {u : State} {i : Instr} {f : F64A} {c : Csr}

theorem run_csrrBody_unnumbered (h : Csr.ofNumber (csrNumber f) = none) :
    (csrrBody i f).run u = .error (.trap 0x01 (lowBits i) none) u := by
  simp only [csrrBody, EStateM.run_bind, run_me, h, run_trap]

theorem run_csrwBody_unnumbered (h : Csr.ofNumber (csrNumber f) = none) :
    (csrwBody i f).run u = .error (.trap 0x01 (lowBits i) none) u := by
  simp only [csrwBody, EStateM.run_bind, run_me, h, run_trap]

variable (hc : Csr.ofNumber (csrNumber f) = some c)
include hc

theorem run_csrrBody_absent (h : c.readable u.focus.kind = false) :
    (csrrBody i f).run u = .error (.trap 0x01 (lowBits i) none) u := by
  simp only [csrrBody, EStateM.run_bind, run_me, hc, run_check, h, Bool.false_eq_true, if_false]

theorem run_csrwBody_absent (h : c.writable u.focus.kind = false) :
    (csrwBody i f).run u = .error (.trap 0x01 (lowBits i) none) u := by
  simp only [csrwBody, EStateM.run_bind, run_me, hc, run_check, h, Bool.false_eq_true, if_false]

variable (hr : role u = .alone)
include hr

theorem run_csrrBody (h : c.readable u.focus.kind = true) (hd : f.d.toNat < 32) (hx : xFree u f.d.toNat = true) :
    (csrrBody i f).run u = .ok .fall (withX f.d.toNat (csrValue u u.focus c) false u) := by
  simp only [csrrBody, EStateM.run_bind, run_me, hc, run_check, h, if_true, run_queueWaits_dest _ _ hd, run_echoed1_alone hr,
    EStateM.run_get, EStateM.run_pure, run_putDest _ _ _ hd hx]

/-- A write outside a pair changes the register and takes nothing into a fingerprint. -/
theorem run_csrwBody {v : Word} (h : c.writable u.focus.kind = true) (hv : scalarAt u 3 f.a 0 = some v) :
    (csrwBody i f).run u = .ok .fall (csrWrite u.focus c v u) := by
  have hw : (queueWaits [⟨f.a.toNat, 0, false, false⟩]).run u = .ok () u :=
    run_queueWaits u (by simpa only [List.forall_mem_cons] using ⟨scalarAt_noQueue hv, by simp⟩)
  have hk := keepsRoles_csrWrite u.focus c v u
  simp only [csrwBody, EStateM.run_bind, run_me, hc, run_check, h, if_true, hw, run_useSource _ hv]
  cases c.isOwn <;>
    simp only [if_true, if_false, Bool.false_eq_true, run_echoed1_alone hr, EStateM.run_bind, EStateM.run_modify, EStateM.run_get,
      EStateM.run_pure, run_takeIn, noted_alone _ (hk.role.trans hr)]

end Registers

theorem run_errqBody {u : State} {f : F64A} (hr : role u = .alone) (hd : f.d.toNat < 32) (hx : xFree u f.d.toNat = true) :
    (errqBody f).run u = .ok .fall (withX f.d.toNat (BitVec.ofNat 64 (errqValue u u.focus f.imm16.toNat)) false u) := by
  simp only [errqBody, EStateM.run_bind, run_queueWaits_dest _ _ hd, run_echoed1_alone hr, EStateM.run_get, EStateM.run_pure,
    run_putDest _ _ _ hd hx]

/-! ## TSC and CYC (R301, R302, R355) -/

theorem exec_tsc (f : F64A) (s : State) : exec (.tsc f) s = issue (.tsc f) f.pred f.pneg (tscBody f) s := rfl
theorem exec_cyc (f : F64A) (s : State) : exec (.cyc f) s = issue (.cyc f) f.pred f.pneg (cycBody f) s := rfl

section Clocks
variable {u : State} {f : F64A} (hr : role u = .alone) (hx : xFree u f.d.toNat = true)
include hr hx

theorem run_tscBody : (tscBody f).run u =
    .ok .fall (withX f.d.toNat (BitVec.ofNat 64 (cycleStart u u.focus / State.tickUnits)) false u) := by
  simp only [tscBody, EStateM.run_bind, run_echoed1_alone hr, EStateM.run_get, EStateM.run_pure, run_putX _ _ hx]

theorem run_cycBody : (cycBody f).run u = .ok .fall (withX f.d.toNat
    (BitVec.ofNat 64 (u.cycleOf u.focus - (here u).cycleBases.get 0 (u.gangOf u.focus))) false u) := by
  simp only [cycBody, EStateM.run_bind, run_echoed1_alone hr, EStateM.run_get, EStateM.run_pure, run_putX _ _ hx]
  rfl

end Clocks

/-! ## A service core takes its oldest trap (R357) -/

/-- With no trap in hand a service core takes the oldest of its queue, or goes on where there is none. -/
theorem run_takeOldest {u : State} {c : Nat} (hf : u.focus = .s c) (hi : (u.cluster c).inHand = none) :
    takeOldest.run u = if (u.cluster c).traps = [] then .ok .fall u else .ok .ended (takeTrap c u) := by
  simp only [takeOldest, EStateM.run_bind, EStateM.run_get, hf, hi]
  cases (u.cluster c).traps <;> rfl

theorem run_takeOldest_other {u : State} (h : ∀ c, u.focus ≠ .s c) : takeOldest.run u = .ok .fall u := by
  cases hq : u.focus with
  | s c => exact absurd hq (h c)
  | _ => simp only [takeOldest, EStateM.run_bind, EStateM.run_get, hq, EStateM.run_pure]

/-- An instruction that ends by taking the oldest trap falls where there is none. -/
theorem issue_takes {s t : State} {i : Instr} {p : BitVec 3} {n : BitVec 1} {body : Exec Flow} {c : Nat} (h : Ready s i p n)
    (hb : body.run (issued s) = takeOldest.run t) (hf : t.focus = .s c) (hi : (t.cluster c).inHand = none) :
    issue i p n body s = if (t.cluster c).traps = [] then falls s i t else Claims.finishes s i (takeTrap c t) := by
  rw [run_takeOldest hf hi] at hb
  split
  · next ht => exact issue_runs h (hb.trans (if_pos ht))
  · next ht => exact issue_runs h (hb.trans (if_neg ht))

/-! ## WFE (R440, R441) -/

theorem exec_wfe (f : F64A) (s : State) : exec (.wfe f) s = issue (.wfe f) f.pred f.pneg (wfeBody f) s := rfl

theorem RegistersOnly.focus {u t : State} (h : RegistersOnly u t) : t.focus = u.focus := by rw [h.fields]

/-- The wait of a WFE with the time at which it ends, which a wait that goes on keeps. -/
def withDeadline (f : F64A) (s : State) : State :=
  s.modSeq s.focus (fun u => { u with
    deadline := if f.imm16 = 0 then none else some (u.deadline.getD (s.time + f.imm16.toNat * 64 * State.tickUnits)) })

theorem recordWait_deadline (q : SeqId) (why : Why) (s : State) : ((recordWait q why s).seq q).deadline = (s.seq q).deadline := by
  rw [recordWait, State.seq_modSeq_same]
  split
  · split <;> rfl
  · rfl

/-- The state of a WFE with its latch taken. -/
def latchTaken (f : F64A) (u : State) : State :=
  (withX f.d.toNat ((here u).latch.setWidth 64) false u).modSeq u.focus (fun q => { q with latch := 0 })

section Wfe
variable {u : State} {f : F64A}

theorem run_wfeBody_waits (h : (here u).latch = 0) : (wfeBody f).run u = .error (.wait .wfe (withDeadline f)) u := by
  simp only [wfeBody, EStateM.run_bind, run_mySeq, h, if_true]
  rfl

variable (hl : (here u).latch ≠ 0) (hr : role u = .alone) (hx : xFree u f.d.toNat = true)
include hl hr hx

theorem run_wfeBody : (wfeBody f).run u =
    (if (here u).latch.getLsbD 5 then takeOldest else return .fall : Exec Flow).run (latchTaken f u) := by
  have hf := (registersOnly_withX f.d.toNat ((here u).latch.setWidth 64) false hr).focus
  simp only [wfeBody, EStateM.run_bind, run_mySeq, hl, if_false, run_putX _ _ hx, run_modMe, hf]
  rfl

end Wfe

theorem focus_latchTaken {u : State} {f : F64A} (hr : role u = .alone) : (latchTaken f u).focus = u.focus := by
  rw [latchTaken, State.focus_modSeq, (registersOnly_withX f.d.toNat ((here u).latch.setWidth 64) false hr).focus]

/-- Taking the latch changes registers of the issuing sequencer alone: the traps of its cluster are as before. -/
theorem cluster_latchTaken {u : State} {f : F64A} (hr : role u = .alone) (c : Nat) :
    (latchTaken f u).cluster c = { u.cluster c with svc := ((latchTaken f u).cluster c).svc } := by
  rw [latchTaken, cluster_modSeq, (registersOnly_withX f.d.toNat ((here u).latch.setWidth 64) false hr).clusters c]

/-! ## HALT (R381) -/

theorem exec_halt (f : F64A) (s : State) : exec (.halt f) s = issue (.halt f) f.pred f.pneg (haltBody (.halt f)) s := rfl

/-- A sequencer outside a pair that every agent sees as it is has nothing to release once its accesses are acknowledged. -/
theorem run_release_acknowledged {u : State} (hp : isPaired u u.focus = false) (h : acknowledged u = true) : release.run u = .ok () u := by
  obtain ⟨ha, -, hu⟩ := acknowledged_iff.mp h
  have hs : settleHeld.run u = .ok () u := by
    simp only [settleHeld, EStateM.run_bind, EStateM.run_get, hp]
    cases State.tileOf u.focus <;> rfl
  simp only [release, EStateM.run_bind, run_awaitAcks ha, hs, EStateM.run_modify, spread_calm hu]

/-- A service core belongs to no pair. -/
theorem isPaired_service (s : State) (c : Nat) : isPaired s (.s c) = false := rfl

section Halt
variable {u : State} {i : Instr} {c : Nat} (hf : u.focus = .s c)
include hf

theorem run_haltBody_inHand (h : (u.cluster c).inHand.isSome = true) : (haltBody i).run u = .error (.trap 0x01 (lowBits i) none) u := by
  have hn : (u.cluster c).inHand.isNone = false := by rw [Option.isNone_eq_false_iff, h]
  simp only [haltBody, EStateM.run_bind, EStateM.run_get, hf, run_check, hn, Bool.false_eq_true, if_false]

variable (hi : (u.cluster c).inHand = none) (ha : acknowledged u = true)
include hi ha

theorem run_haltBody_idle (h : (u.cluster c).traps = []) : (haltBody i).run u = .error (.wait .wfe id) u := by
  have hrel := run_release_acknowledged (by rw [hf]; exact isPaired_service u c) ha
  simp only [haltBody, EStateM.run_bind, EStateM.run_get, hf, run_check, hi, Option.isNone_none, if_true, hrel, run_waitUntil, h,
    List.isEmpty_nil, Bool.not_true, Bool.false_eq_true, if_false]

theorem run_haltBody_takes (h : (u.cluster c).traps ≠ []) : (haltBody i).run u = takeOldest.run u := by
  have hrel := run_release_acknowledged (by rw [hf]; exact isPaired_service u c) ha
  have ht : (!(u.cluster c).traps.isEmpty) = true := by simpa using h
  simp only [haltBody, EStateM.run_bind, EStateM.run_get, hf, run_check, hi, Option.isNone_none, if_true, hrel, run_waitUntil, ht]

end Halt

/-! ## The statement -/

/-- What CSRW leaves of a register, where the statement names it. -/
theorem csrValue_written (q : SeqId) (c : Csr) (v : Word) (s : State) :
    let reads := csrValue (csrWrite q c v s) q c
    (c = .fprm → reads = v &&& 3) ∧ (c = .fpstat → reads = v &&& 31) ∧ (c = .cspill → reads = v) ∧
    (c = .csplim → reads = v &&& 0xFFFFFFFFFF) ∧ (c = .epc → reads = v) ∧ (c = .tval → reads = v) ∧
    (c = .tvec → reads = v &&& ~~~31#64) :=
  ⟨fun h => h ▸ csrValue_write_fprm q v s, fun h => h ▸ csrValue_write_fpstat q v s, fun h => h ▸ csrValue_write_cspill q v s,
    fun h => h ▸ csrValue_write_csplim q v s, fun h => h ▸ csrValue_write_epc q v s, fun h => h ▸ csrValue_write_tval q v s,
    fun h => h ▸ csrValue_write_tvec q v s⟩

/-- Settles O42: each body's run outside a pair. -/
theorem controlRegistersAndClocks : Obligations.ControlRegistersAndClocks := by
  unfold Obligations.ControlRegistersAndClocks
  refine ⟨fun s f => ?registers, fun s f => ?clocks⟩
  case registers =>
    intro u n d hr
    refine ⟨fun i hi h hn => ?unnumbered, fun c hc => ⟨fun h hd hx => ⟨fun hk => ?csrr, fun hk => ?csrrAbsent⟩, fun h =>
      ⟨fun hk => ?csrwAbsent, fun v hk hv => ⟨?csrw, ?memory, csrValue_written u.focus c v u⟩⟩⟩, fun h hd hx => ?errq⟩
    case unnumbered =>
      rcases hi with rfl | rfl
      · exact issue_refuses h (run_csrrBody_unnumbered hn)
      · exact issue_refuses h (run_csrwBody_unnumbered hn)
    case csrr => exact issue_runs h (run_csrrBody hc hr hk hd hx)
    case csrrAbsent => exact issue_refuses h (run_csrrBody_absent hc hk)
    case csrwAbsent => exact issue_refuses h (run_csrwBody_absent hc hk)
    case csrw => exact issue_runs h (run_csrwBody hc hr hk hv)
    case memory => exact (keepsRoles_csrWrite u.focus c v u).mem.trans (mem_issued s)
    case errq => exact issue_runs h (run_errqBody hr hd hx)
  case clocks =>
    intro u d hr
    refine ⟨fun h hx => issue_runs h (run_tscBody hr hx), fun h hx => issue_runs h (run_cycBody hr hx), fun h hx => ?wfe,
      fun c hf h => ⟨fun hi => issue_refuses h (run_haltBody_inHand hf hi), fun hi ha => ⟨fun ht => ?idle, fun ht => ?takes⟩⟩⟩
    case wfe =>
      intro bits left
      refine ⟨fun hb => ?waits, fun hb hq => ?falls, fun c hf hb hi ht => ?trap⟩
      case waits =>
        refine ⟨_, issue_waits h (run_wfeBody_waits hb), ?_, ?_⟩
        · rw [withDeadline, recordWait, State.mem_modSeq, State.mem_modSeq]
        · have hfoc : (recordWait s.focus .wfe s).focus = s.focus := State.focus_modSeq ..
          have htime : (recordWait s.focus .wfe s).time = s.time := State.time_modSeq ..
          rw [withDeadline, hfoc, htime, State.seq_modSeq_same, recordWait_deadline]
      case falls =>
        refine issue_runs h ((run_wfeBody hb hr hx).trans ?_)
        by_cases h5 : bits.getLsbD 5 = true
        · rw [if_pos h5]
          have hf := hq.resolve_right (by rw [h5]; decide)
          exact run_takeOldest_other (by rw [focus_latchTaken hr]; exact hf)
        · rw [if_neg h5]
          rfl
      case trap =>
        have hb0 : bits ≠ 0 := by
          rintro h0
          rw [h0] at hb
          cases hb
        have hrun := (run_wfeBody hb0 hr hx).trans (congrArg (fun x : Exec Flow => x.run _) (if_pos hb))
        have hc := cluster_latchTaken (f := f) hr c
        refine (issue_takes h hrun ((focus_latchTaken hr).trans hf) (by rw [hc]; exact hi)).trans (if_neg ?_)
        rw [hc]
        exact ht
    case idle => exact issue_waits h (run_haltBody_idle hf hi ha ht)
    case takes => exact (issue_takes h (run_haltBody_takes hf hi ha ht) hf hi).trans (if_neg ht)

end Sys2Proof.Machine
end

section
/-! SUPPORT. Traps: what raising one posts, its delivery, its entry at the service core, what the return and the end of the trapped unit
leave of the trap in hand, and the statement about them (R69-R71, R357, R358, R427). -/

namespace Sys2Proof.Machine

open Sys2Proof.Claims

/-! ## TRAP (R427) -/

theorem exec_trap (f : F64A) (s : State) : exec (.trap f) s = issue (.trap f) f.pred f.pneg (trapBody f) s := rfl

theorem run_trapBody {u : State} {f : F64A} (hp : isPaired u u.focus = false) (ha : acknowledged u = true) :
    (trapBody f).run u = .error (.trap 0x14 (f.imm16.setWidth 64) none) u := by
  simp only [trapBody, EStateM.run_bind, run_release_acknowledged hp ha, run_trap]

theorem run_trapBody_waits {u : State} {f : F64A} (h : allAcknowledged u u.focus = false) :
    (trapBody f).run u = .error (.wait .outstanding id) u := by
  simp only [trapBody, release, awaitAcks, EStateM.run_bind, EStateM.run_get, run_waitUntil, h, Bool.false_eq_true, if_false]

/-! ## Raising a trap (R71, R357) -/

/-- The trap that a cause of an instruction gives to the service core. -/
def instructionTrap (q : SeqId) (code : Byte) (tval : Word) (s : State) : Trap :=
  ⟨unitOf q, kindCode q, code, (s.seq q).pc, tval, s.gangOf q, s.partOf q, .instruction q, none⟩

/-- A suspended sequencer keeps its firing, so it belongs to the gang and partition to which it belonged. -/
theorem gangOf_suspended (s : State) (q : SeqId) {f : Seq → Seq} (hf : ∀ u, (f u).firing = u.firing) :
    (s.modSeq q f).gangOf q = s.gangOf q := by
  have ht : ∀ t, ((s.modSeq q f).tile t).gang = (s.tile t).gang := fun t => by rw [tile_modSeq]
  simp only [State.gangOf, State.seq_modSeq_same, hf, ht]

theorem partOf_suspended (s : State) (q : SeqId) {f : Seq → Seq} (hf : ∀ u, (f u).firing = u.firing) :
    (s.modSeq q f).partOf q = s.partOf q := by
  have hg := gangOf_suspended s q hf
  cases q with
  | s c =>
    have hc : ((s.modSeq (.s c) f).cluster c).partid = (s.cluster c).partid := by rw [cluster_modSeq]
    exact congrArg BitVec.toNat hc
  | _ => simp only [State.partOf, hg, State.gang_modSeq]

/-- A cause without a miss of a tile's or a memory core's instruction, no twin's, suspends the firing and posts its trap. -/
theorem raiseTrap_posts {s : State} {q : SeqId} (code : Byte) (tval after : Word) (hs : ∀ c, q ≠ .s c) (ht : isTwin s q = false) :
    raiseTrap q code tval none after s =
      postTrap (instructionTrap q code tval s) (s.modSeq q (fun u => { u with suspended := true, wait := none })) := by
  have hg := gangOf_suspended s q (f := fun u => { u with suspended := true, wait := none }) (fun _ => rfl)
  have hp := partOf_suspended s q (f := fun u => { u with suspended := true, wait := none }) (fun _ => rfl)
  rw [instructionTrap, ← hg, ← hp]
  cases q with
  | s c => exact absurd rfl (hs c)
  | _ => simp only [raiseTrap, ht, Bool.false_eq_true, if_false]

/-! ## Delivery (R357) -/

theorem exec_trapDelivery_full {s : State} {t : Trap} (h : s.launch.undelivered[s.subject]? = some t)
    (hl : 64 ≤ (s.cluster t.server).traps.length) : exec .trapDelivery s = .next s := by
  change execTrapDelivery s = _
  rw [execTrapDelivery, h]
  exact if_neg (Nat.not_lt.mpr hl)

/-- The state in which the subject's trap no longer waits for its delivery. -/
def withoutDelivered (s : State) : State := s.modLaunch (fun l => { l with undelivered := l.undelivered.eraseIdx s.subject })

theorem exec_trapDelivery {s : State} {t : Trap} (h : s.launch.undelivered[s.subject]? = some t)
    (hl : (s.cluster t.server).traps.length < 64) : exec .trapDelivery s = .next (deliverTrap t (withoutDelivered s)) := by
  change execTrapDelivery s = _
  rw [execTrapDelivery, h]
  exact if_pos hl

/-- The state with a trap in its service core's queue, the core's latch set. -/
def queued (t : Trap) (s : State) : State :=
  latch (.s t.server) 32 (s.modCluster t.server (fun u => { u with traps := u.traps ++ [t] }))

theorem cluster_queued (t : Trap) (s : State) : (queued t s).cluster t.server = { s.cluster t.server with
    traps := (s.cluster t.server).traps ++ [t]
    svc := { (s.cluster t.server).svc with latch := (s.cluster t.server).svc.latch ||| 32 } } := by
  simp only [queued, latch, State.modSeq, State.cluster_modCluster_same]

/-- A trap stays in the queue, or the core takes the oldest one. -/
theorem deliverTrap_cases (t : Trap) (s : State) : deliverTrap t s = queued t s ∨ deliverTrap t s = takeTrap t.server (queued t s) := by
  change ite _ (takeTrap t.server (queued t s)) (queued t s) = _ ∨ ite _ (takeTrap t.server (queued t s)) (queued t s) = _
  split
  · exact .inr rfl
  · exact .inl rfl

/-- A core that does not wait keeps the trap in its queue. -/
theorem deliverTrap_running {t : Trap} {s : State} (h : (s.cluster t.server).svc.suspended = false) : deliverTrap t s = queued t s := by
  have hq : ((queued t s).cluster t.server).svc.suspended = false := by rw [cluster_queued]; exact h
  exact if_neg (by rw [Bool.and_eq_true]; exact fun hs => Bool.false_ne_true (hq.symm.trans hs.1))

/-- A delivery changes clusters alone. -/
theorem deliverTrap_frame (t : Trap) (s : State) : (deliverTrap t s).launch = s.launch ∧ (deliverTrap t s).mem = s.mem := by
  obtain h | h := deliverTrap_cases t s <;> rw [h] <;> exact ⟨rfl, rfl⟩

/-! ## Entry (R357) -/

/-- A service core that takes a trap holds what the trap says and goes to TVEC. -/
theorem cluster_takeTrap {s : State} {c : Nat} {t : Trap} {rest : List Trap} (h : (s.cluster c).traps = t :: rest) :
    (takeTrap c s).cluster c = { s.cluster c with
      traps := rest, inHand := some t, causeUnit := t.unit, causeKind := t.kind, causeCode := t.code, epc := t.epc, tval := t.tval
      partid := BitVec.ofNat 4 t.part
      svc := { (s.cluster c).svc with pc := (s.cluster c).tvec, suspended := false, wait := none } } := by
  rw [takeTrap, State.cluster_modCluster_same, h]

/-! ## The traps in hand while a trapped unit goes on or ends (R149, R358) -/

/-- The focus is as before, and every service core has the trap in hand that it had. -/
structure KeepsHands (s t : State) : Prop where
  focus : t.focus = s.focus
  hand : ∀ c, (t.cluster c).inHand = (s.cluster c).inHand

namespace KeepsHands

theorem refl (s : State) : KeepsHands s s := ⟨rfl, fun _ => rfl⟩

theorem ite {s t u : State} {c : Prop} [Decidable c] (h : KeepsHands s t) (g : KeepsHands s u) :
    KeepsHands s (if c then t else u) := by
  split
  · exact h
  · exact g

section Steps
variable {s t u : State} (h : KeepsHands s t)
include h

/-- A change of anything but the focus and the clusters. -/
theorem of_clusters (hf : u.focus = t.focus) (hc : u.clusters = t.clusters) : KeepsHands s u :=
  ⟨hf.trans h.focus, fun c => by rw [State.cluster, hc]; exact h.hand c⟩

/-- A change of the clusters, each by itself. -/
theorem of_mapClusters {f : Nat × Cluster → Nat × Cluster} (hk : ∀ e, (f e).1 = e.1) (hi : ∀ e, (f e).2.inHand = e.2.inHand)
    (hf : u.focus = t.focus) (hc : u.clusters = t.clusters.map f) : KeepsHands s u :=
  ⟨hf.trans h.focus, fun c => by
    rw [State.cluster, hc]
    exact (get_map_of_kept (g := Cluster.inHand) hk hi _ _ c).trans (h.hand c)⟩

theorem modCluster (c : Nat) {f : Cluster → Cluster} (hf : ∀ u, (f u).inHand = u.inHand) : KeepsHands s (t.modCluster c f) := by
  refine ⟨h.focus, fun k => ?_⟩
  by_cases e : k = c
  · subst e; rw [State.cluster_modCluster_same, hf]; exact h.hand k
  · rw [State.cluster_modCluster_other _ _ e]; exact h.hand k

theorem modSeq (q : SeqId) (f : Seq → Seq) : KeepsHands s (t.modSeq q f) :=
  ⟨(State.focus_modSeq ..).trans h.focus, fun c => by rw [cluster_modSeq]; exact h.hand c⟩

theorem modUnseen (f : List Unseen → List Unseen) : KeepsHands s (t.modUnseen f) :=
  h.of_clusters (focus_modUnseen ..) (clusters_modUnseen ..)

theorem foldl {α : Type} {f : State → α → State} (hf : ∀ u x, KeepsHands s u → KeepsHands s (f u x)) (l : List α) :
    KeepsHands s (l.foldl f t) := by
  induction l generalizing t with
  | nil => exact h
  | cons x l ih => exact ih (hf t x h)

/-! ### The end of gangs -/

theorem modTlb (q : SeqId) (f : Tlb → Tlb) : KeepsHands s (modTlb q f t) := by
  cases q with
  | m c => exact h.of_clusters rfl rfl
  | _ => exact h.modCluster (f := fun u => { u with tlb := f u.tlb }) _ fun _ => rfl

theorem forgetMiss (x : Trap) : KeepsHands s (forgetMiss x t) := by
  rw [Machine.forgetMiss]
  split
  · exact h.modTlb ..
  · exact h

theorem withdrawTraps (gone : Trap → Bool) : KeepsHands s (withdrawTraps gone t) :=
  (foldl (f := fun s t => Machine.forgetMiss t s) h (fun _ x hu => hu.forgetMiss x) _).of_mapClusters
    (f := fun e => (e.1, { e.2 with traps := e.2.traps.filter (fun t => !gone t) })) (fun _ => rfl) (fun _ => rfl) rfl rfl

theorem freeEngines (g : Nat) : KeepsHands s (freeEngines g t) :=
  h.of_mapClusters (f := fun e => if e.2.ev.gang = g then (e.1, { e.2 with ev := EvEngine.reset }) else e)
    (fun e => by split <;> rfl) (fun e => by split <;> rfl) rfl rfl

theorem stopTiles (g : Nat) (l : List Nat) :
    KeepsHands s (l.foldl (fun s t => if (s.tile t).gang = g then s.modTile t stopTile else s) t) :=
  h.foldl (fun _ _ hu => .ite (hu.of_clusters (by rfl) (by rfl)) hu) l

theorem releaseGang (g : Nat) : KeepsHands s (releaseGang g t) := by
  rw [Machine.releaseGang]
  split
  · exact h
  · exact withdrawTraps (freeEngines (of_clusters (of_clusters (stopTiles (h.modUnseen _) g _) (by rfl) (by rfl)) (by rfl) (by rfl)) g) _

theorem endGang (g status cause : Nat) : KeepsHands s (endGang g status cause t) := by
  rw [Machine.endGang]
  split
  · exact h
  · exact .ite h (foldl (of_clusters (h.releaseGang g) (by rfl) (by rfl)) (fun _ e hu => hu.releaseGang e.1) _)

theorem dropFiring (q : SeqId) : KeepsHands s (dropFiring q t) := by
  have hm := h.modSeq q (fun u => { u with firing := none, wait := none, hold := none, suspended := false })
  cases q <;> exact hm.of_clusters rfl rfl

/-! ### The return -/

theorem resumeFiring (q : SeqId) (pc : Word) : KeepsHands s (resumeFiring q pc t) :=
  .ite (.ite ((h.modSeq ..).modSeq ..) (h.modSeq ..)) h

theorem standTrap (x : Trap) (g code : Nat) : KeepsHands s (standTrap x g code t) := by
  have hend : ∀ {v : State}, KeepsHands s v → KeepsHands s (match v.gang? g with
      | some _ => Machine.endGang g 10 code (v.modGang g (fun u => { u with units := u.units ++ [x.unit] }))
      | none => v) := fun hv => by
    split
    · exact endGang (hv.of_clusters (by rfl) (by rfl)) _ _ _
    · exact hv
  rw [Machine.standTrap]
  split
  · exact h.of_clusters rfl rfl
  · refine .ite ?_ (hend ?_)
    · split
      · exact (h.resumeFiring ..).modSeq ..
      · exact h
    · split
      · exact h.dropFiring _
      · exact h

end Steps
end KeepsHands

/-- The state with the trap in hand of a service core put down. -/
def putDown (c : Nat) (s : State) : State := s.modCluster c (fun u => { u with inHand := none })

theorem keepsHands_stand {s : State} {c code : Nat} {t : Trap} (h : (s.cluster c).inHand = some t) :
    KeepsHands (putDown c s) (stand c code s) := by
  rw [stand, h]
  exact ((KeepsHands.refl _).forgetMiss t).standTrap ..

theorem keepsHands_resume {s : State} {c : Nat} {skip : Bool} {t : Trap} (h : (s.cluster c).inHand = some t) :
    KeepsHands (putDown c s) (resume c skip s) := by
  have hf : KeepsHands (putDown c s) (forgetMiss t (putDown c s)) := (KeepsHands.refl _).forgetMiss t
  simp only [resume, h]
  split
  · exact hf.resumeFiring ..
  · exact .ite (hf.of_clusters rfl rfl) (hf.of_clusters rfl rfl)
  all_goals exact hf

/-- Of what keeps the hands of a state with the trap put down, the service core has none in hand. -/
theorem KeepsHands.put_down {s t : State} {c : Nat} (h : KeepsHands (putDown c s) t) :
    t.focus = s.focus ∧ (t.cluster c).inHand = none :=
  ⟨h.focus, (h.hand c).trans (by rw [putDown, State.cluster_modCluster_same])⟩

/-! ## ERET (R358) -/

theorem exec_eret (f : F64A) (s : State) : exec (.eret f) s = issue (.eret f) f.pred f.pneg (eretBody f) s := rfl

/-- What ERET does with the trap in hand. -/
def eretChange (f : F64A) (c : Nat) (u : State) : State :=
  match f.imm16.toNat with
  | 0 => resume c false u
  | 1 => resume c true u
  | _ => stand c (u.cluster c).causeCode.toNat u

theorem keepsHands_eretChange {u : State} {c : Nat} (f : F64A) (h : (u.cluster c).inHand.isSome = true) :
    KeepsHands (putDown c u) (eretChange f c u) := by
  obtain ⟨x, hx⟩ := Option.isSome_iff_exists.mp h
  rw [eretChange]
  split
  · exact keepsHands_resume hx
  · exact keepsHands_resume hx
  · exact keepsHands_stand hx

section Eret
variable {u : State} {c : Nat} (f : F64A) (hf : u.focus = .s c)
include hf

theorem run_eretBody_none (h : (u.cluster c).inHand = none) : (eretBody f).run u = takeOldest.run u := by
  simp only [eretBody, EStateM.run_bind, EStateM.run_get, hf, h, Option.isSome_none, Bool.false_eq_true, if_false]

theorem run_eretBody_inHand (h : (u.cluster c).inHand.isSome = true) (ha : acknowledged u = true)
    (hb : (decide (f.imm16.toNat = 2) || bothStopped u c) = true) : (eretBody f).run u = takeOldest.run (eretChange f c u) := by
  have hr := run_release_acknowledged (by rw [hf]; exact isPaired_service u c) ha
  simp only [eretBody, EStateM.run_bind, EStateM.run_get, hf, h, if_true, hr, run_waitUntil, hb]
  obtain hn | hn | ⟨n, hn⟩ : f.imm16.toNat = 0 ∨ f.imm16.toNat = 1 ∨ ∃ n, f.imm16.toNat = n + 2 := by
    rcases f.imm16.toNat with _ | _ | n <;> simp
  all_goals
    simp only [eretChange, hn]
    rfl

end Eret

/-- ERET of a service core with a trap in hand puts it down and takes the next one or goes on. -/
theorem exec_eret_inHand {s : State} {c : Nat} {f : F64A} (hf : s.focus = .s c) (hr : Ready s (.eret f) f.pred f.pneg)
    (h : ((issued s).cluster c).inHand.isSome = true) (ha : acknowledged (issued s) = true)
    (hb : (decide (f.imm16.toNat = 2) || bothStopped (issued s) c) = true) :
    exec (.eret f) s = if ((eretChange f c (issued s)).cluster c).traps = [] then falls s (.eret f) (eretChange f c (issued s))
      else Claims.finishes s (.eret f) (takeTrap c (eretChange f c (issued s))) := by
  have hu : (issued s).focus = .s c := (focus_issued s).trans hf
  obtain ⟨htf, hti⟩ := (keepsHands_eretChange f h).put_down
  exact (exec_eret f s).trans (issue_takes hr (run_eretBody_inHand f hu h ha hb) (htf.trans hu) hti)

/-! ## The trapped unit goes on (R358) -/

/-- Forgetting a miss changes neither the tiles nor memory. -/
theorem forgetMiss_frame (x : Trap) (s : State) : (forgetMiss x s).tiles = s.tiles ∧ (forgetMiss x s).mem = s.mem := by
  have hm : ∀ (q : SeqId) (f : Tlb → Tlb), (modTlb q f s).tiles = s.tiles ∧ (modTlb q f s).mem = s.mem := fun q f => by
    cases q <;> exact ⟨rfl, rfl⟩
  rw [forgetMiss]
  split
  · exact hm ..
  · exact ⟨rfl, rfl⟩

/-- A suspended firing of no pair goes on at the address given. -/
theorem resumeFiring_alone {s : State} {q : SeqId} (pc : Word) (hs : (s.seq q).suspended = true) (hp : isPaired s q = false) :
    resumeFiring q pc s = s.modSeq q (fun u => { u with pc := pc, suspended := false, wait := none }) := by
  simp only [resumeFiring, hs, hp, Bool.false_and, Bool.false_eq_true, if_true, if_false]

/-- A sequencer of a tile that is no member is paired with none. -/
theorem isPaired_alone {s : State} {q : SeqId} {t : Nat} (hq : q = .a t ∨ q = .x t) (h : (s.tile t).twin = .alone) :
    isPaired s q = false := by
  obtain rfl | rfl := hq <;> simp [isPaired, memberOf, State.tileOf, h]

/-- Without a skip, the trapped instruction's firing goes on at EPC. -/
theorem resume_instruction {s : State} {c : Nat} {x : Trap} {q : SeqId} (h : (s.cluster c).inHand = some x) (ho : x.origin = .instruction q) :
    resume c false s = resumeFiring q (s.cluster c).epc (forgetMiss x (putDown c s)) := by
  simp only [resume, h, ho, Bool.false_and, Bool.false_eq_true, if_false]
  split <;> rfl

theorem resume_alone {s : State} {c t : Nat} {x : Trap} {q : SeqId} (h : (s.cluster c).inHand = some x) (ho : x.origin = .instruction q)
    (hq : q = .a t ∨ q = .x t) (ht : (s.tile t).twin = .alone) (hs : (s.seq q).suspended = true) :
    let v := resume c false s
    (v.cluster c).inHand = none ∧ (v.seq q).suspended = false ∧ (v.seq q).pc = (s.cluster c).epc ∧ v.mem = s.mem := by
  obtain ⟨hft, hfm⟩ := forgetMiss_frame x (putDown c s)
  have htile : ∀ n, (forgetMiss x (putDown c s)).tile n = s.tile n := fun n => by rw [State.tile, hft]; rfl
  have hseq : (forgetMiss x (putDown c s)).seq q = s.seq q := by
    obtain rfl | rfl := hq <;> simp only [State.seq, htile]
  have hr := resumeFiring_alone (s.cluster c).epc (hseq ▸ hs) (isPaired_alone hq (htile t ▸ ht))
  refine ⟨(keepsHands_resume h).put_down.2, ?_⟩
  rw [resume_instruction h ho, hr, State.seq_modSeq_same, State.mem_modSeq, hfm]
  exact ⟨rfl, rfl, rfl⟩

/-! ## The parts of the statement -/

theorem exec_trap_ready {s : State} {f : F64A} (hr : Ready s (.trap f) f.pred f.pneg) :
    (isPaired (issued s) (issued s).focus = false → acknowledged (issued s) = true → exec (.trap f) s = traps s (.trap f) 0x14 (f.imm16.setWidth 64)) ∧
    (allAcknowledged (issued s) s.focus = false → exec (.trap f) s = .next (recordWait s.focus .outstanding s)) :=
  ⟨fun hp ha => issue_traps_unchanged hr (run_trapBody hp ha) (by decide),
    fun h => issue_waits hr (run_trapBody_waits ((congrArg _ (focus_issued s)).trans h))⟩

theorem raiseTrap_instruction {s : State} {q : SeqId} (code : Byte) (tval after : Word) (hs : ∀ c, q ≠ .s c) (ht : isTwin s q = false) :
    let t := raiseTrap q code tval none after s
    t.launch.undelivered = s.launch.undelivered ++ [instructionTrap q code tval s] ∧
    t.seq q = { s.seq q with suspended := true, wait := none } ∧ t.mem = s.mem := by
  intro t
  have h : t = _ := raiseTrap_posts code tval after hs ht
  rw [h]
  refine ⟨?_, State.seq_modSeq_same .., State.mem_modSeq ..⟩
  cases q <;> rfl

theorem exec_trapDelivery_room {s : State} {t : Trap} (h : s.launch.undelivered[s.subject]? = some t)
    (hl : (s.cluster t.server).traps.length < 64) : ∃ v, exec .trapDelivery s = .next v ∧
      v.launch.undelivered = s.launch.undelivered.eraseIdx s.subject ∧ v.mem = s.mem ∧
      ((s.cluster t.server).svc.suspended = false → (v.cluster t.server).traps = (s.cluster t.server).traps ++ [t]) := by
  obtain ⟨hlaunch, hmem⟩ := deliverTrap_frame t (withoutDelivered s)
  refine ⟨_, exec_trapDelivery h hl, congrArg Launch.undelivered hlaunch, hmem, fun hs => ?_⟩
  have hq : deliverTrap t (withoutDelivered s) = queued t (withoutDelivered s) := deliverTrap_running hs
  rw [hq, cluster_queued]
  rfl

theorem takeTrap_holds {s : State} {c : Nat} {t : Trap} {rest : List Trap} (h : (s.cluster c).traps = t :: rest) :
    let v := takeTrap c s
    csrValue v (.s c) .epc = t.epc ∧ csrValue v (.s c) .tval = t.tval ∧
    csrValue v (.s c) .cause = BitVec.ofNat 64 (t.unit.toNat * 2 ^ 48 + t.kind.toNat * 2 ^ 46 + t.code.toNat) ∧
    csrValue v (.s c) .partid = BitVec.ofNat 64 (t.part % 16) ∧
    (v.cluster c).traps = rest ∧ (v.cluster c).inHand = some t ∧ (v.cluster c).svc.pc = (s.cluster c).tvec ∧
    (v.cluster c).svc.suspended = false ∧ v.mem = s.mem := by
  intro v
  have hc : v.cluster c = _ := cluster_takeTrap h
  simp only [csrValue, serverOf, State.partOf, hc, BitVec.toNat_ofNat]
  exact ⟨trivial, trivial, trivial, trivial, trivial, trivial, trivial, trivial, rfl⟩

theorem exec_eret_ready {s : State} {c : Nat} {f : F64A} (hf : s.focus = .s c) (hr : Ready s (.eret f) f.pred f.pneg) :
    let u := issued s
    let next := fun (t : State) => exec (.eret f) s =
      if (t.cluster c).traps = [] then falls s (.eret f) t else Claims.finishes s (.eret f) (takeTrap c t)
    ((u.cluster c).inHand = none → next u) ∧
    ((u.cluster c).inHand.isSome = true → acknowledged u = true →
      (f.imm16 = 0 → bothStopped u c = true → next (resume c false u)) ∧
      (f.imm16 = 1 → bothStopped u c = true → next (resume c true u)) ∧
      (f.imm16 = 2 → next (stand c (u.cluster c).causeCode.toNat u))) := by
  intro u next
  have hu : u.focus = .s c := (focus_issued s).trans hf
  have hnext : (u.cluster c).inHand.isSome = true → acknowledged u = true →
      (decide (f.imm16.toNat = 2) || bothStopped u c) = true → next (eretChange f c u) := exec_eret_inHand hf hr
  refine ⟨fun h => issue_takes hr (run_eretBody_none f hu h) hu h, fun h ha => ⟨fun hi hb => ?_, fun hi hb => ?_, fun hi => ?_⟩⟩
  · have hc : eretChange f c u = resume c false u := by rw [eretChange, hi]; rfl
    exact hc ▸ hnext h ha (by rw [hb, Bool.or_true])
  · have hc : eretChange f c u = resume c true u := by rw [eretChange, hi]; rfl
    exact hc ▸ hnext h ha (by rw [hb, Bool.or_true])
  · have hc : eretChange f c u = stand c (u.cluster c).causeCode.toNat u := by rw [eretChange, hi]; rfl
    exact hc ▸ hnext h ha (by rw [hi]; rfl)

/-- Settles O43: by the rules of TRAP, of the raising, delivery and taking of a trap and of ERET; the resumption leaves the service
core without a trap in hand because the end or the return of a trapped unit keeps every core's. -/
theorem trapEntryAndReturn : Obligations.TrapEntryAndReturn :=
  ⟨fun _ _ hr => exec_trap_ready hr,
    fun _ _ code tval after hs ht => raiseTrap_instruction code tval after hs ht,
    fun _ _ h => ⟨exec_trapDelivery_full h, exec_trapDelivery_room h⟩,
    fun _ _ _ _ h => takeTrap_holds h,
    fun _ _ _ hf hr => exec_eret_ready hf hr,
    fun _ _ _ _ _ h ho hq ht hs => resume_alone h ho hq ht hs⟩

end Sys2Proof.Machine
end

section
/-! SUPPORT. The values of integer arithmetic (R82, R83): the number that a type reads from a pattern, the pattern that a number wraps to,
and the operations on numbers that are operations on words. -/

namespace Sys2Proof.Machine

open Sys2Proof.Claims

/-! ## Numbers modulo a width -/

section Wrapping
variable (w : Nat) (v p q : Int)

/-- The pattern that a number is narrowed to. -/
theorem ofNat_narrow : BitVec.ofNat w (narrow w v) = BitVec.ofInt w v := by
  have h0 : 0 ≤ v % 2 ^ w := Int.emod_nonneg v (by positivity)
  have hlt : v % 2 ^ w < 2 ^ w := Int.emod_lt_of_pos v (by positivity)
  apply BitVec.eq_of_toNat_eq
  rw [narrow, BitVec.toNat_ofInt, BitVec.toNat_ofNat, Nat.mod_eq_of_lt (by zify; rwa [Int.toNat_of_nonneg h0])]
  push_cast
  rfl

theorem ofInt_sub : BitVec.ofInt w (p - q) = BitVec.ofInt w p - BitVec.ofInt w q := by
  rw [sub_eq_add_neg, BitVec.ofInt_add, BitVec.ofInt_neg, BitVec.sub_eq_add_neg]

/-- A number modulo 2^w is the same pattern. -/
theorem ofInt_bmod : BitVec.ofInt w (v.bmod (2 ^ w)) = BitVec.ofInt w v := by
  apply BitVec.eq_of_toInt_eq
  rw [BitVec.toInt_ofInt, BitVec.toInt_ofInt, Int.bmod_bmod]

theorem ofNat_mod (a : Nat) : BitVec.ofNat w (a % 2 ^ w) = BitVec.ofNat w a := by
  apply BitVec.eq_of_toNat_eq
  rw [BitVec.toNat_ofNat, BitVec.toNat_ofNat, Nat.mod_mod]

/-- The high half of a number's pattern of twice the width is the pattern of its quotient by 2^w. -/
theorem extractHigh_ofInt : (BitVec.ofInt (2 * w) v).extractLsb' w w = BitVec.ofInt w (v.fdiv (2 ^ w)) := by
  have hpos : (0 : Int) < 2 ^ w := by positivity
  have hmod : v % (2 ^ w * 2 ^ w) / 2 ^ w = v / 2 ^ w % 2 ^ w := by
    rw [Int.emod_def, sub_eq_add_neg, mul_assoc, ← mul_neg, Int.add_mul_ediv_left _ _ hpos.ne', ← Int.ediv_ediv_of_nonneg hpos.le,
      ← sub_eq_add_neg, ← Int.emod_def]
  have hhigh : (v % (2 ^ w * 2 ^ w)).toNat / 2 ^ w = (v / 2 ^ w % 2 ^ w).toNat := by
    zify
    rw [Int.toNat_of_nonneg (Int.emod_nonneg _ (by positivity)), Int.toNat_of_nonneg (Int.emod_nonneg _ hpos.ne'), hmod]
  have hlt : (v / 2 ^ w % 2 ^ w).toNat < 2 ^ w := by
    zify
    rw [Int.toNat_of_nonneg (Int.emod_nonneg _ hpos.ne')]
    exact Int.emod_lt_of_pos _ hpos
  apply BitVec.eq_of_toNat_eq
  rw [BitVec.extractLsb'_toNat, BitVec.toNat_ofInt, BitVec.toNat_ofInt, Nat.shiftRight_eq_div_pow, two_mul, pow_add,
    Int.fdiv_eq_ediv_of_nonneg _ hpos.le]
  push_cast
  rw [hhigh, Nat.mod_eq_of_lt hlt]

end Wrapping

/-! ## The number that a type reads (R65, R82) -/

section Numbers
variable (ty a b c : Nat)

theorem intOf_eq_numberOf : intOf ty a = numberOf ty a := by
  rw [intOf, numberOf, ← signedAtWidth_eq_toInt a (tyWidth_pos ty), signedAtWidth]
  cases tySigned ty <;> simp

/-- The number of a pattern wraps back to the pattern. -/
theorem ofInt_numberOf : BitVec.ofInt (tyWidth ty) (numberOf ty a) = BitVec.ofNat (tyWidth ty) a := by
  rw [numberOf]
  split
  · exact BitVec.ofInt_toInt
  · rw [BitVec.ofInt_natCast, BitVec.ofNat_toNat, BitVec.setWidth_eq]

/-- Only the pattern 0 reads as 0. -/
theorem numberOf_eq_zero : numberOf ty a = 0 ↔ BitVec.ofNat (tyWidth ty) a = 0 := by
  rw [numberOf]
  split
  · rw [← BitVec.toInt_inj]
    exact Iff.of_eq (congrArg _ BitVec.toInt_zero.symm)
  · rw [← BitVec.toNat_inj, Int.natCast_eq_zero]
    exact Iff.of_eq (congrArg _ BitVec.toNat_zero.symm)

/-! ## The operations -/

theorem low_addOp : BitVec.ofNat (tyWidth ty) (addOp ty 0 a b c) = BitVec.ofNat (tyWidth ty) a + BitVec.ofNat (tyWidth ty) b := by
  rw [addOp, wrapOrClamp, if_neg (by decide), ofNat_narrow, BitVec.ofInt_add]
  simp only [intOf_eq_numberOf, ofInt_numberOf]

theorem low_subOp : BitVec.ofNat (tyWidth ty) (subOp ty 0 a b c) = BitVec.ofNat (tyWidth ty) a - BitVec.ofNat (tyWidth ty) b := by
  rw [subOp, wrapOrClamp, if_neg (by decide), ofNat_narrow, ofInt_sub]
  simp only [intOf_eq_numberOf, ofInt_numberOf]

theorem low_mulOp : BitVec.ofNat (tyWidth ty) (mulOp ty 0 a b c) = BitVec.ofNat (tyWidth ty) a * BitVec.ofNat (tyWidth ty) b := by
  rw [mulOp, ofNat_narrow, BitVec.ofInt_mul]
  simp only [intOf_eq_numberOf, ofInt_numberOf]

/-- With FN[4:0] = 1 a result is clamped to the type's range (R83). -/
theorem low_clamped (v : Int) : BitVec.ofNat (tyWidth ty) (wrapOrClamp ty 1 v) =
    BitVec.ofInt (tyWidth ty) (max (leastOf ty) (min (greatestOf ty) v)) := by
  rw [wrapOrClamp, if_pos rfl, ofNat_narrow]
  rfl

theorem low_mulhOp : BitVec.ofNat (tyWidth ty) (mulhOp ty 0 a b c) =
    let x := BitVec.ofNat (tyWidth ty) a
    let y := BitVec.ofNat (tyWidth ty) b
    if tySigned ty then (x.signExtend (2 * tyWidth ty) * y.signExtend (2 * tyWidth ty)).extractLsb' (tyWidth ty) (tyWidth ty)
      else (x.setWidth (2 * tyWidth ty) * y.setWidth (2 * tyWidth ty)).extractLsb' (tyWidth ty) (tyWidth ty) := by
  rw [mulhOp, ofNat_narrow, ← extractHigh_ofInt, BitVec.ofInt_mul, intOf_eq_numberOf, intOf_eq_numberOf, numberOf, numberOf]
  split
  · rfl
  · simp only [BitVec.ofInt_natCast, BitVec.ofNat_toNat]

theorem low_divOp : BitVec.ofNat (tyWidth ty) (divOp ty 0 a b c) =
    let x := BitVec.ofNat (tyWidth ty) a
    let y := BitVec.ofNat (tyWidth ty) b
    if y = 0 then BitVec.allOnes (tyWidth ty) else if tySigned ty then x.sdiv y else x / y := by
  simp only [divOp, intOf_eq_numberOf, numberOf_eq_zero]
  split
  · exact BitVec.eq_of_toNat_eq (by rw [BitVec.toNat_ofNat, BitVec.toNat_allOnes, Nat.mod_eq_of_lt (Nat.sub_lt (by positivity) (by decide))])
  · rw [ofNat_narrow, numberOf, numberOf]
    split
    · rw [← ofInt_bmod, ← BitVec.toInt_sdiv, BitVec.ofInt_toInt]
    · rw [← Int.ofNat_tdiv, BitVec.ofInt_natCast, ← BitVec.toNat_udiv, BitVec.ofNat_toNat, BitVec.setWidth_eq]

theorem low_remOp : BitVec.ofNat (tyWidth ty) (remOp ty 0 a b c) =
    let x := BitVec.ofNat (tyWidth ty) a
    let y := BitVec.ofNat (tyWidth ty) b
    if y = 0 then x else if tySigned ty then x.srem y else x % y := by
  simp only [remOp, intOf_eq_numberOf, numberOf_eq_zero]
  split
  · exact ofNat_mod ..
  · rw [ofNat_narrow, numberOf, numberOf]
    split
    · rw [← BitVec.toInt_srem, BitVec.ofInt_toInt]
    · rw [← Int.ofNat_tmod, BitVec.ofInt_natCast, ← BitVec.toNat_umod, BitVec.ofNat_toNat, BitVec.setWidth_eq]

theorem low_minOp : BitVec.ofNat (tyWidth ty) (minOp ty 0 a b c) =
    if numberOf ty a ≤ numberOf ty b then BitVec.ofNat (tyWidth ty) a else BitVec.ofNat (tyWidth ty) b := by
  rw [minOp, intOf_eq_numberOf, intOf_eq_numberOf, apply_ite (BitVec.ofNat _)]

theorem low_maxOp : BitVec.ofNat (tyWidth ty) (maxOp ty 0 a b c) =
    if numberOf ty a ≤ numberOf ty b then BitVec.ofNat (tyWidth ty) b else BitVec.ofNat (tyWidth ty) a := by
  rw [maxOp, intOf_eq_numberOf, intOf_eq_numberOf, apply_ite (BitVec.ofNat _)]

end Numbers

/-- Settles O10: every operation on the numbers of a type is, modulo the width, the operation on patterns. -/
theorem integerArithmeticValues : Obligations.IntegerArithmeticValues := by
  unfold Obligations.IntegerArithmeticValues
  intro ty a b c _ w x y p q low
  refine ⟨low_addOp .., low_subOp .., low_mulOp .., ?add, ?sub, low_mulhOp .., low_divOp .., low_remOp .., low_minOp .., low_maxOp ..⟩
  case add => exact (low_clamped ..).trans (by rw [intOf_eq_numberOf, intOf_eq_numberOf])
  case sub => exact (low_clamped ..).trans (by rw [intOf_eq_numberOf, intOf_eq_numberOf])

end Sys2Proof.Machine
end

section
/-! SUPPORT. The floating-point instructions of opcodes 0x30 to 0x3D: every row of `fltRow` issues one body, what that body does with
sources that are no queue and no stream, and what FCVT does with them (R76, R79, R362, R367, R368). -/

namespace Sys2Proof.Machine

open Sys2Proof.Claims

section FloatRows
variable {s t : State} {i : Instr} {r : FltRow} (hr : fltRow i = some r)
include hr

/-- Both forms of a floating-point instruction issue the body of its row. -/
theorem exec_fltRow (s : State) : exec i s = issue i r.f.base.pred r.f.base.pneg (fltBody r.n r.op r.f) s := by
  cases i <;> cases hr <;> rfl

/-- A floating-point instruction has one to three sources. -/
theorem fltRow_sources : 1 ≤ r.n ∧ r.n ≤ 3 := by
  cases i <;> cases hr
  case fsgn | fsgnQw => split <;> simp
  all_goals simp

/-- A floating-point instruction that is ready and whose body runs falls through to the next one. -/
theorem exec_fltRow_falls (h : Ready s i r.f.base.pred r.f.base.pneg)
    (hb : (fltBody r.n r.op r.f).run (issued s) = .ok .fall t) : exec i s = falls s i t := by
  rw [exec_fltRow hr, issue_runs h hb, falls]

end FloatRows

section FloatBody
variable {n : Nat} {op : FltOp} {f : F96Q} {u : State} (hn : 1 ≤ n ∧ n ≤ 3) (hd : f.base.d.toNat < 32)
include hn hd

/-- The scalar class writes one result and raises its flags. -/
theorem run_fltBody_scalar {a b c : Word} (hv : f.base.isVec = false) (hs : scalarsAt u n f.base.ty.toNat f.base = some (a, b, c))
    (hx : xFree u f.base.d.toNat = true) :
    let r := op (Rm.ofCode (here u).fprm.toNat) f.base.ty.toNat f.base.fn5 a.toNat b.toNat c.toNat
    (fltBody n op f).run u = .ok .fall (withFlags r.flags (withX f.base.d.toNat (BitVec.ofNat 64 r.bits) false u)) := by
  simp only [fltBody, hv, Bool.false_eq_true, if_false, EStateM.run_bind, waits_scalar hn.1 hn.2 hs hd, run_myRm, run_useABC hs,
    run_putDest _ _ _ hd hx, run_raiseFlags, EStateM.run_pure]

/-- The vector class computes every element and raises the flags of all. -/
theorem run_fltBody_vector {a b c : VReg} (hv : f.base.isVec = true) (hs : vectorsAt u n f.base.ty.toNat f.base = some (a, b, c))
    (hx : vFree u f.base.d.toNat = true) :
    let w := tyWidth f.base.ty.toNat
    let rs := (List.range (elementsAt w)).map (fun j => op (Rm.ofCode (here u).fprm.toNat) f.base.ty.toNat f.base.fn5
      (element a w j) (element b w j) (element c w j))
    (fltBody n op f).run u = .ok .fall
      (withFlags (rs.foldl (fun m r => m ||| r.flags) 0) (withV f.base.d.toNat (packElements w (rs.map (·.bits))) 0 u)) := by
  simp only [fltBody, hv, if_true, EStateM.run_bind, waits_vector hn.1 hn.2 hs hd, run_myRm, run_useVABC hs, run_putVDest _ _ _ hd hx,
    run_raiseFlags, EStateM.run_pure]

end FloatBody

/-- Settles O18: the row's body with sources that are no queue and no stream and a register for D. -/
theorem floatResults : Obligations.FloatResults := by
  unfold Obligations.FloatResults
  refine ⟨fun s i r a b c => ?scalar, fun s i r a b c => ?vector⟩
  case scalar =>
    intro f d v hr h hv hs hd hx
    exact exec_fltRow_falls hr h (run_fltBody_scalar (fltRow_sources hr) hd hv hs hx)
  case vector =>
    intro f d w vs hr h hv hs hd hx
    exact exec_fltRow_falls hr h (run_fltBody_vector (fltRow_sources hr) hd hv hs hx)

/-! ## FCVT (R367, R368) -/

theorem exec_fcvt (f : F64A) (s : State) : exec (.fcvt f) s = issue (.fcvt f) f.pred f.pneg (fcvtBody (.fcvt f) (plain f)) s := rfl
theorem exec_fcvtQw (f : F96Q) (s : State) : exec (.fcvtQw f) s = issue (.fcvtQw f) f.base.pred f.base.pneg (fcvtBody (.fcvtQw f) f) s :=
  rfl

/-- Either form of FCVT is over where its body leaves it. -/
theorem exec_fcvt_falls {s t : State} {i : Instr} {f : F96Q} (hi : EitherForm i .fcvt .fcvtQw f) (h : Ready s i f.base.pred f.base.pneg)
    (hb : ∀ g : F96Q, g.base = f.base → (fcvtBody i g).run (issued s) = .ok .fall t) : exec i s = falls s i t := by
  rcases hi with rfl | rfl
  · exact (exec_fcvt ..).trans (issue_runs h (hb _ rfl))
  · exact (exec_fcvtQw ..).trans (issue_runs h (hb _ rfl))

/-- The narrow format of the issuing tile where a type is nf, and one without a meaning elsewhere (R367). -/
def nfHere (u : State) (used : Bool) : Nf := Nf.ofWord (if used then (u.tile (home u)).fmt else 0)

theorem run_myNf {u : State} {used : Bool} (i : Instr) (h : used = true → nfValid (u.tile (home u)).fmt = true) :
    (myNf i used).run u = .ok (nfHere u used) u := by
  cases used
  · rfl
  · simp only [myNf, Bool.not_true, Bool.false_eq_true, if_false, EStateM.run_bind, run_myTile, run_check, h rfl, if_true, EStateM.run_pure,
      nfHere]

/-- A v register as a source gives its bits with its marks. -/
theorem run_vsource_register {u : State} {ty spec : Nat} {imm : BitVec 16} {w : BitVec 8} (hn : spec < 32) (h : vFree u spec = true) :
    (vsource ty spec imm w).run u = .ok ⟨(here u).v spec, (here u).vPoison.getD spec 0, 0⟩ u := by
  simp only [vsource, hn, if_true, EStateM.run_bind, run_getV h, EStateM.run_pure]

/-- A v register of which an instruction keeps part. -/
theorem run_oldVDest {u : State} {f : F96Q} (hd : f.base.d.toNat < 32) (h : vFree u f.base.d.toNat = true) :
    (oldVDest f).run u = .ok ⟨(here u).v f.base.d.toNat, (here u).vPoison.getD f.base.d.toNat 0, 0⟩ u := by
  simp only [oldVDest, hd, if_true, EStateM.run_bind, run_getV h, EStateM.run_pure]

/-- A register without marks has none after some are cleared. -/
theorem clearLanes_zero (w : Nat) (js : List Nat) : clearLanes w js 0 = 0 := by
  unfold clearLanes
  generalize List.range 32 = l
  induction l with
  | nil => rfl
  | cons i l ih => simpa using ih

@[simp] theorem element_zero (w j : Nat) : element 0 w j = 0 := by
  simp [element]

/-- What FCVT keeps of D: its bits and marks where D has more elements, else nothing. -/
def keptOf (u : State) (d : Nat) (kept : Prop) [Decidable kept] : VSrc :=
  if kept then ⟨(here u).v d, (here u).vPoison.getD d 0, 0⟩ else ⟨0, 0, 0⟩

section Kept
variable {u : State} {d : Nat} {kept : Prop} [Decidable kept]

theorem element_keptOf (w j : Nat) : element (keptOf u d kept).val w j = if kept then element ((here u).v d) w j else 0 := by
  unfold keptOf
  split
  · rfl
  · exact element_zero w j

theorem clearLanes_keptOf (w : Nat) (js : List Nat) :
    clearLanes w js (keptOf u d kept).poison = if kept then clearLanes w js ((here u).vPoison.getD d 0) else 0 := by
  unfold keptOf
  split
  · rfl
  · exact clearLanes_zero w js

end Kept

/-- The elements of a part, counted from its first. -/
theorem map_part {β : Type} (g : Nat → β) (c : Prop) [Decidable c] (first : Nat) (l : List Nat) :
    (l.map (fun j => if c then first + j else j)).map g = l.map (fun j => g ((if c then first else 0) + j)) := by
  rw [List.map_map]
  split <;> simp [Function.comp_def]

section ConversionBody
variable {u : State} {i : Instr} {f : F96Q} {src dst : Nat} {used : Bool} (hsrc : f.base.fn5 % 16 = src) (hdst : f.base.ty.toNat = dst)
  (hused : (decide (src = 12) || decide (dst = 12)) = used) (hnf : used = true → nfValid (u.tile (home u)).fmt = true)
  (hd : f.base.d.toNat < 32)
include hsrc hdst hused hnf hd

/-- The scalar class converts one element. -/
theorem run_fcvtBody_scalar {a : Word} (hv : f.base.isVec = false) (ha : scalarAt u src f.base.a f.base.imm16 = some a)
    (hx : xFree u f.base.d.toNat = true) :
    let r := convert (Rm.ofCode (here u).fprm.toNat) (nfHere u used) (f.base.fn5 / 16 = 1) src dst a.toNat
    (fcvtBody i f).run u = .ok .fall (withFlags r.flags
      (withX f.base.d.toNat (if dst < 12 then extend dst r.bits else BitVec.ofNat 64 r.bits) false u)) := by
  have hw : (queueWaits (operands 1 f false false false false false)).run u = .ok () u :=
    run_queueWaits_operands u (Nat.le_refl 1) (by decide) (scalarAt_noQueue ha) (by omega) (by omega) hd
  subst hsrc hdst hused
  simp only [fcvtBody, hv, Bool.false_eq_true, if_false, EStateM.run_bind, run_myNf i hnf, hw, run_myRm, run_useSource _ ha,
    run_putDest _ _ _ hd hx, run_raiseFlags, EStateM.run_pure]

/-- The vector class converts the elements of A that D has room for, into the part of D that they fill. -/
theorem run_fcvtBody_vector {x : VReg} (hv : f.base.isVec = true)
    (hx : vectorAt u src f.base.a (if f.base.a = 60 then f.base.imm16 else 0) = some x) (hf : vFree u f.base.d.toNat = true) :
    let es := elementsAt (tyWidth src)
    let ed := elementsAt (tyWidth dst)
    let h := if f.base.b = 60 then f.base.imm16.toNat else 0
    let place := if es < ed then h * es else 0
    let rs := (List.range (min es ed)).map (fun j => convert (Rm.ofCode (here u).fprm.toNat) (nfHere u used) (f.base.fn5 / 16 = 1) src dst
      (element x (tyWidth src) ((if ed < es then h * ed else 0) + j)))
    (fcvtBody i f).run u = .ok .fall (withFlags (rs.foldl (fun m r => m ||| r.flags) 0)
      (withV f.base.d.toNat (buildElements (tyWidth dst) (fun j =>
        if place ≤ j ∧ j < place + min es ed then (rs.getD (j - place) ⟨0, 0⟩).bits
        else if es < ed then element ((here u).v f.base.d.toNat) (tyWidth dst) j else 0))
        (if es < ed then clearLanes (tyWidth dst) ((List.range (min es ed)).map (place + ·)) ((here u).vPoison.getD f.base.d.toNat 0)
          else 0) u)) := by
  have hw : (queueWaits (operands 1 f false true true true true)).run u = .ok () u :=
    run_queueWaits_operands u (Nat.le_refl 1) (by decide) (vectorAt_noQueue hx) (by omega) (by omega) hd
  subst hsrc hdst hused
  intro es ed h place rs
  have hold : (if es < ed then oldVDest f else pure ⟨0, 0, 0⟩ : Exec VSrc).run u = .ok (keptOf u f.base.d.toNat (es < ed)) u := by
    unfold keptOf
    split
    · exact run_oldVDest hd hf
    · rfl
  rw [fcvtBody, hv]
  refine (run_bind_ok (run_myNf i hnf)).trans ((run_bind_ok hw).trans ((run_bind_ok (run_myRm u)).trans ?_))
  rw [if_pos rfl, ← apply_ite (· >>= _)]
  refine (run_bind_ok hold).trans ((run_bind_ok (run_vsource f.wa hx)).trans ?_)
  rw [if_neg (by simp)]
  refine (run_bind_ok (run_putVDest _ _ _ hd hf)).trans ((run_bind_ok (run_raiseFlags ..)).trans ((EStateM.run_pure ..).trans ?_))
  simp only [map_part, List.length_map, List.length_range, element_keptOf, clearLanes_keptOf]
  rfl

end ConversionBody

/-- Settles O19: the body's two classes. -/
theorem conversionResult : Obligations.ConversionResult := by
  unfold Obligations.ConversionResult
  intro s i f hi h u d src dst narrow nf conv hnf hd
  have hused : (decide (src = 12) || decide (dst = 12)) = narrow := (Bool.decide_or ..).symm
  refine ⟨fun a hv ha hx => exec_fcvt_falls hi h fun ⟨_, wa, wb, wc, wd⟩ hg => ?scalar,
    fun x hv hx hf => exec_fcvt_falls hi h fun ⟨_, wa, wb, wc, wd⟩ hg => ?vector⟩
  case scalar =>
    cases hg
    exact run_fcvtBody_scalar (f := ⟨f.base, wa, wb, wc, wd⟩) rfl rfl hused hnf hd hv ha hx
  case vector =>
    cases hg
    exact run_fcvtBody_vector (f := ⟨f.base, wa, wb, wc, wd⟩) rfl rfl hused hnf hd hv hx hf

end Sys2Proof.Machine
end

section
/-! SUPPORT. The vector instructions within registers: what each body does with sources that are registers, constants and immediates (R90,
R329, R431-R433, R435, R437, R438). -/

namespace Sys2Proof.Machine

open Sys2Proof.Claims

/-! ## The waits -/

/-- A specifier that names no queue. -/
def NoQueue (spec : Nat) : Prop := (decide (32 ≤ spec) && decide (spec < 48)) = false

section Waits
variable {f : F96Q} {ds vd va vb vc : Bool} (u : State) (ha : NoQueue f.base.a.toNat) (hd : f.base.d.toNat < 32)
include ha hd

theorem run_queueWaits_one : (queueWaits (operands 1 f ds vd va vb vc)).run u = .ok () u :=
  run_queueWaits_operands u (Nat.le_refl 1) (by decide) ha (by omega) (by omega) hd

theorem run_queueWaits_two (hb : NoQueue f.base.b.toNat) : (queueWaits (operands 2 f ds vd va vb vc)).run u = .ok () u :=
  run_queueWaits_operands u (by decide) (by decide) ha (fun _ => hb) (by omega) hd

end Waits

/-- A v register without marks gives its bits. -/
theorem run_useVSource_register {u : State} {ty spec : Nat} {imm : BitVec 16} {w : BitVec 8} (hn : spec < 32) (h : vOk u spec = true) :
    (useVSource ty spec imm w).run u = .ok ((here u).v spec) u := by
  obtain ⟨hf, hp⟩ : vFree u spec = true ∧ ((here u).vPoison.getD spec 0 == 0) = true := by
    simpa only [vOk, vFree, Bool.and_eq_true] using h
  simp only [useVSource, EStateM.run_bind, run_vsource_register hn hf, bne, hp, Bool.not_true, Bool.false_eq_true, if_false,
    EStateM.run_pure]

/-! ## The bodies -/

section Bodies
variable {f : F96Q} {u : State} (hd : f.base.d.toNat < 32)
include hd

section ToVector
variable (hfree : vFree u f.base.d.toNat = true)
include hfree

theorem run_vbcastBody (ha : f.base.a.toNat < 32) (hfa : vFree u f.base.a.toNat = true)
    (hm : ((here u).vPoison.getD f.base.a.toNat 0 &&& laneMask (tyWidth f.base.ty.toNat) f.base.imm16.toNat) = 0) :
    (vbcastBody f).run u = .ok .fall (withV f.base.d.toNat (splat (tyWidth f.base.ty.toNat)
      (element ((here u).v f.base.a.toNat) (tyWidth f.base.ty.toNat) f.base.imm16.toNat)) 0 u) := by
  rw [vbcastBody]
  refine (run_bind_ok (run_queueWaits_one u (lt_noQueue ha) hd)).trans ((run_bind_ok (run_vsource_register ha hfa)).trans ?_)
  rw [if_neg (by rw [hm]; decide)]
  exact (run_bind_ok (run_putVDest _ _ _ hd hfree)).trans (EStateM.run_pure ..)

theorem run_vredBody (ha : f.base.a.toNat < 32) (hoa : vOk u f.base.a.toNat = true) :
    let es := (List.range (elementsAt (tyWidth f.base.ty.toNat))).map (element ((here u).v f.base.a.toNat) (tyWidth f.base.ty.toNat))
    let r : FRes := if f.base.fn5 = 6 then ⟨(es.filter (· != 0)).length, 0⟩
      else treeReduce (redOp (Rm.ofCode (here u).fprm.toNat) f.base.ty.toNat f.base.fn5) 5 es 0
    (vredBody f).run u = .ok .fall
      (withFlags r.flags (withV f.base.d.toNat (packElements (tyWidth f.base.ty.toNat) [r.bits]) 0 u)) := by
  rw [vredBody]
  exact (run_bind_ok (run_queueWaits_one u (lt_noQueue ha) hd)).trans ((run_bind_ok (run_myRm u)).trans
    ((run_bind_ok (run_useVSource_register ha hoa)).trans ((run_bind_ok (run_putVDest _ _ _ hd hfree)).trans
      ((run_bind_ok (run_raiseFlags ..)).trans (EStateM.run_pure ..)))))

theorem run_vshufBody (ha : f.base.a.toNat < 32) (hb : f.base.b.toNat < 32) (hfa : vFree u f.base.a.toNat = true)
    (hob : vOk u f.base.b.toNat = true) :
    let w := tyWidth f.base.ty.toNat
    let pick := fun j => element ((here u).v f.base.b.toNat) w j % elementsAt w
    (vshufBody f).run u = .ok .fall (withV f.base.d.toNat
      (buildElements w (fun j => element ((here u).v f.base.a.toNat) w (pick j)))
      ((List.range (elementsAt w)).foldl (fun m j =>
        if ((here u).vPoison.getD f.base.a.toNat 0 &&& laneMask w (pick j)) != 0 then m ||| laneMask w j else m) 0) u) := by
  rw [vshufBody]
  exact (run_bind_ok (run_queueWaits_two u (lt_noQueue ha) hd (lt_noQueue hb))).trans ((run_bind_ok (run_vsource_register ha hfa)).trans
    ((run_bind_ok (run_useVSource_register hb hob)).trans ((run_bind_ok (run_putVDest _ _ _ hd hfree)).trans (EStateM.run_pure ..))))

theorem run_vcompBody (ha : f.base.a.toNat < 32) (hb : f.base.b.toNat < 32) (hoa : vOk u f.base.a.toNat = true)
    (hob : vOk u f.base.b.toNat = true) :
    let w := tyWidth f.base.ty.toNat
    (vcompBody f).run u = .ok .fall (withV f.base.d.toNat (packElements w
      (((List.range (elementsAt w)).filter (fun j => element ((here u).v f.base.b.toNat) w j != 0)).map
        (element ((here u).v f.base.a.toNat) w))) 0 u) := by
  rw [vcompBody]
  exact (run_bind_ok (run_queueWaits_two u (lt_noQueue ha) hd (lt_noQueue hb))).trans ((run_bind_ok (run_useVSource_register ha hoa)).trans
    ((run_bind_ok (run_useVSource_register hb hob)).trans ((run_bind_ok (run_putVDest _ _ _ hd hfree)).trans (EStateM.run_pure ..))))

theorem run_viotaBody {p q : Word} (ha : scalarAt u f.base.ty.toNat f.base.a f.base.imm16 = some p)
    (hb : scalarAt u f.base.ty.toNat f.base.b f.base.imm16 = some q) :
    (viotaBody f).run u = .ok .fall (withV f.base.d.toNat
      (buildElements (tyWidth f.base.ty.toNat) (fun j => p.toNat + j * q.toNat)) 0 u) := by
  rw [viotaBody]
  exact (run_bind_ok (run_queueWaits_two u (scalarAt_noQueue ha) hd (scalarAt_noQueue hb))).trans ((run_bind_ok (run_useSource _ ha)).trans
    ((run_bind_ok (run_useSource _ hb)).trans ((run_bind_ok (run_putVDest _ _ _ hd hfree)).trans (EStateM.run_pure ..))))

end ToVector

/-! ## VEXT and VINS (R433) -/

/-- The element that VEXT and VINS name is `k`: IMM16, or a scalar source modulo the element count. -/
def NamesElement (u : State) (f : F96Q) (k : Nat) : Prop :=
  (f.base.b = 60 ∧ k = f.base.imm16.toNat) ∨
    (f.base.b ≠ 60 ∧ ∃ q : Word, scalarAt u 7 f.base.b 0 = some q ∧ k = q.toNat % elementsAt (tyWidth f.base.ty.toNat))

section Element
variable {k : Nat} (hk : NamesElement u f k)
include hk

omit hd in
theorem run_elementIndex : (elementIndex f).run u = .ok k u := by
  rw [elementIndex]
  rcases hk with ⟨hb, rfl⟩ | ⟨hb, q, hq, rfl⟩
  · rw [if_pos hb]
    rfl
  · rw [if_neg hb]
    exact (run_bind_ok (run_useSource _ hq)).trans (EStateM.run_pure ..)

omit hd in
theorem NamesElement.noQueue : NoQueue f.base.b.toNat := by
  rcases hk with ⟨hb, -⟩ | ⟨-, q, hq, -⟩
  · rw [hb]
    rfl
  · exact scalarAt_noQueue hq

theorem run_vextBody (ha : f.base.a.toNat < 32) (hfa : vFree u f.base.a.toNat = true) (hx : xFree u f.base.d.toNat = true) :
    let w := tyWidth f.base.ty.toNat
    (vextBody f).run u = .ok .fall (withX f.base.d.toNat (extend f.base.ty.toNat (element ((here u).v f.base.a.toNat) w k))
      (((here u).vPoison.getD f.base.a.toNat 0 &&& laneMask w k) != 0) u) := by
  rw [vextBody]
  exact (run_bind_ok (run_queueWaits_two u (lt_noQueue ha) hd hk.noQueue)).trans ((run_bind_ok (run_vsource_register ha hfa)).trans
    ((run_bind_ok (run_elementIndex hk)).trans ((run_bind_ok (run_putDest _ _ _ hd hx)).trans (EStateM.run_pure ..))))

theorem run_vinsBody {p : Word} (hfree : vFree u f.base.d.toNat = true)
    (ha : scalarAt u f.base.ty.toNat f.base.a f.base.imm16 = some p) :
    let w := tyWidth f.base.ty.toNat
    let old := (here u).vPoison.getD f.base.d.toNat 0
    (vinsBody f).run u = .ok .fall (withV f.base.d.toNat
      (buildElements w (fun j => if j = k then p.toNat else element ((here u).v f.base.d.toNat) w j))
      (if 32 ≤ w then old &&& ~~~(laneMask w k) else old) u) := by
  rw [vinsBody]
  exact (run_bind_ok (run_queueWaits_two u (scalarAt_noQueue ha) hd hk.noQueue)).trans ((run_bind_ok (run_source _ ha)).trans
    ((run_bind_ok (run_elementIndex hk)).trans ((run_bind_ok (run_oldVDest hd hfree)).trans
      ((run_bind_ok (run_putVDest _ _ _ hd hfree)).trans (EStateM.run_pure ..)))))

end Element
end Bodies

/-- Either form of an operation falls through to the next instruction from where its body leaves it, whatever its wait bytes. -/
theorem either_falls {i : Instr} {mk : F64A → Instr} {mq : F96Q → Instr} {f : F96Q} {s t : State} {body : F96Q → Exec Flow}
    (hb : ∀ wa wb wc wd, (body ⟨f.base, wa, wb, wc, wd⟩).run (issued s) = .ok .fall t)
    (h1 : exec (mk f.base) s = issueA (mk f.base) f.base (body (plain f.base)) s)
    (h2 : exec (mq f) s = issueQ (mq f) f (body f) s)
    (hr : Ready s i f.base.pred f.base.pneg) (h : EitherForm i mk mq f) : exec i s = falls s i t :=
  either h h1 h2 hr fun ⟨_, wa, wb, wc, wd⟩ hg => by cases hg; exact hb wa wb wc wd

/-- Settles O21: each body's run with sources that are no queue and no stream. -/
theorem vectorRegisterResult : Obligations.VectorRegisterResult := by
  unfold Obligations.VectorRegisterResult
  intro s i f h u ty w n a b d x y marks rm es red hd
  refine ⟨fun hi ha hfa hfd hm => ?vbcast, fun hi ha hoa hfd => ?vred, fun hi ha hb hfa hob hfd => ?vshuf,
    fun hi ha hb hoa hob hfd => ?vcomp, fun hi p q ha hb hfd => ?viota,
    fun k hk => ⟨fun hi ha hfa hx => ?vext, fun hi hfd p ha => ?vins⟩⟩
  case vbcast => exact either_falls (fun wa wb wc wd => run_vbcastBody (f := ⟨f.base, wa, wb, wc, wd⟩) hd hfd ha hfa hm) rfl rfl h hi
  case vred => exact either_falls (fun wa wb wc wd => run_vredBody (f := ⟨f.base, wa, wb, wc, wd⟩) hd hfd ha hoa) rfl rfl h hi
  case vshuf => exact either_falls (fun wa wb wc wd => run_vshufBody (f := ⟨f.base, wa, wb, wc, wd⟩) hd hfd ha hb hfa hob) rfl rfl h hi
  case vcomp => exact either_falls (fun wa wb wc wd => run_vcompBody (f := ⟨f.base, wa, wb, wc, wd⟩) hd hfd ha hb hoa hob) rfl rfl h hi
  case viota => exact either_falls (fun wa wb wc wd => run_viotaBody (f := ⟨f.base, wa, wb, wc, wd⟩) hd hfd ha hb) rfl rfl h hi
  case vext => exact either_falls (fun wa wb wc wd => run_vextBody (f := ⟨f.base, wa, wb, wc, wd⟩) hd hk ha hfa hx) rfl rfl h hi
  case vins => exact either_falls (fun wa wb wc wd => run_vinsBody (f := ⟨f.base, wa, wb, wc, wd⟩) hd hk hfd ha) rfl rfl h hi

end Sys2Proof.Machine
end

section
/-! SUPPORT. ST of the own scratchpad by an agent whose releasing fence covers another write that not every agent sees (R198, R202,
R203). -/

namespace Sys2Proof.Machine

open Sys2Proof.Claims

/-- Another word's write that the A-sequencer of tile 0 sees and that a releasing fence of its, of scope 5, covers. -/
def fencedWrite : Unseen := ⟨0, 0, List.replicate 8 0, [], [.seen (.a 0), .fenced (.a 0) 5]⟩

/-- The A-sequencer of tile 0, after that fence, with the address of its scratchpad's first byte in x1. -/
def afterFence : State :=
  { State.reset.modSeq (.a 0) (fun q => q.setX 1 (1#64 <<< 62) false) with
    focus := .a 0, mem := { Mem.reset with unseen := [fencedWrite] } }

/-- ST of x0, of type i64, to the address in x1. -/
def storeAtX1 : F64M := ⟨0, 0, 0, 1, 3, 0, 0, 0, 0, 0⟩

/-- The writes that not every agent sees after a step. -/
def unseenAfter : Host.Outcome State Fault Refusal → List Unseen
  | .next s => s.mem.unseen
  | _ => []

theorem ready_storeAtX1 : Ready afterFence (.st storeAtX1) storeAtX1.pred storeAtX1.pneg := by
  unfold Ready
  decide +kernel

theorem unpaired_afterFence : Unpaired (issued afterFence) := by
  intro t ht
  have h0 : t = 0 := by
    rw [focus_issued] at ht
    exact (Option.some.inj ht).symm
  subst h0
  decide +kernel

theorem unseenAfter_storeAtX1 : unseenAfter (exec (.st storeAtX1) afterFence) =
    [{ fencedWrite with marks := fencedWrite.marks ++ [.released (scratchKey 0 0 / 8) (.a 0) 5 true] }] := by
  decide +kernel

/-- Refutes O24, in its last clause, on a plain ST where writes are not seen by all: the store takes along what the agent's releasing
fence covers (R202), which `wrote` notes on the other words' writes after `hidePlain`, and the clause's state lacks that note. -/
theorem not_loadAndStoreOwnScratchpad : ¬ Obligations.LoadAndStoreOwnScratchpad := by
  unfold Obligations.LoadAndStoreOwnScratchpad
  rintro ⟨-, -, h⟩
  have hst := ((h afterFence storeAtX1 rfl unpaired_afterFence (by decide +kernel) (by decide +kernel) (by decide) (by decide +kernel)).2
    ready_storeAtX1 (by decide) (by decide +kernel)).1
  have hc : unseenAfter (exec (.st storeAtX1) afterFence) = [fencedWrite] := by
    rw [hst]
    decide +kernel
  rw [unseenAfter_storeAtX1] at hc
  exact absurd hc (by decide)

end Sys2Proof.Machine
end

section
/-! SUPPORT. Operand-memory slots, tensor entries and the narrow format: parts of an access to the own scratchpad, what each body does, and
the statement about them (R91, R212, R214, R322, R323, R397, R420, R423, R426). -/

namespace Sys2Proof.Machine

open Sys2Proof.Claims

/-! ## Parts of a range of the own scratchpad -/

theorem mem_wordsOf {key n w : Nat} : w ∈ wordsOf key n ↔ key / 8 ≤ w ∧ w < (key + n + 7) / 8 := by
  simp only [wordsOf, List.mem_map, List.mem_range]
  constructor
  · rintro ⟨i, hi, rfl⟩
    omega
  · rintro ⟨hl, hu⟩
    exact ⟨w - key / 8, by omega, by omega⟩

/-- What is in flight to none of some words is in flight to none of fewer. -/
theorem inFlight_of_subset {s : State} {q : SeqId} {ws vs : List Nat} (h : inFlight s q ws = false) (hs : ∀ w ∈ vs, w ∈ ws) :
    inFlight s q vs = false := by
  simp only [inFlight, List.any_eq_false, Bool.and_eq_true, List.any_eq_true, List.contains_iff_mem, not_and, not_exists] at h ⊢
  exact fun r hr ho w hw hv => h r hr ho w hw (hs w hv)

section Parts
variable {u : State} {a : Word} {n align i m : Nat} (him : i + m ≤ n)
include him

theorem cleanBytes_part {μ : Mem} {key : Nat} (h : Claims.cleanBytes μ key n = true) : Claims.cleanBytes μ (key + i) m = true := by
  simp only [Claims.cleanBytes, List.all_eq_true, List.mem_range] at h ⊢
  exact fun j hj => by rw [Nat.add_assoc]; exact h (i + j) (by omega)

/-- Some bytes of a clean range of the own scratchpad are read as they stand. -/
theorem OwnAddress.run_takePart (ha : OwnAddress u a n align) (hs : Solo u) (hc : Claims.cleanBytes u.mem (ownKey u a) n = true)
    (hm : 0 < m) : (takeScratch (home u) (offsetOf a + i) m).run u = .ok (marked (u.mem.bytes (ownKey u a + i) m) false) u := by
  have hn := ha.fits
  have hk : scratchKey (home u) (offsetOf a + i) = ownKey u a + i := (scratch_add ..).symm
  rw [← hk]
  refine run_takeScratch (solo_alone hs) (by omega) (by omega) (.inl ha.tile) ?_ (ha.pushesToward _) hs.2.2 ?_
  · refine inFlight_of_subset ha.calm fun w hw => ?_
    rw [mem_wordsOf, ← scratch_add] at hw
    rw [mem_wordsOf]
    omega
  · rw [hk]
    exact cleanBytes_part him hc

end Parts

/-- A range that starts where a longer one does. -/
theorem OwnAddress.shorter {u : State} {a : Word} {n m align : Nat} (ha : OwnAddress u a n align) (h : m ≤ n) : OwnAddress u a m align where
  tile := ha.tile
  ok := ha.ok
  form := ha.form
  reached := ha.reached
  gtile := ha.gtile
  fits := by have := ha.fits; omega
  aligned := ha.aligned
  calm := inFlight_of_subset ha.calm fun w hw => by
    rw [mem_wordsOf] at hw ⊢
    omega

/-! ## Checks -/

theorem run_check_holds {ok : Bool} {c : Byte} {v : Word} {s : State} (h : ok = true) : (check ok c v).run s = .ok () s := by
  rw [run_check, if_pos h]

theorem run_check_fails {ok : Bool} {c : Byte} {v : Word} {s : State} (h : ok = false) :
    (check ok c v).run s = .error (.trap c v none) s := by
  rw [run_check, if_neg (by rw [h]; decide)]

theorem run_waitUntil_holds {ok : Bool} {w : Why} {s : State} (h : ok = true) : (waitUntil ok w).run s = .ok () s := by
  rw [run_waitUntil, if_pos h]

theorem run_waitUntil_waits {ok : Bool} {w : Why} {s : State} (h : ok = false) : (waitUntil ok w).run s = .error (.wait w id) s := by
  rw [run_waitUntil, if_neg (by rw [h]; decide)]

theorem run_bind_error {α β : Type} {x : Exec α} {f : α → Exec β} {s t : State} {e : Stop} (h : x.run s = .error e t) :
    (x >>= f).run s = .error e t := by rw [EStateM.run_bind, h]

/-- A step that gives its value for every element of a list and changes nothing. -/
theorem run_mapM {α β : Type} {f : α → Exec β} {g : α → β} {u : State} {l : List α} (h : ∀ x ∈ l, (f x).run u = .ok (g x) u) :
    (l.mapM f).run u = .ok (l.map g) u := by
  induction l with
  | nil => rfl
  | cons x l ih =>
    rw [List.mapM_cons]
    exact (run_bind_ok (h x (by simp))).trans ((run_bind_ok (ih fun y hy => h y (by simp [hy]))).trans (EStateM.run_pure ..))

/-! ## The bodies of OMCLAIM, OMREL, TQRY and TFMT -/

theorem exec_omclaim (f : F64A) (s : State) : exec (.omclaim f) s = issue (.omclaim f) f.pred f.pneg (omclaimBody f) s := rfl
theorem exec_omrel (f : F64A) (s : State) : exec (.omrel f) s = issue (.omrel f) f.pred f.pneg (omrelBody f) s := rfl
theorem exec_tqry (f : F64A) (s : State) : exec (.tqry f) s = issue (.tqry f) f.pred f.pneg (tqryBody f) s := rfl
theorem exec_tfmt (f : F64A) (s : State) : exec (.tfmt f) s = issue (.tfmt f) f.pred f.pneg (tfmtBody (.tfmt f) f) s := rfl
theorem exec_tdef (f : F128C) (s : State) : exec (.tdef f) s = issue (.tdef f) f.pred f.pneg (tdefBody f) s := rfl
theorem exec_tdup (f : F128C) (s : State) : exec (.tdup f) s = issue (.tdup f) f.pred f.pneg (tdupBody f) s := rfl

/-- The issuing tile with a slot claimed. -/
def withClaim (n : Nat) (u : State) : State := u.modTile (home u) (fun v => { v with claims := v.claims ||| (1#32 <<< n) })

section Claiming
variable {f : F64A} {u : State}

theorem run_omclaimBody_free (h5 : f.imm16.getLsbD 5 = false) (hc : claimed (u.tile (home u)) f.imm16.toNat = false)
    (hx : xFree (withClaim f.imm16.toNat u) f.d.toNat = true) :
    (omclaimBody f).run u = .ok .fall (withX f.d.toNat 0 false (withClaim f.imm16.toNat u)) := by
  simp only [omclaimBody, EStateM.run_bind, run_myTile, h5, hc, Bool.false_eq_true, if_false, run_modMyTile]
  exact (run_bind_ok (run_putX 0 false hx)).trans (EStateM.run_pure ..)

theorem run_omclaimBody_taken (h5 : f.imm16.getLsbD 5 = false) (hc : claimed (u.tile (home u)) f.imm16.toNat = true)
    (hx : xFree u f.d.toNat = true) : (omclaimBody f).run u = .ok .fall (withX f.d.toNat 1 false u) := by
  simp only [omclaimBody, EStateM.run_bind, run_myTile, h5, hc, Bool.false_eq_true, if_false, if_true, run_putX 1 false hx, EStateM.run_pure]

theorem run_omclaimBody_lowest {n : Nat} (h5 : f.imm16.getLsbD 5 = true) (hn : n < 32) (hc : claimed (u.tile (home u)) n = false)
    (hl : ∀ m, m < n → claimed (u.tile (home u)) m = true) (hx : xFree (withClaim n u) f.d.toNat = true) :
    (omclaimBody f).run u = .ok .fall (withX f.d.toNat (BitVec.ofNat 64 n) false (withClaim n u)) := by
  have hf : (List.range 32).find? (fun n => !claimed (u.tile (home u)) n) = some n := by
    rw [List.find?_range_eq_some]
    exact ⟨by rw [hc]; rfl, List.mem_range.mpr hn, fun m hm => by rw [hl m hm]; rfl⟩
  simp only [omclaimBody, EStateM.run_bind, run_myTile, h5, if_true, hf, run_modMyTile]
  exact (run_bind_ok (run_putX _ false hx)).trans (EStateM.run_pure ..)

theorem run_omclaimBody_full (h5 : f.imm16.getLsbD 5 = true) (hl : ∀ m, m < 32 → claimed (u.tile (home u)) m = true)
    (hx : xFree u f.d.toNat = true) : (omclaimBody f).run u = .ok .fall (withX f.d.toNat (BitVec.allOnes 64) false u) := by
  have hf : (List.range 32).find? (fun n => !claimed (u.tile (home u)) n) = none := by
    rw [List.find?_eq_none]
    exact fun m hm => by rw [hl m (List.mem_range.mp hm)]; decide
  simp only [omclaimBody, EStateM.run_bind, run_myTile, h5, if_true, hf, run_putX _ false hx, EStateM.run_pure]

theorem run_omrelBody : (omrelBody f).run u =
    if (u.tile (home u)).matrix.any (fun m => m.slots.contains f.imm16.toNat) then .error (.wait .matrix id) u
    else .ok .fall (u.modTile (home u) (fun v => { v with claims := v.claims &&& ~~~(1#32 <<< f.imm16.toNat) })) := by
  simp only [omrelBody, EStateM.run_bind, run_myTile, run_waitUntil]
  cases (u.tile (home u)).matrix.any (fun m => m.slots.contains f.imm16.toNat) <;> rfl

theorem run_tqryBody (hd : f.d.toNat < 32) (hx : xFree u f.d.toNat = true) : (tqryBody f).run u = .ok .fall (withX f.d.toNat
    (((u.tile (home u)).tensor (f.imm16.toNat % 256)).getD (f.imm16.toNat / 256 % 8) 0) false u) := by
  simp only [tqryBody, EStateM.run_bind, run_queueWaits_dest _ _ hd, run_myTile, run_putDest _ _ _ hd hx, EStateM.run_pure]

/-! ### The narrow format (R423) -/

/-- Whether a register's value is one that TFMT sets. -/
def formatFits (v : Word) : Bool := (v.extractLsb' 32 32) == 0 && nfValid (v.extractLsb' 0 32)

theorem setWidth_eq_extractLsb' (v : Word) : v.setWidth 32 = v.extractLsb' 0 32 := by
  apply BitVec.eq_of_toNat_eq
  simp

theorem extractLsb'_high_eq_zero (v : Word) : ((v.extractLsb' 32 32) == 0) = decide (v.toNat < 2 ^ 32) := by
  rw [beq_eq_decide, decide_eq_decide, ← BitVec.toNat_inj, BitVec.extractLsb'_toNat, Nat.shiftRight_eq_div_pow]
  have := v.isLt
  simp only [BitVec.ofNat_eq_ofNat, BitVec.toNat_ofNat]
  omega

theorem formatFits_eq (v : Word) : formatFits v = (decide (v.toNat < 2 ^ 32) && nfValid (v.setWidth 32)) := by
  rw [formatFits, extractLsb'_high_eq_zero, setWidth_eq_extractLsb']

/-- The issuing tile with a narrow format. -/
def withFormat (v : BitVec 32) (u : State) : State := u.modTile (home u) (fun y => { y with fmt := v })

theorem run_tfmtBody {i : Instr} {v : Word} (ha : xOk u f.a.toNat = true) (hxa : (here u).x f.a.toNat = v) (hv : formatFits v = true)
    (hx : xFree (withFormat (v.setWidth 32) u) f.d.toNat = true) : (tfmtBody i f).run u =
      .ok .fall (withX f.d.toNat ((u.tile (home u)).fmt.setWidth 64) false (withFormat (v.setWidth 32) u)) := by
  subst hxa
  rw [tfmtBody]
  refine (run_bind_ok (run_useX ha)).trans ((run_bind_ok (run_check_holds hv)).trans ((run_bind_ok (run_myTile u)).trans
    ((run_bind_ok (run_modMyTile ..)).trans ?_)))
  rw [← setWidth_eq_extractLsb']
  exact (run_bind_ok (run_putX _ _ hx)).trans (EStateM.run_pure ..)

theorem run_tfmtBody_refuses {i : Instr} {v : Word} (ha : xOk u f.a.toNat = true) (hxa : (here u).x f.a.toNat = v)
    (hv : formatFits v = false) : (tfmtBody i f).run u = .error (.trap 0x01 (lowBits i) none) u := by
  subst hxa
  rw [tfmtBody]
  exact (run_bind_ok (run_useX ha)).trans (run_bind_error (run_check_fails hv))

end Claiming

/-! ## TDEF (R322) -/

section Images
variable {u : State} {a : Word} (hs : Solo u)
include hs

/-- Whole words of a clean range of the own scratchpad. -/
theorem run_ownWords {n align : Nat} (ha : OwnAddress u a (8 * n) align) (hc : Claims.cleanBytes u.mem (ownKey u a) (8 * n) = true) :
    (ownWords a (offsetOf a) n).run u =
      .ok ((List.range n).map (fun i => BitVec.ofNat 64 (wordAt u.mem (ownKey u a + 8 * i) 8))) u := by
  rw [ownWords]
  refine (run_bind_ok (run_myTileNo u)).trans (run_mapM fun i hi => ?_)
  have hi := List.mem_range.mp hi
  refine (run_bind_ok (ha.run_takePart (i := 8 * i) (m := 8) (by omega) hs hc (by decide))).trans ?_
  rw [poisoned_marked, bytes_marked]
  rfl

end Images

/-- The entry whose image stands at a key. -/
def imageAt (m : Mem) (key : Nat) : Tensor := Vector.ofFn (fun k : Fin 8 => BitVec.ofNat 64 (wordAt m (key + 8 * k.val) 8))

section Tdef
variable {f : F128C} {u : State} (hs : Solo u) (hx : xOk u f.a.toNat = true) {a : Word} (hxa : (here u).x f.a.toNat = a)
  (ha : OwnAddress u a 64 64) (hc : Claims.cleanBytes u.mem (ownKey u a) 64 = true) {e : Tensor} (he : imageAt u.mem (ownKey u a) = e)
include hs hx hxa ha hc he

/-- TDEF up to the check of its entry. -/
theorem run_tdefBody_checks {r : EStateM.Result Stop State Flow} (hr : (do
    check (e.kind = 0 || tensorOk e) 0x16 (BitVec.ofNat 64 f.sub8.toNat)
    waitUntil (!namesTensor (← myTile) f.sub8.toNat) .matrix
    modMyTile (setTensor f.sub8.toNat e)
    return .fall : Exec Flow).run u = r) : (tdefBody f).run u = r := by
  have hm : (formOf a = 1 && formOk a && mirrored u u.focus (gtileOf u a) == home u) = true := by
    rw [ha.form, ha.ok, ha.gtile, mirrored_solo hs]
    simp
  have hw : Vector.ofFn (fun i : Fin 8 => ((List.range 8).map (fun i => BitVec.ofNat 64 (wordAt u.mem (ownKey u a + 8 * i) 8))).getD i.val 0)
      = e := by
    rw [← he, imageAt]
    congr 1
    funext k
    simp
  subst hxa
  rw [tdefBody]
  refine (run_bind_ok (run_closeBefore_alone hs)).trans ((run_bind_ok (run_useX hx)).trans ((run_bind_ok (EStateM.run_get u)).trans
    ((run_bind_ok (run_myTileNo u)).trans ((run_bind_ok (run_check_holds hm)).trans
      ((run_bind_ok (run_check_holds (decide_eq_true ha.fits))).trans
        ((run_bind_ok (run_check_holds (decide_eq_true ha.aligned))).trans
          ((run_bind_ok (run_ownWords (n := 8) hs ha hc)).trans ?_)))))))
  rw [hw]
  exact hr

theorem run_tdefBody_refuses (hk : e.kind ≠ 0) (ht : tensorOk e = false) :
    (tdefBody f).run u = .error (.trap 0x16 (BitVec.ofNat 64 f.sub8.toNat) none) u :=
  run_tdefBody_checks hs hx hxa ha hc he (run_bind_error (run_check_fails (by simp [hk, ht])))

section Sound
variable (hk : e.kind = 0 ∨ tensorOk e = true)
include hk

theorem run_tdefBody_waits (hn : namesTensor (u.tile (home u)) f.sub8.toNat = true) : (tdefBody f).run u = .error (.wait .matrix id) u :=
  run_tdefBody_checks hs hx hxa ha hc he ((run_bind_ok (run_check_holds (by simpa using hk))).trans ((run_bind_ok (run_myTile u)).trans
    (run_bind_error (run_waitUntil_waits (by rw [hn]; rfl)))))

theorem run_tdefBody (hn : namesTensor (u.tile (home u)) f.sub8.toNat = false) :
    (tdefBody f).run u = .ok .fall (u.modTile (home u) (setTensor f.sub8.toNat e)) :=
  run_tdefBody_checks hs hx hxa ha hc he ((run_bind_ok (run_check_holds (by simpa using hk))).trans ((run_bind_ok (run_myTile u)).trans
    ((run_bind_ok (run_waitUntil_holds (by rw [hn]; rfl))).trans ((run_bind_ok (run_modMyTile ..)).trans (EStateM.run_pure ..)))))

end Sound
end Tdef

/-! ## TDUP (R323) -/

/-- Bytes without marks have no poisoned word. -/
theorem poisonedWord_marked (a : Word) (bs : List Byte) : poisonedWord a (marked bs false) = none := by
  have h : ∀ i, ((marked bs false).getD i (0, false)).2 = false := fun i => by
    simp only [marked, List.getD_eq_getElem?_getD, List.getElem?_map]
    cases bs[i]? <;> rfl
  simp only [poisonedWord, Option.map_eq_none_iff, List.find?_eq_none, h]
  simp

section Tdup
variable {f : F128C} {u : State} (hs : Solo u)
include hs

/-- Bytes of a map in the own scratchpad. -/
theorem run_mapBytes {a : Word} {n m : Nat} (ha : OwnAddress u a n 2) (hc : Claims.cleanBytes u.mem (ownKey u a) n = true) (hm : 0 < m)
    (hmn : m ≤ n) : (mapBytes a m).run u = .ok (u.mem.bytes (ownKey u a) m) u := by
  have hg : mirrored u u.focus (gtileOf u a) = home u := by rw [mirrored_solo hs, ha.gtile]
  have ht := ha.run_takePart (i := 0) (m := m) (by omega) hs hc hm
  rw [Nat.add_zero, Nat.add_zero] at ht
  rw [mapBytes]
  refine (run_bind_ok (ha.shorter hmn).run_checkAddress).trans ((run_bind_ok (EStateM.run_get u)).trans ?_)
  rw [hg]
  refine (run_bind_ok ht).trans ?_
  rw [poisonedWord_marked, bytes_marked]
  rfl

variable {ea eb : Tensor} (hea : (u.tile (home u)).tensor f.sub8.toNat = ea)
  (heb : (u.tile (home u)).tensor (f.flags18.extractLsb' 0 8).toNat = eb)
include hea

theorem run_tdupBody_absentA (h : ea.kind = 0) : (tdupBody f).run u = .error (.trap 0x16 (BitVec.ofNat 64 f.sub8.toNat) none) u := by
  subst hea
  rw [tdupBody]
  exact (run_bind_ok (run_closeBefore_alone hs)).trans ((run_bind_ok (run_myTile u)).trans
    (run_bind_error (run_check_fails (by simpa using h))))

variable (h : ea.kind ≠ 0)
include heb h

theorem run_tdupBody_absentB (h' : eb.kind = 0) :
    (tdupBody f).run u = .error (.trap 0x16 (BitVec.ofNat 64 (f.flags18.extractLsb' 0 8).toNat) none) u := by
  subst hea heb
  rw [tdupBody]
  exact (run_bind_ok (run_closeBefore_alone hs)).trans ((run_bind_ok (run_myTile u)).trans
    ((run_bind_ok (run_check_holds (by simpa using h))).trans (run_bind_error (run_check_fails (by simpa using h')))))

/-- The other attachments of a tile. -/
def othersAttached (w : Tile) (ta tb : Nat) : List (Nat × Nat × List Nat) := w.attached.filter (fun x => !(x.1 == ta && x.2.1 == tb))

/-- The tile at focus with another list of attachments. -/
def withAttached (l : List (Nat × Nat × List Nat)) (u : State) : State := u.modTile (home u) (fun v => { v with attached := l })

variable (h' : eb.kind ≠ 0) (hna : namesTensor (u.tile (home u)) f.sub8.toNat = false)
  (hnb : namesTensor (u.tile (home u)) (f.flags18.extractLsb' 0 8).toNat = false)
include h' hna hnb

theorem run_tdupBody_detaches (hm : ea.map = 0) : (tdupBody f).run u = .ok .fall
    (withAttached (othersAttached (u.tile (home u)) f.sub8.toNat (f.flags18.extractLsb' 0 8).toNat) u) := by
  subst hea heb
  rw [tdupBody]
  refine (run_bind_ok (run_closeBefore_alone hs)).trans ((run_bind_ok (run_myTile u)).trans
    ((run_bind_ok (run_check_holds (by simpa using h))).trans ((run_bind_ok (run_check_holds (by simpa using h'))).trans
      ((run_bind_ok (run_waitUntil_holds (by rw [hna, hnb]; rfl))).trans ?_))))
  rw [if_pos hm]
  exact (run_bind_ok (run_modMyTile ..)).trans (EStateM.run_pure ..)

theorem run_tdupBody_attaches {n : Nat} {cs : List Nat} (hm : ea.map ≠ 0) (hn : wordAt u.mem (ownKey u ea.map) 2 = n)
    (hcs : mapChannels (u.mem.bytes (ownKey u ea.map) (2 + 2 * n)) n = cs)
    (ha : OwnAddress u ea.map (2 + 2 * n) 2) (hc : Claims.cleanBytes u.mem (ownKey u ea.map) (2 + 2 * n) = true)
    (hok : (decide (n ≤ 48) && rising cs && cs.all (fun c => decide (c < ea.columns)) && decide
      ((othersAttached (u.tile (home u)) f.sub8.toNat (f.flags18.extractLsb' 0 8).toNat).length < attachLimit)) = true) :
    (tdupBody f).run u = .ok .fall (withAttached (othersAttached (u.tile (home u)) f.sub8.toNat
      (f.flags18.extractLsb' 0 8).toNat ++ [(f.sub8.toNat, (f.flags18.extractLsb' 0 8).toNat, cs)]) u) := by
  subst hea heb hn hcs
  rw [tdupBody]
  refine (run_bind_ok (run_closeBefore_alone hs)).trans ((run_bind_ok (run_myTile u)).trans
    ((run_bind_ok (run_check_holds (by simpa using h))).trans ((run_bind_ok (run_check_holds (by simpa using h'))).trans
      ((run_bind_ok (run_waitUntil_holds (by rw [hna, hnb]; rfl))).trans ?_))))
  rw [if_neg hm]
  exact (run_bind_ok (run_mapBytes hs ha hc (by decide) (by omega))).trans ((run_bind_ok (run_mapBytes hs ha hc (by omega) (Nat.le_refl _))).trans
    ((run_bind_ok (run_check_holds hok)).trans ((run_bind_ok (run_modMyTile ..)).trans (EStateM.run_pure ..))))

end Tdup

/-- Settles O44: each body's run outside a pair, where memory is calm. -/
theorem operandMemoryAndTensors : Obligations.OperandMemoryAndTensors := by
  unfold Obligations.OperandMemoryAndTensors
  intro s u t w free claim hs
  have hfree : ∀ n, free n = (claimed w n = false) := fun n => rfl
  have htaken : ∀ n, ¬ free n ↔ claimed w n = true := fun n => by rw [hfree, Bool.not_eq_false]
  refine ⟨fun f h => ?omclaim, fun f h => ?omrel, fun f h hx => ?tdef, fun f h => ?tdup,
    fun f h hd hx => issue_runs h (run_tqryBody hd hx), fun f h hx => ?tfmt⟩
  case omclaim =>
    intro d
    refine ⟨fun h5 => ⟨fun hn hx => issue_runs h (run_omclaimBody_free h5 hn hx),
      fun hn hx => issue_runs h (run_omclaimBody_taken h5 ((htaken _).mp hn) hx)⟩, fun h5 => ⟨fun n hn hc hl hx => ?_, fun hl hx => ?_⟩⟩
    · exact issue_runs h (run_omclaimBody_lowest h5 hn hc (fun m hm => (htaken m).mp (hl m hm)) hx)
    · exact issue_runs h (run_omclaimBody_full h5 (fun m hm => (htaken m).mp (hl m hm)) hx)
  case omrel =>
    intro n
    refine ⟨fun hm => issue_waits h (run_omrelBody.trans (if_pos hm)), fun hm => issue_runs h (run_omrelBody.trans (if_neg ?_))⟩
    exact Bool.eq_false_iff.mp hm
  case tdef =>
    intro a key n e ha hc
    have ha := ownAddress ha
    exact ⟨fun hk ht => issue_traps_unchanged h (run_tdefBody_refuses hs hx rfl ha hc rfl hk ht) (by decide),
      fun hk => ⟨fun hn => issue_waits h (run_tdefBody_waits hs hx rfl ha hc rfl hk hn),
        fun hn => issue_runs h (run_tdefBody hs hx rfl ha hc rfl hk hn)⟩⟩
  case tdup =>
    intro ta tb ea others n cs
    refine ⟨fun hk => issue_traps_unchanged h (run_tdupBody_absentA hs rfl hk) (by decide),
      fun hk hk' => issue_traps_unchanged h (run_tdupBody_absentB hs rfl rfl hk hk') (by decide),
      fun hk hk' hna hnb => ⟨fun hm => issue_runs h (run_tdupBody_detaches hs rfl rfl hk hk' hna hnb hm),
        fun hm ha hc hn hr hall hl => issue_runs h (run_tdupBody_attaches hs rfl rfl hk hk' hna hnb hm rfl rfl (ownAddress ha) hc ?_)⟩⟩
    rw [decide_eq_true hn, hr, hall]
    exact decide_eq_true hl
  case tfmt =>
    intro v set
    refine ⟨fun hv hn hxd => issue_runs h (run_tfmtBody hx rfl ?_ hxd), fun hv => issue_refuses h (run_tfmtBody_refuses hx rfl ?_)⟩
    · rw [formatFits_eq, decide_eq_true hv, hn]
      rfl
    · rw [formatFits_eq, Bool.and_eq_false_iff, decide_eq_false_iff_not, Nat.not_lt]
      exact hv

end Sys2Proof.Machine
end

section
/-! SUPPORT. Accumulators and MPROG: clearing a range of memory, what each body does, the elements of a result tensor one after another,
and the statement about them (R88, R219, R221, R334, R393). -/

namespace Sys2Proof.Machine

open Sys2Proof.Claims

theorem exec_accz (f : F64A) (s : State) : exec (.accz f) s = issue (.accz f) f.pred f.pneg (acczBody f) s := rfl
theorem exec_accwr (f : F64A) (s : State) : exec (.accwr f) s = issue (.accwr f) f.pred f.pneg (accwrBody f) s := rfl
theorem exec_accrd (f : F64A) (s : State) : exec (.accrd f) s = issue (.accrd f) f.pred f.pneg (accrdBody f) s := rfl
theorem exec_mprog (f : F64A) (s : State) : exec (.mprog f) s = issue (.mprog f) f.pred f.pneg (mprogBody f) s := rfl

/-! ## Keys of an accumulator -/

/-- The entries that a test keeps answer as before, and the others as if they were not listed. -/
theorem Assoc.get_filter {α : Type} (d : α) (keep : Nat → Bool) (m : Assoc α) (k : Nat) :
    Assoc.get d (m.filter (fun e => keep e.1)) k = if keep k then Assoc.get d m k else d := by
  induction m with
  | nil => exact (ite_self d).symm
  | cons e m ih =>
    rw [List.filter_cons]
    by_cases hk : e.1 = k
    · subst hk
      cases h : keep e.1 <;> simp [h, ih, Assoc.get]
    · cases h : keep e.1 <;> simp [ih, Assoc.get, Ne.symm hk]

theorem Mem.byte_clear (m : Mem) (lo hi k : Nat) : (m.clear lo hi).byte k = if lo ≤ k ∧ k < hi then 0 else m.byte k := by
  refine (Assoc.get_filter 0 (fun k => !(lo ≤ k && k < hi)) m.cells k).trans ?_
  by_cases h : lo ≤ k ∧ k < hi <;> simp [h, Mem.byte]

theorem accKey_end (t acc : Nat) : accKey t acc accBytes = accKey t acc 0 + accBytes := by
  unfold accKey keyOf
  omega

/-! ## Waits (R221) -/

section Bodies
variable {f : F64A} {u : State}

section Busy
variable {acc : Nat} (h : (u.tile (home u)).matrix.any (fun m => m.acc == acc) = true)
include h

theorem run_waitAcc_busy : (waitAcc acc).run u = .error (.wait .matrix id) u := by
  rw [waitAcc]
  exact (run_bind_ok (run_myTile u)).trans (run_waitUntil_waits (by rw [h]; rfl))

end Busy

section Idle
variable {acc : Nat} (h : (u.tile (home u)).matrix.any (fun m => m.acc == acc) = false)
include h

theorem run_waitAcc_idle : (waitAcc acc).run u = .ok () u := by
  rw [waitAcc]
  exact (run_bind_ok (run_myTile u)).trans (run_waitUntil_holds (by rw [h]; rfl))

end Idle

section
variable (h : (u.tile (home u)).matrix.any (fun m => m.acc == f.imm16.toNat % 4) = true)
include h

theorem run_acczBody_busy : (acczBody f).run u = .error (.wait .matrix id) u := run_bind_error (run_waitAcc_busy h)

theorem run_accwrBody_busy (hx : xOk u f.a.toNat = true) : (accwrBody f).run u = .error (.wait .matrix id) u :=
  (run_bind_ok (run_useX hx)).trans (run_bind_error (run_waitAcc_busy h))

theorem run_accrdBody_busy (hx : xOk u f.a.toNat = true) : (accrdBody f).run u = .error (.wait .matrix id) u :=
  (run_bind_ok (run_useX hx)).trans (run_bind_error (run_waitAcc_busy h))

end

/-! ## Whole accumulators (R221) -/

/-- The tile at focus with another memory and a tag set. -/
def withAcc (m : Mem) (f : F64A) (u : State) : State :=
  { u with mem := m }.modTile (home u) (setAccTag (f.imm16.toNat % 4) (f.imm16.getLsbD 2))

variable (h : (u.tile (home u)).matrix.any (fun m => m.acc == f.imm16.toNat % 4) = false)
include h

theorem run_acczBody : (acczBody f).run u = .ok .fall (withAcc
    (u.mem.clear (accKey (home u) (f.imm16.toNat % 4) 0) (accKey (home u) (f.imm16.toNat % 4) accBytes)) f u) := by
  rw [acczBody]
  exact (run_bind_ok (run_waitAcc_idle h)).trans ((run_bind_ok (run_myTileNo u)).trans ((run_bind_ok (EStateM.run_modify ..)).trans
    ((run_bind_ok (run_modMyTile ..)).trans (EStateM.run_pure ..))))

variable (hs : Solo u) (hx : xOk u f.a.toNat = true) {a : Word} (hxa : (here u).x f.a.toNat = a)
include hs

omit h in
/-- The tile and offset of 16 KiB of the own scratchpad. -/
theorem run_accScratch {a : Word} (ha : OwnAddress u a accBytes 64) : (accScratch a).run u = .ok (home u, offsetOf a) u := by
  rw [accScratch]
  refine (run_bind_ok (run_check_holds (decide_eq_true ha.form))).trans ((run_bind_ok ha.run_checkAddress).trans
    ((run_bind_ok (EStateM.run_get u)).trans ?_))
  rw [mirrored_solo hs, ha.gtile]
  exact EStateM.run_pure ..

variable (ha : OwnAddress u a accBytes 64)
include hx hxa ha

omit h hs hx hxa ha in
/-- The end of ACCWR: the bytes stand in the accumulator, which is tagged. -/
theorem run_fillAcc (bs : List Byte) : (do
      let t ← myTileNo
      modify (fun s => s.modMem (fun m => m.setBytes (accKey t (f.imm16.toNat % 4) 0) bs))
      modMyTile (setAccTag (f.imm16.toNat % 4) (f.imm16.getLsbD 2))
      return .fall : Exec Flow).run u = .ok .fall (withAcc (u.mem.setBytes (accKey (home u) (f.imm16.toNat % 4) 0) bs) f u) :=
  (run_bind_ok (run_myTileNo u)).trans ((run_bind_ok (EStateM.run_modify ..)).trans
    ((run_bind_ok (run_modMyTile ..)).trans (EStateM.run_pure ..)))

theorem run_accwrBody (hc : Claims.cleanBytes u.mem (ownKey u a) accBytes = true) : (accwrBody f).run u = .ok .fall (withAcc
    (u.mem.setBytes (accKey (home u) (f.imm16.toNat % 4) 0) (u.mem.bytes (ownKey u a) accBytes)) f u) := by
  subst hxa
  have ht := ha.run_takePart (i := 0) (m := accBytes) (by omega) hs hc (by decide)
  rw [Nat.add_zero, Nat.add_zero] at ht
  rw [accwrBody]
  refine (run_bind_ok (run_useX hx)).trans ((run_bind_ok (run_waitAcc_idle h)).trans ((run_bind_ok (run_accScratch hs ha)).trans ?_))
  generalize accBytes = n at ht ⊢
  refine (run_bind_ok ht).trans ?_
  rw [poisonedWord_marked, bytes_marked]
  exact run_fillAcc _

theorem run_accrdBody_raw (hraw : f.imm16.getLsbD 10 = true) : (accrdBody f).run u = .ok .fall
    (withBytes (ownKey u a) (u.mem.bytes (accKey (home u) (f.imm16.toNat % 4) 0) accBytes) false u) := by
  subst hxa
  have hp := run_putScratch_solo (t := home u) (off := offsetOf ((here u).x f.a.toNat)) (p := false)
    (bs := u.mem.bytes (accKey (home u) (f.imm16.toNat % 4) 0) accBytes) hs (fun _ => (hs.1 _ ha.tile).1) (.inl ha.tile)
    (by rw [length_bytes]; exact ha.calm) (ha.pushesToward _)
  rw [accrdBody]
  refine (run_bind_ok (run_useX hx)).trans ((run_bind_ok (run_waitAcc_idle h)).trans ((run_bind_ok (run_myTileNo u)).trans
    ((run_bind_ok (EStateM.run_get u)).trans ?_)))
  rw [if_pos hraw]
  exact (run_bind_ok (run_accScratch hs ha)).trans ((run_bind_ok hp).trans (EStateM.run_pure ..))

end Bodies

/-! ## MPROG (R393) -/

section Mprog
variable {f : F64A} {u : State} (hd : f.d.toNat < 32)
include hd

theorem run_mprogBody_waits (hw : f.imm16.getLsbD 0 = true) (hm : (u.tile (home u)).matrix ≠ []) :
    (mprogBody f).run u = .error (.wait .matrix id) u := by
  rw [mprogBody]
  refine (run_bind_ok (run_queueWaits_dest _ u hd)).trans ((run_bind_ok (run_myTile u)).trans ?_)
  rw [if_pos hw]
  exact run_bind_error (run_waitUntil_waits (List.isEmpty_eq_false_iff.mpr hm))

theorem run_mprogBody (hs : Solo u) (hx : xFree u f.d.toNat = true) (hw : f.imm16.getLsbD 0 = false ∨ (u.tile (home u)).matrix = []) :
    (mprogBody f).run u = .ok .fall (withX f.d.toNat (progressWord (u.tile (home u))) false u) := by
  have he : (echoed1 (do return progressWord (← myTile))).run u = .ok (progressWord (u.tile (home u))) u :=
    (run_echoed1_alone (solo_alone hs) _).trans ((run_bind_ok (run_myTile u)).trans (EStateM.run_pure ..))
  have hput : (do
      let v ← echoed1 (do return progressWord (← myTile))
      putDest f.d.toNat 0 v false
      return .fall : Exec Flow).run u = .ok .fall (withX f.d.toNat (progressWord (u.tile (home u))) false u) :=
    (run_bind_ok he).trans ((run_bind_ok (run_putDest 0 _ false hd hx)).trans (EStateM.run_pure ..))
  rw [mprogBody]
  refine (run_bind_ok (run_queueWaits_dest _ u hd)).trans ((run_bind_ok (run_myTile u)).trans ?_)
  by_cases h0 : f.imm16.getLsbD 0 = true
  · rw [if_pos h0]
    refine (run_bind_ok (run_waitUntil_holds ?_)).trans hput
    rw [hw.resolve_left (by rw [h0]; decide)]
    rfl
  · rw [if_neg h0]
    exact (run_bind_ok (EStateM.run_pure ..)).trans hput

end Mprog

/-! ## Reads that go before a write, and the unseen writes -/

theorem unseen_showFlips (m : Mem) (base width : Nat) : (m.showFlips base width).unseen = m.unseen := by
  have h : ∀ (l : List Nat) (m : Mem), (l.foldl (fun m b => m.flipBit base b) m).unseen = m.unseen := fun l => by
    induction l with
    | nil => exact fun _ => rfl
    | cons b l ih => exact fun m => ih (m.flipBit base b)
  exact h _ m

theorem unseen_decodeWord (m : Mem) (free key : Nat) : (decodeWord m free key).mem.unseen = m.unseen := by
  rw [decodeWord]
  split
  · rfl
  · split
    · rfl
    · rfl
    · rfl
    · rw [decodeOpenWord]
      split
      · exact unseen_setBytes ..
      · rfl
      · exact unseen_showFlips ..

theorem isExternal_unit (key : Nat) : isExternal (key / 8 * 8) = isExternal key := by
  rw [isExternal, isExternal, spaceOf, spaceOf]
  congr 2
  omega

theorem unseen_correctUnits (entry : BitVec 32) (fuel : Nat) {m : Mem} {free key n : Nat}
    (hk : ∀ i, i < n → isExternal (key + i) = false) : (correctUnits entry fuel m free key n).mem.unseen = m.unseen := by
  induction fuel generalizing m free key n with
  | zero => rfl
  | succ fuel ih =>
    rw [correctUnits]
    split
    · rfl
    · next h =>
      have h0 : isExternal key = false := hk 0 (by omega)
      have hu : unitBytes entry key = 8 := by rw [unitBytes, h0]; rfl
      have hw : correctUnit m free entry (key / 8 * 8) = decodeWord m free (key / 8 * 8) := by
        rw [correctUnit, isExternal_unit, h0]; rfl
      simp only [hu, h0, Bool.false_eq_true, if_false]
      refine (ih fun i hi => ?_).trans ?_
      · rw [Nat.add_assoc]
        exact hk _ (by omega)
      · split
        · rfl
        · rw [hw]
          exact unseen_decodeWord ..

/-! ## What findings leave as it is -/

/-- Memory, the counters of partitions and what gangs have met may differ; nothing else does, and no gang's partition. -/
structure DiffersInFindings (u v : State) : Prop where
  same : ∃ m n ps gs, v = { u with mem := m, free := n, parts := ps, launch := { u.launch with gangs := gs } }
  accepts : ∀ p, (v.part p).featacc0 = (u.part p).featacc0
  member : ∀ g, (v.gang? g).map (·.part) = (u.gang? g).map (·.part)

theorem part_gang?_modGang (s : State) (g h : Nat) {f : Gang → Gang} (hf : ∀ w, (f w).part = w.part) :
    ((s.modGang g f).gang? h).map (·.part) = (s.gang? h).map (·.part) := by
  simp only [State.gang?, State.modGang, State.modLaunch]
  induction s.launch.gangs with
  | nil => rfl
  | cons e l ih =>
    rw [List.map_cons, List.find?_cons, List.find?_cons]
    by_cases hg : e.1 = g
    · rw [if_pos hg]
      cases e.1 == h
      · exact ih
      · exact congrArg some (hf e.2)
    · rw [if_neg hg]
      cases e.1 == h
      · exact ih
      · rfl

namespace DiffersInFindings

theorem refl (u : State) : DiffersInFindings u u := ⟨⟨u.mem, u.free, u.parts, u.launch.gangs, rfl⟩, fun _ => rfl, fun _ => rfl⟩

section
variable {u v : State} (h : DiffersInFindings u v)
include h

theorem decoded (m : Mem) (n : Nat) : DiffersInFindings u { v with mem := m, free := n } := by
  obtain ⟨⟨_, _, ps, gs, hv⟩, ha, hg⟩ := h
  exact ⟨⟨m, n, ps, gs, by rw [hv]⟩, ha, hg⟩

theorem countError (p i n : Nat) : DiffersInFindings u (countError v p i n) := by
  obtain ⟨⟨m, k, _, gs, hv⟩, ha, hg⟩ := h
  refine ⟨⟨m, k, (Machine.countError v p i n).parts, gs, by rw [hv]; rfl⟩, fun r => ?_, hg⟩
  rw [← ha r]
  by_cases hr : r % 16 = p % 16
  · have hp : ∀ s : State, s.part r = s.part p := fun s => by simp only [State.part, hr]
    rw [hp, hp, Machine.countError, State.part_modPart_same]
  · rw [Machine.countError, State.part_modPart_other _ _ hr]

theorem modGang (g : Nat) {f : Gang → Gang} (hf : ∀ w, (f w).part = w.part) : DiffersInFindings u (v.modGang g f) := by
  obtain ⟨⟨m, n, ps, _, hv⟩, ha, hg⟩ := h
  exact ⟨⟨m, n, ps, (v.modGang g f).launch.gangs, by rw [hv]; rfl⟩, ha, fun k => (part_gang?_modGang v g k hf).trans (hg k)⟩

theorem noteClass (p g cls : Nat) : DiffersInFindings u (noteClass p g v cls) := by
  rw [Machine.noteClass]
  split
  · exact h
  · exact (h.countError ..).modGang g fun _ => rfl

theorem afterFindings (p g : Nat) (d : Decoded) : DiffersInFindings u (afterFindings p g d v) := by
  have hf : ∀ (l : List Nat) {v : State}, DiffersInFindings u v → DiffersInFindings u (l.foldl (Machine.noteClass p g) v) := fun l => by
    induction l with
    | nil => exact fun h => h
    | cons c l ih => exact fun h => ih (h.noteClass p g c)
  exact hf _ (h.decoded d.mem d.free)

theorem withBytes (key : Nat) (bs : List Byte) (p : Bool) : DiffersInFindings u (withBytes key bs p v) :=
  (h.afterFindings ..).decoded _ _

theorem partOf (q : SeqId) : v.partOf q = u.partOf q := by
  have hp : ∀ s : State, (match s.gang? (u.gangOf q) with | some g => g.part | none => 0) = ((s.gang? (u.gangOf q)).map (·.part)).getD 0 :=
    fun s => by cases s.gang? (u.gangOf q) <;> rfl
  have hg := h.member (u.gangOf q)
  obtain ⟨⟨m, n, ps, gs, rfl⟩, -, -⟩ := h
  cases q with
  | s c => rfl
  | _ => exact (hp _).trans ((congrArg (·.getD 0) hg).trans (hp u).symm)

theorem solo (hs : Solo u) (hu : v.mem.unseen = []) : Solo v := by
  obtain ⟨⟨m, n, ps, gs, rfl⟩, -, -⟩ := h
  exact ⟨hs.1, hs.2.1, hu⟩

theorem ownAddress {a : Word} {n align : Nat} (ha : OwnAddress u a n align) : OwnAddress v a n align := by
  have hr : shutOut v v.focus a = shutOut u u.focus a := by
    have hf : v.focus = u.focus ∧ v.host = u.host := by
      obtain ⟨⟨m, n, ps, gs, rfl⟩, -, -⟩ := h
      exact ⟨rfl, rfl⟩
    rw [shutOut, shutOut, accepted, accepted, hf.1, hf.2, h.partOf, h.accepts]
  obtain ⟨⟨m, n, ps, gs, rfl⟩, -, -⟩ := h
  exact ⟨ha.tile, ha.ok, ha.form, hr.trans ha.reached, ha.gtile, ha.fits, ha.aligned, ha.calm⟩

end
end DiffersInFindings

theorem mem_noteClass (p g cls : Nat) (s : State) : (noteClass p g s cls).mem = s.mem := by
  rw [noteClass]
  split <;> rfl

theorem mem_afterFindings (p g : Nat) (d : Decoded) (s : State) : (afterFindings p g d s).mem = d.mem := by
  have hf : ∀ (l : List Nat) (s : State), (l.foldl (noteClass p g) s).mem = s.mem := fun l => by
    induction l with
    | nil => exact fun _ => rfl
    | cons c l ih => exact fun s => (ih _).trans (mem_noteClass ..)
  exact hf _ _

/-- A write to a scratchpad that every agent sees hides nothing, whatever its words held. -/
theorem unseen_withBytes_scratch {u : State} {t off : Nat} {bs : List Byte} {p : Bool} (hu : u.mem.unseen = [])
    (hn : off + bs.length ≤ 2 ^ 20) : (withBytes (scratchKey t off) bs p u).mem.unseen = [] := by
  have hk := scratch_bytes_not_external (t := t) hn
  have hl : (marked bs p).length = bs.length := by simp [marked]
  have hw : (writeUnits 0 ((marked bs p).length / 8 + 2) (correctPart u.mem u.free 0 (scratchKey t off) (marked bs p).length).mem
      (scratchKey t off) (marked bs p)).unseen = [] := by
    rw [unseen_writeUnits _ _ _ _ _ (by rwa [hl]), correctPart, unseen_correctUnits _ _ (by rwa [hl]), hu]
  simp only [withBytes, writeBytes, State.modMem, mem_afterFindings, writeMarked, Mem.notice, Mem.pass, hw]
  rfl

/-! ## The elements of a result tensor (R221) -/

/-- Where an element of a tensor without nibbles stands. -/
def elementAt (e : Tensor) (r c : Nat) : Word := e.base + BitVec.ofNat 64 (r * e.stride + c * e.size)

/-- The bits of a value in a tensor's type. -/
def elementBits (e : Tensor) (v : FVal) : Nat :=
  if e.ty = 12 then ((Nf.ofWord e.fmt).ofVal v).bits else ((fmtOf e.ty).ofVal .rne v).bits

/-- A value stands as an element of its tensor. -/
def withElement (e : Tensor) (r c : Nat) (x : FVal) (u v : State) : State :=
  withBytes (ownKey u (elementAt e r c)) (toBytes e.size (elementBits e x)) false v

theorem run_keeping {act : Exec Unit} {s t : State} (h : act.run s = .ok () t) : (keeping act).run s = .ok () t := by
  have h : act s = .ok () t := h
  change keeping act s = _
  rw [keeping, h]

theorem run_storeElement {e : Tensor} {r c : Nat} (x : FVal) {v : State} (hn : e.nibbles = false) (hs : Solo v)
    (ha : OwnAddress v (elementAt e r c) e.size e.size) : (storeElement e r c x).run v = .ok () (withElement e r c x v v) := by
  have hput : ∀ n b, n = e.size → b = elementBits e x →
      (putScratch (mirrored v v.focus (gtileOf v (elementAt e r c))) (offsetOf (elementAt e r c)) (marked (toBytes n b) false)).run v =
        .ok () (withElement e r c x v v) := by
    rintro n b rfl rfl
    rw [mirrored_solo hs, ha.gtile]
    exact run_putScratch_solo hs (fun _ => (hs.1 _ ha.tile).1) (.inl ha.tile) (by rw [length_toBytes]; exact ha.calm) (ha.pushesToward _)
  rw [storeElement]
  simp only [hn, Bool.false_eq_true, if_false]
  refine (run_bind_ok (EStateM.run_get v)).trans ((run_bind_ok (run_check_holds (decide_eq_true ha.form))).trans
    ((run_bind_ok ha.run_checkAddress).trans ?_))
  by_cases h12 : e.ty = 12
  · rw [if_pos h12]
    exact hput _ _ (by rw [Tensor.size, if_pos h12]) (by rw [elementBits, if_pos h12])
  · rw [if_neg h12]
    exact hput _ _ rfl (by rw [elementBits, if_neg h12])

/-- A loop each of whose rounds runs, keeps a property and goes on. -/
theorem run_forIn {α : Type} {body : α → PUnit → Exec (ForInStep PUnit)} {g : State → α → State} {P : State → Prop} {l : List α}
    (hP : ∀ x ∈ l, ∀ v, P v → P (g v x)) (hb : ∀ x ∈ l, ∀ v, P v → (body x ⟨⟩).run v = .ok (.yield ⟨⟩) (g v x)) {v : State} (hv : P v) :
    (forIn l ⟨⟩ body).run v = .ok ⟨⟩ (l.foldl g v) := by
  induction l generalizing v with
  | nil => rfl
  | cons x l ih =>
    rw [List.forIn_cons]
    exact (run_bind_ok (hb x (by simp) v hv)).trans (ih (fun y hy => hP y (by simp [hy])) (fun y hy => hb y (by simp [hy])) (hP x (by simp) v hv))

/-- What holds at the start and is kept by every step of a fold holds at its end. -/
theorem foldl_keeps {α : Type} {g : State → α → State} {P : State → Prop} {l : List α} (hP : ∀ x ∈ l, ∀ v, P v → P (g v x)) {v : State}
    (hv : P v) : P (l.foldl g v) := by
  induction l generalizing v with
  | nil => exact hv
  | cons x l ih => exact ih (fun y hy => hP y (by simp [hy])) (hP x (by simp) v hv)

/-- Places of an accumulator, row by row, that a test holds for. -/
def placesOf (rows : Nat) (inside : Nat → Nat → Bool) : List (Nat × Nat) :=
  (List.range rows).flatMap (fun i => ((List.range 64).map (fun j => (i, j))).filter (fun p => inside p.1 p.2))

theorem mem_placesOf {rows : Nat} {inside : Nat → Nat → Bool} {i j : Nat} :
    (i, j) ∈ placesOf rows inside ↔ i < rows ∧ j < 64 ∧ inside i j = true := by
  simp only [placesOf, List.mem_flatMap, List.mem_filter, List.mem_map, List.mem_range, Prod.mk.injEq]
  constructor
  · rintro ⟨_, hi, ⟨_, hj, rfl, rfl⟩, h⟩
    exact ⟨hi, hj, h⟩
  · rintro ⟨hi, hj, h⟩
    exact ⟨i, hi, ⟨j, hj, rfl, rfl⟩, h⟩

theorem foldl_placesOf {g : State → Nat × Nat → State} (rows : Nat) (inside : Nat → Nat → Bool) (v : State) :
    (placesOf rows inside).foldl g v = (List.range rows).foldl (fun v i =>
      (List.range 64).foldl (fun v j => if inside i j then g v (i, j) else v) v) v := by
  simp only [placesOf, List.foldl_flatMap, List.foldl_filter, List.foldl_map]

/-- Only findings and bytes have changed since a state, and every agent sees every write. -/
def WrittenSince (u v : State) : Prop := DiffersInFindings u v ∧ v.mem.unseen = []

/-- Whether a place of an accumulator, taken from an element of a tensor on, lies in the tensor. -/
def inTensor (e : Tensor) (r c i j : Nat) : Bool := decide (r + i < e.rows) && decide (c + j < e.columns)

section Loop
variable {u : State} {e : Tensor} {r c rows : Nat} {value : Nat → Nat → FVal} (hs : Solo u) (hn : e.nibbles = false)
include hs hn

theorem run_storePlace {i j : Nat} {v : State} (hv : WrittenSince u v) (ha : OwnAddress u (elementAt e (r + i) (c + j)) e.size e.size) :
    (keeping (storeElement e (r + i) (c + j) (value i j))).run v = .ok () (withElement e (r + i) (c + j) (value i j) u v) ∧
      WrittenSince u (withElement e (r + i) (c + j) (value i j) u v) := by
  obtain ⟨hv, hu⟩ := hv
  have hk : ownKey v (elementAt e (r + i) (c + j)) = ownKey u (elementAt e (r + i) (c + j)) := by
    obtain ⟨⟨m, n, ps, gs, rfl⟩, -, -⟩ := hv
    rfl
  have hav := hv.ownAddress ha
  refine ⟨run_keeping ?_, hv.withBytes .., unseen_withBytes_scratch hu (by rw [length_toBytes]; exact ha.fits)⟩
  rw [withElement, ← hk]
  exact run_storeElement _ hn (hv.solo hs hu) hav

variable (ha : ∀ p ∈ placesOf rows (inTensor e r c), OwnAddress u (elementAt e (r + p.1) (c + p.2)) e.size e.size)
include ha

theorem run_storeElements : (do
      for i in List.range rows do
        for j in List.range 64 do
          if r + i < e.rows && c + j < e.columns then keeping (storeElement e (r + i) (c + j) (value i j))
      return Flow.fall : Exec Flow).run u =
      .ok .fall ((placesOf rows (inTensor e r c)).foldl (fun v p => withElement e (r + p.1) (c + p.2) (value p.1 p.2) u v) u) := by
  have hplace : ∀ i ∈ List.range rows, ∀ j ∈ List.range 64, ∀ v, WrittenSince u v → inTensor e r c i j = true →
      (keeping (storeElement e (r + i) (c + j) (value i j))).run v = .ok () (withElement e (r + i) (c + j) (value i j) u v) ∧
        WrittenSince u (withElement e (r + i) (c + j) (value i j) u v) := fun i hi j hj v hv hin =>
    run_storePlace hs hn hv (ha (i, j) (mem_placesOf.mpr ⟨List.mem_range.mp hi, List.mem_range.mp hj, hin⟩))
  have hkept : ∀ i ∈ List.range rows, ∀ j ∈ List.range 64, ∀ v, WrittenSince u v →
      WrittenSince u (if inTensor e r c i j then withElement e (r + i) (c + j) (value i j) u v else v) := fun i hi j hj v hv => by
    split
    · next h => exact (hplace i hi j hj v hv h).2
    · exact hv
  rw [foldl_placesOf]
  refine (run_bind_ok (run_forIn (fun i hi v hv => foldl_keeps (hkept i hi) hv) (fun i hi v hv => ?_) ⟨.refl u, hs.2.2⟩)).trans
    (EStateM.run_pure ..)
  refine (run_bind_ok (run_forIn (hkept i hi) (fun j hj v hv => ?_) hv)).trans (EStateM.run_pure ..)
  change (ite (inTensor e r c i j = true) _ _ : Exec _).run v = _
  split
  · next h => exact (run_bind_ok (hplace i hi j hj v hv h).1).trans (EStateM.run_pure ..)
  · exact EStateM.run_pure ..

end Loop

/-! ## ACCRD into a tensor (R221) -/

/-- The tensor, and the place in it, that ACCRD takes. -/
def Placed (e : Tensor) (r c : Nat) (a : Word) : Prop := e.kind = 2 ∧ 8 ≤ e.ty ∧ r < e.rows ∧ c < e.columns ∧ a.toNat < 2 ^ 40

theorem placed_iff {e : Tensor} {r c : Nat} {a : Word} : Placed e r c a ↔
    (decide (e.kind = 2) && decide (8 ≤ e.ty) && decide (r < e.rows) && decide (c < e.columns) && decide (a.toNat / 2 ^ 40 = 0)) = true := by
  have hd : a.toNat / 2 ^ 40 = 0 ↔ a.toNat < 2 ^ 40 := by omega
  simp only [Placed, hd, Bool.and_eq_true, decide_eq_true_eq, and_assoc]

/-- Rows of an accumulator. -/
def accRows (w : Tile) (acc : Nat) : Nat := if isFp64 w acc then 32 else 64

theorem first_mem_placesOf {e : Tensor} {r c : Nat} {a : Word} (hp : Placed e r c a) (w : Tile) (acc : Nat) :
    (0, 0) ∈ placesOf (accRows w acc) (inTensor e r c) := by
  obtain ⟨-, -, hr, hc, -⟩ := hp
  refine mem_placesOf.mpr ⟨?_, by decide, by simp [inTensor, hr, hc]⟩
  rw [accRows]
  split <;> decide

section Tensors
variable {f : F64A} {u : State} {a : Word} {e : Tensor} {r c : Nat}
  (h : (u.tile (home u)).matrix.any (fun m => m.acc == f.imm16.toNat % 4) = false) (hx : xOk u f.a.toNat = true)
  (hxa : (here u).x f.a.toNat = a) (hraw : f.imm16.getLsbD 10 = false) (he : (u.tile (home u)).tensor (f.imm16.toNat / 4 % 256) = e)
  (hr : a.toNat % 2 ^ 20 = r) (hc : a.toNat / 2 ^ 20 % 2 ^ 20 = c)
include h hx hxa hraw he hr hc

theorem run_accrdBody_refuses (hp : ¬ Placed e r c a) :
    (accrdBody f).run u = .error (.trap 0x16 (BitVec.ofNat 64 (f.imm16.toNat / 4 % 256)) none) u := by
  subst hxa he hr hc
  rw [accrdBody]
  refine (run_bind_ok (run_useX hx)).trans ((run_bind_ok (run_waitAcc_idle h)).trans ((run_bind_ok (run_myTileNo u)).trans
    ((run_bind_ok (EStateM.run_get u)).trans ?_)))
  rw [if_neg (by rw [hraw]; decide)]
  exact run_bind_error (run_check_fails (Bool.eq_false_iff.mpr (mt placed_iff.mpr hp)))

theorem run_accrdBody_tensor (hs : Solo u) (hp : Placed e r c a) (hn : e.nibbles = false) (hg : gtileOf u e.base = home u)
    (ha : ∀ p ∈ placesOf (accRows (u.tile (home u)) (f.imm16.toNat % 4)) (inTensor e r c),
      OwnAddress u (elementAt e (r + p.1) (c + p.2)) e.size e.size) :
    (accrdBody f).run u = .ok .fall ((placesOf (accRows (u.tile (home u)) (f.imm16.toNat % 4)) (inTensor e r c)).foldl (fun v p =>
      withElement e (r + p.1) (c + p.2) (mulExact (accElement u (home u) (f.imm16.toNat % 4) p.1 p.2) (f32.decode e.scale)) u v) u) := by
  subst hxa he hr hc
  rw [accrdBody]
  refine (run_bind_ok (run_useX hx)).trans ((run_bind_ok (run_waitAcc_idle h)).trans ((run_bind_ok (run_myTileNo u)).trans
    ((run_bind_ok (EStateM.run_get u)).trans ?_)))
  rw [if_neg (by rw [hraw]; decide)]
  refine (run_bind_ok (run_check_holds (placed_iff.mp hp))).trans ((run_bind_ok (run_check_holds ?_)).trans (run_storeElements hs hn ha))
  rw [hg, mayReach_own (ha _ (first_mem_placesOf hp _ _)).tile, Bool.or_true]

end Tensors

/-- Settles O45: each body's run outside a pair; the elements of a tensor are stored one after another, and what a store finds changes
nothing that the next one looks at. -/
theorem accumulators : Obligations.Accumulators := by
  unfold Obligations.Accumulators
  intro s f u t w acc a idle hs
  refine ⟨fun i hi h hb => ?wait, fun h hb => ?accz, fun h hb hx ha hc => ?accwr, fun h hb hx => ⟨fun hraw ha => ?raw, fun hraw => ?tensor⟩,
    fun h hd hx => ⟨fun h0 hm => issue_waits h (run_mprogBody_waits hd h0 hm), fun hw => (issue_runs h (run_mprogBody hd hs hx hw)).trans ?_⟩⟩
  case wait =>
    have hb : (u.tile (home u)).matrix.any (fun m => m.acc == f.imm16.toNat % 4) = true := Bool.not_eq_false _ |>.mp hb
    obtain rfl | ⟨rfl | rfl, hx⟩ := hi
    · exact issue_waits h (run_acczBody_busy hb)
    · exact issue_waits h (run_accwrBody_busy hb hx)
    · exact issue_waits h (run_accrdBody_busy hb hx)
  case accz =>
    refine ⟨_, issue_runs h (run_acczBody hb), fun k => (Mem.byte_clear ..).trans ?_⟩
    rw [mem_issued]
    rfl
  case accwr =>
    have hl : (u.mem.bytes (ownKey u a) accBytes).length = accBytes := length_bytes ..
    refine ⟨_, issue_runs h (run_accwrBody hb hs hx rfl (ownAddress ha) hc), ?_, fun k hk => ?_⟩
    · have hm := Mem.bytes_setBytes u.mem (accKey t acc 0) (u.mem.bytes (ownKey u a) accBytes)
      rwa [hl] at hm
    · rw [Mem.byte_setBytes_outside _ _ _ (by rw [hl]; exact hk), mem_issued]
  case raw => exact issue_runs h (run_accrdBody_raw hb hs hx rfl (ownAddress ha) hraw)
  case tensor =>
    intro n e r c sound rows inside at_ value bits
    exact ⟨fun hp => issue_traps_unchanged h (run_accrdBody_refuses hb hx rfl hraw rfl rfl rfl hp) (by decide), fun hp hn _ hg ha =>
      issue_runs h (run_accrdBody_tensor hb hx rfl hraw rfl rfl rfl hs hp hn hg fun p hm => ownAddress (ha p hm))⟩
  rfl

end Sys2Proof.Machine
end

section
/-! SUPPORT. Calls and returns: what each body does with the store of return addresses and its spill area, and the statement about them
(R122, R347, R348, R410). -/

namespace Sys2Proof.Machine

open Sys2Proof.Claims

theorem exec_call (f : F64B) (s : State) : exec (.call f) s = issue (.call f) f.pred f.pneg (callBody f) s := rfl
theorem exec_ret (f : F64A) (s : State) : exec (.ret f) s = issue (.ret f) f.pred f.pneg retBody s := rfl

/-- What a read or a write finds leaves every sequencer. -/
theorem DiffersInFindings.seq {u v : State} (h : DiffersInFindings u v) (q : SeqId) : v.seq q = u.seq q := by
  obtain ⟨⟨m, n, ps, gs, rfl⟩, -, -⟩ := h
  cases q <;> rfl

theorem DiffersInFindings.focus {u v : State} (h : DiffersInFindings u v) : v.focus = u.focus := by
  obtain ⟨⟨m, n, ps, gs, rfl⟩, -, -⟩ := h
  rfl

theorem DiffersInFindings.here {u v : State} (h : DiffersInFindings u v) : here v = here u := by
  rw [Claims.here, Claims.here, h.focus, h.seq]

/-- A tile sequencer pushes no blocks (R170). -/
theorem pushesToward_tile {s : State} {q : SeqId} {t : Nat} (h : State.tileOf q = some t) (g : Nat) : pushesToward s q g = false := by
  cases q with
  | m c => cases h
  | _ => rfl

/-! ## The spill area (R122) -/

/-- An address of the issuing tile's own scratchpad at a word of it. -/
structure OwnSpill (u : State) (a : Word) : Prop where
  tile : State.tileOf u.focus = some (home u)
  form : formOf a = 1
  ok : formOk a = true
  gtile : gtileOf u a = home u
  aligned : a.toNat % 8 = 0

theorem OwnAddress.ownSpill {u : State} {a : Word} {n : Nat} (h : OwnAddress u a n 8) : OwnSpill u a :=
  ⟨h.tile, h.form, h.ok, h.gtile, h.aligned⟩

namespace OwnSpill
variable {u : State} {a : Word} (h : OwnSpill u a)
include h

theorem run_spillOffset (hs : Solo u) : (spillOffset a).run u = .ok (home u, offsetOf a) u := by
  have hc : (decide (formOf a = 1) && formOk a && mirrored u u.focus (gtileOf u a) == home u) = true := by
    rw [mirrored_solo hs, h.form, h.ok, h.gtile]
    simp
  rw [spillOffset]
  refine (run_bind_ok (EStateM.run_get u)).trans ?_
  simp only [h.tile]
  exact (run_bind_ok (run_check_holds hc)).trans ((run_bind_ok (run_check_holds (decide_eq_true h.aligned))).trans (EStateM.run_pure ..))

theorem offset_aligned : offsetOf a % 8 = 0 := by
  have := h.aligned
  simp only [offsetOf, BitVec.extractLsb'_toNat]
  omega

end OwnSpill

/-! ## CALL (R348) -/

/-- A sequencer's newest return address is the one after the call at `pc`. -/
def withReturn (q : SeqId) (pc : Word) (u : State) : State := u.modSeq q (fun v => { v with returns := (pc + 8) :: v.returns })

/-- A sequencer without its oldest return address, which is spilled. -/
def withoutOldest (q : SeqId) (u : State) : State :=
  u.modSeq q (fun v => { v with returns := v.returns.dropLast, cspill := v.cspill + 8 })

section Call
variable {u : State} {f : F64B}

/-- The end of a call: the return address is kept and the target taken. -/
theorem run_callEnd {q : SeqId} {pc : Word} {u : State} (hq : u.focus = q) (hpc : (u.seq q).pc = pc) :
    (do modMe (fun u => { u with returns := (pc + 8) :: u.returns }); return .jump (← branchTarget f) : Exec Flow).run u =
      .ok (.jump (pc + (f.disp34.signExtend 64 <<< 2))) (withReturn q pc u) := by
  subst hq
  have hp : (here (withReturn u.focus pc u)).pc = pc := by rw [withReturn, here_modSeq]; exact hpc
  have ht : (branchTarget f).run (withReturn u.focus pc u) = .ok (pc + (f.disp34.signExtend 64 <<< 2)) (withReturn u.focus pc u) := by
    simp only [branchTarget, EStateM.run_bind, run_mySeq, EStateM.run_pure, hp]
  exact (run_bind_ok (run_modMe ..)).trans ((run_bind_ok ht).trans (EStateM.run_pure ..))

theorem run_callBody (h : (here u).returns.length < 16) :
    (callBody f).run u = .ok (.jump ((here u).pc + (f.disp34.signExtend 64 <<< 2))) (withReturn u.focus (here u).pc u) := by
  have hn : ¬ storeDepth ≤ (here u).returns.length := Nat.not_le.mpr h
  rw [callBody]
  refine (run_bind_ok (run_mySeq u)).trans ?_
  rw [if_neg hn]
  exact run_callEnd rfl rfl

variable (h : storeDepth ≤ (here u).returns.length)
include h

theorem run_callBody_limit (hl : spillLimit (here u).csplim < offsetOf (here u).cspill + 8) :
    (callBody f).run u = .error (.trap 0x0D ((here u).csplim.setWidth 64) none) u := by
  rw [callBody]
  refine (run_bind_ok (run_mySeq u)).trans ?_
  rw [if_pos h]
  exact run_bind_error (run_check_fails (decide_eq_false (Nat.not_le.mpr hl)))

/-- A call on a full store writes its oldest entry, `bs`, to the spill area. -/
theorem run_callBody_spills (hs : Solo u) (hl : offsetOf (here u).cspill + 8 ≤ spillLimit (here u).csplim)
    (ha : OwnAddress u (here u).cspill 8 8) {bs : List Byte} (hbs : toBytes 8 ((here u).returns.getLastD 0).toNat = bs) :
    (callBody f).run u = .ok (.jump ((here u).pc + (f.disp34.signExtend 64 <<< 2)))
      (withReturn u.focus (here u).pc (withoutOldest u.focus (withBytes (ownKey u (here u).cspill) bs false u))) := by
  have hlen : bs.length = 8 := hbs ▸ length_toBytes ..
  have hw := (DiffersInFindings.refl u).withBytes (ownKey u (here u).cspill) bs false
  have hput : (putScratch (home u) (offsetOf (here u).cspill) (marked bs false)).run u =
      .ok () (withBytes (ownKey u (here u).cspill) bs false u) :=
    run_putScratch_solo hs (fun _ => (hs.1 _ ha.tile).1) (.inl ha.tile) (by rw [hlen]; exact ha.calm) (ha.pushesToward _)
  generalize withBytes (ownKey u (here u).cspill) bs false u = w at hw hput ⊢
  have hf : (withoutOldest u.focus w).focus = u.focus := (State.focus_modSeq ..).trans hw.focus
  have hpc : ((withoutOldest u.focus w).seq u.focus).pc = (here u).pc := by
    rw [withoutOldest, State.seq_modSeq_same, hw.seq]
    rfl
  have hmod : (modMe (fun q => { q with returns := q.returns.dropLast, cspill := q.cspill + 8 })).run w =
      .ok () (withoutOldest u.focus w) := by rw [run_modMe, hw.focus, withoutOldest]
  rw [callBody]
  refine (run_bind_ok (run_mySeq u)).trans ?_
  rw [if_pos h, hbs]
  exact (run_bind_ok (run_check_holds (decide_eq_true hl))).trans ((run_bind_ok (ha.ownSpill.run_spillOffset hs)).trans
    ((run_bind_ok hput).trans ((run_bind_ok hmod).trans (run_callEnd hf hpc))))

end Call

/-! ## RET (R410) -/

section Ret
variable {u : State}

theorem run_retBody {t : Word} {rest : List Word} (h : (here u).returns = t :: rest) (h0 : t.toNat % 4 = 0) :
    retBody.run u = .ok (.jump t) (u.modSeq u.focus (fun v => { v with returns := rest })) := by
  rw [retBody]
  refine (run_bind_ok (run_mySeq u)).trans ?_
  simp only [h]
  exact (run_bind_ok (run_check_holds (decide_eq_true h0))).trans ((run_bind_ok (run_modMe ..)).trans (EStateM.run_pure ..))

theorem run_retBody_misaligned {t : Word} {rest : List Word} (h : (here u).returns = t :: rest) (h0 : t.toNat % 4 ≠ 0) :
    retBody.run u = .error (.trap 0x0A t none) u := by
  rw [retBody]
  refine (run_bind_ok (run_mySeq u)).trans ?_
  simp only [h]
  exact run_bind_error (run_check_fails (decide_eq_false h0))

variable (h : (here u).returns = [])
include h

theorem run_retBody_base (hb : offsetOf (here u).cspill ≤ spillBase (here u).csplim) :
    retBody.run u = .error (.trap 0x0C 0 none) u := by
  rw [retBody]
  refine (run_bind_ok (run_mySeq u)).trans ?_
  simp only [h]
  exact run_bind_error (run_check_fails (decide_eq_false (Nat.not_lt.mpr hb)))

/-- A return on an empty store reads the word below the spill pointer and looks at its alignment. -/
theorem run_retBody_fills (hs : Solo u) (hb : spillBase (here u).csplim < offsetOf (here u).cspill) (ha : OwnSpill u (here u).cspill)
    {key : Nat} (hk : scratchKey (home u) (offsetOf (here u).cspill - 8) = key) (hf : inFlight u u.focus (wordsOf key 8) = false)
    (hc : Claims.cleanBytes u.mem key 8 = true) {t : Word} (ht : BitVec.ofNat 64 (wordAt u.mem key 8) = t) :
    retBody.run u = (do
      check (t.toNat % 4 = 0) 0x0A t
      modMe (fun u => { u with cspill := u.cspill - 8 })
      return .jump t : Exec Flow).run u := by
  have h8 := ha.offset_aligned
  have hlt : offsetOf (here u).cspill < 2 ^ 20 := BitVec.isLt _
  have hp := pushesToward_tile (s := u) ha.tile (home u)
  subst hk
  have hread := run_takeScratch (solo_alone hs) (by omega) (by omega) (.inl ha.tile) hf hp hs.2.2 hc
  rw [retBody]
  refine (run_bind_ok (run_mySeq u)).trans ?_
  simp only [h]
  refine (run_bind_ok (run_check_holds (decide_eq_true hb))).trans ((run_bind_ok (ha.run_spillOffset hs)).trans
    ((run_bind_ok hread).trans ?_))
  rw [poisoned_marked, bytes_marked]
  exact ht ▸ rfl

end Ret

/-- Settles O35: each body's run, the spill area being read and written as any word of the own scratchpad. -/
theorem callsAndReturns : Obligations.CallsAndReturns := by
  unfold Obligations.CallsAndReturns
  intro s u q limit base
  refine ⟨fun f h => ?call, fun f h => ?ret⟩
  case call =>
    intro target
    exact ⟨fun hl => issue_runs h (run_callBody hl), fun hf hl => issue_traps_unchanged h (run_callBody_limit hf hl) (by decide),
      fun hf hl hs ha => issue_runs h (run_callBody_spills hf hs hl (ownAddress ha) rfl)⟩
  case ret =>
    refine ⟨fun t rest hr => ⟨fun h0 => issue_runs h (run_retBody hr h0), fun h0 =>
      issue_traps_unchanged h (run_retBody_misaligned hr h0) (by decide)⟩,
      fun he hb => issue_traps_unchanged h (run_retBody_base he hb) (by decide), fun he hb hs hi hform hok hg ha => ?_⟩
    intro key t hf hc
    obtain ⟨k, hk⟩ := Option.isSome_iff_exists.mp hi
    have hrun := run_retBody_fills he hs hb ⟨by rw [hk, tileOf_home hk], hform, hok, hg, ha⟩ rfl hf hc rfl
    exact ⟨fun h0 => issue_runs h (hrun.trans ((run_bind_ok (run_check_holds (decide_eq_true h0))).trans rfl)),
      fun h0 => issue_traps_unchanged h (hrun.trans (run_bind_error (run_check_fails (decide_eq_false h0)))) (by decide)⟩

end Sys2Proof.Machine
end

section
/-! SUPPORT. Accesses of a tile sequencer to the scratchpad of another tile: what such an address resolves to, how the request leaves, and
the statement about LD, ST, FEST and FEQ (R99, R179, R384, R416). -/

namespace Sys2Proof.Machine

open Sys2Proof.Claims

/-! ## An address of another tile's scratchpad (R156) -/

/-- What the checks of R156 ask of `n` aligned bytes of the scratchpad of tile `g`, which is not the issuing sequencer's. -/
structure RemoteAddress (u : State) (g : Nat) (a : Word) (n : Nat) : Prop where
  tile : State.tileOf u.focus = some (home u)
  other : g ≠ home u
  ok : (formOk a && !shutOut u u.focus a) = true
  form : formOf a = 1
  gtile : gtileOf u a = g
  reach : mayReach u u.focus g = true
  fits : offsetOf a + n ≤ 2 ^ 20
  aligned : a.toNat % n = 0

namespace RemoteAddress

section
variable {u : State} {g n : Nat} {a : Word} (h : RemoteAddress u g a n)
include h

theorem run_checkAddress : (checkAddress a n n).run u = .ok () u := by
  have hr : rangeCause a n = none := by
    rw [rangeCause, if_neg (by rw [h.form]; decide), if_neg (Nat.not_lt.mpr h.fits)]
  simp only [checkAddress, EStateM.run_bind, EStateM.run_get, run_check, h.ok, if_true, hr, h.aligned, decide_true, h.form, h.gtile, h.reach]

/-- The place that the address names. -/
theorem run_resolve (hs : Solo u) (acc : Access) : (resolve a n n acc).run u = .ok (.scratch g (offsetOf a)) u := by
  simp only [resolve, EStateM.run_bind, h.run_checkAddress, EStateM.run_get, h.form, if_true, EStateM.run_pure, h.gtile, mirrored_solo hs]

theorem run_locate (hs : Solo u) (acc : Access) (q : Bool) :
    (locate a n n acc [] q).run u = .ok (.inl (.scratch g (offsetOf a))) u := by
  have ht := h.tile
  have h1 : ¬ formOf a = 0 := by rw [h.form]; decide
  simp only [locate, EStateM.run_bind, EStateM.run_get]
  cases hq : u.focus with
  | a t => simp only [EStateM.run_bind, h.run_resolve hs, h1, if_false, EStateM.run_pure]
  | x t => simp only [EStateM.run_bind, h.run_checkAddress, h.run_resolve hs, h1, if_false, EStateM.run_pure]
  | m c => rw [hq] at ht; cases ht
  | s c => rw [hq] at ht; cases ht

theorem run_scratchOnly : (scratchOnly a).run u = .ok () u := run_check_holds (by rw [h.form]; rfl)

theorem isOwn_false (off : Nat) : isOwn u.focus (.scratch g off) = false := by
  have ht := h.tile
  have hg := h.other
  cases hq : u.focus with
  | a t => rw [home_a hq] at hg; exact beq_false_of_ne hg
  | x t => rw [home_x hq] at hg; exact beq_false_of_ne hg
  | m c => rw [hq] at ht; cases ht
  | s c => rw [hq] at ht; cases ht

end
end RemoteAddress

/-! ## A request that orders nothing (R179, R199) -/

section Request
variable {u : State} (op : ReqOp) (p : Place) (ordered : Bool)

theorem noteSync_none (id : Nat) (s : State) : noteSync id Sync.none s = s := if_pos rfl

/-- A request joins the module's under the oldest number of its flow. The flow is kept opaque, since the kernel would compute it. -/
theorem addRequest_eq_sent (slot : Option (BitVec 32)) {flow : Nat} (hf : flowOf u.focus (homeOf p) ordered * 4 = flow) :
    addRequest u.focus none (u.firingOf u.focus) (u.gangOf u.focus) (u.partOf u.focus) op (homeOf p) ordered slot none u =
      sent op p ordered false slot u := by
  rw [addRequest, sent]
  simp only [hf]
  rfl

/-- A request leaves while fewer than 64 are outstanding. -/
theorem run_send (slot : Option (BitVec 32)) (ho : outstanding u u.focus < 64) :
    (send op p ordered false slot none).run u = .ok () (sent op p ordered false slot u) := by
  rw [← addRequest_eq_sent op p ordered slot rfl, send]
  exact (run_bind_ok (EStateM.run_get u)).trans ((run_bind_ok (run_waitUntil_holds (decide_eq_true ho))).trans rfl)

theorem role_sent : role (sent op p ordered false none u) = role u := by
  cases hq : u.focus <;> simp only [role, memberOf, sent] <;> rfl

theorem run_sendSync_plain (ho : outstanding u u.focus < 64) :
    (sendSync Sync.none op p ordered false).run u = .ok () (sent op p ordered false none u) := by
  rw [sendSync]
  refine (run_bind_ok (EStateM.run_get u)).trans ((run_bind_ok (run_send op p ordered none ho)).trans ?_)
  simp only [EStateM.run_bind, EStateM.run_modify, noteSync_none]
  rfl

/-- A plain request for a result leaves, and its register is pending. -/
theorem run_askSync_plain {d : Nat} (hr : role u = .alone) (ho : outstanding u u.focus < 64)
    (hm : ∀ v : State, (markPending op).run v = .ok () (pendingX d v)) :
    (askSync Sync.none op p ordered false none).run u = .ok () (pendingX d (sent op p ordered false none u)) := by
  have hr' : memberOf u u.focus = .alone := hr
  have hask : (ask op p ordered false none).run u = .ok () (pendingX d (sent op p ordered false none u)) := by
    rw [ask]
    refine (run_bind_ok (EStateM.run_get u)).trans ?_
    simp only [hr']
    exact (run_bind_ok (run_send op p ordered none ho)).trans (hm _)
  rw [askSync]
  refine (run_bind_ok (EStateM.run_get u)).trans ((run_bind_ok hask).trans ?_)
  simp only [EStateM.run_bind, EStateM.run_modify, noteSync_none]
  rfl

end Request

/-! ## The bodies -/

section Bodies
variable {f : F64M} {u : State} {g n : Nat} (hs : Solo u) (ho : outstanding u u.focus < 64) (hb : xOk u f.base.toNat = true)
include hs ho hb

section LoadStore
variable (h : RemoteAddress u g (addressOf u f) (tyWidth f.ty.toNat / 8)) (hfe : f.fe = 0) (hd : f.d.toNat < 32)
include h hfe hd

theorem run_ldBody_remote (hord : f.ord ≠ 1) (hx : xFree u f.d.toNat = true) : (ldBody f).run u = .ok .fall (pendingX f.d.toNat
    (sent (.load ⟨(Place.scratch g (offsetOf (addressOf u f))).key, 0, tyWidth f.ty.toNat / 8⟩ f.ty f.d)
      (.scratch g (offsetOf (addressOf u f))) false false none u)) := by
  have hq : (queueWaits [⟨f.d.toNat, 0, true, false⟩]).run u = .ok () u := run_queueWaits u (by simp; omega)
  have hord' : (f.ord == 1) = false := beq_false_of_ne hord
  have hx' : (!(u.seq u.focus).xPending.getLsbD f.d.toNat || f.d.toNat == 0) = true := by rw [Bool.or_comm]; exact hx
  have hask := run_askSync_plain (.load ⟨(Place.scratch g (offsetOf (addressOf u f))).key, 0, tyWidth f.ty.toNat / 8⟩ f.ty f.d)
    (.scratch g (offsetOf (addressOf u f))) false (solo_alone hs) ho (d := f.d.toNat) fun v => by
      simp only [markPending, hd, if_true]; rfl
  rw [ldBody]
  refine (run_bind_ok hq).trans ((run_bind_ok (run_baseAddress hb)).trans ?_)
  rw [if_neg (not_not.mpr hfe)]
  refine (run_bind_ok (h.run_locate hs ..)).trans ((run_bind_ok (run_strongBefore_scratch ..)).trans ((run_bind_ok (EStateM.run_get u)).trans ?_))
  rw [if_pos hfe, h.isOwn_false, hord']
  refine run_bind_ok (v := ()) ?_
  rw [requestLoad]
  refine (run_bind_ok (EStateM.run_get u)).trans ?_
  rw [if_pos hd]
  exact (run_bind_ok (run_waitUntil_holds hx')).trans hask

theorem run_stBody_remote (hord : f.ord ≠ 2) (hx : xOk u f.d.toNat = true) : (stBody f).run u = .ok .fall
    (sent (.store [⟨(Place.scratch g (offsetOf (addressOf u f))).key, 0, marked (toBytes (tyWidth f.ty.toNat / 8)
      ((here u).x f.d.toNat).toNat) false⟩]) (.scratch g (offsetOf (addressOf u f))) false false none u) := by
  have hq : (queueWaits [⟨f.d.toNat, 0, false, false⟩]).run u = .ok () u := run_queueWaits u (by simp; omega)
  have hv : (source f.ty.toNat f.d.toNat 0 0).run u = .ok ⟨(here u).x f.d.toNat, false, 0⟩ u :=
    run_source 0 (by simp only [scalarAt, hd, if_true, hx])
  have hord' : (f.ord == 2) = false := beq_false_of_ne hord
  have hfe2 : (f.fe == 2) = false := by rw [hfe]; rfl
  obtain ⟨b, hw⟩ := run_waits .word u
  rw [stBody]
  refine (run_bind_ok hq).trans ((run_bind_ok (run_baseAddress hb)).trans ?_)
  rw [if_neg (not_not.mpr hfe)]
  refine (run_bind_ok (h.run_locate hs ..)).trans ((run_bind_ok hv).trans ((run_bind_ok hw).trans
    ((run_bind_ok (run_outsidePair_solo hs _)).trans ?_)))
  rw [hord', hfe2, if_neg (by simp)]
  refine (run_bind_ok (run_strongBefore_scratch ..)).trans ((run_bind_ok (EStateM.run_get u)).trans ?_)
  rw [if_pos hfe, h.isOwn_false]
  refine (run_bind_ok (run_sendSync_plain _ _ _ ho)).trans ((run_bind_ok (run_takeIn ..)).trans ?_)
  rw [noted_alone _ ((role_sent ..).trans (solo_alone hs))]
  rfl

end LoadStore

section State
variable (h : RemoteAddress u g (addressOf u f) 8)
include h

omit hs ho hb in
theorem tileOfKey_remote : tileOfKey (Place.scratch g (offsetOf (addressOf u f))).key = g :=
  tileOfKey_scratchKey (by have := h.fits; omega)

theorem run_festBody_remote (hord : f.ord ≠ 2) : (festBody f).run u = .ok .fall (sent
    (.setState g (offsetOf (addressOf u f) / 8) (f.fn3.getLsbD 0)) (.scratch g (offsetOf (addressOf u f))) true false none u) := by
  have hord' : (f.ord == 2) = false := beq_false_of_ne hord
  rw [festBody]
  refine (run_bind_ok (run_baseAddress hb)).trans ((run_bind_ok h.run_scratchOnly).trans ((run_bind_ok (h.run_locate hs ..)).trans
    ((run_bind_ok (run_outsidePair_solo hs _)).trans ?_)))
  rw [hord', if_neg (by decide)]
  refine (run_bind_ok (EStateM.run_get u)).trans ?_
  rw [h.isOwn_false, tileOfKey_remote h]
  exact (run_bind_ok (run_sendSync_plain _ _ _ ho)).trans (EStateM.run_pure ..)

theorem run_feqBody_remote (hord : f.ord ≠ 1) (hx : xFree u f.d.toNat = true) : (feqBody f).run u = .ok .fall (pendingX f.d.toNat (sent
    (.getState g (offsetOf (addressOf u f) / 8) f.d) (.scratch g (offsetOf (addressOf u f))) true false none u)) := by
  have hord' : (f.ord == 1) = false := beq_false_of_ne hord
  have hx' : (!(u.seq u.focus).xPending.getLsbD f.d.toNat || f.d.toNat == 0) = true := by rw [Bool.or_comm]; exact hx
  rw [feqBody]
  refine (run_bind_ok (run_baseAddress hb)).trans ((run_bind_ok h.run_scratchOnly).trans ((run_bind_ok (h.run_locate hs ..)).trans
    ((run_bind_ok (EStateM.run_get u)).trans ?_)))
  rw [h.isOwn_false, tileOfKey_remote h, hord']
  exact (run_bind_ok (run_waitUntil_holds hx')).trans ((run_bind_ok (run_askSync_plain _ _ _ (solo_alone hs) ho fun _ => rfl)).trans
    (EStateM.run_pure ..))

end State
end Bodies

/-- Settles O26: an address of another tile resolves to a place that is not the issuing unit's, for which one plain request leaves. -/
theorem remoteAccessesAreRequests : Obligations.RemoteAccessesAreRequests := by
  unfold Obligations.RemoteAccessesAreRequests
  intro s g a u p reaches hs ht hg ho
  have remote : ∀ n, reaches n = true → RemoteAddress u g a n := by
    intro n h
    simp only [reaches, Bool.and_eq_true, beq_iff_eq, decide_eq_true_eq] at h
    obtain ⟨⟨⟨⟨⟨⟨hok, hform⟩, hshut⟩, hgt⟩, hreach⟩, hfits⟩, hal⟩ := h
    obtain ⟨t, ht⟩ := Option.isSome_iff_exists.mp ht
    exact ⟨by rw [ht, tileOf_home ht], hg, by rw [hok, hshut]; rfl, hform, hgt, hreach, hfits, hal⟩
  refine ⟨fun f h hfe hord ha hb hr hd hx => ?ld, fun f h hfe hord ha hb hr hd hx => ?st, fun f h hord ha hb hr => ?fest,
    fun f h hord ha hb hr hd hx => ?feq⟩
  all_goals
    subst ha
    have hr := remote _ hr
  case ld => exact issue_runs h (run_ldBody_remote hs ho hb hr hfe hd hord hx)
  case st => exact issue_runs h (run_stBody_remote hs ho hb hr hfe hd hord hx)
  case fest => exact issue_runs h (run_festBody_remote hs ho hb hr hord)
  case feq => exact issue_runs h (run_feqBody_remote hs ho hb hr hord hx)

end Sys2Proof.Machine
end

section
/-! SUPPORT. The barriers of a die: what each body does at a tile outside a pair where every agent sees every write, and the statement about
them (R125-R127, R342). -/

namespace Sys2Proof.Machine

open Sys2Proof.Claims

theorem exec_barinit (f : F64A) (s : State) : exec (.barinit f) s = issue (.barinit f) f.pred f.pneg (barinitBody f) s := rfl
theorem exec_bararv (f : F64A) (s : State) : exec (.bararv f) s = issue (.bararv f) f.pred f.pneg (bararvBody f) s := rfl
theorem exec_bardef (f : F64A) (s : State) : exec (.bardef f) s = issue (.bardef f) f.pred f.pneg (bardefBody f) s := rfl
theorem exec_barwait (f : F64A) (s : State) : exec (.barwait f) s = issue (.barwait f) f.pred f.pneg (barwaitBody f) s := rfl

theorem focus_recordWait (q : SeqId) (why : Why) (s : State) : (recordWait q why s).focus = s.focus := State.focus_modSeq ..

/-- The barrier found under a name is the one of that die, gang and name. -/
theorem findBarrier_named {s : State} {die gang name : Nat} {b : Barrier} (h : findBarrier s die gang name = some b) :
    b.die = die ∧ b.gang = gang ∧ b.name = name := by
  have hb := List.find?_some h
  simp only [isBarrier, Bool.and_eq_true, beq_iff_eq] at hb
  exact ⟨hb.1.1, hb.1.2, hb.2⟩

theorem releasesOn_calm {s : State} (h : s.mem.unseen = []) (object : Nat) (q : SeqId) (scope : Nat) : releasesOn object q scope s = s :=
  markUnseen_calm h ..
theorem acquiresOn_calm {s : State} (h : s.mem.unseen = []) (object : Nat) (q : SeqId) (scope : Nat) : acquiresOn object q scope s = s :=
  markUnseen_calm h ..
theorem defers_calm {s : State} (h : s.mem.unseen = []) (gang t name : Nat) (cmds : List (Nat × Nat)) (q : SeqId) :
    defers gang t name cmds q s = s := markUnseen_calm h ..
theorem defersDone_calm {s : State} (h : s.mem.unseen = []) (gang t name phase : Nat) (cmds : List (Nat × Nat)) :
    defersDone gang t name phase cmds s = s := markUnseen_calm h ..

section Bodies
variable {u : State} {t : Nat} (hs : Solo u) (ht : State.tileOf u.focus = some t)
include hs ht

/-! ## What a tile outside a pair asks of a barrier -/

theorem primaryOf_solo : u.primaryOf t = t := by
  rw [State.primaryOf, (hs.1 t ht).1]
  rfl

theorem run_barrierTile : barrierTile.run u = .ok t u := by
  simp only [barrierTile, EStateM.run_bind, EStateM.run_get, run_myTileNo, tileOf_home ht, primaryOf_solo hs ht, EStateM.run_pure]

theorem barrierHeld_solo (name : Nat) : barrierHeld u t name = false := by
  have hh := (hs.1 t ht).2
  rw [primaryOf_solo hs ht] at hh
  rw [barrierHeld, hh]
  rfl

omit hs ht in
theorem run_askBarrier_alone (hr : role u = .alone) (gang : Nat) (c : BarAct) :
    (askBarrier t gang c).run u = .ok () (applyBarrier t gang c u) := by
  simp only [askBarrier, EStateM.run_bind, run_myTwin, hr, beq_self_eq_true, if_true, EStateM.run_modify]

section Mine
variable {name : Nat}

theorem run_myBarrier_none (hb : findBarrier u (dieOf t) (u.gangOf u.focus) name = none) :
    (myBarrier name).run u = .error (.trap 0x0B 0 none) u := by
  rw [myBarrier]
  refine (run_bind_ok (run_barrierTile hs ht)).trans ((run_bind_ok (EStateM.run_get u)).trans
    ((run_bind_ok (run_waitUntil_holds (by rw [barrierHeld_solo hs ht]; rfl))).trans ?_))
  rw [hb]
  rfl

variable {b : Barrier} (hb : findBarrier u (dieOf t) (u.gangOf u.focus) name = some b)
include hb

theorem run_myBarrier_found : (myBarrier name).run u = (check (b.members.contains t) 0x0B 0 >>= fun _ => pure b).run u := by
  rw [myBarrier]
  refine (run_bind_ok (run_barrierTile hs ht)).trans ((run_bind_ok (EStateM.run_get u)).trans
    ((run_bind_ok (run_waitUntil_holds (by rw [barrierHeld_solo hs ht]; rfl))).trans ?_))
  rw [hb]

theorem run_myBarrier_stranger (hm : b.members.contains t = false) : (myBarrier name).run u = .error (.trap 0x0B 0 none) u :=
  (run_myBarrier_found hs ht hb).trans (run_bind_error (run_check_fails hm))

theorem run_myBarrier_member (hm : b.members.contains t = true) : (myBarrier name).run u = .ok b u :=
  (run_myBarrier_found hs ht hb).trans (run_bind_ok (run_check_holds hm))

omit hs ht in
/-- An arrival in a phase in which the tile has not arrived. -/
theorem applyBarrier_arrive (ha : b.arrived.contains t = false) : applyBarrier t b.gang (.arrive b.name) u = arrive t b u := by
  obtain ⟨-, hg, hn⟩ := findBarrier_named hb
  rw [hg, hn, applyBarrier, hb]
  simp only [ha, Bool.false_eq_true, if_false]

end Mine

/-! ## BARINIT -/

section Init
variable {f : F64A} (hx : xOk u f.a.toNat = true) {g : Gang} (hg : u.gang? (u.gangOf u.focus) = some g)
include hx hg

/-- BARINIT comes to the check of the group that it names, of which the tile is to be a member. -/
theorem run_barinitBody {own : Bool} (ho : (decide (((here u).x f.a.toNat).toNat < g.groups.length) &&
      ((groupsOf u g t).getD []).contains ((here u).x f.a.toNat).toNat) = own) : (barinitBody f).run u =
    if own then
      if (findBarrier u (dieOf t) (u.gangOf u.focus) f.imm16.toNat).isSome || decide (contextsUsed u (dieOf t) < barrierContexts) then
        .ok .fall (initBarrier (dieOf t) (u.gangOf u.focus) f.imm16.toNat (groupOnDie g ((here u).x f.a.toNat).toNat (dieOf t)) u)
      else .error (.wait .limit id) u
    else .error (.trap 0x0B 0 none) u := by
  rw [barinitBody]
  refine (run_bind_ok (run_useX hx)).trans ((run_bind_ok (run_barrierTile hs ht)).trans ((run_bind_ok (EStateM.run_get u)).trans ?_))
  simp only [hg, ho]
  cases own
  · exact run_bind_error (run_check_fails rfl)
  refine (run_bind_ok (run_check_holds rfl)).trans ?_
  rw [EStateM.run_bind, run_unlessTwin_alone (solo_alone hs)]
  simp only [EStateM.run_bind, EStateM.run_get, run_waitUntil, barrierHeld_solo hs ht, Bool.not_false, if_true]
  cases (findBarrier u (dieOf t) (u.gangOf u.focus) f.imm16.toNat).isSome || decide (contextsUsed u (dieOf t) < barrierContexts)
  · rfl
  · simp only [if_true, run_askBarrier_alone (solo_alone hs)]
    rfl

end Init

/-! ## BARARV and BARDEF -/

section Arrive
variable {f : F64A}

theorem run_bararvBody_none (hb : findBarrier u (dieOf t) (u.gangOf u.focus) f.imm16.toNat = none) :
    (bararvBody f).run u = .error (.trap 0x0B 0 none) u := by
  rw [bararvBody]
  exact run_bind_error ((run_unlessTwin_alone (solo_alone hs) _).trans (run_bind_error (run_myBarrier_none hs ht hb)))

theorem run_bardefBody_none (hb : findBarrier u (dieOf t) (u.gangOf u.focus) f.imm16.toNat = none) :
    (bardefBody f).run u = .error (.trap 0x0B 0 none) u := by
  rw [bardefBody]
  exact run_bind_error ((run_unlessTwin_alone (solo_alone hs) _).trans (run_bind_error (run_myBarrier_none hs ht hb)))

variable {b : Barrier} (hb : findBarrier u (dieOf t) (u.gangOf u.focus) f.imm16.toNat = some b)
include hb

theorem run_bararvBody_stranger (hm : b.members.contains t = false) : (bararvBody f).run u = .error (.trap 0x0B 0 none) u := by
  rw [bararvBody]
  exact run_bind_error ((run_unlessTwin_alone (solo_alone hs) _).trans (run_bind_error (run_myBarrier_stranger hs ht hb hm)))

theorem run_bardefBody_stranger (hm : b.members.contains t = false) : (bardefBody f).run u = .error (.trap 0x0B 0 none) u := by
  rw [bardefBody]
  exact run_bind_error ((run_unlessTwin_alone (solo_alone hs) _).trans (run_bind_error (run_myBarrier_stranger hs ht hb hm)))

variable (hm : b.members.contains t = true)
include hm

theorem run_bararvBody_again (ha : b.arrived.contains t = true) : (bararvBody f).run u = .error (.wait .barrier id) u := by
  rw [bararvBody]
  refine run_bind_error ((run_unlessTwin_alone (solo_alone hs) _).trans ((run_bind_ok (run_myBarrier_member hs ht hb hm)).trans
    ((run_bind_ok (run_barrierTile hs ht)).trans (run_bind_error (run_waitUntil_waits ?_)))))
  rw [ha]
  rfl

variable (hack : allAcknowledged u u.focus = true)
include hack

theorem run_bararvBody (ha : b.arrived.contains t = false) : (bararvBody f).run u = .ok .fall (arrive t b u) := by
  have hrel : (releaseDie b).run u = .ok () u := by
    rw [releaseDie]
    refine (run_bind_ok (run_awaitAcks hack)).trans ?_
    rw [EStateM.run_modify, releasesOn_calm hs.2.2]
  rw [bararvBody]
  refine run_bind_ok (v := ()) ((run_unlessTwin_alone (solo_alone hs) _).trans ((run_bind_ok (run_myBarrier_member hs ht hb hm)).trans
    ((run_bind_ok (run_barrierTile hs ht)).trans ((run_bind_ok (run_waitUntil_holds (by rw [ha]; rfl))).trans
      ((run_bind_ok hrel).trans ?_)))))
  rw [run_askBarrier_alone (solo_alone hs), applyBarrier_arrive hb ha]

/-- An arrival that is bound to the commands of the firing is made at once when they have landed, and is noted otherwise. -/
theorem run_bardefBody {cmds : List (Nat × Nat)} (hc : ((here u).firing.map (·.begun)).getD [] = cmds) : (bardefBody f).run u =
    .ok .fall (if (cmds.all (landed u t) && !b.arrived.contains t) = true then arrive t b u
      else u.modLaunch (fun l => { l with deferred := l.deferred ++ [⟨b.gang, t, b.name, cmds⟩] })) := by
  have hdef : (modify (fun s => defers b.gang t b.name cmds s.focus s) : Exec Unit).run u = .ok () u := by
    rw [EStateM.run_modify, defers_calm hs.2.2]
  have hdone : (modify (defersDone b.gang t b.name b.phase cmds) : Exec Unit).run u = .ok () u := by
    rw [EStateM.run_modify, defersDone_calm hs.2.2]
  rw [bardefBody]
  refine run_bind_ok (v := ()) ((run_unlessTwin_alone (solo_alone hs) _).trans ((run_bind_ok (run_myBarrier_member hs ht hb hm)).trans
    ((run_bind_ok (run_barrierTile hs ht)).trans ((run_bind_ok (run_awaitAcks hack)).trans ((run_bind_ok (run_mySeq u)).trans ?_)))))
  rw [hc]
  refine (run_bind_ok hdef).trans ((run_bind_ok (EStateM.run_get u)).trans ?_)
  by_cases hl : (cmds.all (landed u t) && !b.arrived.contains t) = true
  · rw [if_pos hl, if_pos hl]
    refine (run_bind_ok hdone).trans ?_
    rw [run_askBarrier_alone (solo_alone hs),
      applyBarrier_arrive hb (by simpa using (Bool.and_eq_true_iff.mp hl).2)]
  · rw [if_neg hl, if_neg hl, run_askBarrier_alone (solo_alone hs)]
    rfl

end Arrive

/-! ## BARWAIT -/

section Wait
variable {f : F64A} {b : Barrier} (hb : findBarrier u (dieOf t) (u.gangOf u.focus) f.imm16.toNat = some b)

/-- The barrier without a sequencer among those that wait at it or are released from it. -/
def leaveBarrier (die gang name : Nat) (q : SeqId) (s : State) : State :=
  modBarrier die gang name (fun c => { c with waiting := c.waiting.filter (· != q), released := c.released.filter (· != q) }) s

include hb

/-- The answer of BARWAIT once the barrier is found. -/
theorem run_barwaitAnswer {q : SeqId} (hq : u.focus = q) : (barwaitAnswer f.imm16.toNat).run u =
    if b.released.contains q then .ok 1 (leaveBarrier (dieOf t) (u.gangOf u.focus) f.imm16.toNat q u)
    else if b.members.contains t then
      match b.last.find? (fun e => e.1 == t) with
      | none => .ok 2 u
      | some e =>
        if e.2 < b.phase then .ok 0 (leaveBarrier (dieOf t) (u.gangOf u.focus) f.imm16.toNat q u)
        else .error (.wait .barrier (registerWait b)) u
    else .error (.trap 0x0B 0 none) u := by
  subst hq
  rw [barwaitAnswer]
  refine (run_bind_ok (run_barrierTile hs ht)).trans ((run_bind_ok (EStateM.run_get u)).trans
    ((run_bind_ok (run_waitUntil_holds (by rw [barrierHeld_solo hs ht]; rfl))).trans ?_))
  simp only [hb]
  by_cases hr : b.released.contains u.focus = true
  · rw [if_pos hr, if_pos hr]
    rfl
  rw [if_neg hr, if_neg hr]
  by_cases hm : b.members.contains t = true
  · rw [if_pos hm]
    refine (run_bind_ok (run_check_holds hm)).trans ?_
    cases b.last.find? (fun e => e.1 == t) with
    | none => rfl
    | some e =>
      by_cases he : e.2 < b.phase
      · simp only [if_pos he]
        refine run_bind_ok (v := ()) ?_
        rw [EStateM.run_modify, acquiresOn_calm]
        · rfl
        · exact hs.2.2
      · simp only [if_neg he]
        rfl
  · rw [if_neg hm]
    exact run_bind_error (run_check_fails (Bool.eq_false_iff.mpr hm))

variable (hd : f.d.toNat < 32)
include hd

omit hb ht in
theorem run_barwaitBody {v : Word} {w : State} (ha : (barwaitAnswer f.imm16.toNat).run u = .ok v w) (hx : xFree w f.d.toNat = true) :
    (barwaitBody f).run u = .ok .fall (withX f.d.toNat v false w) := by
  rw [barwaitBody]
  exact (run_bind_ok (run_queueWaits_dest _ _ hd)).trans ((run_bind_ok ((run_echoed1_alone (solo_alone hs) _).trans ha)).trans
    ((run_bind_ok (run_putDest _ _ _ hd hx)).trans (EStateM.run_pure ..)))

omit hb ht in
theorem run_barwaitBody_stop {e : Stop} (ha : (barwaitAnswer f.imm16.toNat).run u = .error e u) : (barwaitBody f).run u = .error e u := by
  rw [barwaitBody]
  exact (run_bind_ok (run_queueWaits_dest _ _ hd)).trans (run_bind_error ((run_echoed1_alone (solo_alone hs) _).trans ha))

end Wait
end Bodies

/-- Settles O37: each body's run at a tile outside a pair, where a release finds no write to mark. -/
theorem barrierInstructions : Obligations.BarrierInstructions := by
  unfold Obligations.BarrierInstructions
  intro s f t hq u die gang name hs
  have hf : u.focus = s.focus := focus_issued s
  have ht : State.tileOf u.focus = some t := by
    rcases hq with h | h
    · rw [hf, h]; rfl
    · rw [hf, h]; rfl
  refine ⟨fun h hx g hg => ?init, fun i hi h hb => ?absent, fun b hb => ⟨fun i hi h hm => ?stranger, fun h hm => ?arv, fun h hm hack => ?def_,
    fun h hd hx => ?wait⟩⟩
  case init =>
    intro k own
    have hrun := run_barinitBody hs ht hx hg (own := own) rfl
    refine ⟨fun ho => ?_, fun ho hroom => ?_⟩
    · rw [ho] at hrun
      exact issue_traps_unchanged h hrun (by decide)
    · rw [ho, if_pos rfl] at hrun
      exact issue_runs h (hrun.trans (if_pos (Bool.or_eq_true_iff.mpr (hroom.imp id decide_eq_true))))
  case absent =>
    rcases hi with rfl | rfl
    · exact issue_traps_unchanged h (run_bararvBody_none hs ht hb) (by decide)
    · exact issue_traps_unchanged h (run_bardefBody_none hs ht hb) (by decide)
  case stranger =>
    rcases hi with rfl | rfl
    · exact issue_traps_unchanged h (run_bararvBody_stranger hs ht hb hm) (by decide)
    · exact issue_traps_unchanged h (run_bardefBody_stranger hs ht hb hm) (by decide)
  case arv =>
    obtain ⟨hdie, hgang, hname⟩ := findBarrier_named hb
    refine ⟨fun ha => issue_waits h (run_bararvBody_again hs ht hb hm ha), fun ha hack => ?_⟩
    have hrun := run_bararvBody hs ht hb hm (acknowledged_iff.mp hack).1 ha
    rw [arrive, hdie, hgang, hname] at hrun
    exact issue_runs h hrun
  case def_ =>
    intro cmds
    obtain ⟨hdie, hgang, hname⟩ := findBarrier_named hb
    have hrun := run_bardefBody hs ht hb hm (acknowledged_iff.mp hack).1 (cmds := cmds) rfl
    refine ⟨fun hl ha => ?_, fun hn => ?_⟩
    · rw [if_pos (by rw [hl, ha]; rfl), arrive, hdie, hgang, hname] at hrun
      exact issue_runs h hrun
    · rw [if_neg (by rcases hn with hn | hn <;> rw [hn] <;> simp), hgang, hname] at hrun
      exact issue_runs h hrun
  case wait =>
    intro left
    have hans := run_barwaitAnswer hs ht hb hf
    refine ⟨fun hr hxl _ => ?_, fun hr hm hl => ?_, fun e hr hm hl => ⟨fun he hxl => ?_, fun he => ?_⟩⟩
    · rw [if_pos hr] at hans
      exact issue_runs h (run_barwaitBody hs hd hans hxl)
    all_goals rw [if_neg (by rw [hr]; decide), if_pos hm, hl] at hans
    · exact issue_runs h (run_barwaitBody hs hd hans hx)
    · exact issue_runs h (run_barwaitBody hs hd (hans.trans (if_pos he)) hxl)
    · have hw := issue_waits h (run_barwaitBody_stop hs hd (hans.trans (if_neg (Nat.not_lt.mpr he))))
      rw [registerWait, focus_recordWait] at hw
      exact hw

end Sys2Proof.Machine
end

section
/-! SUPPORT. The queue instructions: what each body does outside a pair where every agent sees every write, and the statement about them
(R106-R109, R170, R275, R406, R407). -/

namespace Sys2Proof.Machine

open Sys2Proof.Claims

/-! ## Ends of an instruction -/

/-- A body that raises 0x01 before it changes anything leaves the state at the issue to the trap, whatever TVAL it names. -/
theorem issue_illegalOperand {s : State} {i : Instr} {p : BitVec 3} {n : BitVec 1} {body : Exec Flow} {v : Word} (h : Ready s i p n)
    (hb : body.run (issued s) = .error (.trap 0x01 v none) (issued s)) : issue i p n body s = traps s i 0x01 (lowBits i) := by
  rw [issue_traps h hb, if_pos rfl, keepFindings_self, traps]

/-- A body that raises a cause and leaves a change behind. -/
theorem issue_changes {s t : State} {i : Instr} {p : BitVec 3} {n : BitVec 1} {body : Exec Flow} {c : Byte} {v : Word}
    {change : State → State} (h : Ready s i p n) (hb : body.run (issued s) = .error (.after c v change) t) :
    issue i p n body s = .next (raiseTrap s.focus c v none (nextPc s s.focus i) (change (keepFindings (issued s) t))) := by
  obtain ⟨hs, hd, hp⟩ := h
  simp only [issued] at hb
  simp [issue, hs, hd, hp, hb, issued]

/-! ## Queues outside a pair -/

theorem exec_qbind (f : F64A) (s : State) : exec (.qbind f) s = issue (.qbind f) f.pred f.pneg (qbindBody f) s := rfl
theorem exec_qavail (f : F64A) (s : State) : exec (.qavail f) s = issue (.qavail f) f.pred f.pneg (qavailBody f) s := rfl

/-- QADV moves the consumer counter, QPUB the producer counter. -/
theorem exec_move {i : Instr} {f : F64A} {publish : Bool} (h : (i = .qadv f ∧ publish = false) ∨ (i = .qpub f ∧ publish = true)) (s : State) :
    exec i s = issue i f.pred f.pneg (moveBody publish f) s := by
  rcases h with ⟨rfl, rfl⟩ | ⟨rfl, rfl⟩
  · rfl
  · rfl

theorem outsideChange_single {s : State} {t : Nat} (h : (s.tile t).twin ≠ .primary) (f : Tile → Tile) : outsideChange t f s = s.modTile t f :=
  if_neg h

/-- A specifier of 6 bits as a number. -/
theorem toNat_ne_47 {v : BitVec 6} (h : v ≠ 47) : v.toNat ≠ 47 := fun e => h (BitVec.eq_of_toNat_eq e)

section Bodies
variable {u : State} {f : F64A}

theorem run_useQueue_poison {r : QRef} (h : (seenQueue u r).poison = true) : (useQueue r).run u = .error (.poison 0) u := by
  simp only [useQueue, EStateM.run_bind, EStateM.run_get, h, if_true, run_consumed]

variable (hs : Solo u)
include hs

theorem passOn_calm (q : SeqId) (words : List Nat) : passOn q words u = u := modUnseen_calm hs.2.2 _

/-- A change that reaches a tile which is no pair's primary reaches it alone. -/
theorem changeTile_single {t : Nat} (ht : (u.tile t).twin ≠ .primary) (g : Tile → Tile) :
    changeTile (inPair u u.focus t) t g u = u.modTile t g := by
  rw [changeTile, inPair_alone (solo_alone hs), if_neg (by decide), outsideChange_single ht]

/-- A counter of a queue at a tile that is no pair's primary moves and wakes the tile's sequencers. -/
theorem moveCounter_tile {t base : Nat} (ht : (u.tile t).twin ≠ .primary) (g : Queue → Queue) : moveCounter (.tile t base) g u =
    latchTile t 1 (u.modTile t (fun w => { w with queues := w.queues.set base (g (w.queues.get Queue.reset base)) })) := by
  simp only [moveCounter, changeTile_single hs ht]
  rw [stateTiles, if_neg (fun h => ht h.2.2)]
  rfl

/-! ## QBIND (R106, R107, R406) -/

section Bind
variable (hm : (∀ c, u.focus ≠ .m c) ∨ f.d ≠ 47) (hx : xOk u f.a.toNat = true) {g : Word} (hg : scalarAt u 3 f.b f.imm16 = some g)

omit hs in
include hm in
/-- Handle q15 of a memory core cannot be bound (R169). -/
theorem handle_bindable : (decide (u.focus.kind ≠ .m) || decide (f.d.toNat ≠ 47)) = true := by
  rcases hm with h | h
  · cases hq : u.focus with
    | m c => exact absurd hq (h c)
    | _ => rfl
  · rw [decide_eq_true (toNat_ne_47 h), Bool.or_true]

include hm hx hg

omit hs in
/-- An address of another form than a tile's. -/
theorem run_qbindBody_form (hf : formOf ((here u).x f.a.toNat) ≠ 1) :
    (qbindBody f).run u = .error (.trap 0x04 ((here u).x f.a.toNat) none) u := by
  rw [qbindBody]
  exact (run_bind_ok (run_me u)).trans ((run_bind_ok (run_check_holds (handle_bindable hm))).trans ((run_bind_ok (run_useX hx)).trans
    ((run_bind_ok (run_useSource _ hg)).trans (run_bind_error (run_check_fails (decide_eq_false hf))))))

/-- A place that the tile may reach: the geometry, the alignment and the tile's other queues are looked at in this order. -/
theorem run_qbindBody {a : Word} (ha : (here u).x f.a.toNat = a) (hf : formOf a = 1) (hk : formOk a = true)
    (ho : shutOut u u.focus a = false) (hr : mayReach u u.focus (gtileOf u a) = true) {lz ls : Nat} (hlz : g.toNat % 16 = lz)
    (hls : g.toNat / 16 % 16 = ls) : (qbindBody f).run u =
    if (decide (g.toNat / 256 ≠ 0) || !geometryOk lz ls) = true then
      .error (.after 0x0E (BitVec.ofNat 64 f.d.toNat) (bindHandle f.d.toNat none)) u
    else if offsetOf a % 2 ^ (lz + ls) ≠ 0 then .error (.trap 0x0A a none) u
    else if (!queueFits (u.tile (gtileOf u a)).queues (offsetOf a) lz ls) = true then
      .error (.after 0x0E (BitVec.ofNat 64 f.d.toNat) (bindHandle f.d.toNat none)) u
    else .ok .fall (bindHandle f.d.toNat (some (.tile (gtileOf u a) (offsetOf a)))
      (changeTile (inPair u u.focus (gtileOf u a)) (gtileOf u a) (createQueue (offsetOf a) lz ls) u)) := by
  have hlt : offsetOf a < 2 ^ 20 := BitVec.isLt _
  have hcheck : (checkAddress a 1 1).run u = .ok () u := by
    have hrange : rangeCause a 1 = none := by
      rw [rangeCause, if_neg (by rw [hf]; decide), if_neg (by omega)]
    simp only [checkAddress, EStateM.run_bind, EStateM.run_get, run_check, hk, ho, Bool.not_false, Bool.and_self, if_true, hrange,
      Nat.mod_one, decide_true, hf, hr]
  rw [qbindBody]
  refine (run_bind_ok (run_me u)).trans ((run_bind_ok (run_check_holds (handle_bindable hm))).trans ((run_bind_ok (run_useX hx)).trans
    ((run_bind_ok (run_useSource _ hg)).trans ?_)))
  rw [ha, hlz, hls]
  refine (run_bind_ok (run_check_holds (decide_eq_true hf))).trans ((run_bind_ok hcheck).trans ((run_bind_ok (EStateM.run_get u)).trans ?_))
  rw [mirrored_solo hs]
  dsimp only
  by_cases hgeo : (decide (g.toNat / 256 ≠ 0) || !geometryOk lz ls) = true
  · rw [if_pos hgeo, if_pos hgeo]
    rfl
  rw [if_neg hgeo, if_neg hgeo]
  by_cases hb : offsetOf a % 2 ^ (lz + ls) = 0
  · rw [if_neg (not_not.mpr hb)]
    refine (run_bind_ok (run_check_holds (decide_eq_true hb))).trans ?_
    by_cases hq : (!queueFits (u.tile (gtileOf u a)).queues (offsetOf a) lz ls) = true
    · rw [if_pos hq, if_pos hq]
      rfl
    · rw [if_neg hq, if_neg hq]
      rfl
  · rw [if_pos hb]
    exact run_bind_error (run_check_fails (decide_eq_false hb))

end Bind

omit hs in
/-- The limits of a queue's geometry (R106). -/
theorem unsound_iff {g lz ls : Nat} : (decide (g / 256 ≠ 0) || !geometryOk lz ls) = true ↔
    ¬ (g < 256 ∧ 3 ≤ lz ∧ lz ≤ 12 ∧ 1 ≤ ls ∧ ls ≤ 12 ∧ lz + ls ≤ 19) := by
  simp only [geometryOk, Bool.or_eq_true, Bool.not_eq_true', Bool.and_eq_false_iff, decide_eq_true_eq, decide_eq_false_iff_not]
  omega

/-! ## QADV and QPUB (R108, R109, R407) -/

/-- The move of a counter itself: at the unit that keeps it, or by a request to the queue's tile. -/
def moveOn (q : SeqId) (r : QRef) (publish : Bool) (n : Nat) : Exec Unit :=
  match ownQueue q r, r with
  | false, .tile t base => send (.move r publish n) (.scratch t base) true false none none
  | _, _ => modify (moveCounter r (fun q => q.moved publish n))

section MoveOn
variable {t base n : Nat} {publish : Bool}

theorem run_moveOn_own (ho : ownQueue u.focus (.tile t base) = true) (ht : (u.tile t).twin ≠ .primary) :
    (moveOn u.focus (.tile t base) publish n).run u = .ok () (latchTile t 1 (u.modTile t (fun w =>
      { w with queues := w.queues.set base ((w.queues.get Queue.reset base).moved publish n) }))) := by
  simp only [moveOn, ho]
  exact (EStateM.run_modify ..).trans (congrArg _ (moveCounter_tile hs ht _))

omit hs in
theorem run_moveOn_other (ho : ownQueue u.focus (.tile t base) = false) (hout : outstanding u u.focus < 64) :
    (moveOn u.focus (.tile t base) publish n).run u =
      .ok () (sent (.move (.tile t base) publish n) (.scratch t base) true false none u) := by
  simp only [moveOn, ho]
  exact run_send _ _ _ none hout

end MoveOn

section Move
variable {publish : Bool} {t base : Nat} {b : Word} (hm : ∀ c, u.focus = .m c → f.a ≠ 47)
  (hh : (here u).handles.getD (f.a.toNat - 32) none = some (.tile t base))
include hm hh

theorem run_boundTile : (boundQueue f.a.toNat).run u = .ok (.tile t base) u :=
  run_boundQueue_solo hs (fun c hc => toNat_ne_47 (hm c hc)) hh

variable (hb : scalarAt u 3 f.b f.imm16 = some b)
include hb

theorem run_moveBody_poison (hp : (seenQueue u (.tile t base)).poison = true) : (moveBody publish f).run u = .error (.poison 0) u := by
  rw [moveBody]
  exact (run_bind_ok (run_boundTile hs hm hh)).trans ((run_bind_ok (run_useSource _ hb)).trans (run_bind_error (run_useQueue_poison hp)))

variable {q : Queue} (hq : seenQueue u (.tile t base) = q) (hp : q.poison = false)
include hq hp

theorem run_moveBody_count (hn : b.toNat = 0 ∨ q.slots < b.toNat) : (moveBody publish f).run u = .error (.trap 0x01 0 none) u := by
  subst hq
  rw [moveBody]
  refine (run_bind_ok (run_boundTile hs hm hh)).trans ((run_bind_ok (run_useSource _ hb)).trans ((run_bind_ok (run_useQueue hp)).trans
    ((run_bind_ok (EStateM.run_get u)).trans (run_bind_error (run_check_fails ?_)))))
  rw [Bool.and_eq_false_iff, decide_eq_false_iff_not, decide_eq_false_iff_not]
  omega

variable (h1 : 1 ≤ b.toNat) (hn : b.toNat ≤ q.slots)
include h1 hn

/-- A count within the slots: the slots, then the agent's accesses to them, are waited for. -/
theorem run_moveBody {ready : Nat} (hr : (if publish then q.free else q.filled) = ready) {words : List Nat}
    (hw : slotWords (.tile t base) q (if publish then q.p else q.c) b.toNat = words) : (moveBody publish f).run u =
    if b.toNat ≤ ready then
      if (!inFlight u u.focus words && !(pushedWords u u.focus).any words.contains) = true then
        (moveOn u.focus (.tile t base) publish b.toNat >>= fun _ => pure .fall).run u
      else .error (.wait .outstanding id) u
    else .error (.wait .queue id) u := by
  have hpass : (modify (passOn u.focus words) : Exec Unit).run u = .ok () u := by rw [EStateM.run_modify, passOn_calm hs]
  subst hq
  rw [moveBody]
  refine (run_bind_ok (run_boundTile hs hm hh)).trans ((run_bind_ok (run_useSource _ hb)).trans ((run_bind_ok (run_useQueue hp)).trans
    ((run_bind_ok (EStateM.run_get u)).trans ((run_bind_ok (run_check_holds ?_)).trans
      ((run_bind_ok (run_echoedQueue_alone (solo_alone hs) _)).trans ?_)))))
  · rw [decide_eq_true h1, decide_eq_true hn]; rfl
  rw [hr, hw, Bool.false_or]
  by_cases hready : b.toNat ≤ ready
  · rw [if_pos hready]
    refine (run_bind_ok (run_waitUntil_holds (decide_eq_true hready))).trans ?_
    by_cases hfree : (!inFlight u u.focus words && !(pushedWords u u.focus).any words.contains) = true
    · rw [if_pos hfree]
      refine (run_bind_ok (run_waitUntil_holds hfree)).trans ((run_bind_ok hpass).trans
        ((run_bind_ok (run_outsideQueue_alone (solo_alone hs) _)).trans ?_))
      rw [if_neg (by decide), moveOn.eq_def]
      cases ownQueue u.focus (.tile t base)
      · rfl
      · rfl
    · rw [if_neg hfree]
      exact run_bind_error (run_waitUntil_waits (Bool.eq_false_iff.mpr hfree))
  · rw [if_neg hready]
    exact run_bind_error (run_waitUntil_waits (decide_eq_false hready))

end Move

/-! ## QAVAIL (R108) -/

section Avail
variable {t base : Nat} (hm : ∀ c, u.focus = .m c → f.a ≠ 47)
  (hh : (here u).handles.getD (f.a.toNat - 32) none = some (.tile t base)) (hd : f.d.toNat < 32)
include hm hh hd

theorem run_qavailBody_poison (hp : (seenQueue u (.tile t base)).poison = true) : (qavailBody f).run u = .error (.poison 0) u := by
  rw [qavailBody]
  exact (run_bind_ok (run_queueWaits_dest _ _ hd)).trans ((run_bind_ok (run_boundTile hs hm hh)).trans
    (run_bind_error ((run_echoed1_alone (solo_alone hs) _).trans (run_bind_error (run_useQueue_poison hp)))))

theorem run_qavailBody {q : Queue} (hq : seenQueue u (.tile t base) = q) (hp : q.poison = false) (hx : xFree u f.d.toNat = true) :
    (qavailBody f).run u =
      .ok .fall (withX f.d.toNat (BitVec.ofNat 64 (if f.fn.getLsbD 0 then q.free else q.filled)) false u) := by
  subst hq
  rw [qavailBody]
  exact (run_bind_ok (run_queueWaits_dest _ _ hd)).trans ((run_bind_ok (run_boundTile hs hm hh)).trans
    ((run_bind_ok ((run_echoed1_alone (solo_alone hs) _).trans ((run_bind_ok (run_useQueue hp)).trans (EStateM.run_pure ..)))).trans
      ((run_bind_ok (run_putDest _ _ _ hd hx)).trans (EStateM.run_pure ..))))

end Avail
end Bodies

/-- Settles O36: each body's run outside a pair, where a queue's home is the tile that the handle names. -/
theorem queueInstructions : Obligations.QueueInstructions := by
  unfold Obligations.QueueInstructions
  intro s f u n hs
  refine ⟨fun h hm hx g hg => ?bind, fun t base b i publish hi h hm hh hb => ?move, fun t base h hm hh hd hx => ?avail⟩
  case bind =>
    intro a t base lz ls sound unfit
    refine ⟨fun hf => issue_traps_unchanged h (run_qbindBody_form hm hx hg hf) (by decide), fun hf hk ho hr => ?_⟩
    have hrun := run_qbindBody hs hm hx hg (a := a) rfl hf hk ho hr (lz := lz) (ls := ls) rfl rfl
    have fits : sound → ¬ (decide (g.toNat / 256 ≠ 0) || !geometryOk lz ls) = true := fun hg hb => unsound_iff.mp hb hg
    refine ⟨fun hg => issue_changes h (hrun.trans (if_pos (unsound_iff.mpr hg))), fun hg hb => ?_, fun hg hb hq => ?_, fun hg hb hq ht => ?_⟩
    · exact issue_traps_unchanged h (hrun.trans ((if_neg (fits hg)).trans (if_pos hb))) (by decide)
    · exact issue_changes h (hrun.trans ((if_neg (fits hg)).trans ((if_neg (not_not.mpr hb)).trans (if_pos (by rw [hq]; rfl)))))
    · rw [changeTile_single hs ht] at hrun
      exact issue_runs h (hrun.trans ((if_neg (fits hg)).trans ((if_neg (not_not.mpr hb)).trans (if_neg (by rw [hq]; decide)))))
  case move =>
    intro r q ready words
    refine ⟨fun hp => (exec_move hi s).trans (issue_consumes h (run_moveBody_poison hs hm hh hb hp)), fun hp hn =>
      (exec_move hi s).trans (issue_illegalOperand h (run_moveBody_count hs hm hh hb rfl hp hn)), fun hp h1 hn => ?_⟩
    have hrun := run_moveBody hs hm hh hb (publish := publish) (q := q) rfl hp h1 hn (ready := ready) rfl (words := words) rfl
    refine ⟨fun hr => ?_, fun hr hw => ?_, fun hr hf hp => ⟨fun ho ht => ?_, fun ho hout => ?_⟩⟩
    · exact (exec_move hi s).trans (issue_waits h (hrun.trans (if_neg (Nat.not_le.mpr hr))))
    · exact (exec_move hi s).trans (issue_waits h (hrun.trans ((if_pos hr).trans (if_neg (by
        rcases hw with hw | hw <;> rw [hw] <;> simp)))))
    · exact (exec_move hi s).trans (issue_runs h (hrun.trans ((if_pos hr).trans ((if_pos (by rw [hf, hp]; rfl)).trans
        ((run_bind_ok (run_moveOn_own hs ho ht)).trans (EStateM.run_pure ..))))))
    · exact (exec_move hi s).trans (issue_runs h (hrun.trans ((if_pos hr).trans ((if_pos (by rw [hf, hp]; rfl)).trans
        ((run_bind_ok (run_moveOn_other ho hout)).trans (EStateM.run_pure ..))))))
  case avail =>
    exact ⟨fun hp => issue_consumes h (run_qavailBody_poison hs hm hh hd hp),
      fun hp => issue_runs h (run_qavailBody hs hm hh hd rfl hp hx)⟩

end Sys2Proof.Machine
end

section
/-! SUPPORT. ACTON, ACTOFF, NESTCFG, NESTGO and ALIGNH: words of the own scratchpad read as a table, what each body does, and the statement
about them (R105, R112, R113, R124, R336, R395). -/

namespace Sys2Proof.Machine

open Sys2Proof.Claims

/-! ## Words of the own scratchpad -/

section Words
variable {u : State} {a : Word} {n align i m : Nat} (ha : OwnAddress u a n align) (hs : Solo u)
  (hc : Claims.cleanBytes u.mem (ownKey u a) n = true)
include ha

/-- The offset of a byte of a range. -/
theorem OwnAddress.offset_add (h : i < n) : offsetOf (a + BitVec.ofNat 64 i) = offsetOf a + i := by
  have hn := ha.fits
  have hlt : a.toNat < 2 ^ 64 := a.isLt
  simp only [offsetOf, BitVec.extractLsb'_toNat, BitVec.toNat_add, BitVec.toNat_ofNat, Nat.shiftRight_zero] at hn ⊢
  omega

theorem OwnAddress.part_free (him : i + m ≤ n) :
    inFlight u u.focus (wordsOf (Place.scratch (home u) (offsetOf a + i)).key m) = false := by
  refine inFlight_of_subset ha.calm fun w hw => ?_
  have hw : w ∈ wordsOf (scratchKey (home u) (offsetOf a + i)) m := hw
  rw [mem_wordsOf, ← scratch_add] at hw
  rw [mem_wordsOf]
  omega

/-- No earlier access of the sequencer is on its way to a part of the range. -/
theorem OwnAddress.run_partOrder (him : i + m ≤ n) : (ownOrder (.scratch (home u) (offsetOf a + i)) m).run u = .ok () u := by
  rw [ownOrder]
  refine (run_bind_ok (EStateM.run_get u)).trans ((run_bind_ok (run_waitUntil_holds (by rw [ha.part_free him]; rfl))).trans ?_)
  exact run_waitUntil_holds (by rw [ha.pushesToward]; rfl)

include hs hc

/-- A part of a clean range holds its bytes, and every agent sees them. The read is kept opaque, since the kernel would compute its keys. -/
theorem OwnAddress.run_getPart (him : i + m ≤ n) (hm : 0 < m) : (getBytes (.scratch (home u) (offsetOf a + i)) m).run u =
    .ok (marked (u.mem.bytes (ownKey u a + i) m) false) u := by
  have hn := ha.fits
  have hk : scratchKey (home u) (offsetOf a + i) = ownKey u a + i := (scratch_add ..).symm
  have hF : ∀ p g, (fetchBytes p g 0 (scratchKey (home u) (offsetOf a + i)) m).run u =
      .ok (u.mem.bytes (ownKey u a + i) m, List.replicate m false) u := fun p g => by
    rw [← hk]
    exact run_fetchClean (scratch_not_external (by omega)) (read_scratch (by omega) (by rw [hk]; exact cleanBytes_part him hc))
  have hz := zip_replicate_false (u.mem.bytes (ownKey u a + i) m) m (length_bytes ..)
  have hh : (heldAt (.scratch (home u) (offsetOf a + i)) m).run u = .ok (marked (u.mem.bytes (ownKey u a + i) m) false) u := by
    rw [← hz, heldAt]
    generalize fetchBytes = F at hF ⊢
    exact (run_bind_ok (EStateM.run_get u)).trans ((run_bind_ok (hF _ _)).trans rfl)
  rw [getBytes]
  exact (run_bind_ok hh).trans ((run_bind_ok (EStateM.run_get u)).trans
    ((run_bind_ok (run_viewNewest hs.2.2 ..)).trans (EStateM.run_pure ..)))

end Words

/-! ## A table in the own scratchpad (R395) -/

/-- The places of a table's words in the own scratchpad. -/
def ownPlaces (u : State) (a : Word) (n : Nat) : List (Word × Place) :=
  (List.range n).map (fun i => (a + BitVec.ofNat 64 (8 * i), .scratch (home u) (offsetOf a + 8 * i)))

section Table
variable {u : State} {a : Word} {n align : Nat} (ha : OwnAddress u a (8 * n) align) (hs : Solo u)
include ha hs

theorem OwnAddress.run_tablePlaces : (tablePlaces a n).run u = .ok (ownPlaces u a n) u := by
  rw [tablePlaces]
  refine run_mapM fun i hi => ?_
  have hi := List.mem_range.mp hi
  simp only [ha.form, if_true, EStateM.run_bind, EStateM.run_get, EStateM.run_pure, mirrored_solo hs, ha.gtile,
    ha.offset_add (show 8 * i < 8 * n by omega)]

variable (hc : Claims.cleanBytes u.mem (ownKey u a) (8 * n) = true)
include hc

theorem OwnAddress.run_readPlaces : (readPlaces (ownPlaces u a n)).run u =
    .ok ((List.range n).map (fun i => BitVec.ofNat 64 (wordAt u.mem (ownKey u a + 8 * i) 8))) u := by
  have hstrong : (ownPlaces u a n).any (fun p => strong p.2) = false := by
    simp only [ownPlaces, List.any_map, List.any_eq_false]
    exact fun _ _ => Bool.false_ne_true
  rw [readPlaces, if_neg (by rw [hstrong]; decide), ownPlaces, List.mapM_map]
  refine run_mapM fun i hi => ?_
  have hi := List.mem_range.mp hi
  refine (run_bind_ok (ha.run_partOrder (i := 8 * i) (by omega))).trans ((run_bind_ok (run_outsidePair_solo hs _)).trans ?_)
  rw [if_neg (by decide)]
  refine (run_bind_ok (v := marked (u.mem.bytes (ownKey u a + 8 * i) 8) false) (t := u) ?_).trans ?_
  · refine (run_bind_ok (EStateM.run_get u)).trans ?_
    simp only [ha.tile, beq_self_eq_true, if_true]
    exact ha.run_getPart hs hc (by omega) (by decide)
  · dsimp only
    rw [poisoned_marked, bytes_marked]
    rfl

end Table

/-! ## ACTON and ACTOFF (R105, R336) -/

/-- ACTON enables an actor, ACTOFF disables it. -/
theorem exec_act {i : Instr} {f : F64A} {v : Bool} (h : (i = .acton f ∧ v = true) ∨ (i = .actoff f ∧ v = false)) (s : State) :
    exec i s = issue i f.pred f.pneg (actBody v f) s := by
  rcases h with ⟨rfl, rfl⟩ | ⟨rfl, rfl⟩
  · rfl
  · rfl

section Act
variable {u : State} {f : F64A} {v : Bool}

theorem run_actBody_tile {t : Nat} (hq : u.focus = .a t ∨ u.focus = .x t) : (actBody v f).run u = .ok .fall (u.modTile t (fun w =>
    if f.imm16.getLsbD 4 then { w with x := setEnabled (f.imm16.toNat % 16) v w.x }
    else { w with a := setEnabled (f.imm16.toNat % 16) v w.a })) := by
  have hh : home u = t := hq.elim home_a home_x
  subst hh
  rw [actBody]
  refine (run_bind_ok (run_me u)).trans ?_
  rcases hq with hq | hq
  · rw [hq]
    rfl
  · rw [hq]
    rfl

variable {c : Nat} (hq : u.focus = .m c)
include hq

theorem run_actBody_core (hx : f.imm16.getLsbD 4 = false) :
    (actBody v f).run u = .ok .fall (u.modSeq (.m c) (setEnabled (f.imm16.toNat % 16) v)) := by
  rw [actBody]
  refine (run_bind_ok (run_me u)).trans ?_
  rw [← hq]
  simp only [hq]
  refine (run_bind_ok (run_check_holds (by rw [hx]; rfl))).trans ?_
  rw [← hq]
  rfl

/-- A memory core has no table for an X-seq. -/
theorem run_actBody_core_x (hx : f.imm16.getLsbD 4 = true) : (actBody v f).run u = .error (.trap 0x01 0 none) u := by
  rw [actBody]
  refine (run_bind_ok (run_me u)).trans ?_
  simp only [hq]
  exact run_bind_error (run_check_fails (by rw [hx]; rfl))

end Act

/-! ## NESTCFG and NESTGO (R112, R113, R395) -/

theorem exec_nestcfg (f : F64A) (s : State) : exec (.nestcfg f) s = issue (.nestcfg f) f.pred f.pneg (nestcfgBody (.nestcfg f) f) s := rfl
theorem exec_nestgo (f : F64A) (s : State) : exec (.nestgo f) s = issue (.nestgo f) f.pred f.pneg (nestgoBody (.nestgo f) f) s := rfl
theorem exec_alignh (f : F64A) (s : State) : exec (.alignh f) s = issue (.alignh f) f.pred f.pneg (alignhBody f) s := rfl

/-- The words of a table in memory. -/
def tableWords (m : Mem) (key n : Nat) : List Word := (List.range n).map (fun i => BitVec.ofNat 64 (wordAt m (key + 8 * i) 8))

section Nest
variable {u : State} {i : Instr} {f : F64A} (hs : Solo u)
include hs

/-- NESTCFG comes to the descriptor's limits, then to the slot's claim. -/
theorem run_nestcfgBody {a : Word} (hx : xOk u f.a.toNat = true) (hxa : (here u).x f.a.toNat = a) (ha : OwnAddress u a 64 8)
    (hc : Claims.cleanBytes u.mem (ownKey u a) 64 = true) : (nestcfgBody i f).run u =
    if nestOk (tableWords u.mem (ownKey u a) 8) then
      if ((here u).nest f.imm16.toNat).claiming.isNone then
        .ok .fall (u.modSeq u.focus (fun w => w.modNest f.imm16.toNat (fun n =>
          { n with gang := u.gangOf u.focus, nest := some (nestOf (tableWords u.mem (ownKey u a) 8)), armed := false, lo := 0, hi := 0 })))
      else .error (.wait .engine id) u
    else .error (.trap 0x01 (lowBits i) none) u := by
  have h1 : OwnAddress u a 64 1 := ⟨ha.tile, ha.ok, ha.form, ha.reached, ha.gtile, ha.fits, Nat.mod_one _, ha.calm⟩
  have hal : ¬ ((decide (a.toNat % 8 ≠ 0) && decide (formOf a = 0) && role u != Twin.twin) = true) := by
    rw [decide_eq_false (not_not.mpr ha.aligned)]
    exact Bool.false_ne_true
  have hr : (readPlaces (ownPlaces u a 8)).run u = .ok (tableWords u.mem (ownKey u a) 8) u := ha.run_readPlaces (n := 8) hs hc
  rw [nestcfgBody]
  refine (run_bind_ok (run_useX hx)).trans ?_
  rw [hxa]
  refine (run_bind_ok h1.run_checkAddress).trans ((run_bind_ok (ha.run_tablePlaces (n := 8) hs)).trans ((run_bind_ok (run_myTwin u)).trans ?_))
  rw [if_neg hal]
  refine (run_bind_ok (EStateM.run_pure ..)).trans ((run_bind_ok (run_check_holds (decide_eq_true ha.aligned))).trans ((run_bind_ok hr).trans ?_))
  generalize tableWords u.mem (ownKey u a) 8 = ws
  by_cases hn : nestOk ws = true
  · rw [if_pos hn]
    refine (run_bind_ok (run_check_holds hn)).trans ((run_bind_ok (run_mySeq u)).trans ?_)
    by_cases hcl : ((here u).nest f.imm16.toNat).claiming.isNone = true
    · rw [if_pos hcl]
      exact (run_bind_ok (run_waitUntil_holds hcl)).trans rfl
    · rw [if_neg hcl]
      exact run_bind_error (run_waitUntil_waits (Bool.eq_false_iff.mpr hcl))
  · rw [if_neg hn]
    exact run_bind_error (run_check_fails (Bool.eq_false_iff.mpr hn))

omit hs in
theorem run_nestgoBody_refuses (h : (((here u).nest (f.imm16.toNat % 4)).nest.isSome &&
    ((here u).nest (f.imm16.toNat % 4)).gang == u.gangOf u.focus) = false) :
    (nestgoBody i f).run u = .error (.trap 0x01 (lowBits i) none) u := by
  rw [nestgoBody]
  exact (run_bind_ok (run_mySeq u)).trans ((run_bind_ok (EStateM.run_get u)).trans (run_bind_error (run_check_fails h)))

theorem run_nestgoBody (h : (((here u).nest (f.imm16.toNat % 4)).nest.isSome &&
      ((here u).nest (f.imm16.toNat % 4)).gang == u.gangOf u.focus) = true)
    (hcl : (((here u).nest (f.imm16.toNat % 4)).claiming.isNone && !(here u).nests.toList.any (fun x =>
      x.actor == some (f.imm16.toNat / 4 % 16) && x.claiming.isSome)) = true) (hack : acknowledged u = true) : (nestgoBody i f).run u =
    .ok .fall (u.modSeq u.focus (bindReel u.time (f.imm16.toNat % 4) (f.imm16.toNat / 4 % 16))) := by
  rw [nestgoBody]
  exact (run_bind_ok (run_mySeq u)).trans ((run_bind_ok (EStateM.run_get u)).trans ((run_bind_ok (run_check_holds h)).trans
    ((run_bind_ok (run_waitUntil_holds hcl)).trans ((run_bind_ok (run_release hs hack)).trans rfl))))

end Nest

/-! ## ALIGNH (R124) -/

section Align
variable {u : State} {f : F64A}

/-- A wait that 256 cycles have ended. -/
theorem run_alignhBody_over {since : Nat} {g : Word × Bool} (h : (here u).wait = some ⟨.align, since, some g⟩) :
    (alignhBody f).run u = .ok .fall u := by
  rw [alignhBody]
  refine (run_bind_ok (EStateM.run_get u)).trans ?_
  rw [Claims.here] at h
  simp only [h, EStateM.run_pure]

/-- The cycle in which a wait of ALIGNH ends at the latest is noted with it. -/
def withAlignDeadline (q : SeqId) (s : State) : State :=
  s.modSeq q (fun u => { u with deadline := some (u.deadline.getD (s.cycleOf q + 256)) })

theorem run_alignhBody {q : SeqId} (hq : u.focus = q) (h : ∀ w, (u.seq q).wait = some w → w.grant = none) : (alignhBody f).run u =
    if isAhead u q f.imm16.toNat then .error (.wait .align (withAlignDeadline q)) u else .ok .fall u := by
  subst hq
  rw [alignhBody]
  refine (run_bind_ok (EStateM.run_get u)).trans ?_
  dsimp only
  split
  · next hw => cases h _ hw
  · cases isAhead u u.focus f.imm16.toNat
    · rfl
    · rfl

theorem run_alignhBody_level (h : isAhead u u.focus f.imm16.toNat = false) : (alignhBody f).run u = .ok .fall u := by
  rw [alignhBody]
  refine (run_bind_ok (EStateM.run_get u)).trans ?_
  dsimp only
  rw [h]
  split
  · rfl
  · rfl

end Align

/-- Settles O38: each body's run; a nest descriptor lies in the own scratchpad. -/
theorem actorsReelAndAlignment : Obligations.ActorsReelAndAlignment := by
  unfold Obligations.ActorsReelAndAlignment
  refine ⟨fun s i f v hi h => ?act, fun s f => ?rest⟩
  case act =>
    intro u n x enabled
    rw [exec_act hi]
    refine ⟨fun t hq => issue_runs h (run_actBody_tile hq), fun c hq hx => ?_, fun c hq hx => issue_illegalOperand h (run_actBody_core_x hq hx)⟩
    exact issue_runs h (run_actBody_core hq hx)
  intro u q hs
  refine ⟨fun h hx => ?cfg, fun h => ?go, fun h => ?align⟩
  case cfg =>
    intro a ws ha hc hp
    have hrun := run_nestcfgBody hs (i := .nestcfg f) hx rfl (ownAddress ha) hc
    refine ⟨fun hn => ?_, fun hn hcl => ?_⟩
    · exact issue_refuses h (hrun.trans (if_neg (Bool.eq_false_iff.mp hn)))
    · exact issue_runs h (hrun.trans ((if_pos hn).trans (if_pos (by rw [show (here u).nest f.imm16.toNat = q.nest f.imm16.toNat from rfl, hcl]; rfl))))
  case go =>
    intro slot n
    refine ⟨fun hr => issue_refuses h (run_nestgoBody_refuses ?_), fun hn hg hcl hb hack => issue_runs h (run_nestgoBody hs ?_ ?_ hack)⟩
    · rcases hr with hr | hr
      · rw [show ((here (issued s)).nest (f.imm16.toNat % 4)).nest = none from hr]; rfl
      · rw [beq_false_of_ne hr, Bool.and_false]
    · exact Bool.and_eq_true_iff.mpr ⟨hn, beq_iff_eq.mpr hg⟩
    · exact Bool.and_eq_true_iff.mpr ⟨Option.isNone_iff_eq_none.mpr hcl, by rw [hb]; rfl⟩
  case align =>
    have hf : u.focus = s.focus := focus_issued s
    refine ⟨fun hl => issue_runs h (run_alignhBody_level hl), fun since g hw => issue_runs h (run_alignhBody_over hw), fun ha hw => ?_⟩
    have hrun := run_alignhBody (f := f) hf (fun w hq => hw w (by rw [← hf] at hq; exact hq))
    rw [hf] at ha
    exact issue_waits h (hrun.trans (if_pos ha))

end Sys2Proof.Machine
end

section
/-! SUPPORT. FEND, SPAWN and MIGR: the end of a firing, what the departure and the landing of a gondola leave of its sequencer, and the
statement about them (R117, R118, R369, R390, R415). -/

namespace Sys2Proof.Machine

open Sys2Proof.Claims

theorem exec_fend (f : F64A) (s : State) : exec (.fend f) s = issue (.fend f) f.pred f.pneg fendBody s := rfl
theorem exec_spawn (f : F64A) (s : State) : exec (.spawn f) s = issue (.spawn f) f.pred f.pneg (spawnBody f) s := rfl
theorem exec_migr (f : F64A) (s : State) : exec (.migr f) s = issue (.migr f) f.pred f.pneg (migrBody (.migr f) f) s := rfl

/-! ## A sequencer outside a pair -/

/-- The tile of the sequencer in focus, if it has one, is in no pair (R279). -/
def Single (u : State) : Prop := ∀ t, State.tileOf u.focus = some t → (u.tile t).twin = .alone

theorem single_of_solo {u : State} (h : Solo u) : Single u := fun t ht => (h.1 t ht).1

theorem KeepsSingles.single_focus {u v : State} (h : KeepsSingles u v) (hu : Single u) : Single v :=
  fun t ht => h.single t (hu t (h.focus ▸ ht))

namespace Single
variable {u : State} (h : Single u)
include h

theorem alone : role u = .alone := by
  rw [role, memberOf]
  split
  · next t ht => rw [h t ht, ite_self]
  · rfl

theorem isPaired_false : isPaired u u.focus = false := by
  have ha := h.alone
  rw [role] at ha
  rw [isPaired, ha]
  rfl

theorem paired_false {t : Nat} (ht : State.tileOf u.focus = some t) : u.paired t = false := by rw [State.paired, h t ht]; rfl

theorem tilePaired_false : tilePaired u u.focus = false := by
  rw [tilePaired]
  split
  · next t ht => exact h.paired_false ht
  · rfl

theorem run_closeAfter : closeAfter.run u = .ok () u := by
  rw [closeAfter]
  refine (run_bind_ok (EStateM.run_get u)).trans ?_
  dsimp only
  rw [h.isPaired_false]
  cases State.tileOf u.focus <;> rfl

theorem run_closeWhenIdle (member : Bool) : (closeWhenIdle member).run u = .ok () u := by
  rw [closeWhenIdle]
  refine (run_bind_ok (EStateM.run_get u)).trans ?_
  cases ht : State.tileOf u.focus with
  | none => rfl
  | some t =>
    dsimp only
    rw [h.paired_false ht]
    rfl

theorem run_closeOnPair : closeOnPair.run u = .ok () u := by
  rw [closeOnPair]
  refine (run_bind_ok (EStateM.run_get u)).trans ?_
  rw [h.tilePaired_false]
  cases State.tileOf u.focus <;> rfl

end Single

/-! ## The end of a firing (R117, R369) -/

/-- A sequencer whose firing has ended. -/
def withoutFiring (q : SeqId) (u : State) : State :=
  u.modSeq q (fun w => { w with firing := none, wait := none, hold := none, spawned := none, xPending := 0, vPending := 0 })

/-- One live gondola fewer when the firing was a gondola's. -/
def lessLive (gondola : Bool) (g : Nat) (u : State) : State := if gondola then oneLess g u else u

theorem endFiring_single {u : State} (h : Single u) : endFiring u.focus u = withoutFiring u.focus u := by
  rw [endFiring.eq_def]
  split
  · next t ht =>
    rw [if_neg (by rw [h.paired_false (by rw [ht]; rfl)]; exact Bool.false_ne_true), ht]
    rfl
  · rfl

section Fend
variable {u v : State} {q : SeqId}

theorem KeepsSingles.lessLive (h : KeepsSingles u v) (gondola : Bool) (g : Nat) : KeepsSingles u (lessLive gondola g v) :=
  .ite (h.of_tiles rfl rfl) h

theorem KeepsSingles.withoutFiring (h : KeepsSingles u v) (q : SeqId) : KeepsSingles u (withoutFiring q v) := h.modSeq ..

/-- The firing ends once the memory core's request is given back. -/
theorem run_fendRest (hs : Single u) (hf : u.focus = q) (hi : ((firingRequests u q).isEmpty && (u.seq q).xPending == 0 && (u.seq q).vPending == 0) = true)
    (hg : giveBack.run u = .ok () v) (hk : KeepsSingles u v) {g : Nat} {gondola member : Bool} : (do
      waitUntil ((firingRequests u q).isEmpty && (u.seq q).xPending == 0 && (u.seq q).vPending == 0) .outstanding
      giveBack
      if gondola then modify (oneLess g)
      modify (endFiring q)
      closeWhenIdle member
      return .ended : Exec Flow).run u = .ok .ended (withoutFiring q (lessLive gondola g v)) := by
  have hl := hk.lessLive gondola g
  have hq : (lessLive gondola g v).focus = q := hl.focus.trans hf
  have hend : (modify (endFiring q) : Exec Unit).run (lessLive gondola g v) = .ok () (withoutFiring q (lessLive gondola g v)) := by
    rw [EStateM.run_modify, ← hq, endFiring_single (hl.single_focus hs)]
  have hrest : (do modify (endFiring q); closeWhenIdle member; return .ended : Exec Flow).run (lessLive gondola g v) =
      .ok .ended (withoutFiring q (lessLive gondola g v)) := (run_bind_ok hend).trans
    ((run_bind_ok (((hl.withoutFiring q).single_focus hs).run_closeWhenIdle member)).trans (EStateM.run_pure ..))
  refine (run_bind_ok (run_waitUntil_holds hi)).trans ((run_bind_ok hg).trans ?_)
  cases gondola
  · exact hrest
  · exact (run_bind_ok (EStateM.run_modify ..)).trans hrest

/-- A firing of a tile has no request to give back. -/
theorem run_giveBack_tile {t : Nat} (ht : State.tileOf u.focus = some t) : giveBack.run u = .ok () u := by
  rw [giveBack]
  refine (run_bind_ok (EStateM.run_get u)).trans ?_
  cases hq : u.focus with
  | m c => rw [hq] at ht; cases ht
  | _ => rfl

section Core
variable {c : Nat} (hq : u.focus = .m c)
include hq

theorem run_giveBack_none (h : (u.mcore c).taken = none) : giveBack.run u = .ok () u := by
  rw [giveBack]
  refine (run_bind_ok (EStateM.run_get u)).trans ?_
  simp only [hq, h, Option.isSome_none, Bool.false_eq_true, if_false, EStateM.run_pure]

theorem run_giveBack_served (h : (u.mcore c).taken.isSome = true) (hr : requestServed u c = true) :
    giveBack.run u = .ok () (returnRequest c u) := by
  rw [giveBack]
  refine (run_bind_ok (EStateM.run_get u)).trans ?_
  simp only [hq, h, if_true]
  exact (run_bind_ok (run_waitUntil_holds hr)).trans rfl

/-- FEND of a memory core: no engine of its own holds a record. -/
theorem run_fendBody_core (hi : ((firingRequests u u.focus).isEmpty && (here u).xPending == 0 && (here u).vPending == 0) = true)
    (hg : giveBack.run u = .ok () v) (hk : KeepsSingles u v) :
    fendBody.run u = .ok .ended (withoutFiring u.focus (lessLive (isGondola (here u)) (u.gangOf u.focus) v)) := by
  have hs : Single u := fun t ht => by rw [hq] at ht; cases ht
  rw [fendBody]
  refine (run_bind_ok (EStateM.run_get u)).trans ?_
  have ht : State.tileOf u.focus = none := by rw [hq]; rfl
  simp only [ht]
  exact (run_bind_ok (EStateM.run_pure ..)).trans (run_fendRest hs rfl hi hg hk)

end Core

section Tile
variable {t : Nat} {r : Firing} (ht : State.tileOf u.focus = some t) (hp : u.primaryOf t = t) (hr : (here u).firing = some r)
include ht hp hr

theorem run_fendBody_unpublished {c : Cmd} (hc : unpublished (u.tile t) r = some c) :
    fendBody.run u = .error (.trap 0x15 (BitVec.ofNat 64 (c.record.getD 0)) none) u := by
  rw [Claims.here] at hr
  rw [fendBody]
  refine (run_bind_ok (EStateM.run_get u)).trans ?_
  simp only [ht, hr, hp, hc]
  exact run_bind_error (run_trap ..)

variable (hc : unpublished (u.tile t) r = none)
include hc

theorem run_fendBody_waits (hi : ((firingRequests u u.focus).isEmpty && (here u).xPending == 0 && (here u).vPending == 0) = false) :
    fendBody.run u = .error (.wait .outstanding id) u := by
  rw [Claims.here] at hr
  rw [fendBody]
  refine (run_bind_ok (EStateM.run_get u)).trans ?_
  simp only [ht, hr, hp, hc]
  exact (run_bind_ok (EStateM.run_pure ..)).trans (run_bind_error (run_waitUntil_waits hi))

theorem run_fendBody_tile (hs : Single u) (hi : ((firingRequests u u.focus).isEmpty && (here u).xPending == 0 && (here u).vPending == 0) = true) :
    fendBody.run u = .ok .ended (withoutFiring u.focus (lessLive (isGondola (here u)) (u.gangOf u.focus) u)) := by
  rw [Claims.here] at hr
  rw [fendBody]
  refine (run_bind_ok (EStateM.run_get u)).trans ?_
  simp only [ht, hr, hp, hc]
  exact (run_bind_ok (EStateM.run_pure ..)).trans (run_fendRest hs rfl hi (run_giveBack_tile ht) (.refl u))

end Tile
end Fend

/-! ## A gondola sets out (R118, R313) -/

theorem seq_modTile_of {f : Tile → Tile} (ha : ∀ w, (f w).a = w.a) (hx : ∀ w, (f w).x = w.x) (s : State) (t : Nat) (q : SeqId) :
    (s.modTile t f).seq q = s.seq q := by
  have hk : ∀ k, ((s.modTile t f).tile k).a = (s.tile k).a ∧ ((s.modTile t f).tile k).x = (s.tile k).x := fun k => by
    by_cases h : k = t
    · subst h; rw [State.tile_modTile_same]; exact ⟨ha _, hx _⟩
    · rw [State.tile_modTile_other _ _ h]; exact ⟨rfl, rfl⟩
  cases q with
  | a k => exact (hk k).1
  | x k => exact (hk k).2
  | _ => rfl

section Launch
variable (x : Gondola) (s : State)

theorem differs_writeRing (w : Tile) : DiffersInFindings s (writeRing x w s) := ((DiffersInFindings.refl s).afterFindings ..).decoded _ _

theorem seq_landAtTile (t : Nat) (q : SeqId) : (landAtTile x t s).seq q = s.seq q := by
  rw [landAtTile]
  split
  · exact seq_modTile_of (by exact fun _ => rfl) (by exact fun _ => rfl) ..
  · exact (seq_modTile_of (by exact fun _ => rfl) (by exact fun _ => rfl) ..).trans ((differs_writeRing ..).seq q)

/-- A gondola that comes to a memory core's queue leaves which registers of any sequencer are pending. -/
theorem xPending_landAtCore (c : Nat) (q : SeqId) : ((landAtCore x c s).seq q).xPending = (s.seq q).xPending := by
  have hm : ((s.modMCore c (fun u => { u with arrivals := u.arrivals ++ [x] })).seq q).xPending = (s.seq q).xPending := by
    cases q with
    | m k =>
      by_cases h : k = c
      · subst h; exact (congrArg (fun w : MCore => w.m.xPending) (State.mcore_modMCore_same s k _)).trans rfl
      · exact congrArg (fun w : MCore => w.m.xPending) (State.mcore_modMCore_other _ _ h)
    | _ => rfl
  rw [landAtCore, latch]
  by_cases h : q = .m c
  · subst h; rw [State.seq_modSeq_same]; exact hm
  · rw [State.seq_modSeq_other _ _ h]; exact hm

theorem xPending_launchGondola (q : SeqId) (y : Transit) (p : SeqId) : ((launchGondola q y s).seq p).xPending = (s.seq p).xPending := by
  have hfly : ∀ l : Launch → Launch, (s.modLaunch l).seq p = s.seq p := fun l => by cases p <;> rfl
  rw [launchGondola.eq_def]
  split
  · split
    · rw [seq_landAtTile]
    · exact congrArg _ (hfly _)
  · split
    · exact xPending_landAtCore ..
    · exact congrArg _ (hfly _)
  · exact congrArg _ (hfly _)

variable {s} {u : State} (h : KeepsSingles u s)
include h

theorem KeepsSingles.landAtTile (t : Nat) : KeepsSingles u (landAtTile x t s) :=
  .ite (h.modTile _ fun _ h => h) ((h.writeBytes ..).modTile _ fun _ h => h)

theorem KeepsSingles.landAtCore (c : Nat) : KeepsSingles u (landAtCore x c s) := KeepsSingles.latch (h.of_tiles (by rfl) (by rfl)) ..

omit x in
theorem KeepsSingles.launchGondola (q : SeqId) (y : Transit) : KeepsSingles u (launchGondola q y s) := by
  rw [Machine.launchGondola.eq_def]
  have hfly : ∀ l : Launch → Launch, KeepsSingles u (s.modLaunch l) := fun l => h.of_tiles rfl rfl
  split
  · exact .ite (h.landAtTile ..) (hfly _)
  · exact .ite (h.landAtCore ..) (hfly _)
  · exact hfly _

end Launch

/-- What a gondola carries out of a calm memory marks no write. -/
theorem embark_calm {s : State} (h : s.mem.unseen = []) (number : Nat) (q : SeqId) (d : Dest) : embark number q d s = s := by
  cases d with
  | away k => exact modUnseen_calm h _
  | _ =>
    rw [embark.eq_def]
    dsimp only
    rw [markUnseen_calm h, markUnseen_calm h]

/-! ## SPAWN (R415) -/

/-- A gondola of the sequencer's gang is counted live, and takes the next number. -/
def withSpawn (d : Dest) (u : State) : State :=
  { (u.modSeq u.focus (fun w => { w with spawned := some d })).modGang (u.gangOf u.focus) (fun g => { g with live := g.live + 1 }) with
    next := u.next + 1 }

/-- A gondola of the sequencer in focus is on its way. -/
def withGondola (pc : Word) (d : Dest) (u : State) : State :=
  launchGondola u.focus (transitOf u.focus (packet (withSpawn d u) u.focus u.next pc) d (withSpawn d u))
    ((withSpawn d u).modSeq u.focus (fun w => { w with spawned := none }))

theorem keeps_withSpawn (d : Dest) (u : State) : KeepsSingles u (withSpawn d u) :=
  KeepsSingles.of_tiles ((KeepsSingles.refl u).modSeq u.focus _) (by rfl) (by rfl)

theorem keeps_withGondola (pc : Word) (d : Dest) (u : State) : KeepsSingles u (withGondola pc d u) :=
  ((keeps_withSpawn d u).modSeq ..).launchGondola ..

theorem here_withSpawn (d : Dest) (u : State) : (withSpawn d u).seq u.focus = { here u with spawned := some d } := by
  have h : ∀ (s : State) (q : SeqId) (n : Nat), ({ s with next := n } : State).seq q = s.seq q := fun s q n => by cases q <;> rfl
  rw [withSpawn, h, State.seq_modGang, State.seq_modSeq_same, Claims.here]

theorem xFree_withGondola (pc : Word) (d : Dest) (u : State) (n : Nat) : xFree (withGondola pc d u) n = xFree u n := by
  have h : (here (withGondola pc d u)).xPending = (here u).xPending := by
    rw [Claims.here, (keeps_withGondola pc d u).focus, withGondola, xPending_launchGondola, State.seq_modSeq_same, here_withSpawn]
  rw [xFree, xFree, h]

section Spawn
variable {u : State} {f : F64A} {pc : Word} {d : Dest} (hs : Solo u) (hn : (here u).spawned = none)
  {g : Gang} (hg : u.gang? (u.gangOf u.focus) = some g)

section Answer
variable {reg : BitVec 6}

include hn hg

theorem run_spawnAnswer_full (hl : g.livelim.toNat ≤ g.live) : (spawnAnswer pc d reg).run u = .ok 1 u := by
  rw [Claims.here] at hn
  rw [spawnAnswer]
  refine (run_bind_ok (EStateM.run_get u)).trans ?_
  simp only [hg, hn, hl]
  rfl

include hs

theorem run_spawnAnswer (hl : g.live < g.livelim.toNat) (hp : ((here u).xPending.extractLsb' 1 7) = 0)
    (hack : allAcknowledged u u.focus = true) (hr : roomFor u (u.gangOf u.focus) d = true) :
    (spawnAnswer pc d reg).run u = .ok 0 (withGondola pc d u) := by
  have hfresh : (countSpawn u.focus d u).fresh = (u.next, withSpawn d u) := by
    have hn' : (u.seq u.focus).spawned.isSome = false := by rw [Claims.here] at hn; rw [hn]; rfl
    have hx : ∀ s : State, s.next = u.next → s.fresh = (u.next, { s with next := u.next + 1 }) := fun s h => by rw [State.fresh, h]
    rw [countSpawn, hn', if_neg Bool.false_ne_true, hx _ (by rw [State.next_modGang, State.next_modSeq])]
    rfl
  have hwait : ∀ {c : Bool} {w : Why}, c = true → (spawnWait d c w).run u = .ok () u := fun hc => by subst hc; rfl
  have hk : KeepsSingles u ((withSpawn d u).modSeq u.focus (fun w => { w with spawned := none })) := (keeps_withSpawn d u).modSeq ..
  have hu : ((withSpawn d u).modSeq u.focus (fun w => { w with spawned := none })).mem.unseen = [] := by
    rw [State.mem_modSeq]
    exact (congrArg Mem.unseen (State.mem_modSeq ..)).trans hs.2.2
  have hnl : decide (g.livelim.toNat ≤ g.live) = false := decide_eq_false (Nat.not_le.mpr hl)
  rw [spawnAnswer]
  refine (run_bind_ok (EStateM.run_get u)).trans ?_
  simp only [hg, hnl, Bool.false_and, Bool.false_eq_true, if_false]
  refine (run_bind_ok (hwait (beq_iff_eq.mpr hp))).trans ((run_bind_ok (hwait hack)).trans ((run_bind_ok (hwait hr)).trans ?_))
  rw [hfresh]
  dsimp only
  refine (run_bind_ok (EStateM.run_set ..)).trans ((run_bind_ok (run_myTwin _)).trans ?_)
  rw [(hk.single_focus (single_of_solo hs)).alone, if_neg (by decide)]
  refine (run_bind_ok (EStateM.run_modify ..)).trans ?_
  rw [embark_calm hu]
  rfl

end Answer

variable (ha : xOk u f.a.toNat = true) (hb : xOk u f.b.toNat = true) (hpc : (here u).x f.a.toNat = pc)
include ha hb hpc

omit hs hn in
theorem run_spawnBody_misaligned (h0 : pc.toNat % 4 ≠ 0) : (spawnBody f).run u = .error (.trap 0x0A pc none) u := by
  rw [spawnBody]
  refine (run_bind_ok (run_useX ha)).trans ((run_bind_ok (run_useX hb)).trans ?_)
  rw [hpc]
  exact run_bind_error (run_check_fails (decide_eq_false h0))

variable (h0 : pc.toNat % 4 = 0) {p : Place} (hp : (gondolaPlace ((here u).x f.b.toNat)).run u = .ok p u) (hx : xFree u f.d.toNat = true)
include hs hn h0 hp hx

/-- SPAWN writes what its answer is; D is free as before. -/
theorem run_spawnBody {r : Word} {v : State} (hr : (spawnAnswer pc (destOf u p) f.d).run u = .ok r v) (hk : KeepsSingles u v)
    (hxv : xFree v f.d.toNat = true) : (spawnBody f).run u = .ok .fall (withX f.d.toNat r false v) := by
  have hans : (echoed1 (do
      match (← mySeq).spawned with
      | some to_ => spawnAnswer pc to_ f.d
      | none =>
        let p ← gondolaPlace ((here u).x f.b.toNat)
        spawnAnswer pc (destOf (← get) p) f.d)).run u = .ok r v := by
    refine (run_echoed1_alone (solo_alone hs) _).trans ((run_bind_ok (run_mySeq u)).trans ?_)
    simp only [hn]
    exact (run_bind_ok hp).trans ((run_bind_ok (EStateM.run_get u)).trans hr)
  have hwait : (!(here u).xPending.getLsbD f.d.toNat || f.d.toNat == 0) = true := by rw [Bool.or_comm]; exact hx
  have hs' := (hk.single_focus (single_of_solo hs))
  have hw : Single (withX f.d.toNat r false v) := by
    by_cases hd : f.d.toNat = 0
    · rw [hd]; exact hs'
    · rw [withX_alone _ _ hs'.alone hd]
      exact ((KeepsSingles.refl v).modSeq ..).single_focus hs'
  rw [spawnBody]
  refine (run_bind_ok (run_useX ha)).trans ((run_bind_ok (run_useX hb)).trans ?_)
  rw [hpc]
  refine (run_bind_ok (run_check_holds (decide_eq_true h0))).trans ((run_bind_ok (run_mySeq u)).trans
    ((run_bind_ok (run_waitUntil_holds hwait)).trans ((run_bind_ok hans).trans ((run_bind_ok (EStateM.run_get v)).trans
      ((run_bind_ok (run_putX _ _ hxv)).trans ?_)))))
  rw [hs'.isPaired_false, Bool.false_and, if_neg Bool.false_ne_true]
  exact (run_bind_ok hw.run_closeAfter).trans (EStateM.run_pure ..)

end Spawn

/-! ## MIGR (R390) -/

/-- The gondola of the sequencer in focus is on its way, and has left its requests behind. -/
def withDeparture (pc : Word) (d : Dest) (u : State) : State :=
  launchGondola u.focus (transitOf u.focus (packet u u.focus (u.firingOf u.focus) pc) d u) (voidRequests u.focus (u.firingOf u.focus) u)

theorem keeps_withDeparture (pc : Word) (d : Dest) (u : State) : KeepsSingles u (withDeparture pc d u) :=
  KeepsSingles.launchGondola (KeepsSingles.of_tiles (.refl u) (by rfl) (by rfl)) ..

section Migr
variable {u : State} {i : Instr} {f : F64A}

theorem run_migrBody_actor (h : isGondola (here u) = false) : (migrBody i f).run u = .error (.trap 0x01 (lowBits i) none) u := by
  rw [migrBody]
  exact (run_bind_ok (run_mySeq u)).trans (run_bind_error (run_check_fails h))

variable (hs : Solo u) (hp : ((here u).xPending.extractLsb' 1 7) = 0) (hw : writesAcknowledged u u.focus = true)
  (hg : giveBack.run u = .ok () u) {d : Dest} (hr : roomFor u (u.gangOf u.focus) d = true) {pc : Word}
include hs hp hw hg hr

theorem run_depart : (depart pc d).run u = .ok .ended (withoutFiring u.focus (withDeparture pc d u)) := by
  have hk := keeps_withDeparture pc d u
  have hgo : (modify (fun s => launchGondola u.focus (transitOf u.focus (packet s u.focus (u.firingOf u.focus) pc) d s)
      (voidRequests u.focus (u.firingOf u.focus) (embark (u.firingOf u.focus) u.focus d s))) : Exec Unit).run u =
      .ok () (withDeparture pc d u) := by
    rw [EStateM.run_modify, embark_calm hs.2.2]
    rfl
  have hend : (modify (endFiring u.focus) : Exec Unit).run (withDeparture pc d u) = .ok () (withoutFiring u.focus (withDeparture pc d u)) := by
    have he := endFiring_single (hk.single_focus (single_of_solo hs))
    rw [hk.focus] at he
    rw [EStateM.run_modify, he]
  rw [depart]
  exact (run_bind_ok (EStateM.run_get u)).trans ((run_bind_ok (run_waitUntil_holds (beq_iff_eq.mpr hp))).trans
    ((run_bind_ok (run_waitUntil_holds hw)).trans ((run_bind_ok hg).trans ((run_bind_ok (run_waitUntil_holds hr)).trans
      ((run_bind_ok hgo).trans ((run_bind_ok hend).trans (EStateM.run_pure ..)))))))

theorem run_migrBody (hgo : isGondola (here u) = true) (ha : xOk u f.a.toNat = true) (hb : xOk u f.b.toNat = true)
    (hpc : (here u).x f.a.toNat = pc) (h0 : pc.toNat % 4 = 0) {p : Place} (hpl : (gondolaPlace ((here u).x f.b.toNat)).run u = .ok p u)
    (hd : destOf u p = d) : (migrBody i f).run u = .ok .ended (withoutFiring u.focus (withDeparture pc d u)) := by
  rw [migrBody]
  refine (run_bind_ok (run_mySeq u)).trans ((run_bind_ok (run_check_holds hgo)).trans ((run_bind_ok (run_useX ha)).trans
    ((run_bind_ok (run_useX hb)).trans ?_)))
  rw [hpc]
  refine (run_bind_ok (run_check_holds (decide_eq_true h0))).trans ((run_bind_ok hpl).trans
    ((run_bind_ok (single_of_solo hs).run_closeOnPair).trans ((run_bind_ok (EStateM.run_get u)).trans ?_)))
  rw [hd]
  exact run_depart hs hp hw hg hr

end Migr

/-- The place of a scratchpad address, by steps 1 and 4 of R156. -/
theorem run_gondolaPlace {u : State} {a : Word} (h1 : formOf a = 1) (hk : formOk a = true) (ho : shutOut u u.focus a = false)
    (hr : mayReach u u.focus (gtileOf u a) = true) : (gondolaPlace a).run u = .ok (.scratch (gtileOf u a) 0) u := by
  rw [gondolaPlace]
  refine (run_bind_ok (EStateM.run_get u)).trans ?_
  rw [if_pos h1]
  exact (run_bind_ok (run_check_holds (by rw [hk, ho]; rfl))).trans ((run_bind_ok (run_check_holds hr)).trans (EStateM.run_pure ..))

/-- A firing with nothing outstanding and no pending register. -/
theorem idle_iff {u : State} : ((firingRequests u u.focus).isEmpty && (here u).xPending == 0 && (here u).vPending == 0) = true ↔
    firingRequests u u.focus = [] ∧ (here u).xPending = 0 ∧ (here u).vPending = 0 := by
  rw [Bool.and_eq_true, Bool.and_eq_true, List.isEmpty_iff, beq_iff_eq, beq_iff_eq, and_assoc]

/-- Settles O39: each body's run outside a pair, where a firing ends by clearing its sequencer and a gondola that lands at home changes
no register. -/
theorem firingsAndGondolas : Obligations.FiringsAndGondolas := by
  unfold Obligations.FiringsAndGondolas
  intro s f u q gondola idle ended oneLess hs
  have hs1 := single_of_solo hs
  refine ⟨fun h => ⟨fun t r ht hr => ?fendTile, fun c hc hi => ?fendCore⟩, fun p ha hb h0 hp => ?go, fun h1 hk ho hr => run_gondolaPlace h1 hk ho hr,
    fun h ha hb h0 => issue_traps_unchanged h (run_spawnBody_misaligned ha hb rfl h0) (by decide),
    fun h hg => issue_refuses h (run_migrBody_actor hg)⟩
  case fendTile =>
    have hpt := primaryOf_solo hs ht
    refine ⟨fun c hc => issue_traps_unchanged h (run_fendBody_unpublished ht hpt hr hc) (by decide), fun hn => ⟨fun hi => ?_, fun hi => ?_⟩⟩
    · exact issue_runs h (run_fendBody_tile ht hpt hr hn hs1 (idle_iff.mpr hi))
    · exact issue_waits h (run_fendBody_waits ht hpt hr hn (Bool.eq_false_iff.mpr fun hb => hi (idle_iff.mp hb)))
  case fendCore =>
    have hi := idle_iff.mpr hi
    refine ⟨fun hn => issue_runs h (run_fendBody_core hc hi (run_giveBack_none hc hn) (.refl u)), fun ht hr => ?_⟩
    exact issue_runs h (run_fendBody_core hc hi (run_giveBack_served hc ht hr) (KeepsSingles.of_tiles (.refl u) rfl rfl))
  case go =>
    intro pc settled room
    refine ⟨fun h hn g hg => ⟨fun hl hx => ?full, fun hl hset hack hr hx => ?sent⟩, fun h hg hset hw hr hm => ?migr⟩
    case full =>
      exact issue_runs h (run_spawnBody hs hn ha hb rfl h0 hp hx (run_spawnAnswer_full hn hg hl) (.refl u) hx)
    case sent =>
      intro counted w
      exact issue_runs h (run_spawnBody hs hn ha hb rfl h0 hp hx
        (run_spawnAnswer hs hn hg hl hset (acknowledged_iff.mp hack).1 hr) (keeps_withGondola ..) ((xFree_withGondola ..).trans hx))
    case migr =>
      have hback : giveBack.run u = .ok () u := by
        cases hq : State.tileOf u.focus with
        | some t => exact run_giveBack_tile hq
        | none =>
          rw [giveBack]
          refine (run_bind_ok (EStateM.run_get u)).trans ?_
          split
          · next c hc => simp only [hm c hc, Option.isSome_none, Bool.false_eq_true, if_false, EStateM.run_pure]
          · rfl
      exact issue_runs h (run_migrBody hs hset hw hback hr hg ha hb rfl h0 hp rfl)

end Sys2Proof.Machine
end

section
/-! SUPPORT. The life of a gang: its rendezvous, its start, its completion, its re-execution and its watchdog, each as an equation of the
gang that the subject names, and the statement about them (R135, R142, R144, R153, R155). -/

namespace Sys2Proof.Machine

open Sys2Proof.Claims

/-! ## The commit of a rendezvous (R142) -/

section Commit
variable {s : State}

theorem exec_rendezvousCommit_none (h : partNamed s s.subject = none) : exec .rendezvousCommit s = .next s := by
  change execRendezvousCommit s = _
  rw [execRendezvousCommit, h]

variable {p : Nat} {r : LaunchRecord} (h : partNamed s s.subject = some (p, r))
include h

theorem exec_rendezvousCommit : exec .rendezvousCommit s =
    if (r.spans && decide (commitTick r ≤ s.ticks)) = true then launchOutcome p s (commit p r) else .next s := by
  change execRendezvousCommit s = _
  rw [execRendezvousCommit, h]

omit h in
/-- The decision falls where the word lies, once, before anything aborts. -/
theorem run_commit {v : Nat} {here : Bool} {t : State} (hr : (readRendezvous p r).run s = .ok (v, here) t) : (commit p r).run s =
    if (here && decide (v < abortBit)) = true then
      (changeWord p 0 (r.dependence 3) (fun v => v + (if v = (r.threshold 3).toNat then goBit else abortBit))).run t
    else .ok () t := by
  rw [commit]
  refine (run_bind_ok hr).trans ?_
  dsimp only
  by_cases hc : (here && decide (v < abortBit)) = true
  · rw [if_pos hc, if_pos hc]
  · rw [if_neg hc, if_neg hc]
    rfl

omit h in
theorem launchOutcome_ok {act : Exec Unit} {t : State} (ha : act.run s = .ok () t) : launchOutcome p s act = .next t := by
  rw [launchOutcome, ha]

end Commit

/-! ## Instructions of no gang -/

section NoGang
variable {s : State} (h : s.gang? s.subject = none)
include h

theorem exec_rendezvousRead_none : exec .rendezvousRead s = .next s := by
  change execRendezvousRead s = _
  rw [execRendezvousRead, h]

theorem exec_startTick_none : exec .startTick s = .next s := by
  change execStartTick s = _
  rw [execStartTick, h]

theorem exec_rendezvousRecheck_none : exec .rendezvousRecheck s = .next s := by
  change execRendezvousRecheck s = _
  rw [execRendezvousRecheck, h]

theorem exec_gangCompletion_none (hg : s.subject < 2 ^ 64) : exec .gangCompletion s = .next s := by
  change execGangCompletion s = _
  rw [execGangCompletion, if_neg (Nat.not_le.mpr hg), h]

theorem exec_watchdogExpiry_none : exec .watchdogExpiry s = .next s := by
  change execWatchdogExpiry s = _
  rw [execWatchdogExpiry, h]

theorem exec_reexecution_none (ts : List Nat) : exec (.reexecution s.subject ts) s = .next s := by
  change execReexecution s.subject ts s = _
  rw [execReexecution, h]

end NoGang

/-! ## A gang's start (R142) -/

section Gang
variable {s : State} {u : Gang} (h : s.gang? s.subject = some u)
include h

theorem exec_rendezvousRead : exec .rendezvousRead s =
    if (decide (u.phase = .placed) && u.record.spans && u.killing.isNone && decide (s.ticks < u.record.startTick)) = true then
      .next ((rendezvousMiss u.part u.record .read s).getD (s.modGang s.subject (fun w =>
        { w with go := w.go || (rendezvousBits s u).1, abort := w.abort || (rendezvousBits s u).2 })))
    else .next s := by
  change execRendezvousRead s = _
  rw [execRendezvousRead, h]

/-- A placed part that nothing kills, before its start tick. -/
theorem exec_rendezvousRead_placed (hp : u.phase = .placed) (hk : u.killing = none) (hs : u.record.spans = true) (ht : s.ticks < u.record.startTick) :
    exec .rendezvousRead s = .next ((rendezvousMiss u.part u.record .read s).getD (s.modGang s.subject (fun w =>
      { w with go := w.go || (rendezvousBits s u).1, abort := w.abort || (rendezvousBits s u).2 }))) :=
  (exec_rendezvousRead h).trans (if_pos (by simp only [hp, hk, hs, ht]; rfl))

theorem exec_rendezvousRead_later (hp : u.phase ≠ .placed) : exec .rendezvousRead s = .next s :=
  (exec_rendezvousRead h).trans (if_neg (by rw [decide_eq_false hp]; exact Bool.false_ne_true))

theorem exec_startTick : exec .startTick s =
    if (decide (u.phase ≠ .placed) || u.killing.isSome || decide (s.ticks < u.record.startTick)) = true then .next s
    else if (if u.record.spans then u.go else u.added) = true then
      .next (s.modGang s.subject (fun w => { w with phase := .running, start := s.ticks }))
    else .next (((if u.record.spans then rendezvousMiss u.part u.record .write s else none)).getD
      (endGang s.subject 5 0 (if u.record.spans then abortParts u.part u.record s else s))) := by
  change execStartTick s = _
  rw [execStartTick, h]
  dsimp only
  cases (if u.record.spans then rendezvousMiss u.part u.record .write s else none)
  · rfl
  · rfl

theorem exec_startTick_later (hp : u.phase ≠ .placed) : exec .startTick s = .next s :=
  (exec_startTick h).trans (if_pos (by rw [decide_eq_true hp]; rfl))

theorem exec_startTick_early (ht : s.ticks < u.record.startTick) : exec .startTick s = .next s :=
  (exec_startTick h).trans (if_pos (by rw [decide_eq_true ht, Bool.or_true]))

section Due
variable (hp : u.phase = .placed) (hk : u.killing = none) (ht : u.record.startTick ≤ s.ticks)
include hp hk ht

/-- At the start tick of a placed part that nothing kills. -/
theorem exec_startTick_due : exec .startTick s =
    if (if u.record.spans then u.go else u.added) = true then
      .next (s.modGang s.subject (fun w => { w with phase := .running, start := s.ticks }))
    else .next (((if u.record.spans then rendezvousMiss u.part u.record .write s else none)).getD
      (endGang s.subject 5 0 (if u.record.spans then abortParts u.part u.record s else s))) := by
  refine (exec_startTick h).trans (if_neg ?_)
  rw [decide_eq_false (not_not.mpr hp), hk, decide_eq_false (Nat.not_lt.mpr ht)]
  exact Bool.false_ne_true

theorem exec_startTick_starts (hgo : (u.record.spans = true ∧ u.go = true) ∨ (u.record.spans = false ∧ u.added = true)) :
    exec .startTick s = .next (s.modGang s.subject (fun w => { w with phase := .running, start := s.ticks })) := by
  refine (exec_startTick_due h hp hk ht).trans (if_pos ?_)
  rcases hgo with ⟨hs, hg⟩ | ⟨hs, hg⟩
  · rw [hs, hg]; rfl
  · rw [hs, hg]; rfl

theorem exec_startTick_late (hs : u.record.spans = false) (ha : u.added = false) : exec .startTick s = .next (endGang s.subject 5 0 s) := by
  rw [exec_startTick_due h hp hk ht, hs, ha]
  rfl

/-- A part that has not seen go aborts its launch's other parts. -/
theorem exec_startTick_aborts (hs : u.record.spans = true) (hg : u.go = false) (hm : rendezvousMiss u.part u.record .write s = none) :
    exec .startTick s = .next (endGang s.subject 5 0 (abortParts u.part u.record s)) := by
  rw [exec_startTick_due h hp hk ht, hs, hg, if_pos rfl, if_pos rfl, if_pos rfl, hm]
  rfl

end Due

theorem exec_rendezvousRecheck : exec .rendezvousRecheck s =
    if (u.go && decide (u.phase ≠ .placed) && u.killing.isNone && decide (u.record.startTick + 100000 ≤ s.ticks)) = true then
      .next ((rendezvousMiss u.part u.record .read s).getD (if (rendezvousBits s u).2 then
        endGang s.subject 5 0 (s.modGang s.subject (fun w => { w with go := false })) else s.modGang s.subject (fun w => { w with go := false })))
    else .next s := by
  change execRendezvousRecheck s = _
  rw [execRendezvousRecheck, h]
  rfl

/-! ## A gang's end (R104, R135, R144) -/

section Completion
variable (hn : s.subject < 2 ^ 64)
include hn

/-- Whether children of a gang run, or stand in the pool. -/
def hasChildren (s : State) (g : Nat) : Bool := !(childrenOf s g).isEmpty || !(poolOf s g).isEmpty

omit h hn in
theorem hasChildren_iff {g : Nat} : hasChildren s g = true ↔ childrenOf s g ≠ [] ∨ poolOf s g ≠ [] := by
  simp only [hasChildren, Bool.or_eq_true, Bool.not_eq_true', List.isEmpty_eq_false_iff]

theorem exec_gangCompletion_killed {status cause : Nat} (hk : u.killing = some (status, cause)) : exec .gangCompletion s =
    if toReexecute u then .next s
    else if hasChildren s s.subject then .next ((childrenOf s s.subject).foldl (fun v c => endGang c 5 0 v) s)
    else .next (completeGang s.subject u status cause s) := by
  change execGangCompletion s = _
  rw [execGangCompletion, if_neg (Nat.not_le.mpr hn), h]
  dsimp only
  rw [hk]
  rfl

variable (hk : u.killing = none)
include hk

/-- A restartable gang that has met an error of S3 or worse. -/
theorem exec_gangCompletion_met (hm : u.met = true) : exec .gangCompletion s = .next (endGang s.subject 2 0x11 s) := by
  change execGangCompletion s = _
  rw [execGangCompletion, if_neg (Nat.not_le.mpr hn), h]
  dsimp only
  rw [hk]
  exact if_pos hm

variable (hm : u.met = false)
include hm

theorem exec_gangCompletion_running (hp : u.phase = .running) : exec .gangCompletion s =
    if gangIdle s s.subject u then .next (if hasChildren s s.subject then (releaseGang s.subject s).modGang s.subject (fun w => { w with phase := .waiting })
      else completeGang s.subject u (okStatus u) 0 ((releaseGang s.subject s).modGang s.subject (fun w => { w with phase := .waiting })))
    else .next s := by
  change execGangCompletion s = _
  rw [execGangCompletion, if_neg (Nat.not_le.mpr hn), h]
  dsimp only
  rw [hk]
  dsimp only
  rw [hm, if_neg Bool.false_ne_true, hp]
  cases gangIdle s s.subject u
  · rfl
  · rfl

theorem exec_gangCompletion_waiting (hp : u.phase = .waiting) : exec .gangCompletion s =
    .next (if hasChildren s s.subject then s else completeGang s.subject u (okStatus u) 0 s) := by
  change execGangCompletion s = _
  rw [execGangCompletion, if_neg (Nat.not_le.mpr hn), h]
  dsimp only
  rw [hk]
  dsimp only
  rw [hm, if_neg Bool.false_ne_true, hp]
  rfl

end Completion

/-! ## Re-execution (R153) -/

section Reexecution
variable (ts : List Nat)

theorem exec_reexecution_skips (hr : toReexecute u = false ∨ s.host.stopped = true) : exec (.reexecution s.subject ts) s = .next s := by
  change execReexecution s.subject ts s = _
  rw [execReexecution, h]
  refine if_pos ?_
  rcases hr with hr | hr
  · rw [hr]; rfl
  · rw [hr, Bool.or_true]

variable (hr : toReexecute u = true) (hh : s.host.stopped = false)
include hr hh

/-- The children of a gang that is to run again end first. -/
theorem exec_reexecution_children (ha : hasChildren s s.subject = true) : exec (.reexecution s.subject ts) s =
    .next ((childrenOf s s.subject).foldl (fun v c => endGang c 5 0 v) ((poolOf s s.subject).foldl (fun v k => finishRecord (.pool k) 5 0 v) s)) := by
  change execReexecution s.subject ts s = _
  rw [execReexecution, h]
  dsimp only
  rw [hr, hh]
  exact if_pos ha

variable (ha : hasChildren s s.subject = false)
include ha

/-- With no child left, the gang ends where it can never fit again. -/
theorem exec_reexecution_unfit (hf : canEverFit s u.record = false) :
    exec (.reexecution s.subject ts) s = .next (s.modGang s.subject (fun w => { w with final := true })) := by
  rw [hasChildren] at ha
  change execReexecution s.subject ts s = _
  rw [execReexecution, h]
  dsimp only
  rw [hr, hh, ha, hf]
  rfl

/-- With no child left, what is read once more decides. -/
theorem exec_reexecution_read (hf : canEverFit s u.record = true) {same : Bool} {im : Images} {w : State}
    (hw : ((readAgain s.subject u).run).run s = .ok (.ok (same, im)) w) : exec (.reexecution s.subject ts) s = .next
      (if same then (if placementOk s u.record ts then restart s.subject ts im w else s)
      else s.modGang s.subject (fun w => { w with final := true })) := by
  rw [hasChildren] at ha
  change execReexecution s.subject ts s = _
  rw [execReexecution, h]
  dsimp only
  rw [hr, hh, ha, hf, hw]
  cases same
  · rfl
  · rfl

end Reexecution

/-! ## The watchdog (R155) -/

theorem exec_watchdogExpiry_peer {status cause : Nat} (hp : peerKilled s u = some (status, cause)) :
    exec .watchdogExpiry s = .next (endGang s.subject status cause s) := by
  change execWatchdogExpiry s = _
  rw [execWatchdogExpiry, h]
  dsimp only
  rw [hp]

theorem exec_watchdogExpiry (hp : peerKilled s u = none) : exec .watchdogExpiry s = .next
    (if (partWaits s s.subject u).any (fun t => t + u.period * millisecond ≤ s.time) then endGang s.subject 3 0x13 s else s) := by
  change execWatchdogExpiry s = _
  rw [execWatchdogExpiry, h]
  dsimp only
  rw [hp]

end Gang

/-- Settles O53: the equation of each instruction for the gang that the subject names, at the conditions of each clause. -/
theorem gangLife : Obligations.GangLife := by
  unfold Obligations.GangLife
  intro s g hg
  subst hg
  refine ⟨exec_rendezvousCommit_none, fun p r hp => ⟨fun hr => ?early, fun hr ht v here t hv => ⟨fun hh => ?kept, fun hh hl w hw => ?set⟩⟩,
    fun hg => ?again, fun hn => ⟨exec_rendezvousRead_none hn, exec_startTick_none hn, exec_rendezvousRecheck_none hn, exec_gangCompletion_none hn,
      exec_watchdogExpiry_none hn, exec_reexecution_none hn⟩, fun u hu => ?gang⟩
  case early =>
    refine (exec_rendezvousCommit hp).trans (if_neg ?_)
    rcases hr with hr | hr
    · rw [hr]; exact Bool.false_ne_true
    · rw [decide_eq_false (Nat.not_le.mpr hr), Bool.and_false]; exact Bool.false_ne_true
  case kept =>
    refine (exec_rendezvousCommit hp).trans ((if_pos (by rw [hr, decide_eq_true ht]; rfl)).trans (launchOutcome_ok ((run_commit hv).trans (if_neg ?_))))
    rcases hh with hh | hh
    · rw [hh]; exact Bool.false_ne_true
    · rw [decide_eq_false (p := v < abortBit) (Nat.not_lt.mpr hh), Bool.and_false]; exact Bool.false_ne_true
  case set =>
    exact (exec_rendezvousCommit hp).trans ((if_pos (by rw [hr, decide_eq_true ht]; rfl)).trans (launchOutcome_ok ((run_commit hv).trans
      ((if_pos (by rw [hh, show decide (v < abortBit) = true from decide_eq_true hl]; rfl)).trans hw))))
  case again =>
    change execGangCompletion s = _
    exact if_pos hg
  refine ⟨fun hp hk => ?placed, fun hp => ⟨exec_startTick_later hu hp, exec_rendezvousRead_later hu hp⟩, fun hgo hp hk ht hm => ?recheck,
    fun hn => ?recheckNot, ?completion, fun status cause hp => exec_watchdogExpiry_peer hu hp, fun hp => ?watchdog⟩
  case placed =>
    refine ⟨fun hs ht => ⟨fun w hw => ?_, fun hw => ?_⟩, exec_startTick_early hu, fun ht => ⟨exec_startTick_starts hu hp hk ht,
      exec_startTick_late hu hp hk ht, exec_startTick_aborts hu hp hk ht⟩⟩
    · rw [exec_rendezvousRead_placed hu hp hk hs ht, hw]; rfl
    · rw [exec_rendezvousRead_placed hu hp hk hs ht, hw]; rfl
  case recheck =>
    intro t
    rw [exec_rendezvousRecheck hu, if_pos (by rw [hgo, decide_eq_true hp, hk, decide_eq_true ht]; rfl), hm]
    rfl
  case recheckNot =>
    refine (exec_rendezvousRecheck hu).trans (if_neg ?_)
    rcases hn with hn | hn
    · rw [hn]; exact Bool.false_ne_true
    · rw [decide_eq_false (Nat.not_le.mpr hn), Bool.and_false]; exact Bool.false_ne_true
  case completion =>
    intro children alive hn
    have hyes : alive → hasChildren s s.subject = true := hasChildren_iff.mpr
    have hno : ¬ alive → hasChildren s s.subject = false := fun h => Bool.eq_false_iff.mpr fun hc => h (hasChildren_iff.mp hc)
    refine ⟨fun status cause hk => ⟨fun hr ha => ?_, fun hr ha => ?_, fun hr => ?_⟩, exec_gangCompletion_met hu hn, fun hk hm hp => ⟨fun hi => ?_,
      fun hi => ⟨fun ha => ?_, fun ha => ?_⟩⟩, fun hk hm hp => ⟨fun ha => ?_, fun ha => ?_⟩, fun ts => ⟨exec_reexecution_skips hu ts,
        fun hr hh ha => exec_reexecution_children hu ts hr hh (hyes ha), fun hr hh ha => ⟨exec_reexecution_unfit hu ts hr hh (hno ha),
          fun im w hf hw => exec_reexecution_read hu ts hr hh (hno ha) hf hw, fun im w hf hw => ⟨fun hpl => ?_, fun hpl => ?_⟩⟩⟩⟩
    · rw [exec_gangCompletion_killed hu hn hk, hr, hyes ha]; rfl
    · rw [exec_gangCompletion_killed hu hn hk, hr, hno ha]; rfl
    · rw [exec_gangCompletion_killed hu hn hk, hr]; rfl
    · rw [exec_gangCompletion_running hu hn hk hm hp, hi]; rfl
    · rw [exec_gangCompletion_running hu hn hk hm hp, hi, hyes ha]; rfl
    · rw [exec_gangCompletion_running hu hn hk hm hp, hi, hno ha]; rfl
    · rw [exec_gangCompletion_waiting hu hn hk hm hp, hyes ha]; rfl
    · rw [exec_gangCompletion_waiting hu hn hk hm hp, hno ha]; rfl
    · rw [exec_reexecution_read hu ts hr hh (hno ha) hf hw, hpl]; rfl
    · rw [exec_reexecution_read hu ts hr hh (hno ha) hf hw, hpl]; rfl
  case watchdog =>
    intro late
    refine ⟨fun hl => ?_, fun hl => ?_⟩
    · exact (exec_watchdogExpiry hu hp).trans (congrArg Host.Outcome.next (if_pos hl))
    · exact (exec_watchdogExpiry hu hp).trans (congrArg Host.Outcome.next (if_neg (Bool.eq_false_iff.mp hl)))

end Sys2Proof.Machine
end

section
/-! SUPPORT. The selection of a sequencer's next firing: which entrant is chosen, and with what registers an actor's and a gondola's firing
begin (R101-R103, R116, R118, R312). -/

namespace Sys2Proof.Machine

open Sys2Proof.Claims

section Selection
variable {s : State} {q : SeqId} {n : Nat}

/-! ## The entrant that is chosen (R103) -/

theorem mem_reelSeqs : q ∈ reelSeqs s q := by
  rw [reelSeqs]
  split
  · exact List.mem_cons_self
  · exact List.mem_singleton_self q

/-- A twin's tile is its pair's second. -/
theorem isTwin_tile (h : isTwin s q = true) : tilePaired s q = true ∧ (s.tile ((State.tileOf q).getD 0)).twin = .twin := by
  rw [isTwin, beq_iff_eq, memberOf] at h
  cases ht : State.tileOf q with
  | none => rw [ht] at h; cases h
  | some t =>
    rw [ht] at h
    dsimp only at h
    by_cases hg : isGondola (s.seq q) = true
    · rw [if_pos hg] at h; cases h
    · rw [if_neg hg] at h
      exact ⟨by rw [tilePaired, ht]; dsimp only; rw [State.paired, h]; rfl, h⟩

theorem exec_actorSelection_firing (h : (s.seq q).firing.isSome = true) : exec (.actorSelection q) s = .next s := by
  change execActorSelection q s = _
  rw [execActorSelection]
  exact if_pos (Bool.or_eq_true_iff.mpr (.inr (List.any_eq_true.mpr ⟨q, mem_reelSeqs, h⟩)))

theorem exec_actorSelection_twin (h : isTwin s q = true) : exec (.actorSelection q) s = .next s := by
  obtain ⟨hp, ht⟩ := isTwin_tile h
  change execActorSelection q s = _
  rw [execActorSelection]
  exact if_pos (Bool.or_eq_true_iff.mpr (.inl (by rw [hp, ht]; rfl)))

theorem exec_actorSelection_none (h : selected s q = none) (hg : gondolaWaits s q = false) : exec (.actorSelection q) s = .next s := by
  change execActorSelection q s = _
  rw [execActorSelection, hg, h]
  exact ite_self _

/-- The entrant that fires is ready, and none that is ready has a higher priority. -/
theorem selected_highest (h : selected s q = some n) : entrantReady s q n = true ∧
    (∀ m, m < 17 → entrantReady s q m = true → priority (s.seq q) m ≤ priority (s.seq q) n) := by
  rw [selected] at h
  have hn := List.find?_some h
  rw [List.contains_iff_mem, List.mem_filter, List.mem_filter, beq_iff_eq] at hn
  obtain ⟨⟨-, hr⟩, hp⟩ := hn
  refine ⟨hr, fun m hm he => ?_⟩
  rw [hp, List.foldl_eq_foldr]
  exact List.le_max_of_le' 0 (List.mem_map_of_mem (List.mem_filter.mpr ⟨List.mem_range.mpr hm, he⟩)) le_rfl

/-! ## A sequencer outside a pair -/

/-- The state in which the chosen entrant's firing begins: a number is taken and the entrants have aged. -/
def aged (q : SeqId) (n : Nat) (s : State) : State := ({ s with next := s.next + 1 } : State).modSeq q (ageAll s q n)

theorem exec_actorSelection (hp : tilePaired s q = false) (hf : (s.seq q).firing = none) (h : selected s q = some n) :
    exec (.actorSelection q) s = .next (if n = 16 then fireGondola q (aged q n s) else fireActor s.next n q (aged q n s)) := by
  have hq : reelSeqs s q = [q] := by rw [reelSeqs, hp]; rfl
  have hw : gondolaWaits s q = false := by rw [gondolaWaits, atStart, hp]; simp
  change execActorSelection q s = _
  rw [execActorSelection]
  have hidle : ([q].any fun q => (s.seq q).firing.isSome) = false := by rw [List.any_cons, hf]; rfl
  simp only [hq, hp, hw, h, hidle]
  rfl

theorem mem_aged : (aged q n s).mem = s.mem := State.mem_modSeq ..

theorem seq_aged : (aged q n s).seq q = ageAll s q n (s.seq q) := by
  rw [aged, State.seq_modSeq_same]
  cases q <;> rfl

theorem entry_ageAll {k : Nat} (hn : n < 16) (u : Seq) : ((ageAll s q k u).actor n).entry = (u.actor n).entry := by
  simp [Seq.actor, ageAll, hn, Vector.getD]

/-! ## The registers at the start of a firing (R101) -/

/-- A sequencer whose firing `w` has just begun at `pc`. -/
structure Begun (pc : Word) (w : Firing) (fprm : BitVec 2) (v : Seq) : Prop where
  pc : v.pc = pc
  xs : v.xs = Vector.replicate 32 0
  xPoison : v.xPoison = 0
  vs : v.vs = Vector.replicate 32 0
  ps : v.ps = 1
  fprm : v.fprm = fprm
  firing : v.firing = some w

theorem begun_clearFiring (pc : Word) (w : Firing) (u : Seq) : Begun pc w u.fprm (clearFiring pc w u) := ⟨rfl, rfl, rfl, rfl, rfl, rfl, rfl⟩

namespace Begun
variable {pc : Word} {w : Firing} {fprm : BitVec 2} {v : Seq} (h : Begun pc w fprm v)
include h

theorem spillOf (a : Actor) : Begun pc w fprm (spillOf s q a v) := by
  rw [Machine.spillOf]
  split
  · exact ⟨h.pc, h.xs, h.xPoison, h.vs, h.ps, h.fprm, h.firing⟩
  · exact h

theorem setEnabled (b : Bool) : Begun pc w fprm (setEnabled n b v) := ⟨h.pc, h.xs, h.xPoison, h.vs, h.ps, h.fprm, h.firing⟩

theorem advanceReel (now : Nat) : Begun pc w fprm (advanceReel now n v) := by
  rw [Machine.advanceReel]
  split
  · dsimp only
    split
    · exact ⟨h.pc, h.xs, h.xPoison, h.vs, h.ps, h.fprm, h.firing⟩
    · exact h
  · exact h

theorem ite {c : Prop} [Decidable c] {v' : Seq} (h' : Begun pc w fprm v') : Begun pc w fprm (if c then v else v') := by
  split
  · exact h
  · exact h'

end Begun

/-- The gang of an actor's firing. -/
def firingGang (q : SeqId) (t : State) : Nat :=
  match State.tileOf q with
  | some k => (t.tile k).gang
  | none => 0

/-- The firing of an actor begins at the actor's entry. -/
theorem begun_fireActor (number : Nat) (n : Nat) (q : SeqId) (t : State) :
    Begun ((t.seq q).actor n).entry ⟨number, firingGang q t, false, n, []⟩ (t.seq q).fprm ((fireActor number n q t).seq q) := by
  have hb := (begun_clearFiring ((t.seq q).actor n).entry ⟨number, firingGang q t, false, n, []⟩ (t.seq q)).spillOf (s := t) (q := q)
    ((t.seq q).actor n)
  have hr := (hb.advanceReel (n := n) t.time).ite (c := ((t.seq q).actor n).reelBound = true) hb
  rw [fireActor, State.seq_modSeq_same]
  exact (hr.setEnabled (n := n) false).ite hr

/-! ## The registers at the start of a gondola's firing (R118) -/

theorem mem_modUnseen_congr {s t : State} (h : t.mem = s.mem) (f : List Unseen → List Unseen) : (t.modUnseen f).mem = (s.modUnseen f).mem := by
  rw [State.modUnseen, State.modUnseen, h]
  split
  · exact h
  · rw [State.modMem, State.modMem, h]

/-- What a gondola brings to a memory depends on the memory alone. -/
theorem mem_disembark_congr {s t : State} (h : t.mem = s.mem) (number : Nat) (q : SeqId) :
    (disembark number q t).mem = (disembark number q s).mem := mem_modUnseen_congr (mem_modUnseen_congr h _) _

section Gondola
variable {t k : Nat} {x : Gondola} {rest : List Gondola} (h : (s.tile t).arrivals = x :: rest)
include h

theorem arrivals_aged : (arrivalsOf (aged (.a t) n s) (.a t)) = x :: rest := by
  rw [arrivalsOf, aged, tile_modSeq]
  exact h

theorem mem_fireGondola : (fireGondola (.a t) (aged (.a t) n s)).mem = (disembark x.number (.a t) s).mem := by
  have hm : (takeArrival (aged (.a t) n s) (.a t)).mem = s.mem := mem_aged
  rw [fireGondola, arrivals_aged h]
  exact (State.mem_modSeq ..).trans (mem_disembark_congr hm ..)

/-- The sequencer of a tile's arrival area once its oldest gondola fires. -/
theorem seq_fireGondola : (fireGondola (.a t) (aged (.a t) n s)).seq (.a t) =
    { clearFiring x.pc ⟨x.number, x.gang, true, 16, []⟩ ((disembark x.number (.a t) (takeArrival (aged (.a t) n s) (.a t))).seq (.a t)) with
      xs := Vector.ofFn (fun i : Fin 32 => if h : 1 ≤ i.val ∧ i.val ≤ 7 then x.regs[i.val - 1] else 0)
      xPoison := x.poison.setWidth 32 <<< 1 } := by
  rw [fireGondola, arrivals_aged h]
  exact State.seq_modSeq_same ..

theorem x_fireGondola {k : Nat} (hk : k < 7) :
    ((fireGondola (.a t) (aged (.a t) n s)).seq (.a t)).x (k + 1) = x.regs.toList.getD k 0 := by
  have h32 : k + 1 < 32 := by omega
  have h17 : 1 ≤ k + 1 ∧ k + 1 ≤ 7 := by omega
  rw [seq_fireGondola h, Seq.x, if_neg (Nat.succ_ne_zero k)]
  simp [Vector.getD, List.getD, hk, h32, h17]

end Gondola

end Selection
end Sys2Proof.Machine
end

section
/-! SUPPORT. The reel's claims: when one is made, what it leaves at a counter of the own scratchpad, and the index that the reel supplies
(R112, R114). -/

namespace Sys2Proof.Machine

open Sys2Proof.Claims

section Claim
variable {s : State} {q : SeqId} {slot : Nat}

/-! ## When a claim is made (R114) -/

theorem exec_reelClaim_skips (h : ((s.seq q).nest slot).nest = none ∨ ((s.seq q).nest slot).claiming = none ∨ claimSent s q slot = true ∨
    allAcknowledged s q = false ∨ isTwin s q = true ∨ reelTrapped s q slot = true) : exec (.reelClaim q slot) s = .next s := by
  change execReelClaim q slot s = _
  rw [execReelClaim]
  dsimp only
  cases hn : ((s.seq q).nest slot).nest with
  | none => rfl
  | some d =>
    refine if_pos ?_
    simp only [Bool.or_eq_true, Bool.not_eq_true', Option.isNone_iff_eq_none]
    rcases h with h | h | h | h | h | h
    · rw [h] at hn; cases hn
    all_goals simp only [h, true_or, or_true]

variable {d : Nest}

/-- A claim of a sequencer outside a pair. -/
theorem exec_reelClaim (hn : ((s.seq q).nest slot).nest = some d) (hc : ((s.seq q).nest slot).claiming.isSome = true)
    (hs : claimSent s q slot = false) (ha : allAcknowledged s q = true) (ht : reelTrapped s q slot = false) (hp : tilePaired s q = false) :
    exec (.reelClaim q slot) s = claimOutcome false q slot d ((s.seq q).nest slot).actor s := by
  have hw : isTwin s q = false := Bool.eq_false_iff.mpr fun h => by have hq := (isTwin_tile h).1; rw [hp] at hq; cases hq
  have hc' : ((s.seq q).nest slot).claiming.isNone = false := by rw [← Option.not_isSome, hc]; rfl
  change execReelClaim q slot s = _
  rw [execReelClaim]
  simp only [hn, hc', hs, ha, ht, hw, hp]
  rfl

theorem claimOutcome_ok {own : Bool} {actor : Option Nat} {t : State} (h : (claimBy own q slot d).run { s with focus := q } = .ok () t) :
    claimOutcome own q slot d actor s = .next { t with focus := s.focus } := by
  rw [claimOutcome]
  dsimp only
  rw [h]

/-- The trap of a claim's fault, raised in `v`. -/
def claimTrap (q : SeqId) (slot : Nat) (actor : Option Nat) (code : Byte) (tval : Word) (miss : Option Access) (v : State) : Trap :=
  ⟨unitOf q, kindCode q, code, (actor.map (fun i => ((v.seq q).actor i).entry)).getD 0, tval, v.gangOf q, v.partOf q, .reel q slot, miss⟩

/-- A fault of a claim waits for delivery with the actor's entry as its address. -/
theorem claimOutcome_trap {own : Bool} {actor : Option Nat} {code : Byte} {tval : Word} {miss : Option Access} {t : State}
    (h : (claimBy own q slot d).run { s with focus := q } = .error (.trap code tval miss) t) : ∃ v, claimOutcome own q slot d actor s = .next v ∧
      v.mem = (keepFindings { s with focus := q } t).mem ∧ v.focus = s.focus ∧ ∃ x, v.launch.undelivered = s.launch.undelivered ++ [x] ∧ x.code = code ∧ x.tval = tval ∧
        x.epc = (actor.map (fun i => ((s.seq q).actor i).entry)).getD 0 := by
  rw [claimOutcome]
  dsimp only
  rw [h]
  refine ⟨_, rfl, ?_, rfl, claimTrap q slot actor code tval miss (keepFindings { s with focus := q } t), ?_, rfl, rfl, ?_⟩
  · cases miss with
    | none => rfl
    | some acc => cases q <;> rfl
  · cases miss with
    | none => rfl
    | some acc => cases q <;> rfl
  · cases q <;> rfl

/-! ## A claim at the sequencer's own unit -/

theorem claimBy_other {own : Bool} {p : Place} {u : State} (hp : (claimPlace d).run u = .ok p u) (ho : isOwn q p = false) :
    (claimBy own q slot d).run u = .ok () (sendClaim q slot d p u) := by
  rw [claimBy]
  refine (run_bind_ok hp).trans ?_
  rw [ho, if_neg Bool.false_ne_true]
  exact EStateM.run_modify ..

section Here
variable {u : State} {p : Place} (hp : strong p = false)
include hp

theorem run_syncOwn_claim {v : State} (h : v.mem.unseen = []) : (syncOwn (claimSync p) p).run v = .ok () v := by
  have hr : released v.focus 6 p.key v = v := released_calm h ..
  have ha : acquire v.focus ⟨some 6, some 6, none, false⟩ p.key v = v := acquired_calm h ..
  have hy : claimSync p = ⟨some 6, some 6, none, false⟩ := by rw [claimSync, Sync.at_, hp]; rfl
  rw [hy, syncOwn]
  refine (run_bind_ok (run_me v)).trans ((run_bind_ok (v := ()) (t := v) ?_).trans ?_)
  · rw [EStateM.run_modify, hr]
  · rw [EStateM.run_modify, ha]

/-- A claim of a counter that reads `c`: the end of the chunk that it takes is written, and every agent sees it. -/
theorem run_claimHere {bs : List Byte} (hget : (getBytes p 8).run u = .ok (marked bs false) u) {c : Nat} (hc : ofBytes bs = c)
    {after : Nat → State} (hput : ∀ hi, (putBytes p (marked (toBytes 8 hi) false)).run u = .ok () (after hi))
    (hv : ∀ hi, (after hi).mem.unseen = []) :
    (claimHere d p).run u = .ok (chunkAt d c) (((chunkAt d c).map (fun r => after r.2)).getD u) := by
  rw [claimHere, hp, if_neg Bool.false_ne_true]
  refine (run_bind_ok hget).trans ?_
  rw [poisoned_marked, if_neg Bool.false_ne_true, bytes_marked, hc]
  cases chunkAt d c with
  | none => rfl
  | some r =>
    obtain ⟨lo, hi⟩ := r
    have hkeep : (modify (keepReleases u p.key) : Exec Unit).run (after hi) = .ok () (after hi) := by
      rw [EStateM.run_modify, keepReleases, modUnseen_calm (hv hi)]
    have hnote : (noteWrite p 8).run (after hi) = .ok () (after hi) := by rw [noteWrite, EStateM.run_modify, wrote_calm (hv hi)]
    exact (run_bind_ok (EStateM.run_get u)).trans ((run_bind_ok (hput hi)).trans ((run_bind_ok hkeep).trans ((run_bind_ok hnote).trans
      ((run_bind_ok (run_syncOwn_claim hp (hv hi))).trans (EStateM.run_pure ..)))))

end Here

section Own
variable {u : State} (hs : Solo u) (ha : OwnAddress u d.counter 8 8)
include hs ha

theorem run_claimPlace_own : (claimPlace d).run u = .ok (.scratch (home u) (offsetOf d.counter)) u := by
  rw [claimPlace]
  refine (run_bind_ok ha.run_checkAddress).trans ((run_bind_ok (EStateM.run_get u)).trans ?_)
  rw [if_pos ha.form, mirrored_solo hs, ha.gtile]
  rfl

/-- A write of the own scratchpad by a sequencer outside a pair. -/
theorem run_putBytes_own (bs : List Byte) : (putBytes (.scratch (home u) (offsetOf d.counter)) (marked bs false)).run u =
    .ok () (withBytes (ownKey u d.counter) bs false u) := by
  have hw : writeScratch false (u.partOf u.focus) (u.gangOf u.focus) (home u) (offsetOf d.counter) (marked bs false) u =
      withBytes (ownKey u d.counter) bs false u := if_neg fun h => h.2 (hs.1 _ ha.tile).1
  rw [putBytes]
  refine (run_bind_ok (EStateM.run_get u)).trans ?_
  dsimp only
  rw [inPair_alone (solo_alone hs), hw]
  exact EStateM.run_set ..

/-- A claim of a counter in the own scratchpad. -/
theorem run_claimBy_own (hc : Claims.cleanBytes u.mem (ownKey u d.counter) 8 = true) {c : Nat} (hw : wordAt u.mem (ownKey u d.counter) 8 = c)
    (hq : u.focus = q) {own : Bool} : (claimBy own q slot d).run u = .ok () (giveChunk own q slot (chunkAt d c)
      (((chunkAt d c).map (fun r => withBytes (ownKey u d.counter) (toBytes 8 r.2) false u)).getD u)) := by
  have hget : (getBytes (.scratch (home u) (offsetOf d.counter)) 8).run u = .ok (marked (u.mem.bytes (ownKey u d.counter) 8) false) u := by
    have hp := ha.run_getPart (i := 0) (m := 8) hs hc (by omega) (by omega)
    rw [Nat.add_zero, Nat.add_zero] at hp
    exact hp
  have hv : ∀ hi, (withBytes (ownKey u d.counter) (toBytes 8 hi) false u).mem.unseen = [] := fun hi =>
    unseen_withBytes hs.2.2 (by rw [length_toBytes]; exact ha.fits) (by rw [length_toBytes]; exact hc)
  have hhere := run_claimHere (d := d) (p := .scratch (home u) (offsetOf d.counter)) rfl hget hw (fun hi => run_putBytes_own hs ha (toBytes 8 hi)) hv
  have hplace := run_claimPlace_own hs ha
  have ho := ha.isOwn
  subst hq
  generalize Place.scratch (home u) (offsetOf d.counter) = p at hhere hplace ho
  rw [claimBy]
  refine (run_bind_ok hplace).trans ?_
  rw [ho, if_pos rfl]
  exact (run_bind_ok hhere).trans (EStateM.run_modify ..)

end Own
end Claim

/-! ## The index that the reel supplies (R114) -/

/-- The digits of an index in the mixed radix of a nest's extents. -/
theorem indexOf_digits {d : Nest} {l : Nat} (h0 : 1 ≤ d.e0) (h1 : 1 ≤ d.e1) (h2 : 1 ≤ d.e2) (hl : l < d.total) (ht : d.total < 2 ^ 63) :
    (indexOf d l)[0].toNat < d.e0 ∧ (indexOf d l)[1].toNat < d.e1 ∧ (indexOf d l)[2].toNat < d.e2 ∧ (indexOf d l)[3].toNat < d.e3 ∧
      l = (indexOf d l)[0].toNat + d.e0 * ((indexOf d l)[1].toNat + d.e1 * ((indexOf d l)[2].toNat + d.e2 * (indexOf d l)[3].toNat)) := by
  have small : ∀ v, v ≤ l → (BitVec.ofNat 64 v).toNat = v := fun v hv => by
    rw [BitVec.toNat_ofNat]; exact Nat.mod_eq_of_lt (by omega)
  have e0 : (indexOf d l)[0].toNat = l % d.e0 := small _ (Nat.mod_le ..)
  have e1 : (indexOf d l)[1].toNat = l / d.e0 % d.e1 := small _ ((Nat.mod_le ..).trans (Nat.div_le_self ..))
  have e2 : (indexOf d l)[2].toNat = l / d.e0 / d.e1 % d.e2 := by
    rw [Nat.div_div_eq_div_mul]
    exact small _ ((Nat.mod_le ..).trans (Nat.div_le_self ..))
  have e3 : (indexOf d l)[3].toNat = l / d.e0 / d.e1 / d.e2 := by
    rw [Nat.div_div_eq_div_mul, Nat.div_div_eq_div_mul, ← Nat.mul_assoc]
    exact small _ (Nat.div_le_self ..)
  rw [e0, e1, e2, e3]
  refine ⟨Nat.mod_lt _ h0, Nat.mod_lt _ h1, Nat.mod_lt _ h2, ?_, ?_⟩
  · rw [Nat.div_div_eq_div_mul, Nat.div_div_eq_div_mul, ← Nat.mul_assoc]
    exact Nat.div_lt_of_lt_mul hl
  · rw [Nat.mod_add_div, Nat.mod_add_div, Nat.mod_add_div]

end Sys2Proof.Machine
end

section
/-! SUPPORT. The ends of ALIGNH's and WFE's waits, deferred arrivals, the arrivals of gondolas and the return from a ring, and the statement
about selections and arrivals (R118-R120, R124, R127, R167, R313, R343, R441). -/

namespace Sys2Proof.Machine

open Sys2Proof.Claims

/-! ## Deadlines (R124, R441) -/

section Timeout
variable {s : State} {q : SeqId}

theorem exec_alignhTimeout_none (h : (s.seq q).wait = none ∨ (s.seq q).deadline = none) : exec (.alignhTimeout q) s = .next s := by
  change execAlignhTimeout q s = _
  rw [execAlignhTimeout]
  rcases h with h | h
  · rw [h]
  · rw [h]
    cases (s.seq q).wait
    · rfl
    · rfl

theorem exec_wfeTimeout_none (h : (s.seq q).wait = none ∨ (s.seq q).deadline = none) : exec (.wfeTimeout q) s = .next s := by
  change execWfeTimeout q s = _
  rw [execWfeTimeout]
  rcases h with h | h
  · rw [h]
  · rw [h]
    cases (s.seq q).wait
    · rfl
    · rfl

variable {w : Wait} {d : Nat} (hw : (s.seq q).wait = some w) (hd : (s.seq q).deadline = some d)
include hw hd

theorem exec_alignhTimeout : exec (.alignhTimeout q) s = if w.why = .align ∧ d ≤ s.cycleOf q then
    .next (s.modSeq q (fun x => { x with wait := some { w with grant := some (0, false) } })) else .next s := by
  change execAlignhTimeout q s = _
  rw [execAlignhTimeout]
  rw [hw, hd]

theorem exec_wfeTimeout : exec (.wfeTimeout q) s =
    if w.why = .wfe ∧ (s.seq q).latch = 0 ∧ d ≤ s.time then .next (latch q 0x80 s) else .next s := by
  change execWfeTimeout q s = _
  rw [execWfeTimeout]
  rw [hw, hd]

end Timeout

/-! ## Deferred arrivals (R127, R343) -/

section Deferred
variable {s : State} {g k : Nat}

theorem exec_deferredArrival_none (h : (deferredOf s g)[k]? = none) : exec (.deferredArrival g k) s = .next s := by
  change execDeferredArrival g k s = _
  rw [execDeferredArrival, h]

variable {d : Deferred} (h : (deferredOf s g)[k]? = some d)
include h

theorem exec_deferredArrival_early (hr : deferredReady s d = false) : exec (.deferredArrival g k) s = .next s := by
  change execDeferredArrival g k s = _
  rw [execDeferredArrival, h]
  dsimp only
  rw [hr]
  rfl

theorem exec_deferredArrival {b : Barrier} (hr : deferredReady s d = true) (hb : findBarrier s (dieOf d.tile) d.gang d.name = some b) :
    exec (.deferredArrival g k) s = .next ((arrive d.tile b (defersDone d.gang d.tile d.name b.phase d.cmds s)).modLaunch (fun l =>
      { l with deferred := dropFirst d l.deferred })) := by
  change execDeferredArrival g k s = _
  rw [execDeferredArrival, h]
  dsimp only
  rw [hr, if_pos rfl, performDeferred, hb]

end Deferred

/-! ## Gondolas that arrive (R118-R120, R167) -/

section Arrival
variable {s : State}

theorem exec_gondolaArrival_none (h : s.launch.transit[s.subject]? = none) : exec .gondolaArrival s = .next s := by
  change execGondolaArrival s = _
  rw [execGondolaArrival, h]

theorem exec_mcGondolaArrival_none (h : s.launch.transit[s.subject]? = none) : exec .mcGondolaArrival s = .next s := by
  change execMcGondolaArrival s = _
  rw [execMcGondolaArrival, h]

/-- What a gondola's landing at a tile leaves of the module's transits. -/
theorem transit_landAtTile (x : Gondola) (t : Nat) (s : State) : (landAtTile x t s).launch.transit = s.launch.transit := by
  have hw : (writeRing x (s.tile t) s).launch.transit = s.launch.transit := by
    obtain ⟨⟨m, n, ps, gs, hv⟩, -, -⟩ := differs_writeRing x s (s.tile t)
    rw [hv]
  rw [landAtTile]
  split
  · rfl
  · exact hw

theorem landAtTile_area {x : Gondola} {t : Nat} (h : (s.tile t).ring = [] ∧ (s.tile t).arrivals.length < (s.tile t).arrcap.toNat) :
    landAtTile x t s = s.modTile t (fun u => { u with arrivals := u.arrivals ++ [x] }) := by
  rw [landAtTile]
  exact if_pos (by rw [h.1, decide_eq_true h.2]; rfl)

theorem landAtTile_ring {x : Gondola} {t : Nat} (h : ¬ ((s.tile t).ring = [] ∧ (s.tile t).arrivals.length < (s.tile t).arrcap.toNat)) :
    landAtTile x t s = (writeRing x (s.tile t) s).modTile t (intoRing x) := by
  rw [landAtTile]
  exact if_neg (by rwa [Bool.and_eq_true, List.isEmpty_iff, decide_eq_true_eq])

theorem tile_writeRing (x : Gondola) (w : Tile) (s : State) (t : Nat) : (writeRing x w s).tile t = s.tile t := by
  obtain ⟨⟨m, n, ps, gs, hv⟩, -, -⟩ := differs_writeRing x s w
  rw [hv]
  rfl

variable {x : Transit} (h : s.launch.transit[s.subject]? = some x)
include h

theorem exec_gondolaArrival_under_way (ht : x.there = false) : exec .gondolaArrival s = .next s := by
  change execGondolaArrival s = _
  rw [execGondolaArrival, h]
  dsimp only
  rw [ht]
  rfl

theorem exec_mcGondolaArrival_under_way (ht : x.there = false) : exec .mcGondolaArrival s = .next s := by
  change execMcGondolaArrival s = _
  rw [execMcGondolaArrival, h]
  dsimp only
  rw [ht]
  rfl

variable (ht : x.there = true)
include ht

theorem exec_gondolaArrival : exec .gondolaArrival s = match x.dest with
    | .tile t => .next (arriveAtTile x.gondola t (dropTransit s.subject x s))
    | .away _ => .next (dropTransit s.subject x s)
    | .core _ => .next s := by
  change execGondolaArrival s = _
  rw [execGondolaArrival, h]
  dsimp only
  rw [ht]
  rfl

theorem exec_mcGondolaArrival_other (hd : ∀ c, x.dest ≠ .core c) : exec .mcGondolaArrival s = .next s := by
  change execMcGondolaArrival s = _
  rw [execMcGondolaArrival, h]
  dsimp only
  rw [ht]
  cases hx : x.dest with
  | core c => exact absurd hx (hd c)
  | _ => rfl

section Tile
variable {t : Nat} (hd : x.dest = .tile t)
include hd

theorem exec_gondolaArrival_preempted (hp : isPreempted s x.gondola.gang = true) :
    exec .gondolaArrival s = .next (landInRing x.gondola t (dropTransit s.subject x s)) := by
  rw [exec_gondolaArrival h ht, hd]
  exact congrArg Host.Outcome.next (if_pos hp)

theorem exec_gondolaArrival_lands (hp : isPreempted s x.gondola.gang = false) :
    exec .gondolaArrival s = .next (landAtTile x.gondola t (dropTransit s.subject x s)) := by
  rw [exec_gondolaArrival h ht, hd]
  exact congrArg Host.Outcome.next (if_neg (Bool.eq_false_iff.mp hp))

end Tile

section Core
variable {c : Nat} (hd : x.dest = .core c)
include hd

theorem exec_mcGondolaArrival_parks (hp : isPreempted s x.gondola.gang = true) : exec .mcGondolaArrival s =
    .next (modSaved x.gondola.gang (fun v => { v with parked := v.parked ++ [(c, x.gondola)] }) (dropTransit s.subject x s)) := by
  change execMcGondolaArrival s = _
  rw [execMcGondolaArrival, h]
  dsimp only
  rw [ht, hd]
  exact if_pos hp

theorem exec_mcGondolaArrival (hp : isPreempted s x.gondola.gang = false) : exec .mcGondolaArrival s =
    if (decide ((s.mcore c).arrivals.length < 64) && !behindParked s s.subject c x.parked) = true then
      .next (landAtCore x.gondola c (dropTransit s.subject x s))
    else .next s := by
  change execMcGondolaArrival s = _
  rw [execMcGondolaArrival, h]
  dsimp only
  rw [ht, hd]
  exact if_neg (Bool.eq_false_iff.mp hp)

end Core
end Arrival

/-- A gondola that comes to a memory core's queue wakes the core. -/
theorem mcore_landAtCore (x : Gondola) (c : Nat) (s : State) : ((landAtCore x c s).mcore c).arrivals = (s.mcore c).arrivals ++ [x] ∧
    ((landAtCore x c s).mcore c).m.latch = (s.mcore c).m.latch ||| 64 := by
  refine ⟨?_, ?_⟩
  · rw [landAtCore, latch, State.modSeq, State.mcore_modMCore_same, State.mcore_modMCore_same]
  · rw [landAtCore, latch, State.modSeq, State.mcore_modMCore_same, State.mcore_modMCore_same]

/-! ## The return from a ring (R313) -/

section Ring
variable {s : State}

theorem exec_ringReturn_none (h : (s.tile s.subject).arrivals.all (fun x => !x.unread) = true) : exec .ringReturn s = .next s := by
  have hi : (s.tile s.subject).arrivals.findIdx? (·.unread) = none := by
    rw [List.findIdx?_eq_none_iff]
    exact fun x hx => by simpa using List.all_eq_true.mp h x hx
  change execRingReturn s = _
  rw [execRingReturn]
  dsimp only
  rw [hi]

variable {x : Gondola} {rest : List Gondola} (ha : (s.tile s.subject).arrivals = x :: rest) (hx : x.unread = true)
include ha hx

/-- The packet of the oldest gondola is read back. -/
theorem exec_ringReturn {bs : List Byte} {ps : List Bool} {v : State}
    (hf : (fetchBytes (partOfGang s x.gang) x.gang 0 (ringKey s x.gang (s.tile s.subject) ((s.tile s.subject).ringPut -
      (s.tile s.subject).ring.length - unreadIn (s.tile s.subject))) 64).run s = .ok (bs, ps) v) : exec .ringReturn s =
    if (ps.take 8).any id = true then .next (killRect (rectOf s s.subject) v)
    else .next (v.modTile s.subject (fun u => { u with arrivals := u.arrivals.set 0 (fromPacket x (bs.zip ps)) })) := by
  have hi : (s.tile s.subject).arrivals.findIdx? (·.unread) = some 0 := by rw [ha, List.findIdx?_cons, hx]; rfl
  have ho : (s.tile s.subject).arrivals.find? (·.unread) = some x := by rw [ha, List.find?_cons, hx]
  change execRingReturn s = _
  rw [execRingReturn]
  dsimp only
  rw [hi, ho]
  dsimp only
  rw [hf]

end Ring

/-- Settles O55: a selection takes a ready entrant of the highest priority, whose firing begins with cleared registers; a claim outside a
pair reads and moves the nest's counter; every other clause is the instruction's equation at the clause's conditions. -/
theorem selectionsAndArrivals : Obligations.SelectionsAndArrivals := by
  unfold Obligations.SelectionsAndArrivals
  refine ⟨fun s q => ⟨exec_actorSelection_firing, exec_actorSelection_twin, exec_actorSelection_none, fun n => selected_highest,
    fun hp hf => ⟨fun n hn h16 => ?actor, fun t x rest hq hn ha => ?gondola⟩⟩, fun s q slot => ?reel, fun s q => ?timeouts, fun s g k => ?deferred,
    fun s => ⟨fun h => ⟨exec_gondolaArrival_none h, exec_mcGondolaArrival_none h⟩, fun x h => ?arrival, ?ring⟩⟩
  case actor =>
    have hb := begun_fireActor s.next n q (aged q n s)
    rw [seq_aged, entry_ageAll h16] at hb
    refine ⟨fireActor s.next n q (aged q n s), ?_, (State.mem_modSeq ..).trans mem_aged, hb.pc, hb.xs, hb.xPoison, hb.vs, hb.ps, hb.fprm,
      _, hb.firing, rfl, rfl⟩
    rw [exec_actorSelection hp hf hn, if_neg (Nat.ne_of_lt h16)]
  case gondola =>
    subst hq
    refine ⟨fireGondola (.a t) (aged (.a t) 16 s), ?_, mem_fireGondola ha, ?_, rfl, fun k hk => x_fireGondola ha hk, ⟨x.number, x.gang, true, 16, []⟩,
      ?_, rfl, rfl, rfl⟩
    · rw [exec_actorSelection hp hf hn, if_pos rfl]
    · rw [seq_fireGondola ha]; rfl
    · rw [seq_fireGondola ha]; rfl
  case reel =>
    intro n u
    refine ⟨exec_reelClaim_skips, fun d hn hc hs ha ht hp => ⟨fun t hr => ?_, fun code tval miss t hr => ?_⟩, fun d hs ho hc => ?_,
      fun d p => claimBy_other, fun d l h0 h1 h2 _ hl ht => indexOf_digits h0 h1 h2 hl ht⟩
    · exact (exec_reelClaim hn hc hs ha ht hp).trans (claimOutcome_ok hr)
    · rw [exec_reelClaim hn hc hs ha ht hp]
      exact claimOutcome_trap hr
    · intro c left next
      have hrun := run_claimBy_own hs (ownAddress ho) hc rfl (q := q) (slot := slot) (own := false) rfl
      refine ⟨fun hl => ?_, fun hl => ?_⟩
      · rw [chunkAt, if_pos hl] at hrun
        exact hrun
      · rw [chunkAt, if_neg (Nat.not_le.mpr hl)] at hrun
        exact hrun
  case timeouts =>
    intro u
    refine ⟨fun h => ⟨exec_alignhTimeout_none h, exec_wfeTimeout_none h⟩, fun w d hw hd => ⟨fun hy ht => ?_, fun h => ?_, fun hy hl ht => ?_, fun h => ?_⟩⟩
    · exact (exec_alignhTimeout hw hd).trans (if_pos ⟨hy, ht⟩)
    · exact (exec_alignhTimeout hw hd).trans (if_neg fun hc => h.elim (· hc.1) (fun hl => absurd hc.2 (Nat.not_le.mpr hl)))
    · exact (exec_wfeTimeout hw hd).trans (if_pos ⟨hy, hl, ht⟩)
    · exact (exec_wfeTimeout hw hd).trans (if_neg fun hc => h.elim (· hc.1) fun h => h.elim (· hc.2.1) (fun hl => absurd hc.2.2 (Nat.not_le.mpr hl)))
  case deferred =>
    exact ⟨exec_deferredArrival_none, fun d h => ⟨exec_deferredArrival_early h, fun b => exec_deferredArrival h⟩⟩
  case arrival =>
    intro dropped y
    refine ⟨fun ht => ⟨exec_gondolaArrival_under_way h ht, exec_mcGondolaArrival_under_way h ht⟩, fun t ht hd => ⟨?_, fun hp => ?_, fun hp => ?_⟩,
      fun d ht hd => ?_, fun c ht hd => ⟨?_, fun hp => ?_, fun hp hn => ?_, fun hp hl hb => ?_⟩⟩
    · exact exec_mcGondolaArrival_other h ht fun c hc => by rw [hd] at hc; cases hc
    · refine ⟨_, exec_gondolaArrival_lands h ht hd hp, transit_landAtTile .., fun hr => ?_, fun hr => ?_⟩
      · rw [landAtTile_area (s := dropped) hr, State.tile_modTile_same]
        exact ⟨rfl, rfl, hr.1⟩
      · rw [landAtTile_ring (s := dropped) hr, State.tile_modTile_same, tile_writeRing]
        exact ⟨rfl, rfl, rfl⟩
    · exact exec_gondolaArrival_preempted h ht hd hp
    · rw [exec_gondolaArrival h ht, hd]
    · rw [exec_gondolaArrival h ht, hd]
    · exact exec_mcGondolaArrival_parks h ht hd hp
    · refine (exec_mcGondolaArrival h ht hd hp).trans (if_neg ?_)
      rcases hn with hn | hn
      · rw [decide_eq_false (Nat.not_lt.mpr hn)]; exact Bool.false_ne_true
      · rw [hn, Bool.not_true, Bool.and_false]; exact Bool.false_ne_true
    · exact ⟨_, (exec_mcGondolaArrival h ht hd hp).trans (if_pos (by rw [decide_eq_true hl, hb]; rfl)), rfl, rfl, mcore_landAtCore ..⟩
  case ring =>
    intro u
    refine ⟨exec_ringReturn_none, fun x rest bs ps v ha hx hf => ⟨fun hp => ?_, fun hp hv => ?_⟩⟩
    · exact (exec_ringReturn ha hx hf).trans (if_pos hp)
    · refine ⟨_, (exec_ringReturn ha hx hf).trans (if_neg (Bool.eq_false_iff.mp hp)), rfl, ?_⟩
      rw [State.tile_modTile_same, hv]
      exact congrArg (fun l : List Gondola => l.set 0 (fromPacket x (bs.zip ps))) ha

end Sys2Proof.Machine
end

section
/-! SUPPORT. The life of a launch record: the kick of its queue, its check, its dependences, its placement and its blocking, each as an
equation of the record that the source holds, and the statement about them (R132, R136-R144, R297). -/

namespace Sys2Proof.Machine

open Sys2Proof.Claims

/-! ## Records whose parent has ended (R144) -/

section Orphan
variable {s : State} {src : RecordSource} (h : orphaned s src = true)
include h

theorem exec_launchRecordCheck_orphaned : exec (.launchRecordCheck src) s = .next (finishRecord src 5 0 s) := if_pos h

theorem exec_dependencePoll_orphaned : exec (.dependencePoll src) s = .next (finishRecord src 5 0 s) := if_pos h

theorem exec_gangPlacement_orphaned (ts : List Nat) : exec (.gangPlacement src ts) s = .next (finishRecord src 5 0 s) := if_pos h

end Orphan

/-! ## What the checks of a record find (R132) -/

section Verdict
variable {s : State} {p : Nat} {child : Bool} {r : LaunchRecord}

/-- A record whose completion has no place is dropped before anything else is looked at. -/
theorem run_verdict_noCompletion (h : r.completionWord = 0 ∨ r.completionRecord = 0) : (verdict p child r).run s = .ok .drop s := by
  have hc : (decide (r.completionWord = 0) || decide (r.completionRecord = 0)) = true := by
    rw [Bool.or_eq_true]; exact h.imp decide_eq_true decide_eq_true
  rw [verdict, run_bind_ok (EStateM.run_get s), if_pos hc]
  rfl

/-- The addresses of a record that are read or waited for. -/
def namedDependences (r : LaunchRecord) : List Nat := (List.range 4).filter (fun i => r.dependence i != 0)

/-- The checks that follow once the completion can be reached, the record's own fields first. -/
def verdictOnFields (s : State) (p : Nat) (child : Bool) (r : LaunchRecord) : Exec Verdict :=
  if !recordOk s p child r then pure (.refuse 1)
  else if !saveAreaOk s r then pure (.refuse 5)
  else do
    let deps ← (namedDependences r).mapM (fun i => mapped p (r.dependence i) .read)
    let meet ← if r.spans then meetsAtPart p r else pure true
    pure (if deps.all id && meet then .fine else .refuse 8)

variable {v w : State}

theorem run_verdict_reachable (h0 : r.completionWord ≠ 0) (h1 : r.completionRecord ≠ 0)
    (hv : (mapped p r.completionWord .write).run s = .ok true v) (hw : (mapped p r.completionRecord .write).run v = .ok true w) :
    (verdict p child r).run s = (verdictOnFields s p child r).run w := by
  rw [verdict, run_bind_ok (EStateM.run_get s), if_neg (by simp only [h0, h1]; exact Bool.false_ne_true), run_bind_ok hv, run_bind_ok hw, verdictOnFields]
  cases r.spans
  · rfl
  · rfl

theorem run_verdictOnFields_badRecord (hr : recordOk s p child r = false) : (verdictOnFields s p child r).run w = .ok (.refuse 1) w := by
  rw [verdictOnFields, hr]; rfl

section Fields
variable (hr : recordOk s p child r = true)
include hr

theorem run_verdictOnFields_badSaveArea (ha : saveAreaOk s r = false) : (verdictOnFields s p child r).run w = .ok (.refuse 5) w := by
  rw [verdictOnFields, hr, ha]; rfl

variable (ha : saveAreaOk s r = true)
include ha

theorem run_verdictOnFields_noDependence (hn : namedDependences r = []) (hs : r.spans = false) :
    (verdictOnFields s p child r).run w = .ok .fine w := by
  rw [verdictOnFields, hr, ha, hn, hs]; rfl

theorem run_verdictOnFields_rendezvous {x y : State} {here : Bool} (hn : namedDependences r = [3]) (hs : r.spans = true)
    (hx : (mapped p (r.dependence 3) .read).run w = .ok true x) (hy : (meetsAtPart p r).run x = .ok here y) :
    (verdictOnFields s p child r).run w = .ok (if here then .fine else .refuse 8) y := by
  have hd : (List.mapM (fun i => mapped p (r.dependence i) .read) [3]).run w = .ok [true] x := by
    rw [List.mapM_cons, List.mapM_nil, run_bind_ok hx]; rfl
  rw [verdictOnFields, hr, ha, hn, hs]
  refine (run_bind_ok hd).trans ((run_bind_ok hy).trans ?_)
  rfl

end Fields

end Verdict

/-! ## The check of a record (R132, R136) -/

/-- What a record's checks leave: the record is checked, refused with its cause, or dropped and counted. -/
def judged (src : RecordSource) (p : Nat) (x : Verdict) (w : State) : State :=
  match x with
  | .fine => modRecord src (fun r => { r with checked := true }) w
  | .refuse cause => finishRecord src 7 cause w
  | .drop => takeRecord src (countError w p 7 1)

section Check
variable {s w : State} {p : Nat}

theorem run_judge {src : RecordSource} {child : Bool} {r : LaunchRecord} {x : Verdict} (h : (verdict p child r).run s = .ok x w) :
    (judge src p child r).run s = .ok () (judged src p x w) := by
  rw [judge, run_bind_ok h]
  cases x
  · rfl
  · rfl
  · rfl

theorem launchOutcome_poison {act : Exec Unit} {a : Word} {t : State} (h : act.run s = .error (.poison a) t) :
    launchOutcome p s act = .next (partitionFault p (keepFindings s t)) := by
  rw [launchOutcome, h]

/-- The address of the record at a queue's head. -/
def headAddress (q : LaunchQueue) : Word := q.base + BitVec.ofNat 64 (256 * (q.head.toNat % q.slots))

/-- A record as a queue holds it before its checks (R143, R145). -/
def headRecord (words : LaunchRecord) : RecState := ⟨words, false, none, false, 0, 0, 4096, 64, 24⟩

/-- The 24 words of a record's bytes. -/
def recordWords (bs : List Byte) : LaunchRecord := Vector.ofFn (fun i : Fin 24 => BitVec.ofNat 64 (numberAt bs (8 * i.val) 8))

variable {n : Nat} (hp : (s.queue n).owner.toNat = p)
include hp

theorem run_readHead_unmapped (h : (mapped p (headAddress (s.queue n)) .read).run s = .ok false w) :
    (readHead n).run s = .ok () (takeRecord (.queue n) (countError w p 7 1)) := by
  subst hp
  rw [readHead, run_bind_ok (EStateM.run_get s)]
  exact run_bind_ok h

theorem run_readHead_poison {a : Word} {t : State} (h : (mapped p (headAddress (s.queue n)) .read).run s = .ok true w)
    (hr : (ringRead p (headAddress (s.queue n)) 192).run w = .error (.poison a) t) : (readHead n).run s = .error (.poison a) t := by
  subst hp
  rw [readHead, run_bind_ok (EStateM.run_get s)]
  refine (run_bind_ok h).trans ?_
  simp only [Bool.not_true, Bool.false_eq_true, if_false]
  exact run_bind_error hr

theorem run_readHead {bs : List Byte} {t : State} (h : (mapped p (headAddress (s.queue n)) .read).run s = .ok true w)
    (hr : (ringRead p (headAddress (s.queue n)) 192).run w = .ok bs t) : (readHead n).run s =
      (judge (.queue n) p false (recordWords bs)).run (t.modQueue n (fun q => { q with record := some (headRecord (recordWords bs)) })) := by
  subst hp
  rw [readHead, run_bind_ok (EStateM.run_get s)]
  refine (run_bind_ok h).trans ((run_bind_ok hr).trans ?_)
  exact run_bind_ok (EStateM.run_modify _ _)

end Check

/-! ## The check of a record: the instruction -/

section ExecCheck
variable {s : State}

theorem exec_launchRecordCheck_queue (n : Nat) : exec (.launchRecordCheck (.queue n)) s =
    if ((s.queue n).en && (s.queue n).record.isNone && (s.queue n).head != (s.queue n).tail) = true then
      launchOutcome (s.queue n).owner.toNat s (readHead n)
    else .next s := rfl

/-- A queue that is off or empty, or whose head has been read. -/
theorem exec_launchRecordCheck_idle {n : Nat}
    (h : (s.queue n).en = false ∨ (s.queue n).head = (s.queue n).tail ∨ (s.queue n).record.isSome = true) :
    exec (.launchRecordCheck (.queue n)) s = .next s := by
  refine (exec_launchRecordCheck_queue n).trans (if_neg ?_)
  rcases h with h | h | h
  · rw [h]; exact Bool.false_ne_true
  · rw [h, bne_self_eq_false, Bool.and_false]; exact Bool.false_ne_true
  · rw [Option.isNone_eq_false_iff.mpr h, Bool.and_false]; exact Bool.false_ne_true

/-- The head of a queue that is on, not empty and not read yet. -/
theorem exec_launchRecordCheck_head {n : Nat} (he : (s.queue n).en = true) (hh : (s.queue n).head ≠ (s.queue n).tail)
    (hr : (s.queue n).record = none) :
    exec (.launchRecordCheck (.queue n)) s = launchOutcome (s.queue n).owner.toNat s (readHead n) :=
  (exec_launchRecordCheck_queue n).trans (if_pos (by rw [he, hr, bne_iff_ne.mpr hh]; rfl))

variable {k p : Nat} {r : RecState} (h0 : orphaned s (.pool k) = false) (hr : recordAt s (.pool k) = some (r, p))
include h0 hr

theorem exec_launchRecordCheck_pool : exec (.launchRecordCheck (.pool k)) s =
    if r.checked then .next s else launchOutcome p s (judge (.pool k) p true r.words) := by
  change execLaunchRecordCheck (.pool k) s = _
  rw [execLaunchRecordCheck, h0, if_neg Bool.false_ne_true, hr]

end ExecCheck

/-! ## Dependences (R138, R142) -/

section Late
variable {s : State} {src : RecordSource} {p : Nat} {r : LaunchRecord}

theorem finishLate_alone (hs : r.spans = false) : finishLate src p r s = finishRecord src 5 0 s := by
  rw [finishLate, hs]; rfl

/-- One part of several sets the abort bit of a word that it reaches. -/
theorem finishLate_part (hs : r.spans = true) (hm : rendezvousMiss p r .write s = none) :
    finishLate src p r s = finishRecord src 5 0 (abortParts p r s) := by
  rw [finishLate, hs, hm]; rfl

end Late

section Poll
variable {s : State} {src : RecordSource} (h0 : orphaned s src = false)
include h0

theorem exec_dependencePoll_none (h : recordAt s src = none) : exec (.dependencePoll src) s = .next s := by
  change execDependencePoll src s = _
  rw [execDependencePoll, h0, h]
  rfl

variable {r : RecState} {p : Nat} (hr : recordAt s src = some (r, p))
include hr

theorem exec_dependencePoll_unchecked (hc : r.checked = false) : exec (.dependencePoll src) s = .next s := by
  change execDependencePoll src s = _
  rw [execDependencePoll, h0, hr]
  dsimp only
  rw [hc]
  rfl

variable (hc : r.checked = true)
include hc

theorem exec_dependencePoll_late (hl : isLate s r.words = true) : exec (.dependencePoll src) s = .next (finishLate src p r.words s) := by
  change execDependencePoll src s = _
  rw [execDependencePoll, h0, hr]
  dsimp only
  rw [hc, hl]
  rfl

variable (hl : isLate s r.words = false)
include hl

theorem exec_dependencePoll_eligible (he : r.eligible.isSome = true) : exec (.dependencePoll src) s = .next s := by
  change execDependencePoll src s = _
  rw [execDependencePoll, h0, hr]
  dsimp only
  rw [hc, hl, he]
  rfl

variable (he : r.eligible = none)
include he

/-- The dependences of a checked record that is not eligible yet decide. -/
theorem exec_dependencePoll_met {b : Bool} {w : State} (hm : (dependencesMet (recordNumber src) p r.words).run s = .ok b w) :
    exec (.dependencePoll src) s = .next (if b then modRecord src (fun r => { r with eligible := some s.time }) w else w) := by
  change execDependencePoll src s = _
  rw [execDependencePoll, h0, hr]
  dsimp only
  rw [hc, hl, he, hm]
  cases b
  · rfl
  · rfl

theorem exec_dependencePoll_trap {code : Byte} {tval : Word} {miss : Option Access} {w : State}
    (hm : (dependencesMet (recordNumber src) p r.words).run s = .error (.trap code tval miss) w) :
    exec (.dependencePoll src) s = .next (finishRecord src 7 8 (keepFindings s w)) := by
  change execDependencePoll src s = _
  rw [execDependencePoll, h0, hr]
  dsimp only
  rw [hc, hl, he, hm]
  rfl

end Poll

/-- A record that waits for nothing meets its dependences, and acquires nothing. -/
theorem run_dependencesMet_nil {record p : Nat} {r : LaunchRecord} {s : State} (h : r.waits = []) :
    (dependencesMet record p r).run s = .ok true (observes record [] s) := by
  rw [dependencesMet, h]
  rfl

/-! ## Placement (R138-R142, R297) -/

section Placement
variable {s : State} {src : RecordSource} {tiles : List Nat}

theorem exec_recordBlocking_none (hf : (candidates s).find? (fun c => c.src == src) = none) : exec (.recordBlocking src) s = .next s := by
  change execRecordBlocking src s = _
  rw [execRecordBlocking, hf]

theorem exec_recordBlocking {c : Candidate} (hf : (candidates s).find? (fun c => c.src == src) = some c) :
    exec (.recordBlocking src) s = .next (if (decide ((c.rec_.eligible.getD s.time) + blockingAfter ≤ s.time) && !c.rec_.words.failIfBusy &&
      canEverFit s c.rec_.words && !fitsNow s c.rec_.words) = true then modRecord src (fun r => { r with blocking := true }) s else s) := by
  change execRecordBlocking src s = _
  rw [execRecordBlocking, hf]

variable (h0 : orphaned s src = false)
include h0

theorem exec_gangPlacement_stopped (h : s.host.stopped = true) : exec (.gangPlacement src tiles) s = .next s := by
  change execGangPlacement src tiles s = _
  rw [execGangPlacement, h0, h]
  rfl

theorem exec_gangPlacement_none (hf : (candidates s).find? (fun c => c.src == src) = none) :
    exec (.gangPlacement src tiles) s = .next s := by
  change execGangPlacement src tiles s = _
  rw [execGangPlacement, h0, hf]
  cases s.host.stopped
  · rfl
  · rfl

variable {c : Candidate} (hf : (candidates s).find? (fun c => c.src == src) = some c) (hh : s.host.stopped = false)
include hf hh

theorem exec_gangPlacement : exec (.gangPlacement src tiles) s =
    if isLate s c.rec_.words then .next (finishLate src c.rec_.words.part c.rec_.words s)
    else if !canEverFit s c.rec_.words then .next (finishRecord src 7 7 s)
    else if ringsNever s c.rec_.words then .next (finishRecord src 7 9 s)
    else if c.rec_.words.failIfBusy && !fitsNow s c.rec_.words then .next (finishRecord src 5 0 s)
    else if (decide ((nextRecord s).map (·.src) = some src) && placementOk s c.rec_.words tiles) = true then tryPlace c tiles s
    else .next s := by
  change execGangPlacement src tiles s = _
  rw [execGangPlacement, h0, hh, hf]
  rfl

/-- A record that is not late, fits at some time, and is not turned away for being busy waits for its turn and its tiles. -/
theorem exec_gangPlacement_inTurn (hl : isLate s c.rec_.words = false) (he : canEverFit s c.rec_.words = true)
    (hr : ringsNever s c.rec_.words = false) (hb : c.rec_.words.failIfBusy = false ∨ fitsNow s c.rec_.words = true) :
    exec (.gangPlacement src tiles) s =
      if (decide ((nextRecord s).map (·.src) = some src) && placementOk s c.rec_.words tiles) = true then tryPlace c tiles s else .next s := by
  have hbusy : (c.rec_.words.failIfBusy && !fitsNow s c.rec_.words) = false := by
    rcases hb with hb | hb
    · rw [hb, Bool.false_and]
    · rw [hb, Bool.not_true, Bool.and_false]
  rw [exec_gangPlacement h0 hf hh, hl, he, hr, hbusy]
  rfl

end Placement

section Place
variable {s w : State} {c : Candidate} {tiles : List Nat}

theorem tryPlace_refuses {cause : Nat} (h : ((readLaunch s.next c.rec_.words).run).run { s with next := s.next + 1 } = .ok (.error cause) w) :
    tryPlace c tiles s = .next (finishRecord c.src 7 cause w) := by
  rw [tryPlace, State.fresh]
  dsimp only
  rw [h]

theorem tryPlace_places {im : Images} {ds : List (BitVec 512)}
    (h : ((readLaunch s.next c.rec_.words).run).run { s with next := s.next + 1 } = .ok (.ok (im, ds)) w)
    (hm : c.rec_.words.spans = true → rendezvousMiss c.rec_.words.part c.rec_.words .write s = none) :
    tryPlace c tiles s = .next (placeGang s.next c tiles im ds w) := by
  have hnone : (if c.rec_.words.spans then rendezvousMiss c.rec_.words.part c.rec_.words .write s else none) = none := by
    cases hs : c.rec_.words.spans
    · rfl
    · exact hm hs
  rw [tryPlace, State.fresh]
  dsimp only
  rw [h]
  dsimp only
  rw [hnone]

end Place

/-- Settles O52: each clause is the record's equation under its conditions. -/
theorem recordsAndPlacement : Obligations.RecordsAndPlacement := by
  unfold Obligations.RecordsAndPlacement
  refine ⟨fun s n tail => rfl, fun s src h => ⟨exec_launchRecordCheck_orphaned h, exec_dependencePoll_orphaned h, exec_gangPlacement_orphaned h⟩,
    fun s n => ?head, fun s k p r h0 hr => ?pool, fun s p child r => ?verdict, fun s src h0 => ?poll, fun s src tiles h0 => ?place⟩
  case head =>
    intro q p a
    refine ⟨exec_launchRecordCheck_idle, fun he hh hr => ⟨fun w hw => ?_, fun w bs t hw hb => ?_, fun at_ w t hw hb => ?_⟩⟩
    · exact (exec_launchRecordCheck_head he hh hr).trans (launchOutcome_ok (run_readHead_unmapped rfl hw))
    · intro words v r w hv
      rw [exec_launchRecordCheck_head he hh hr, launchOutcome_ok ((run_readHead rfl hw hb).trans (run_judge hv))]
      cases r
      · rfl
      · rfl
      · rfl
    · exact (exec_launchRecordCheck_head he hh hr).trans (launchOutcome_poison (run_readHead_poison rfl hw hb))
  case pool =>
    refine ⟨fun hc => ?_, fun hc x w hx => ?_⟩
    · rw [exec_launchRecordCheck_pool h0 hr, if_pos hc]
    · rw [exec_launchRecordCheck_pool h0 hr, hc, if_neg Bool.false_ne_true, launchOutcome_ok (run_judge hx)]
      cases x
      · rfl
      · rfl
      · rfl
  case verdict =>
    refine ⟨run_verdict_noCompletion, fun v w h0 h1 hv hw => ?_⟩
    intro named
    have hrun := run_verdict_reachable (child := child) h0 h1 hv hw
    exact ⟨fun hr => hrun.trans (run_verdictOnFields_badRecord hr), fun hr ha => hrun.trans (run_verdictOnFields_badSaveArea hr ha),
      fun hr ha hn hs => hrun.trans (run_verdictOnFields_noDependence hr ha hn hs),
      fun x y here hr ha hn hs hx hy => hrun.trans (run_verdictOnFields_rendezvous hr ha hn hs hx hy)⟩
  case poll =>
    refine ⟨exec_dependencePoll_none h0, fun r p hr => ⟨exec_dependencePoll_unchecked h0 hr, fun hc hl => ⟨fun hs => ?_, fun hs hm => ?_⟩,
      fun hc hl he => exec_dependencePoll_eligible h0 hr hc hl he, fun hc hl he => ?_⟩⟩
    · rw [exec_dependencePoll_late h0 hr hc hl, finishLate_alone hs]
    · rw [exec_dependencePoll_late h0 hr hc hl, finishLate_part hs hm]
    · intro met
      exact ⟨fun w hm => exec_dependencePoll_met h0 hr hc hl he hm, fun w hm => exec_dependencePoll_met h0 hr hc hl he hm,
        fun code tval miss w hm => exec_dependencePoll_trap h0 hr hc hl he hm, run_dependencesMet_nil⟩
  case place =>
    intro found
    refine ⟨exec_gangPlacement_stopped h0, fun hn => ⟨exec_gangPlacement_none h0 hn, exec_recordBlocking_none hn⟩, fun c hf hh => ?_⟩
    intro r
    have hexec := exec_gangPlacement (tiles := tiles) h0 hf hh
    refine ⟨fun hl => ?late, fun hl => ?inTime, ?blocking⟩
    case late =>
      rw [hexec, if_pos hl]
      exact ⟨fun hs => congrArg Host.Outcome.next (finishLate_alone hs), fun hs hm => congrArg Host.Outcome.next (finishLate_part hs hm)⟩
    case inTime =>
      refine ⟨fun he => ?_, fun he hr => ?_, fun he hr hb hn => ?_, fun he hr hb => ?_⟩
      · rw [hexec, hl, he]; rfl
      · rw [hexec, hl, he, hr]; rfl
      · rw [hexec, hl, he, hr, hb, hn]; rfl
      intro mine
      have hturn := exec_gangPlacement_inTurn (tiles := tiles) h0 hf hh hl he hr hb
      rw [hturn]
      simp only [Bool.and_eq_true, decide_eq_true_eq]
      refine ⟨fun hm => if_neg hm, fun hm w => ?_⟩
      rw [if_pos hm]
      exact ⟨fun cause => tryPlace_refuses, fun im ds => tryPlace_places⟩
    case blocking =>
      rw [exec_recordBlocking hf]
      simp only [Bool.and_eq_true, decide_eq_true_eq, Bool.not_eq_true', and_assoc]
      rfl

end Sys2Proof.Machine
end

section
/-! SUPPORT. The end of a gang and its pre-emption: what the release of a gang leaves of the tiles and of the table of gangs, what an end
says of the gang and of its children, and the equations of PREEMPT and PREEMPT_RESUME (R134, R144, R146-R150, R278). -/

namespace Sys2Proof.Machine

open Sys2Proof.Claims

/-! ## The release of a gang (R149, R278) -/

/-- The table of gangs is as before, and a tile holds the gang that it held or none. -/
structure Frees (s t : State) : Prop where
  gangs : t.launch.gangs = s.launch.gangs
  tile : ∀ k, (t.tile k).gang = 0 ∨ (t.tile k).gang = (s.tile k).gang

namespace Frees

theorem refl (s : State) : Frees s s := ⟨rfl, fun _ => .inr rfl⟩

section Steps
variable {s t u : State} (h : Frees s t)
include h

theorem gang? (g : Nat) : t.gang? g = s.gang? g := by rw [State.gang?, h.gangs]; rfl

/-- A tile that holds a gang or none holds it or none. -/
theorem holds {k c : Nat} (hc : (s.tile k).gang = 0 ∨ (s.tile k).gang = c) : (t.tile k).gang = 0 ∨ (t.tile k).gang = c := by
  rcases h.tile k with h0 | hs
  · exact .inl h0
  · rw [hs]; exact hc

theorem free {k : Nat} (hk : (s.tile k).gang = 0) : (t.tile k).gang = 0 := (h.holds (.inl hk)).elim id id

theorem trans (g : Frees t u) : Frees s u := ⟨g.gangs.trans h.gangs, fun k => g.holds (h.tile k)⟩

/-- A change of anything but the tiles and the gangs. -/
theorem of_tiles (hl : u.launch.gangs = t.launch.gangs) (ht : u.tiles = t.tiles) : Frees s u :=
  ⟨hl.trans h.gangs, fun k => by rw [State.tile, ht]; exact h.tile k⟩

theorem foldl {α : Type} {f : State → α → State} (hf : ∀ u x, Frees s u → Frees s (f u x)) (l : List α) : Frees s (l.foldl f t) := by
  induction l generalizing t with
  | nil => exact h
  | cons x l ih => exact ih (hf t x h)

theorem modUnseen (f : List Unseen → List Unseen) : Frees s (t.modUnseen f) :=
  h.of_tiles (congrArg Launch.gangs (launch_modUnseen ..)) (tiles_modUnseen ..)

theorem forgetMiss (x : Trap) : Frees s (forgetMiss x t) := by
  have hm : ∀ (q : SeqId) (f : Tlb → Tlb), Frees s (modTlb q f t) := fun q f => by cases q <;> exact h.of_tiles rfl rfl
  rw [Machine.forgetMiss]
  split
  · exact hm ..
  · exact h

theorem withdrawTraps (gone : Trap → Bool) : Frees s (withdrawTraps gone t) :=
  (foldl (f := fun s t => Machine.forgetMiss t s) h (fun _ x hu => hu.forgetMiss x) _).of_tiles rfl rfl

theorem removeLive (g : Nat) : Frees s (removeLive g t) := by
  refine h.trans ⟨rfl, fun k => .inr ?_⟩
  exact get_map_of_kept (f := fun e => (e.1, { e.2 with
    arrivals := e.2.arrivals.filter (fun x => x.gang != g), ring := e.2.ring.filter (fun x => x.gang != g)
    waiters := e.2.waiters.filter (fun w => t.gangOf w.seq != g) })) (g := Tile.gang) (fun _ => rfl) (fun _ => rfl) _ _ k

/-- A tile stops where it holds the gang. -/
theorem stopTile (g k : Nat) : Frees s (if (t.tile k).gang = g then t.modTile k stopTile else t) := by
  split
  · refine h.trans ⟨rfl, fun j => ?_⟩
    by_cases hj : j = k
    · subst hj; exact .inl (by rw [State.tile_modTile_same]; rfl)
    · exact .inr (by rw [State.tile_modTile_other _ _ hj])
  · exact h

theorem stopTiles (g : Nat) (l : List Nat) : Frees s (l.foldl (fun s t => if (s.tile t).gang = g then s.modTile t Machine.stopTile else s) t) :=
  h.foldl (fun _ k hu => hu.stopTile g k) l

/-- What goes with a gang once its tiles have stopped. -/
theorem releaseRest (g : Nat) : Frees s (dropTraps g (freeEngines g (Machine.removeLive g { t with pairs := t.pairs.filter (fun e => e.2.gang != g) }))) :=
  withdrawTraps (of_tiles (removeLive (of_tiles (u := { t with pairs := t.pairs.filter (fun e => e.2.gang != g) }) h rfl rfl) g) (by rfl) (by rfl)) _

theorem releaseGang (g : Nat) : Frees s (releaseGang g t) := by
  rw [Machine.releaseGang]
  split
  · exact h
  · exact releaseRest (stopTiles (h.modUnseen _) g _) g

end Steps

end Frees

/-- The tiles of a list that hold a gang or none hold none once they have stopped. -/
theorem gang_stopTiles {s : State} {g k : Nat} {l : List Nat} (hk : k ∈ l) (hg : (s.tile k).gang = 0 ∨ (s.tile k).gang = g) :
    ((l.foldl (fun s t => if (s.tile t).gang = g then s.modTile t stopTile else s) s).tile k).gang = 0 := by
  induction l generalizing s with
  | nil => cases hk
  | cons t l ih =>
    have hstep := (Frees.refl s).stopTile g t
    rcases List.mem_cons.mp hk with rfl | hl
    · refine ((Frees.refl _).stopTiles g l).free ?_
      dsimp only
      split
      · rw [State.tile_modTile_same]; rfl
      · next hn => exact hg.resolve_right hn
    · exact ih hl (hstep.holds hg)

/-- The tiles of a gang that is released hold none. -/
theorem gang_releaseGang {s : State} {g k : Nat} {u : Gang} (h : s.gang? g = some u) (hk : k ∈ allTiles u)
    (hg : (s.tile k).gang = 0 ∨ (s.tile k).gang = g) : ((releaseGang g s).tile k).gang = 0 := by
  rw [releaseGang, h]
  exact ((Frees.refl _).releaseRest g).free (gang_stopTiles hk (((Frees.refl s).modUnseen _).holds hg))

/-- So do the tiles of a gang among several that are released. -/
theorem gang_releaseGangs {s : State} {l : List (Nat × Gang)} {c k : Nat} {x : Gang} (h : s.gang? c = some x) (hk : k ∈ allTiles x)
    (hl : ∃ e ∈ l, e.1 = c) (hg : (s.tile k).gang = 0 ∨ (s.tile k).gang = c) :
    ((l.foldl (fun s e => releaseGang e.1 s) s).tile k).gang = 0 := by
  induction l generalizing s with
  | nil => obtain ⟨e, he, -⟩ := hl; cases he
  | cons e l ih =>
    have hstep := (Frees.refl s).releaseGang e.1
    obtain ⟨d, hd, rfl⟩ := hl
    rcases List.mem_cons.mp hd with rfl | hd
    · exact ((Frees.refl _).foldl (fun _ e hu => hu.releaseGang e.1) l).free (gang_releaseGang h hk hg)
    · exact ih ((hstep.gang? _).trans h) ⟨d, hd, rfl⟩ (hstep.holds hg)

/-! ## The end of a gang (R134, R144) -/

/-- A gang that ends with a status and a cause. -/
def ended (status cause : Nat) (u : Gang) : Gang := { u with killing := some (status, cause), live := 0, phase := .waiting, saved := none }

/-- A child of a gang ends with status 5, unless it ends already. -/
def endedChild (g : Nat) (e : Nat × Gang) : Nat × Gang :=
  if e.2.parent = g ∧ e.2.killing.isNone then (e.1, ended 5 0 e.2) else e

/-- The state in which a gang has ended and its children's tiles are still theirs. -/
def marksEnd (g status cause : Nat) (s : State) : State :=
  ((releaseGang g s).modGang g (ended status cause)).modLaunch (fun l => { l with gangs := l.gangs.map (endedChild g) })

theorem endGang_again {s : State} {g status cause : Nat} {u : Gang} (h : s.gang? g = some u) (hk : u.killing.isSome = true) :
    endGang g status cause s = s := by
  rw [endGang, h]
  exact if_pos hk

section Ends
variable {s : State} {g status cause : Nat} {u : Gang} (h : s.gang? g = some u) (hk : u.killing = none)

include h hk in
theorem endGang_first : endGang g status cause s =
    ((marksEnd g status cause s).launch.gangs.filter (fun e => e.2.parent == g)).foldl (fun s e => releaseGang e.1 s) (marksEnd g status cause s) := by
  rw [endGang, h]
  exact if_neg (by rw [hk]; exact Bool.false_ne_true)

theorem endedChild_key (e : Nat × Gang) : (endedChild g e).1 = e.1 := by
  rw [endedChild]
  split
  · rfl
  · rfl

theorem gang?_mapGangs {v : State} {f : Nat × Gang → Nat × Gang} (hf : ∀ e, (f e).1 = e.1) (c : Nat) :
    (v.modLaunch (fun l => { l with gangs := l.gangs.map f })).gang? c = (v.gang? c).map (fun w => (f (c, w)).2) := by
  simp only [State.gang?, State.modLaunch, List.find?_map, Function.comp_def, hf, Option.map_map]
  cases he : v.launch.gangs.find? (fun e => e.1 == c) with
  | none => rfl
  | some e =>
    have hc : e.1 = c := by simpa using List.find?_some he
    subst hc
    rfl

theorem gang?_modGang (v : State) (f : Gang → Gang) (c : Nat) : (v.modGang g f).gang? c = (v.gang? c).map (fun w => if c = g then f w else w) := by
  refine (gang?_mapGangs (f := fun e => if e.1 = g then (e.1, f e.2) else e) (fun e => by split <;> rfl) c).trans ?_
  congr 1
  funext w
  by_cases hc : c = g
  · rw [if_pos hc, if_pos hc]
  · rw [if_neg hc, if_neg hc]

/-- What an end marks: the gang with its reason, and its children. -/
theorem gang?_marksEnd (c : Nat) : (marksEnd g status cause s).gang? c =
    (s.gang? c).map (fun w => (endedChild g (c, if c = g then ended status cause w else w)).2) := by
  rw [marksEnd, gang?_mapGangs endedChild_key, gang?_modGang, ((Frees.refl s).releaseGang g).gang? c, Option.map_map]
  rfl

include h hk

/-- After the marks an end only frees tiles. -/
theorem frees_endGang : Frees (marksEnd g status cause s) (endGang g status cause s) := by
  rw [endGang_first h hk]
  exact (Frees.refl _).foldl (fun _ e hu => hu.releaseGang e.1) _

/-- A gang that ends has the reason of this end. -/
theorem gang?_endGang_self : (endGang g status cause s).gang? g = some (ended status cause u) := by
  rw [(frees_endGang h hk).gang? g, gang?_marksEnd, h, Option.map_some, if_pos rfl, endedChild, if_neg]
  exact fun hc => Bool.false_ne_true hc.2

/-- A child that runs ends with status 5. -/
theorem gang?_endGang_child {c : Nat} {w : Gang} (hw : s.gang? c = some w) (hc : c ≠ g) (hp : w.parent = g) (hn : w.killing = none) :
    (endGang g status cause s).gang? c = some (ended 5 0 w) := by
  rw [(frees_endGang h hk).gang? c, gang?_marksEnd, hw, Option.map_some, if_neg hc, endedChild, if_pos ⟨hp, by rw [hn]; rfl⟩]

theorem gang_endGang_self {t : Nat} (ht : t ∈ allTiles u) (hg : (s.tile t).gang = g) : ((endGang g status cause s).tile t).gang = 0 :=
  (frees_endGang h hk).free (gang_releaseGang h ht (.inr hg))

theorem gang_endGang_child {c t : Nat} {w : Gang} (hw : s.gang? c = some w) (hc : c ≠ g) (hp : w.parent = g) (hn : w.killing = none)
    (ht : t ∈ allTiles w) (hg : (s.tile t).gang = c) : ((endGang g status cause s).tile t).gang = 0 := by
  have hmarked : (marksEnd g status cause s).gang? c = some (ended 5 0 w) := by
    rw [← (frees_endGang h hk).gang? c]
    exact gang?_endGang_child h hk hw hc hp hn
  obtain ⟨e, he, hx⟩ := Option.map_eq_some_iff.mp hmarked
  have hkey : e.1 = c := by simpa using List.find?_some he
  have hparent : e.2.parent = g := by rw [hx]; exact hp
  rw [endGang_first h hk]
  refine gang_releaseGangs hmarked (show t ∈ allTiles (ended 5 0 w) from ht)
    ⟨e, List.mem_filter.mpr ⟨List.mem_of_find?_eq_some he, beq_iff_eq.mpr hparent⟩, hkey⟩ ?_
  exact ((Frees.refl s).releaseGang g).holds (.inr hg)

end Ends

/-! ## PREEMPT (R146, R147, R149) -/

section Preempt
variable {s : State}

theorem exec_preempt_none (h : s.gang? s.subject = none) : exec .preempt s = .next s := by
  change execPreempt s = _
  rw [execPreempt, h]

theorem exec_preemptResume_none (h : s.gang? s.subject = none) : exec .preemptResume s = .next s := by
  change execPreemptResume s = _
  rw [execPreemptResume, h]

/-- A part that is to stop waits for its event engines, then for its pairs. -/
theorem approachStop_engines {g : Nat} (he : enginesSettled s g = false) : approachStop g s = s := by
  rw [approachStop, he]; rfl

theorem approachStop_settled {g : Nat} (he : enginesSettled s g = true) : approachStop g s =
    if (pairsOf s g).any (fun t => !(s.pair t).freezing) then freezePairs g s
    else if (pairsOf s g).any (fun t => (s.pair t).boundary.isSome) then s
    else stopPart g s := by
  rw [approachStop, he]; rfl

variable {u : Gang} (h : s.gang? s.subject = some u)
include h

theorem exec_preempt_refused (hr : u.killing.isSome = true ∨ u.record.preemptible = false) : exec .preempt s = .next s := by
  change execPreempt s = _
  rw [execPreempt, h]
  refine if_pos ?_
  rcases hr with hr | hr
  · rw [hr]; rfl
  · rw [hr]; exact Bool.or_true _

section Granted
variable (hk : u.killing = none) (hp : u.record.preemptible = true)
include hk hp

theorem exec_preempt_running (hph : u.phase = .running) :
    exec .preempt s = .next (approachStop s.subject (s.modGang s.subject (fun w => { w with phase := .stopping }))) := by
  change execPreempt s = _
  rw [execPreempt, h]
  dsimp only
  rw [hk, hp, hph]
  rfl

theorem exec_preempt_stopping (hph : u.phase = .stopping) : exec .preempt s = .next (approachStop s.subject s) := by
  change execPreempt s = _
  rw [execPreempt, h]
  dsimp only
  rw [hk, hp, hph]
  rfl

theorem exec_preempt_placed (hph : u.phase = .placed) : exec .preempt s = .next s := by
  change execPreempt s = _
  rw [execPreempt, h]
  dsimp only
  rw [hk, hp, hph]
  rfl

theorem exec_preempt_stopped {v : Saved} (hph : u.phase = .preempted) (hv : u.saved = some v) :
    exec .preempt s = .next (if !v.complete && partDrained s s.subject u then savePart s.subject u s else s) := by
  change execPreempt s = _
  rw [execPreempt, h]
  dsimp only
  rw [hk, hp, hph, hv]
  rfl

end Granted

/-! ## PREEMPT_RESUME (R148, R150) -/

theorem exec_preemptResume_other (hph : u.phase ≠ .preempted) : exec .preemptResume s = .next s := by
  change execPreemptResume s = _
  rw [execPreemptResume, h]
  dsimp only
  split
  · next hc _ => exact absurd hc hph
  · rfl

theorem exec_preemptResume {v : Saved} (hph : u.phase = .preempted) (hv : u.saved = some v) : exec .preemptResume s =
    if !v.complete || !canResume s s.subject v then .next s
    else if v.broken then .next (contextLost s.subject s)
    else .next (restorePart s.subject v s) := by
  change execPreemptResume s = _
  rw [execPreemptResume, h]
  dsimp only
  rw [hph, hv]

end Preempt

/-- Gondolas that come back into an arrival area change neither the sequencers nor the tile's gang. -/
theorem assignSlot_frame (u : Tile) : (assignSlot u).a = u.a ∧ (assignSlot u).x = u.x ∧ (assignSlot u).gang = u.gang := by
  rw [assignSlot]
  split
  · exact ⟨rfl, rfl, rfl⟩
  · exact ⟨rfl, rfl, rfl⟩

theorem refill_frame (n : Nat) (u : Tile) : (refill n u).a = u.a ∧ (refill n u).x = u.x ∧ (refill n u).gang = u.gang := by
  induction n generalizing u with
  | zero => exact ⟨rfl, rfl, rfl⟩
  | succ n ih =>
    rw [refill]
    split
    · obtain ⟨ha, hx, hg⟩ := ih (assignSlot u)
      obtain ⟨ha', hx', hg'⟩ := assignSlot_frame u
      exact ⟨ha.trans ha', hx.trans hx', hg.trans hg'⟩
    · exact ⟨rfl, rfl, rfl⟩

/-- The bytes of a saved part are in its tiles again. -/
def withCells (v : Saved) (s : State) : State :=
  s.modMem (fun m => v.cells.foldl (fun m e => m.setByte e.1 e.2) ((v.tiles.map (·.1)).foldl (fun m t => clearTile t m) m))

/-- With no event engine and no pair saved, the tiles are what a resumption sets. -/
theorem tiles_restorePart {s : State} {g : Nat} {v : Saved} (he : v.engines = []) (hp : v.pairs = []) : (restorePart g v s).tiles =
    (v.tiles.foldl (fun r e => r.modTile e.1 (fun _ => resumeTile (withCells v s) g e.1 e.2)) (withCells v s)).tiles := by
  rw [restorePart, he, hp]
  rfl

/-- A part saved from one tile stands on that tile again. -/
theorem tile_restorePart {s : State} {g t : Nat} {v : Saved} {w : Tile} (hv : v.tiles = [(t, w)]) (he : v.engines = []) (hp : v.pairs = []) :
    (restorePart g v s).tile t = resumeTile (withCells v s) g t w := by
  rw [State.tile, tiles_restorePart he hp, hv]
  exact State.tile_modTile_same (withCells v s) t (fun _ => resumeTile (withCells v s) g t w)

theorem resumeTile_frame (s : State) (g t : Nat) (w : Tile) : (resumeTile s g t w).a = resumeSeq s (.a t) g w.a ∧
    (resumeTile s g t w).x = resumeSeq s (.x t) g w.x ∧ (resumeTile s g t w).gang = w.gang := refill_frame _ _

/-- Settles O54: an end marks the gang and its children and frees their tiles; the rest is the two instructions' equations. -/
theorem endAndPreemption : Obligations.EndAndPreemption := by
  unfold Obligations.EndAndPreemption
  refine ⟨fun s g status cause u h => ⟨endGang_again h, fun hk => ?ends⟩, fun s => ?preempts⟩
  case ends =>
    intro v
    refine ⟨⟨_, gang?_endGang_self h hk, rfl, rfl, rfl⟩, fun t ht hg => gang_endGang_self h hk ht hg, fun c w hw hc hp hn => ⟨?_, fun t ht hg => ?_⟩⟩
    · exact ⟨_, gang?_endGang_child h hk hw hc hp hn, rfl, rfl, rfl⟩
    · exact gang_endGang_child h hk hw hc hp hn ht hg
  case preempts =>
    intro g
    refine ⟨fun h => ⟨exec_preempt_none h, exec_preemptResume_none h⟩, fun u h => ⟨exec_preempt_refused h,
      fun hk hp => ⟨exec_preempt_running h hk hp, fun hph => ?stopping, exec_preempt_placed h hk hp, fun v hph hv => ?saving⟩,
      exec_preemptResume_other h, fun v hph hv => ?resuming⟩⟩
    case stopping =>
      have hexec := exec_preempt_stopping h hk hp hph
      refine ⟨fun he => ?_, fun he => ?_⟩
      · rw [hexec, approachStop_engines he]
      · intro thawed closing
        have hstop : exec .preempt s = .next (if thawed then freezePairs g s else if closing then s else stopPart g s) := by
          rw [hexec, approachStop_settled he]
        exact ⟨fun ht => by rw [hstop, ht]; rfl, fun ht hc => by rw [hstop, ht, hc]; rfl, fun ht hc => by rw [hstop, ht, hc]; rfl⟩
    case saving =>
      have hexec := exec_preempt_stopped h hk hp hph hv
      refine ⟨fun hn => ?_, fun hc hd => ?_⟩
      · rw [hexec, if_neg]
        rcases hn with hn | hn
        · rw [hn]; exact Bool.false_ne_true
        · rw [hn, Bool.and_false]; exact Bool.false_ne_true
      · rw [hexec, hc, hd]; rfl
    case resuming =>
      have hexec := exec_preemptResume h hph hv
      refine ⟨fun hn => ?_, fun hc hr hb => ?_, fun hc hr hb => ⟨?_, fun t w ht he hp => ?_⟩⟩
      · rw [hexec, if_pos]
        rcases hn with hn | hn
        · rw [hn]; rfl
        · rw [hn]; exact Bool.or_true _
      · rw [hexec, hc, hr, hb]; rfl
      · rw [hexec, hc, hr, hb]; rfl
      · obtain ⟨ha, hx, hg⟩ := resumeTile_frame (withCells v s) g t w
        rw [tile_restorePart ht he hp, ha, hx, hg]
        exact ⟨rfl, rfl, rfl, rfl⟩

end Sys2Proof.Machine
end

section
/-! SUPPORT. Bridled pairs and child launches: PAIR and UNPAIR at a service core, FPCK at a boundary, the answers of LAUNCH, and what a
boundary that agrees and a rollback leave of the pair and of its tiles; the statement about them (R143, R279-R285, R375, R383, R399). -/

namespace Sys2Proof.Machine

open Sys2Proof.Claims

/-! ## PAIR and UNPAIR (R285, R399, R430) -/

theorem exec_pairing {i : Instr} {f : F64A} {v : Bool} (h : (i = .pair f ∧ v = true) ∨ (i = .unpair f ∧ v = false)) (s : State) :
    exec i s = issue i f.pred f.pneg (pairBody v f) s := by
  obtain ⟨rfl, rfl⟩ | ⟨rfl, rfl⟩ := h <;> rfl

section Pairing
variable {u : State} {c : Nat} {f : F64A} {v : Bool} (hf : u.focus = .s c) (ha : xOk u f.a.toNat = true) (hd : xFree u f.d.toNat = true)
include hf

/-- The PAIRS bits are no register of the service core that sets them. -/
theorem here_setPairs (k : Nat) : here (setPairs c k v u) = here u := by
  have hq : (setPairs c k v u).focus = .s c := hf
  rw [here, here, hf, hq, State.seq, State.seq, setPairs, State.cluster_modCluster_same]

include ha hd

theorem run_pairBody : (pairBody v f).run u =
    if ((here u).x f.a.toNat).toNat ≠ 4 * c ∧ ((here u).x f.a.toNat).toNat ≠ 4 * c + 2 then .ok .fall (withX f.d.toNat 2 false u)
    else if engaged u ((here u).x f.a.toNat).toNat || engaged u (((here u).x f.a.toNat).toNat + 1) then .ok .fall (withX f.d.toNat 1 false u)
    else .ok .fall (withX f.d.toNat 0 false (setPairs c (((here u).x f.a.toNat).toNat % 4 / 2) v u)) := by
  have hset : ∀ k, xFree (setPairs c k v u) f.d.toNat = true := fun k => by rw [xFree, here_setPairs hf]; exact hd
  rw [pairBody, run_bind_ok (run_useX ha)]
  generalize ((here u).x f.a.toNat).toNat = a
  refine (run_bind_ok (EStateM.run_get u)).trans ?_
  rw [hf]
  dsimp only [serverOf]
  by_cases hp : a ≠ 4 * c ∧ a ≠ 4 * c + 2
  · rw [if_pos hp, if_pos hp]
    exact run_bind_ok (run_putX 2 false hd)
  rw [if_neg hp, if_neg hp]
  by_cases he : (engaged u a || engaged u (a + 1)) = true
  · rw [if_pos he, if_pos he]
    exact run_bind_ok (run_putX 1 false hd)
  · rw [if_neg he, if_neg he]
    exact (run_bind_ok (EStateM.run_modify ..)).trans (run_bind_ok (run_putX 0 false (hset _)))

end Pairing

theorem engaged_iff {s : State} {t : Nat} : engaged s t = true ↔ (s.tile t).gang ≠ 0 ∨ (s.tile t).quarantined = true := by
  rw [engaged, Bool.or_eq_true, decide_eq_true_eq]

/-! ## FPCK (R375) -/

theorem exec_fpck (f : F64A) (s : State) : exec (.fpck f) s = issue (.fpck f) f.pred f.pneg fpckBody s := rfl

/-- An issue is no change of a tile sequencer's wait. -/
theorem wait_issued {s : State} {t : Nat} (h : State.tileOf s.focus = some t) : (here (issued s)).wait = (here s).wait := by
  obtain ⟨l, hl⟩ := settleBefore_eq s s.focus
  rw [here, focus_issued, issued, atIssue, hl, State.seq_modSeq_same]
  cases hq : s.focus with
  | a t => rw [here, hq]; rfl
  | x t => rw [here, hq]; rfl
  | m c => rw [hq] at h; cases h
  | s c => rw [hq] at h; cases h

theorem run_fpckBody_unpaired {u : State} (h : tilePaired u u.focus = false) : fpckBody.run u = .ok .fall u := by
  rw [fpckBody]
  refine (run_bind_ok (v := ()) (t := u) ?_).trans rfl
  rw [closeOnPair]
  refine (run_bind_ok (EStateM.run_get u)).trans ?_
  rw [h]
  cases State.tileOf u.focus <;> rfl

section Boundary
variable {u : State} {t : Nat} (ht : State.tileOf u.focus = some t) (hp : tilePaired u u.focus = true)
include ht hp

theorem run_closeOnPair_paired : closeOnPair.run u = (awaitBoundary t).run u := by
  rw [closeOnPair]
  refine (run_bind_ok (EStateM.run_get u)).trans ?_
  rw [ht, hp]

theorem run_fpckBody_asks (hw : (here u).wait = none) :
    fpckBody.run u = .error (.wait .pair (fun s => askBoundary (s.primaryOf t) s)) u := by
  rw [fpckBody]
  refine run_bind_error ((run_closeOnPair_paired ht hp).trans ?_)
  rw [awaitBoundary]
  refine (run_bind_ok (run_mySeq u)).trans ?_
  rw [hw]
  rfl

theorem run_fpckBody_resolved {since : Nat} {g : Word × Bool} (hw : (here u).wait = some ⟨.pair, since, some g⟩) :
    fpckBody.run u = .ok .fall u := by
  rw [fpckBody]
  refine (run_bind_ok (v := ()) (t := u) ((run_closeOnPair_paired ht hp).trans ?_)).trans rfl
  rw [awaitBoundary]
  refine (run_bind_ok (run_mySeq u)).trans ?_
  rw [hw]
  rfl

end Boundary

/-! ## The answers of LAUNCH (R143, R383) -/

theorem exec_launch (f : F128C) (s : State) : exec (.launch f) s = issue (.launch f) f.pred f.pneg (launchBody f) s := rfl

/-- A computation that stops or answers, and changes nothing. -/
def ChecksOnly (x : Exec Unit) : Prop := ∀ u, x.run u = .ok () u ∨ ∃ e, x.run u = .error e u

theorem ChecksOnly.check (ok : Bool) (c : Byte) (a : Word) : ChecksOnly (check ok c a) := fun u => by
  cases ok
  · exact .inr ⟨_, run_check_fails rfl⟩
  · exact .inl (run_check_holds rfl)

theorem ChecksOnly.bind {x y : Exec Unit} (hx : ChecksOnly x) (hy : ChecksOnly y) : ChecksOnly (x >>= fun _ => y) := fun u => by
  rcases hx u with h | ⟨e, h⟩
  · rw [run_bind_ok h]; exact hy u
  · exact .inr ⟨e, run_bind_error h⟩

theorem checksOnly_checkAddress (a : Word) (n align : Nat) : ChecksOnly (checkAddress a n align) := fun u => by
  rw [checkAddress, run_bind_ok (EStateM.run_get u)]
  refine ChecksOnly.bind (ChecksOnly.check _ _ _) ?_ u
  have hrest : ChecksOnly (Machine.check (decide (a.toNat % align = 0)) 0x0A a >>= fun _ =>
      if formOf a = 1 then Machine.check (mayReach u u.focus (gtileOf u a)) 0x0B a else pure ()) := by
    refine ChecksOnly.bind (ChecksOnly.check _ _ _) ?_
    split
    · exact ChecksOnly.check _ _ _
    · exact fun v => .inl rfl
  cases rangeCause a n with
  | some c => exact fun v => .inr ⟨_, rfl⟩
  | none => exact hrest

/-- An address of no form raises 0x04 at the first check. -/
theorem run_checkAddress_badForm {a : Word} {n align : Nat} {u : State} (h : formOk a = false) :
    (checkAddress a n align).run u = .error (.trap 0x04 a none) u := by
  rw [checkAddress]
  refine (run_bind_ok (EStateM.run_get u)).trans (run_bind_error (run_check_fails ?_))
  rw [h, Bool.false_and]

/-- A sequencer of no pair closes no interval, whatever its tile is. -/
theorem run_closeAfter_role {u : State} (h : role u = .alone) : closeAfter.run u = .ok () u := by
  have hp : isPaired u u.focus = false := by
    rw [role] at h
    rw [isPaired, h]
    rfl
  rw [closeAfter]
  refine (run_bind_ok (EStateM.run_get u)).trans ?_
  rw [hp]
  cases State.tileOf u.focus <;> rfl

theorem role_withX_alone {u : State} (h : role u = .alone) (n : Nat) (v : Word) (p : Bool) : role (withX n v p u) = .alone := by
  by_cases h0 : n = 0
  · subst h0; exact h
  · rw [withX_alone v p h h0, role_modSeq (by rw [Seq.setX_eq _ _ _ h0]), h]

/-- A read that goes after an address check has passed it in the same state. -/
theorem run_checkAddress_then {a : Word} {n align : Nat} {x : Exec (List Word)} {u v : State} {ws : List Word}
    (h : (do checkAddress a n align; x : Exec (List Word)).run u = .ok ws v) : (checkAddress a n align).run u = .ok () u ∧ x.run u = .ok ws v := by
  rcases checksOnly_checkAddress a n align u with hc | ⟨e, hc⟩
  · exact ⟨hc, (run_bind_ok hc).symm.trans h⟩
  · cases (run_bind_error hc).symm.trans h

/-- A record whose address passes the check lies in the issuer's scratchpad or in job memory. -/
theorem launch_own {u : State} {a : Word} {n align : Nat} (hs : Solo u) (hc : (checkAddress a n align).run u = .ok () u)
    (hf : formOf a = 1 → gtileOf u a = home u ∧ (State.tileOf u.focus).isSome) : (decide (formOf a ≠ 1) || isOwnScratch u a) = true := by
  by_cases h1 : formOf a = 1
  · obtain ⟨hg, ht⟩ := hf h1
    obtain ⟨t, ht⟩ := Option.isSome_iff_exists.mp ht
    have hk : formOk a = true := by
      cases hk : formOk a with
      | true => rfl
      | false => cases (run_checkAddress_badForm hk).symm.trans hc
    rw [isOwnScratch, h1, hk, mirrored_solo hs, hg, ht, tileOf_home ht, beq_self_eq_true]
    rfl
  · rw [decide_eq_true h1]; rfl

section Launch
variable {u v w : State} {f : F128C} {ws : List Word}

theorem run_launchBody_badForm (hx : xOk u f.a.toNat = true) (hd : f.d.toNat < 32) (h : formOk ((here u).x f.a.toNat) = false) :
    (launchBody f).run u = .error (.trap 0x04 ((here u).x f.a.toNat) none) u := by
  rw [launchBody]
  exact (run_bind_ok (run_queueWaits_dest _ _ hd)).trans ((run_bind_ok (run_useX hx)).trans (run_bind_error (run_checkAddress_badForm h)))

/-- A record that has been read is answered, and the answer goes to D. -/
theorem run_launchBody (hx : xOk u f.a.toNat = true) (hd : f.d.toNat < 32)
    (hc : (checkAddress ((here u).x f.a.toNat) 192 64).run u = .ok () u)
    (ho : (decide (formOf ((here u).x f.a.toNat) ≠ 1) || isOwnScratch u ((here u).x f.a.toNat)) = true)
    (ht : (readTable ((here u).x f.a.toNat) 24).run u = .ok ws v) (hv : role v = .alone) {r : Word} (hr : (launchAnswer ws).run v = .ok r w)
    (hw : role w = .alone) (hf : xFree w f.d.toNat = true) : (launchBody f).run u = .ok .fall (withX f.d.toNat r false w) := by
  have hrole := role_withX_alone hw f.d.toNat r false
  rw [launchBody]
  refine (run_bind_ok (run_queueWaits_dest _ _ hd)).trans ((run_bind_ok (run_useX hx)).trans ((run_bind_ok hc).trans
    ((run_bind_ok (EStateM.run_get u)).trans ((run_bind_ok (run_check_holds ho)).trans ((run_bind_ok ht).trans
    ((run_bind_ok ((run_echoed1_alone hv _).trans hr)).trans ((run_bind_ok (run_putDest _ _ _ hd hf)).trans
    ((run_bind_ok (run_takeIn _ _)).trans ?_))))))))
  rw [noted_alone _ hrole]
  exact (run_bind_ok (run_closeAfter_role hrole)).trans rfl

/-- The words of a record that LAUNCH has read. -/
def launchWords (ws : List Word) : LaunchRecord := Vector.ofFn (fun j : Fin 24 => ws.getD j.val 0)

/-- A launch that is refused with an answer reports its completion, unless the record asks for none (flag 6). -/
def refusedLaunch (q : SeqId) (words : LaunchRecord) (d : Nat) (v : State) : State :=
  if words.fallback then v else report (v.partOf q) words (plainReport v d 0) false v

/-- Two states with the same focus and the same units have the same sequencer in focus, in the same part of a pair. -/
theorem here_role_of_units {s t : State} (hf : t.focus = s.focus) (ht : t.tiles = s.tiles) (hc : t.clusters = s.clusters) (hm : t.mcores = s.mcores) :
    here t = here s ∧ role t = role s := by
  have hseq : ∀ q, t.seq q = s.seq q := fun q => by
    cases q with
    | a k | x k => simp only [State.seq, State.tile, ht]
    | m k => simp only [State.seq, State.mcore, hm]
    | s k => simp only [State.seq, State.cluster, hc]
  refine ⟨by rw [here, hf, hseq]; rfl, ?_⟩
  simp only [role, memberOf, hf, hseq, State.tile, ht]

theorem here_role_releasesOn (object : Nat) (q : SeqId) (scope : Nat) (v : State) :
    here (releasesOn object q scope v) = here v ∧ role (releasesOn object q scope v) = role v :=
  here_role_of_units (focus_modUnseen ..) (tiles_modUnseen ..) (clusters_modUnseen ..) (mcores_modUnseen ..)

theorem here_role_poolInsert (r : RecState) (v : State) : here (poolInsert r v) = here v ∧ role (poolInsert r v) = role v :=
  here_role_of_units rfl rfl rfl rfl

/-- The answer of LAUNCH: 9 past LDEPTH, 8 with the launch's or the module's part of the pool taken, else 0 (R143). -/
def launchStatus (s : State) (g : Nat) (w : Gang) : Nat :=
  if w.ldepth.toNat < w.depth + 1 then 9
  else if decide (w.lpool.toNat ≤ poolHeld s g) || decide (poolSize ≤ poolTaken s) then 8
  else 0

section Status
variable {s : State} {g : Nat} {w : Gang}

theorem launchStatus_deep (h : w.ldepth.toNat < w.depth + 1) : launchStatus s g w = 9 := if_pos h

theorem launchStatus_full (hd : ¬ w.ldepth.toNat < w.depth + 1) (h : w.lpool.toNat ≤ poolHeld s g ∨ 4096 ≤ poolTaken s) :
    launchStatus s g w = 8 := by
  rw [launchStatus, if_neg hd, if_pos]
  rw [Bool.or_eq_true]
  exact h.imp decide_eq_true decide_eq_true

theorem launchStatus_room (hd : ¬ w.ldepth.toNat < w.depth + 1) (h : ¬ (w.lpool.toNat ≤ poolHeld s g ∨ 4096 ≤ poolTaken s)) :
    launchStatus s g w = 0 := by
  rw [launchStatus, if_neg hd, if_neg]
  rw [Bool.or_eq_true]
  exact fun hc => h (hc.imp of_decide_eq_true of_decide_eq_true)

end Status

/-- A child's record as it enters the pool: one level deeper, with its parent's limits (R145). -/
def childRecord (g : Nat) (w : Gang) (words : LaunchRecord) : RecState :=
  ⟨words, false, none, false, w.depth + 1, g, w.livelim, w.lpool, w.ldepth⟩

section Answer
variable {q : SeqId} (hq : v.focus = q) {w : Gang} (hg : v.gang? (v.gangOf q) = some w) (hr : role v = .alone)
include hq hg hr

theorem run_launchAnswer_refused {d : Nat} (h0 : d ≠ 0) (hd : launchStatus v (v.gangOf q) w = d) :
    (launchAnswer ws).run v = .ok (BitVec.ofNat 64 d) (refusedLaunch q (launchWords ws) d v) := by
  subst hq
  rw [launchStatus] at hd
  rw [launchAnswer]
  refine (run_bind_ok (EStateM.run_get v)).trans ?_
  simp only [hg, Option.map_some, Option.getD_some, hd, if_neg h0]
  rw [refusedLaunch, launchWords]
  generalize (Vector.ofFn fun i : Fin 24 => ws.getD i.val 0 : LaunchRecord) = words
  cases LaunchRecord.fallback words with
  | true => rfl
  | false => refine (run_bind_ok (run_myTwin v)).trans ?_; rw [hr]; rfl

theorem run_launchAnswer_accepted (hd : launchStatus v (v.gangOf q) w = 0) (hk : allAcknowledged v q = true) :
    (launchAnswer ws).run v = .ok 0 (poolInsert (childRecord (v.gangOf q) w (launchWords ws))
      (releasesOn (launchObject (v.gangOf q)) q 5 v)) := by
  subst hq
  have hrole : role (releasesOn (launchObject (v.gangOf v.focus)) v.focus 5 v) = .alone := (here_role_releasesOn ..).2.trans hr
  rw [launchStatus] at hd
  rw [launchAnswer]
  refine (run_bind_ok (EStateM.run_get v)).trans ?_
  simp only [hg, Option.map_some, Option.getD_some, hd, if_pos]
  refine (run_bind_ok (run_awaitAcks hk)).trans ((run_bind_ok (EStateM.run_modify ..)).trans ((run_bind_ok (run_myTwin _)).trans ?_))
  rw [hrole]
  rfl

end Answer

end Launch

/-! ## A boundary that agrees (R280-R282) -/

theorem exec_pairBoundary_single {s : State} (h : (s.tile s.subject).twin ≠ .primary) : exec .pairBoundary s = .next s := if_pos h

theorem exec_pairWaitTimeout (s : State) : exec .pairWaitTimeout s =
    .next (if (decide ((s.tile s.subject).twin = .primary) && (pairSeqs s.subject).any (waitsForPartner s s.subject)) = true then
      endGang (s.pair s.subject).gang 3 0x13 s else s) := rfl

section Taken
variable {s : State} (h : (s.tile s.subject).twin = .primary)
include h

theorem exec_pairBoundary : exec .pairBoundary s =
    if astray s s.subject then .next (if allSettled s s.subject then disagree s.subject s else s)
    else if boundaryReady s s.subject then .next (if printsAgree s s.subject then commitPair s.subject s else disagree s.subject s)
    else if (s.pair s.subject).boundary.isNone && waitTriggers s s.subject then .next (askBoundary s.subject s)
    else .next s := if_neg fun hn => hn h

/-- Members that disagree, where a boundary is forced or taken. -/
theorem exec_pairBoundary_disagrees (hd : (astray s s.subject = true ∧ allSettled s s.subject = true) ∨
    (astray s s.subject = false ∧ boundaryReady s s.subject = true ∧ printsAgree s s.subject = false)) :
    exec .pairBoundary s = .next (disagree s.subject s) := by
  rw [exec_pairBoundary h]
  rcases hd with ⟨ha, hs⟩ | ⟨ha, hb, hp⟩
  · rw [ha, hs]; rfl
  · rw [ha, hb, hp]; rfl

end Taken

/-- A checkpoint holds both members' tiles, and the logs and the hold buffer begin empty. -/
theorem pair_takeCheckpoint (t : Nat) (s : State) : let p := (takeCheckpoint t s).pair t
    p.held = [] ∧ p.undoPrimary = [] ∧ p.undoTwin = [] ∧ p.boundary = none ∧ p.disagreed = false ∧
    p.primary = (takeCheckpoint t s).tile t ∧ p.twin = (takeCheckpoint t s).tile (t + 1) := by
  simp only [takeCheckpoint, State.pair_modPair_same, State.tile_modPair, and_self]

/-- An interval begins with counts of 0. -/
theorem retired_takeCheckpoint (t : Nat) (s : State) :
    ((takeCheckpoint t s).tile t).a.retired = 0 ∧ ((takeCheckpoint t s).tile (t + 1)).x.retired = 0 := by
  simp only [takeCheckpoint, State.tile_modPair, State.tile_modTile_same,
    State.tile_modTile_other _ _ (show t ≠ t + 1 by omega), and_self]

/-! ## A rollback (R282) -/

/-- Every pair and every tile sequencer is as before. -/
structure KeepsMembers (s t : State) : Prop where
  pairs : t.pairs = s.pairs
  a : ∀ k, (t.tile k).a = (s.tile k).a
  x : ∀ k, (t.tile k).x = (s.tile k).x

namespace KeepsMembers

theorem refl (s : State) : KeepsMembers s s := ⟨rfl, fun _ => rfl, fun _ => rfl⟩

section Steps
variable {s t u : State} (h : KeepsMembers s t)
include h

/-- A change of anything but the pairs and the tiles. -/
theorem of_tiles (hp : u.pairs = t.pairs) (ht : u.tiles = t.tiles) : KeepsMembers s u :=
  ⟨hp.trans h.pairs, fun k => by rw [State.tile, ht]; exact h.a k, fun k => by rw [State.tile, ht]; exact h.x k⟩

/-- A change of a tile that leaves its sequencers. -/
theorem modTile (n : Nat) {f : Tile → Tile} (ha : ∀ w, (f w).a = w.a) (hx : ∀ w, (f w).x = w.x) : KeepsMembers s (t.modTile n f) := by
  have hw : ∀ (g : Tile → Seq), (∀ w, g (f w) = g w) → ∀ k, g ((t.modTile n f).tile k) = g (t.tile k) := fun g hg k => by
    by_cases hk : k = n
    · subst hk; rw [State.tile_modTile_same, hg]
    · rw [State.tile_modTile_other _ _ hk]
  exact ⟨h.pairs, fun k => (hw Tile.a ha k).trans (h.a k), fun k => (hw Tile.x hx k).trans (h.x k)⟩

theorem foldl {α : Type} {f : State → α → State} (hf : ∀ u x, KeepsMembers s u → KeepsMembers s (f u x)) (l : List α) :
    KeepsMembers s (l.foldl f t) := by
  induction l generalizing t with
  | nil => exact h
  | cons x l ih => exact ih (hf t x h)

theorem withdrawEvents (held : List Held) : KeepsMembers s (withdrawEvents held t) := by
  refine h.foldl (fun u e hu => ?_) held
  cases e with
  | event k _ c => cases c <;> exact hu.of_tiles rfl rfl
  | _ => exact hu

theorem withdrawWaits (qs : List SeqId) : KeepsMembers s (withdrawWaits qs t) := by
  have hw : ∀ (g : Tile → Seq), (∀ (w : Tile) l, g { w with waiters := l } = g w) → ∀ k, g ((Machine.withdrawWaits qs t).tile k) = g (t.tile k) :=
    fun g hg k => get_map_of_kept (f := fun e => (e.1, { e.2 with waiters := e.2.waiters.filter (fun w => w.released || !qs.contains w.seq) }))
      (fun _ => rfl) (fun e => hg e.2 _) _ _ k
  exact ⟨h.pairs, fun k => (hw Tile.a (fun _ _ => rfl) k).trans (h.a k), fun k => (hw Tile.x (fun _ _ => rfl) k).trans (h.x k)⟩

theorem forgetMiss (x : Trap) : KeepsMembers s (forgetMiss x t) := by
  have hm : ∀ (q : SeqId) (f : Tlb → Tlb), KeepsMembers s (modTlb q f t) := fun q f => by cases q <;> exact h.of_tiles rfl rfl
  rw [Machine.forgetMiss]
  split
  · exact hm ..
  · exact h

theorem withdrawTraps (gone : Trap → Bool) : KeepsMembers s (withdrawTraps gone t) :=
  (foldl (f := fun s t => Machine.forgetMiss t s) h (fun _ x hu => hu.forgetMiss x) _).of_tiles rfl rfl

theorem modMem (f : Mem → Mem) : KeepsMembers s (t.modMem f) := h.of_tiles rfl rfl

theorem modFreeMem (n : Nat) (f : Mem → Mem) : KeepsMembers s ({ t with free := n }.modMem f) := h.of_tiles rfl rfl

theorem restoreWord (p : Pair) (free n : Nat) (e : Undo) : KeepsMembers s (restoreWord p free n t e) := by
  rw [Machine.restoreWord]
  exact (h.modMem _).modTile n (fun _ => rfl) (fun _ => rfl)

end Steps
end KeepsMembers

/-- The state of a rollback before the members' tiles are restored: what they wait for and have asked is withdrawn, and their memory is as
at the checkpoint. -/
def unwound (t : Nat) (s : State) : State :=
  let p := s.pair t
  let s := uncountHeld t (dropPairTraps t (withdrawWaits ((pairSeqs t).filter (fun q => !isGondola (s.seq q))) (withdrawEvents p.held s)))
  let free := s.free
  let s := p.undoTwin.foldl (restoreWord p free (t + 1)) (p.undoPrimary.foldl (restoreWord p free t) s)
  { s with free := free + 2 ^ 17 }.modMem (restoreAcc t p.stored)

theorem keepsMembers_unwound (t : Nat) (s : State) : KeepsMembers s (unwound t s) := by
  have hwords : ∀ (p : Pair) (free n : Nat) (l : List Undo) {v : State}, KeepsMembers s v → KeepsMembers s (l.foldl (restoreWord p free n) v) :=
    fun p free n l v hv => hv.foldl (fun _ e hu => hu.restoreWord p free n e) l
  rw [unwound]
  refine (hwords _ _ _ _ (hwords _ _ _ _ ?_)).modFreeMem _ _
  exact (((((KeepsMembers.refl s).withdrawEvents _).withdrawWaits _).withdrawTraps _)).of_tiles rfl rfl

section Rollback
variable {s : State} {t : Nat} (hb : (s.pair t).broken = false)
include hb

theorem tile_rollback (k : Nat) : (rollback t s).tile k =
    (((unwound t s).modTile t (fun u => restoreTile u (s.pair t).primary)).modTile (t + 1) (fun u => restoreTile u (s.pair t).twin)).tile k := by
  rw [rollback, hb]
  rfl

/-- A rollback leaves an empty hold buffer and counts itself. -/
theorem pair_rollback : ((rollback t s).pair t).held = [] ∧ ((rollback t s).pair t).disagreed = true ∧
    ((rollback t s).pair t).rollbacks = (s.pair t).rollbacks + 1 := by
  have hp : (unwound t s).pair t = s.pair t := congrArg (fun l => Assoc.get Pair.reset l t) (keepsMembers_unwound t s).pairs
  rw [rollback, hb]
  simp only [Bool.false_eq_true, if_false, State.pair_modGang, State.pair_modPair_same]
  exact ⟨trivial, trivial, congrArg (fun p : Pair => p.rollbacks + 1) hp⟩

theorem tile_rollback_primary : (rollback t s).tile t = restoreTile ((unwound t s).tile t) (s.pair t).primary := by
  rw [tile_rollback hb, State.tile_modTile_other _ _ (show t ≠ t + 1 by omega), State.tile_modTile_same]

theorem tile_rollback_twin : (rollback t s).tile (t + 1) = restoreTile ((unwound t s).tile (t + 1)) (s.pair t).twin := by
  rw [tile_rollback hb, State.tile_modTile_same, State.tile_modTile_other _ _ (show t + 1 ≠ t by omega)]

end Rollback

/-- A sequencer has the registers and the counter of another. -/
def SameRegisters (q old : Seq) : Prop := q.xs = old.xs ∧ q.vs = old.vs ∧ q.pc = old.pc

/-- A sequencer that runs no gondola goes back to the checkpoint. -/
theorem sameRegisters_restoreSeq {now old : Seq} (h : isGondola now = false) : SameRegisters (restoreSeq now old) old := by
  rw [restoreSeq, h]
  exact ⟨rfl, rfl, rfl⟩

/-- Members that run no gondola go back to the checkpoint. -/
theorem sameRegisters_rollback {s : State} {t : Nat} (hb : (s.pair t).broken = false)
    (hg : (pairSeqs t).all (fun q => !isGondola (s.seq q)) = true) :
    SameRegisters ((rollback t s).tile t).a (s.pair t).primary.a ∧ SameRegisters ((rollback t s).tile t).x (s.pair t).primary.x ∧
    SameRegisters ((rollback t s).tile (t + 1)).a (s.pair t).twin.a ∧ SameRegisters ((rollback t s).tile (t + 1)).x (s.pair t).twin.x := by
  have hk := keepsMembers_unwound t s
  simp only [pairSeqs, List.all_cons, List.all_nil, Bool.and_true, Bool.and_eq_true, Bool.not_eq_true'] at hg
  obtain ⟨ha, hx, ha', hx'⟩ := hg
  rw [tile_rollback_primary hb, tile_rollback_twin hb]
  exact ⟨sameRegisters_restoreSeq (by rw [hk.a]; exact ha), sameRegisters_restoreSeq (by rw [hk.x]; exact hx),
    sameRegisters_restoreSeq (by rw [hk.a]; exact ha'), sameRegisters_restoreSeq (by rw [hk.x]; exact hx')⟩

/-- Settles O51: the bodies' runs, and what a checkpoint and a rollback leave. -/
theorem pairsAndChildLaunches : Obligations.PairsAndChildLaunches := by
  unfold Obligations.PairsAndChildLaunches
  refine ⟨fun s c f i v hi hq h => ?pairing, fun s f h => ?fpck, fun s f h hs => ?launch, fun s => ?boundary⟩
  case pairing =>
    intro u a held bit hx hd
    have hb : (pairBody v f).run u = _ := run_pairBody ((focus_issued s).trans hq) hx hd
    have hexec := exec_pairing hi s
    have hengaged : (engaged u a || engaged u (a + 1)) = true ↔ held a ∨ held (a + 1) := by
      rw [Bool.or_eq_true, engaged_iff, engaged_iff]
    have hmember : a = 4 * c ∨ a = 4 * c + 2 → ¬ (a ≠ 4 * c ∧ a ≠ 4 * c + 2) := fun ha hn => ha.elim hn.1 hn.2
    refine ⟨fun h0 h2 => ?_, fun ha hh => ?_, fun ha h0 h1 => ?_⟩
    · rw [if_pos ⟨h0, h2⟩] at hb
      exact hexec.trans (issue_runs h hb)
    · rw [if_neg (hmember ha), if_pos (hengaged.mpr hh)] at hb
      exact hexec.trans (issue_runs h hb)
    · rw [if_neg (hmember ha), if_neg fun hh => (hengaged.mp hh).elim h0 h1] at hb
      exact hexec.trans (issue_runs h hb)
  case fpck =>
    intro u
    refine ⟨fun hp => issue_runs h (run_fpckBody_unpaired hp), fun t ht hp => ?_⟩
    have htu : State.tileOf u.focus = some t := (congrArg State.tileOf (focus_issued s)).trans ht
    refine ⟨fun hw => ?_, fun since v p hw => issue_runs h (run_fpckBody_resolved htu hp ((wait_issued ht).trans hw))⟩
    rw [exec_fpck, issue_waits h (run_fpckBody_asks htu hp ((wait_issued ht).trans hw))]
    have hprimary : (recordWait s.focus .pair s).primaryOf t = s.primaryOf t := by
      rw [recordWait, State.primaryOf, tile_modSeq]; rfl
    rw [hprimary]
  case launch =>
    intro u a g hx hd
    refine ⟨fun hk => issue_traps_unchanged h (run_launchBody_badForm hx hd hk) (by decide), fun ws v hread hform => ?answers, fun ho hc _ => ?reads⟩
    case answers =>
      intro words w hg hq hv hf hgang deep full refused
      obtain ⟨hcheck, htable⟩ := run_checkAddress_then hread
      have hown := launch_own hs hcheck hform
      have hgang' : v.gang? (v.gangOf u.focus) = some w := by rw [hgang]; exact hg
      refine ⟨fun hdeep hxf hqf hrf => ?_, fun hdeep hfull hxf hqf hrf => ?_, fun hdeep hfull hack => ?_⟩
      · exact issue_runs h (run_launchBody hx hd hcheck hown htable hv
          (run_launchAnswer_refused hq hgang' hv (d := 9) (by decide) (launchStatus_deep hdeep)) hrf hxf)
      · exact issue_runs h (run_launchBody hx hd hcheck hown htable hv
          (run_launchAnswer_refused hq hgang' hv (d := 8) (by decide) (launchStatus_full hdeep (hgang ▸ hfull))) hrf hxf)
      · intro told
        have hfree : xFree (poolInsert (childRecord g w words) told) f.d.toNat = true := by
          rw [xFree, (here_role_poolInsert ..).1, (here_role_releasesOn ..).1]
          exact hf
        refine issue_runs h (run_launchBody hx hd hcheck hown htable hv (w := poolInsert (childRecord g w words) told) ?_
          (((here_role_poolInsert ..).2.trans (here_role_releasesOn ..).2).trans hv) hfree)
        have hrun := run_launchAnswer_accepted (ws := ws) hq hgang' hv (launchStatus_room hdeep (hgang ▸ hfull)) hack
        rw [hgang] at hrun
        exact hrun
    case reads =>
      have ha := ownAddress ho
      exact (run_bind_ok ha.run_checkAddress).trans ((run_bind_ok (ha.run_tablePlaces (n := 24) hs)).trans (ha.run_readPlaces (n := 24) hs hc))
  case boundary =>
    intro t p
    refine ⟨fun h => ⟨exec_pairBoundary_single h, ?_⟩, fun h => ⟨fun ha hb hp => ?commits, fun ha hs => ?_, fun hd => ?disagrees, fun ha hb => ?_,
      fun hw => ?_, fun hw => ?_⟩⟩
    · rw [exec_pairWaitTimeout, decide_eq_false h]; rfl
    case commits =>
      have hexec : exec .pairBoundary s = .next (commitPair t s) := by rw [exec_pairBoundary h, ha, hb, hp]; rfl
      obtain ⟨hheld, hundoP, hundoT, hbound, hdis, hprim, htwin⟩ := pair_takeCheckpoint t
        ((pairSeqs t).foldl (fun s q => grantPair q s) ((s.pair t).held.foldl (releaseHeld t) s))
      obtain ⟨ha0, hx0⟩ := retired_takeCheckpoint t
        ((pairSeqs t).foldl (fun s q => grantPair q s) ((s.pair t).held.foldl (releaseHeld t) s))
      exact ⟨_, hexec, hheld, hundoP, hundoT, hbound, hdis, hprim, htwin, ha0, hx0⟩
    · rw [exec_pairBoundary h, ha, hs]; rfl
    case disagrees =>
      have hexec := exec_pairBoundary_disagrees h hd
      refine ⟨fun hq => hexec.trans (congrArg Host.Outcome.next (if_pos hq)), fun hq hb => ?_, fun hq hb hg => ?_⟩
      · rw [hexec, disagree, hq, if_neg Bool.false_ne_true, rollback, hb, if_pos rfl]
      · have hnext : exec .pairBoundary s = .next (rollback t s) := by rw [hexec, disagree, hq, if_neg Bool.false_ne_true]
        obtain ⟨hheld, hdis, hcount⟩ := pair_rollback hb
        obtain ⟨⟨haxs, -, hapc⟩, ⟨-, hxvs, -⟩, ⟨haxs', -, -⟩, ⟨-, -, hxpc'⟩⟩ := sameRegisters_rollback hb hg
        exact ⟨_, hnext, hheld, hdis, hcount, haxs, hapc, hxvs, haxs', hxpc'⟩
    · rw [exec_pairBoundary h, ha, hb]
      exact (apply_ite Host.Outcome.next ..).symm
    · rw [exec_pairWaitTimeout, decide_eq_true h, hw]; rfl
    · rw [exec_pairWaitTimeout, hw, Bool.and_false]; rfl

end Sys2Proof.Machine
end

section
/-! SUPPORT. Register sources that cannot be used: what a poisoned and a pending register make of an instruction's sources, and the
statement about the integer instructions with such operands (R179, R276, R278). -/

namespace Sys2Proof.Machine

open Sys2Proof.Claims

/-- The register numbers of the first `n` sources. -/
def sourcesOf (n : Nat) (f : F64A) : List Nat := ([f.a, f.b, f.c].take n).map (·.toNat)

/-- A register that is not 0 and is marked poisoned. -/
def xMarked (u : State) (k : Nat) : Prop := k ≠ 0 ∧ (here u).xPoison.getLsbD k = true

/-- An instruction of one to three sources has A, B from two on, C from three on. -/
theorem mem_sourcesOf {n k : Nat} {f : F64A} (h1 : 1 ≤ n) (h3 : n ≤ 3) :
    k ∈ sourcesOf n f ↔ k = f.a.toNat ∨ (2 ≤ n ∧ k = f.b.toNat) ∨ (3 ≤ n ∧ k = f.c.toNat) := by
  obtain rfl | rfl | rfl : n = 1 ∨ n = 2 ∨ n = 3 := by omega
  all_goals simp [sourcesOf]

section Registers
variable {u : State} {k : Nat}

theorem xOk_iff : xOk u k = true ↔ xFree u k = true ∧ ¬ xMarked u k := by
  by_cases h0 : k = 0
  · simp [xOk, xFree, xMarked, h0]
  · simp [xOk, xFree, xMarked, h0]

/-- A pending register stalls its reader (R179). -/
theorem run_useX_pending (h : xFree u k = false) : (useX k).run u = .error (.wait .pending id) u := by
  simp only [xFree, Bool.or_eq_false_iff, beq_eq_false_iff_ne, Bool.not_eq_false'] at h
  obtain ⟨h0, hp⟩ := h
  simp [useX, getX, h0, hp]

/-- A register as a source is consumed as the register. -/
theorem useSource_register {ty : Nat} {imm : BitVec 16} {w : BitVec 8} (h : k < 32) : useSource ty k imm w = useX k := by
  simp [useSource, source, h, useX]

end Registers

section Sources
variable {u : State} {n ty : Nat} {f : F96Q} {e : Stop} (h1 : 1 ≤ n) (h3 : n ≤ 3) (hr : ∀ k ∈ sourcesOf n f.base, k < 32)
include h1 h3 hr

/-- Registers that can all be used give values. -/
theorem run_useABC_registers (h : ∀ k ∈ sourcesOf n f.base, xOk u k = true) : ∃ v, (useABC n ty f).run u = .ok v u := by
  have hm {k} := mem_sourcesOf (k := k) (f := f.base) h1 h3
  have hval {spec : BitVec 6} (hs : spec.toNat ∈ sourcesOf n f.base) : ∃ v, scalarAt u ty spec f.base.imm16 = some v :=
    ⟨_, by rw [scalarAt, if_pos (hr _ hs), if_pos (h _ hs)]⟩
  have hopt {p : Prop} [Decidable p] {spec : BitVec 6} (hs : p → spec.toNat ∈ sourcesOf n f.base) :
      ∃ v, (if p then scalarAt u ty spec f.base.imm16 else some 0) = some v := by
    by_cases hp : p
    · rw [if_pos hp]; exact hval (hs hp)
    · exact ⟨0, if_neg hp⟩
  obtain ⟨a, ha⟩ := hval (hm.mpr (.inl rfl))
  obtain ⟨b, hb⟩ := hopt (p := 2 ≤ n) (fun hn => hm.mpr (.inr (.inl ⟨hn, rfl⟩)))
  obtain ⟨c, hc⟩ := hopt (p := 3 ≤ n) (fun hn => hm.mpr (.inr (.inr ⟨hn, rfl⟩)))
  exact ⟨(a, b, c), run_useABC (by rw [scalarsAt, ha, hb, hc])⟩

/-- Where each register gives its value or stops the instruction in one and the same way, and one does stop it, so do all together. -/
theorem run_useABC_stops (h : ∀ k ∈ sourcesOf n f.base, xOk u k = true ∨ (useX k).run u = .error e u)
    (hx : ∃ k ∈ sourcesOf n f.base, (useX k).run u = .error e u) : (useABC n ty f).run u = .error e u := by
  have hm {k} := mem_sourcesOf (k := k) (f := f.base) h1 h3
  have ha : f.base.a.toNat ∈ sourcesOf n f.base := hm.mpr (.inl rfl)
  have hb (hn : 2 ≤ n) : f.base.b.toNat ∈ sourcesOf n f.base := hm.mpr (.inr (.inl ⟨hn, rfl⟩))
  have hstops {k} (hk : k ∈ sourcesOf n f.base) (hs : (useX k).run u = .error e u) : xOk u k ≠ true := fun ho => by
    rw [run_useX ho] at hs; cases hs
  rw [useABC, useSource_register (hr _ ha)]
  rcases h _ ha with hoa | hea
  swap; · exact run_bind_error hea
  rw [run_bind_ok (run_useX hoa)]
  by_cases h2 : 2 ≤ n
  swap
  · obtain ⟨k, hk, hs⟩ := hx
    obtain rfl | ⟨hn, -⟩ | ⟨hn, -⟩ := hm.mp hk
    · exact absurd hoa (hstops hk hs)
    · exact absurd hn h2
    · exact absurd (Nat.le_of_succ_le hn) h2
  rw [if_pos h2, useSource_register (hr _ (hb h2))]
  rcases h _ (hb h2) with hob | heb
  swap; · exact run_bind_error heb
  rw [run_bind_ok (run_useX hob)]
  obtain ⟨k, hk, hs⟩ := hx
  obtain rfl | ⟨-, rfl⟩ | ⟨hn, rfl⟩ := hm.mp hk
  · exact absurd hoa (hstops hk hs)
  · exact absurd hob (hstops hk hs)
  · simp only [if_pos hn, useSource_register (hr _ hk)]
    exact run_bind_error hs

end Sources

section Body
variable {u : State} {n ty : Nat} {op : IntOp} {f : F96Q} {e : Stop} (hv : f.base.isVec = false)
  (hw : (queueWaits (operands n f false false false false false)).run u = .ok () u)
include hv hw

theorem run_intBody_source_stops (hs : (useABC n ty f).run u = .error e u) : (intBody n ty op f).run u = .error e u := by
  simp only [intBody, hv, Bool.false_eq_true, if_false, run_bind_ok hw]
  exact run_bind_error hs

theorem run_intBody_dest_pending {v : Word × Word × Word} (hs : (useABC n ty f).run u = .ok v u) (hd : f.base.d.toNat < 32)
    (hp : xFree u f.base.d.toNat = false) : (intBody n ty op f).run u = .error (.wait .pending id) u := by
  simp only [intBody, hv, Bool.false_eq_true, if_false, run_bind_ok hw, run_bind_ok hs]
  refine run_bind_error ?_
  rw [putDest, if_pos hd]
  exact run_putX_pending _ _ hp

end Body

/-- Settles O16: the first source that cannot be used stops the row's body, and a pending D does after the sources. -/
theorem sourceMarksStopIntegers : Obligations.SourceMarksStopIntegers := by
  unfold Obligations.SourceMarksStopIntegers
  intro s i r f u sources poisoned hi hready hv hlt hd
  obtain ⟨h1, h3⟩ := intRow_sources hi
  have hm {k} := mem_sourcesOf (k := k) (f := f) h1 h3
  have hw : (queueWaits (operands r.n r.f false false false false false)).run u = .ok () u :=
    run_queueWaits_operands u h1 h3 (lt_noQueue (hlt _ (hm.mpr (.inl rfl))))
      (fun hn => lt_noQueue (hlt _ (hm.mpr (.inr (.inl ⟨hn, rfl⟩))))) (fun hn => lt_noQueue (hlt _ (hm.mpr (.inr (.inr ⟨hn, rfl⟩))))) hd
  rw [exec_intRow hi]
  refine ⟨fun hfree _ ⟨k, hk, hpk⟩ => ?consumes, fun hclean hpend => ?stalls⟩
  case consumes =>
    have hstop {j} (hj : j ∈ sources) (hp : poisoned j) : (useX j).run u = .error (.poison 0) u := run_useX_poison (hfree j hj) hp.1 hp.2
    have hs := run_useABC_stops (ty := r.ty) h1 h3 hlt
      (fun j hj => or_iff_not_imp_left.mpr fun ho => hstop hj (by simpa [xOk_iff, hfree j hj, xMarked] using ho)) ⟨k, hk, hstop hk hpk⟩
    rw [issue_consumes hready (run_intBody_source_stops hv hw hs), keepFindings_self]
  case stalls =>
    have hbody : (intBody r.n r.ty r.op r.f).run u = .error (.wait .pending id) u := by
      by_cases hx : ∃ k ∈ sources, xFree u k = false
      · refine run_intBody_source_stops hv hw (run_useABC_stops h1 h3 hlt (fun j hj => ?_) ?_)
        · cases hj' : xFree u j with
          | true => exact .inl (xOk_iff.mpr ⟨hj', hclean j hj⟩)
          | false => exact .inr (run_useX_pending hj')
        · obtain ⟨k, hk, hf⟩ := hx
          exact ⟨k, hk, run_useX_pending hf⟩
      · obtain ⟨v, hs⟩ := run_useABC_registers (ty := r.ty) h1 h3 hlt
          (fun k hk => xOk_iff.mpr ⟨Bool.not_eq_false _ ▸ fun hf => hx ⟨k, hk, hf⟩, hclean k hk⟩)
        exact run_intBody_dest_pending hv hw hs hd (hpend.resolve_left hx)
    exact issue_waits hready hbody

end Sys2Proof.Machine
end

section
/-! SUPPORT. The tag table, the semaphores of a tile and STRBIND: what each body does, and the statement about them (R161-R163, R222,
R413, R418, R421, R422). -/

namespace Sys2Proof.Machine

open Sys2Proof.Claims

theorem exec_tlook (f : F64A) (s : State) : exec (.tlook f) s = issue (.tlook f) f.pred f.pneg (tlookBody f) s := rfl
theorem exec_tins (f : F64A) (s : State) : exec (.tins f) s = issue (.tins f) f.pred f.pneg (tinsBody f) s := rfl
theorem exec_tevict (f : F64A) (s : State) : exec (.tevict f) s = issue (.tevict f) f.pred f.pneg (tevictBody f) s := rfl
theorem exec_semwait (f : F64A) (s : State) : exec (.semwait f) s = issue (.semwait f) f.pred f.pneg (semwaitBody f) s := rfl
theorem exec_semsig (f : F64A) (s : State) : exec (.semsig f) s = issue (.semsig f) f.pred f.pneg (semsigBody f) s := rfl
theorem exec_strbind (f : F64A) (s : State) : exec (.strbind f) s = issue (.strbind f) f.pred f.pneg (strbindBody f) s := rfl

/-- A source that is no queue and a destination register wait for nothing. -/
theorem run_queueWaits_sourceDest {a d : Nat} (w : BitVec 8) (u : State) (ha : NoQueue a) (hd : d < 32) :
    (queueWaits [⟨a, w, false, false⟩, ⟨d, w, true, false⟩]).run u = .ok () u :=
  run_queueWaits u (by simpa only [List.forall_mem_cons] using ⟨ha, lt_noQueue hd, by simp⟩)

/-! ## The tag table (R162, R421, R422) -/

section Tags
variable {u : State} {f : F64A}

/-- A canonical address of form 0b00 (R421). -/
def TagAddress (a : Word) : Prop := formOf a = 0 ∧ formOk a = true

theorem run_checkTagForm {a : Word} (h : TagAddress a) : (checkTagForm a).run u = .ok () u :=
  run_check_holds (by obtain ⟨h0, hok⟩ := h; simp [h0, hok])

theorem run_checkTagForm_other {a : Word} (h : ¬ TagAddress a) : (checkTagForm a).run u = .error (.trap 0x04 a none) u :=
  run_check_fails (by rw [TagAddress, not_and, Bool.not_eq_true] at h; simpa using h)

/-- TINS puts a tag into a slot: it leaves every other slot first. -/
def insertTag (tags : Assoc (BitVec 44)) (a b : Word) : Assoc (BitVec 44) :=
  Assoc.set (tags.filter (fun e => e.2 != tagOf a)) (tagSlot b) (tagOf a)

/-- The state with the tag in its slot. -/
def withTag (a b : Word) (u : State) : State := u.modTile (home u) (fun w => { w with tags := insertTag (u.tile (home u)).tags a b })

/-- The state with a slot empty. -/
def withoutTag (b : Word) (u : State) : State := u.modTile (home u) (fun w => { w with tags := Assoc.erase w.tags (tagSlot b) })

theorem run_tlookBody (hd : f.d.toNat < 32) (hf : xFree u f.d.toNat = true) (ha : xOk u f.a.toNat = true)
    (hv : TagAddress ((here u).x f.a.toNat)) :
    (tlookBody f).run u = .ok .fall (withX f.d.toNat
      (match findTag (u.tile (home u)).tags (tagOf ((here u).x f.a.toNat)) with
        | some s => BitVec.ofNat 64 s
        | none => BitVec.allOnes 64) false u) := by
  rw [tlookBody, run_bind_ok (run_queueWaits_dest _ _ hd), run_bind_ok (run_useX ha), run_bind_ok (run_checkTagForm hv),
    run_bind_ok (run_myTile u)]
  exact run_bind_ok (run_putDest _ _ _ hd hf)

theorem run_tlookBody_other (hd : f.d.toNat < 32) (ha : xOk u f.a.toNat = true) (hv : ¬ TagAddress ((here u).x f.a.toNat)) :
    (tlookBody f).run u = .error (.trap 0x04 ((here u).x f.a.toNat) none) u := by
  rw [tlookBody, run_bind_ok (run_queueWaits_dest _ _ hd), run_bind_ok (run_useX ha)]
  exact run_bind_error (run_checkTagForm_other hv)

section Insert
variable {b : Word} (hd : f.d.toNat < 32) (ha : xOk u f.a.toNat = true) (hb : scalarAt u 3 f.b f.imm16 = some b)
include hd ha hb

theorem run_tinsBody (hv : TagAddress ((here u).x f.a.toNat)) (hf : xFree (withTag ((here u).x f.a.toNat) b u) f.d.toNat = true) :
    (tinsBody f).run u = .ok .fall (withX f.d.toNat
      (tagAddress ((u.tile (home u)).tags.filter (fun e => e.2 != tagOf ((here u).x f.a.toNat))) (tagSlot b)) false
      (withTag ((here u).x f.a.toNat) b u)) := by
  rw [tinsBody, run_bind_ok (run_queueWaits_sourceDest _ _ (scalarAt_noQueue hb) hd), run_bind_ok (run_useX ha),
    run_bind_ok (run_useSource _ hb), run_bind_ok (run_checkTagForm hv), run_bind_ok (run_myTile u), run_bind_ok (run_modMyTile _ u)]
  exact run_bind_ok (run_putDest _ _ _ hd hf)

theorem run_tinsBody_other (hv : ¬ TagAddress ((here u).x f.a.toNat)) :
    (tinsBody f).run u = .error (.trap 0x04 ((here u).x f.a.toNat) none) u := by
  rw [tinsBody, run_bind_ok (run_queueWaits_sourceDest _ _ (scalarAt_noQueue hb) hd), run_bind_ok (run_useX ha),
    run_bind_ok (run_useSource _ hb)]
  exact run_bind_error (run_checkTagForm_other hv)

end Insert

theorem run_tevictBody {b : Word} (hd : f.d.toNat < 32) (hb : scalarAt u 3 f.a f.imm16 = some b)
    (hf : xFree (withoutTag b u) f.d.toNat = true) :
    (tevictBody f).run u = .ok .fall (withX f.d.toNat (tagAddress (u.tile (home u)).tags (tagSlot b)) false (withoutTag b u)) := by
  rw [tevictBody, run_bind_ok (run_queueWaits_sourceDest _ _ (scalarAt_noQueue hb) hd), run_bind_ok (run_useSource _ hb),
    run_bind_ok (run_myTile u), run_bind_ok (run_modMyTile _ u)]
  exact run_bind_ok (run_putDest _ _ _ hd hf)

end Tags

/-! ## Semaphores (R222, R413) -/

section Semaphores
variable {u : State} {f : F64A}

/-- A change of a tile that keeps its role keeps the primary of every tile. -/
theorem primaryOf_modTile {t k : Nat} {g : Tile → Tile} (hg : ∀ w, (g w).twin = w.twin) : (u.modTile t g).primaryOf k = u.primaryOf k := by
  by_cases hk : k = t
  · subst hk; simp [State.primaryOf, hg]
  · rw [State.primaryOf, State.tile_modTile_other _ _ hk, State.primaryOf]

theorem run_semwaitBody_zero (h : (u.tile (home u)).sem f.imm16.toNat = 0) : (semwaitBody f).run u = .error (.wait .sem id) u := by
  rw [semwaitBody, run_bind_ok (run_myTile u)]
  exact run_bind_error (run_waitUntil_waits (by rw [h]; rfl))

theorem run_semwaitBody (h : (u.tile (home u)).sem f.imm16.toNat ≠ 0) :
    (semwaitBody f).run u = .ok .fall (acquiresOn (semObject (u.primaryOf (home u)) f.imm16.toNat) u.focus 1
      (u.modTile (home u) (fun w => setSem f.imm16.toNat (w.sem f.imm16.toNat - 1) w))) := by
  have hpos : decide (0 < ((u.tile (home u)).sem f.imm16.toNat).toNat) = true := by
    refine decide_eq_true (Nat.pos_of_ne_zero fun h0 => h (BitVec.eq_of_toNat_eq ?_))
    exact h0
  rw [semwaitBody, run_bind_ok (run_myTile u), run_bind_ok (run_waitUntil_holds hpos), run_bind_ok (run_modMyTile _ u)]
  refine congrArg (EStateM.Result.ok Flow.fall) ?_
  exact congrArg (fun k => acquiresOn (semObject k _) _ _ _) (primaryOf_modTile fun _ => rfl)

theorem run_semsigBody_full (h : (u.tile (home u)).sem f.imm16.toNat = 255) : (semsigBody f).run u = .error (.wait .sem id) u := by
  rw [semsigBody, run_bind_ok (run_myTile u)]
  exact run_bind_error (run_waitUntil_waits (by rw [h]; rfl))

theorem run_semsigBody (h : (u.tile (home u)).sem f.imm16.toNat ≠ 255) (ho : outstanding u u.focus = 0) :
    (semsigBody f).run u = .ok .fall (latchTile (home u) 4 ((releasesOn (semObject (u.primaryOf (home u)) f.imm16.toNat) u.focus 1 u).modTile
      (home u) (fun w => setSem f.imm16.toNat (w.sem f.imm16.toNat + 1) w))) := by
  have hroom : decide (((u.tile (home u)).sem f.imm16.toNat).toNat < 255) = true := by
    have hne : ((u.tile (home u)).sem f.imm16.toNat).toNat ≠ 255 := fun h0 => h (BitVec.eq_of_toNat_eq h0)
    have hlt := ((u.tile (home u)).sem f.imm16.toNat).isLt
    exact decide_eq_true (by omega)
  have hrelease : (releaseTile f.imm16.toNat).run u = .ok () (releasesOn (semObject (u.primaryOf (home u)) f.imm16.toNat) u.focus 1 u) := by
    rw [releaseTile, run_bind_ok (EStateM.run_get u), run_bind_ok (run_waitUntil_holds (decide_eq_true ho))]
    rfl
  have hhome : home (releasesOn (semObject (u.primaryOf (home u)) f.imm16.toNat) u.focus 1 u) = home u := by
    rw [home, releasesOn, markUnseen, focus_modUnseen]; rfl
  rw [semsigBody, run_bind_ok (run_myTile u), run_bind_ok (run_waitUntil_holds hroom), run_bind_ok hrelease,
    run_bind_ok (run_myTileNo _), hhome]
  rfl

end Semaphores

/-! ## STRBIND (R163, R418) -/

/-- A stream register bound to a type and a count; its bytes stay. -/
def withStream (k : Nat) (ty : BitVec 4) (n : Nat) (u : State) : State := u.modSeq u.focus (fun q =>
  { q with sds := q.sds.setIfInBounds k { q.sds.getD k Stream.reset with bound := true, ty := ty, left := n } })

section Streams
variable {u : State} {f : F64A} {b : Word} (hb : scalarAt u 3 f.b f.imm16 = some b)
include hb

theorem run_strbindBody (h1 : 1 ≤ b.toNat) (h2 : b.toNat ≤ 65535) :
    (strbindBody f).run u = .ok .fall (withStream (f.a.toNat - 48) f.ty b.toNat u) := by
  rw [strbindBody, run_bind_ok (run_useSource _ hb), run_bind_ok (run_check_holds (by simp [h1, h2]))]
  rfl

theorem run_strbindBody_refuses (h : b = 0 ∨ 65535 < b.toNat) : (strbindBody f).run u = .error (.trap 0x01 0 none) u := by
  rw [strbindBody, run_bind_ok (run_useSource _ hb)]
  refine run_bind_error (run_check_fails ?_)
  rcases h with rfl | h
  · rfl
  · simp [Nat.not_le.mpr h]

end Streams

/-- Settles O40: each body under its conditions. -/
theorem tagsSemaphoresStreams : Obligations.TagsSemaphoresStreams := by
  unfold Obligations.TagsSemaphoresStreams
  intro s f u t tags a tag address
  refine ⟨fun b hd hfree ha => ⟨fun h => ⟨fun hv => ?tlook, fun hv => ?tlookOther⟩, fun h hb => ⟨fun hv hf => ?tins, fun hv => ?tinsOther⟩⟩,
    fun b h hb hd hf => ?tevict, ⟨fun h => ⟨fun hk => ?semwaitZero, fun hk => ?semwait⟩, fun h => ⟨fun hk => ?semsigFull, fun hk ho => ?semsig⟩⟩,
    fun b h hb => ⟨fun h1 h2 => ?strbind, fun hout => ?strbindRefuses⟩⟩
  case tlook => exact (exec_tlook f s).trans (issue_runs h (run_tlookBody hd hfree ha hv))
  case tlookOther => exact (exec_tlook f s).trans (issue_traps_unchanged h (run_tlookBody_other hd ha hv) (by decide))
  case tins => exact (exec_tins f s).trans (issue_runs h (run_tinsBody hd ha hb hv hf))
  case tinsOther => exact (exec_tins f s).trans (issue_traps_unchanged h (run_tinsBody_other hd ha hb hv) (by decide))
  case tevict => exact (exec_tevict f s).trans (issue_runs h (run_tevictBody hd hb hf))
  case semwaitZero => exact (exec_semwait f s).trans (issue_waits h (run_semwaitBody_zero hk))
  case semwait => exact (exec_semwait f s).trans (issue_runs h (run_semwaitBody hk))
  case semsigFull => exact (exec_semsig f s).trans (issue_waits h (run_semsigBody_full hk))
  case semsig => exact (exec_semsig f s).trans (issue_runs h (run_semsigBody hk ho))
  case strbind => exact (exec_strbind f s).trans (issue_runs h (run_strbindBody hb h1 h2))
  case strbindRefuses => exact (exec_strbind f s).trans (issue_illegalOperand h (run_strbindBody_refuses hb hout))

end Sys2Proof.Machine
end

section
/-! SUPPORT. Memory's list of writes that not every agent sees, over decodes and writes of any space: neither changes it but for the words
that a write passes (R198, R268-R273). -/

namespace Sys2Proof.Machine

open Sys2Proof.Claims

/-! ## Decoding -/

/-- What an operation of memory leaves, it leaves over a list. -/
theorem unseen_foldl {α : Type} {f : Mem → α → Mem} (hf : ∀ m a, (f m a).unseen = m.unseen) (l : List α) (m : Mem) :
    (l.foldl f m).unseen = m.unseen := by
  induction l generalizing m with
  | nil => rfl
  | cons a l ih => exact (ih _).trans (hf m a)

theorem unseen_setByte (m : Mem) (k : Nat) (b : Byte) : (m.setByte k b).unseen = m.unseen := rfl

theorem unseen_flipBit (m : Mem) (base b : Nat) : (m.flipBit base b).unseen = m.unseen := rfl

theorem unseen_showLine (m : Mem) (line : Nat) : (m.showLine line).unseen = m.unseen := by
  rw [Mem.showLine]
  split
  · exact unseen_showFlips ..
  · exact unseen_foldl (fun _ _ => unseen_showFlips ..) _ _

theorem unseen_decodeOpenWord (m : Mem) (free k : Nat) : (decodeOpenWord m free k).mem.unseen = m.unseen := by
  rw [decodeOpenWord]
  split
  · exact unseen_setBytes ..
  · rfl
  · exact unseen_showFlips ..

theorem unseen_decodeTagged (m : Mem) (free key : Nat) : (decodeTagged m free key).mem.unseen = m.unseen := by
  have ho := (unseen_decodeOpenWord (m.showLine (key / 8 * 8 / 64 * 64)) free (key / 8 * 8)).trans (unseen_showLine ..)
  simp only [decodeTagged]
  split
  · exact unseen_decodeWord ..
  · split <;> exact ho

theorem unseen_decodeCodewords (l : Layout) (line : Nat) (is : List Nat) (d : Decoded) :
    (decodeCodewords l line is d).mem.unseen = d.mem.unseen := by
  induction is generalizing d with
  | nil => rfl
  | cons i is ih =>
    simp only [decodeCodewords]
    refine (ih _).trans ?_
    split
    · rfl
    · split
      · rfl
      · rfl
      · rfl
      · rfl
      · split
        · exact unseen_foldl (fun _ _ => unseen_setByte ..) _ _
        · rfl
        · exact unseen_foldl (fun _ _ => unseen_flipBit ..) _ _

theorem unseen_zeroLow (m : Mem) (l : Layout) (line e : Nat) : (zeroLow m l line e).unseen = m.unseen :=
  unseen_foldl (fun _ _ => unseen_setByte ..) _ _

theorem unseen_settleLow (m : Mem) (l : Layout) (line : Nat) : (settleLow m l line).unseen = m.unseen := by
  simp only [settleLow]
  split
  · rfl
  · exact (unseen_foldl (fun _ _ => unseen_zeroLow ..) _ _).trans (unseen_foldl (fun _ _ => unseen_flipBit ..) _ _)

theorem unseen_writeBack (l : Layout) (line : Nat) (m : Mem) : (writeBack l line m).unseen = m.unseen :=
  unseen_foldl (fun _ _ => by split <;> rfl) _ m

theorem unseen_decodeLine (m : Mem) (free : Nat) (l : Layout) (line : Nat) : (decodeLine m free l line).mem.unseen = m.unseen := by
  simp only [decodeLine]
  split
  · exact (unseen_writeBack ..).trans ((unseen_decodeCodewords ..).trans (unseen_settleLow ..))
  · exact (unseen_decodeCodewords ..).trans (unseen_settleLow ..)

theorem unseen_mismatched (m : Mem) (free : Nat) (l : Layout) (e : BitVec 32) (line : Nat) :
    (mismatched m free l e line).unseen = m.unseen := unseen_showLine m line

theorem unseen_openArea (m : Mem) (free line : Nat) : (openArea m free line).1.unseen = m.unseen := by
  rw [openArea]
  generalize freeBytes free 64 = bytes
  split
  · exact unseen_setBytes { m with areas := carve line m.areas } line bytes
  · rfl

/-! ## Writing -/

theorem unseen_writeCodeword (l : Layout) (line lo : Nat) (bytes : Marked) (bad : Bool) (m : Mem) (i : Nat) :
    (writeCodeword l line lo bytes bad m i).unseen = m.unseen := by
  rw [writeCodeword]
  split
  · rfl
  · split
    · rfl
    · split <;> rfl

theorem unseen_writeLineWord (key : Nat) (bytes : Marked) (line : Nat) (m : Mem) (w : Nat) :
    (writeLineWord key bytes line m w).unseen = m.unseen := by
  rw [writeLineWord]
  split
  · exact unseen_writeWordPart ..
  · rfl

theorem unseen_writeLinePart (m : Mem) (entry : BitVec 32) (key : Nat) (bytes : Marked) :
    (writeLinePart m entry key bytes).unseen = m.unseen := by
  rw [writeLinePart]
  split
  · refine (unseen_foldl (fun _ _ => unseen_writeLineWord ..) _ _).trans ?_
    split
    · rfl
    · exact unseen_showLine ..
  · refine (unseen_foldl (fun _ _ => unseen_writeCodeword ..) _ _).trans ((unseen_setBytes ..).trans ?_)
    split <;> rfl

theorem unseen_writeUnits_everywhere (entry : BitVec 32) (fuel : Nat) (m : Mem) (key : Nat) (bytes : Marked) :
    (writeUnits entry fuel m key bytes).unseen = m.unseen := by
  induction fuel generalizing m key bytes with
  | zero => rfl
  | succ fuel ih =>
    rw [writeUnits]
    split
    · rfl
    · refine (ih ..).trans ?_
      split
      · exact unseen_writeLinePart ..
      · exact unseen_writeWordPart ..

theorem unseen_correctUnit (m : Mem) (free : Nat) (entry : BitVec 32) (base : Nat) :
    (correctUnit m free entry base).mem.unseen = m.unseen := by
  simp only [correctUnit]
  split
  · exact unseen_decodeWord ..
  · split
    · split <;> exact unseen_decodeTagged m free base
    · split
      · exact unseen_decodeLine ..
      · exact (unseen_writeBack ..).trans ((unseen_decodeLine ..).trans (unseen_mismatched ..))

theorem unseen_correctUnits_everywhere (entry : BitVec 32) (fuel : Nat) (m : Mem) (free key n : Nat) :
    (correctUnits entry fuel m free key n).mem.unseen = m.unseen := by
  induction fuel generalizing m free key n with
  | zero => rfl
  | succ fuel ih =>
    rw [correctUnits]
    split
    · rfl
    · have ho : (if isExternal key = true then openArea m free (key / 64 * 64) else (m, free)).1.unseen = m.unseen := by
        split
        · exact unseen_openArea ..
        · rfl
      refine (ih ..).trans (Eq.trans ?_ ho)
      split
      · rfl
      · exact unseen_correctUnit ..

/-- A write by anyone where every agent sees every write leaves it so. -/
theorem unseen_writeBytes {s : State} (h : s.mem.unseen = []) (p g : Nat) (entry : BitVec 32) (key : Nat) (bytes : Marked) :
    (writeBytes p g entry key bytes s).mem.unseen = [] := by
  have hw : (writeUnits entry (bytes.length / 8 + 2) (correctPart s.mem s.free entry key bytes.length).mem key bytes).unseen = [] := by
    rw [unseen_writeUnits_everywhere, correctPart, unseen_correctUnits_everywhere, h]
  simp only [writeBytes, State.modMem, mem_afterFindings, writeMarked, Mem.notice, Mem.pass, hw]
  rfl

end Sys2Proof.Machine
end

section
/-! SUPPORT. Translated accesses of a memory core: where an address of form 0b00 leads, what a load of bytes that the core owns takes and
what a store leaves, and the statement about LD and ST (R156, R165, R188, R384, R416). -/

namespace Sys2Proof.Machine

open Sys2Proof.Claims

/-! ## An address of external memory at a memory core (R156, R188) -/

/-- What the checks of R156 ask of `n` aligned bytes of external memory. -/
structure VirtualAddress (a : Word) (n : Nat) : Prop where
  ok : formOk a = true
  form : formOf a = 0
  range : rangeCause a n = none
  aligned : a.toNat % n = 0

section Locate
variable {u : State} {c n : Nat} {a : Word} {acc : Access} (hc : u.focus = .m c) (h : VirtualAddress a n)
include h

theorem VirtualAddress.run_checkAddress : (checkAddress a n n).run u = .ok () u := by
  have hs : shutOut u u.focus a = false := by rw [shutOut, h.form]; rfl
  simp only [checkAddress, EStateM.run_bind, EStateM.run_get, run_check, h.ok, hs, Bool.not_false, Bool.and_self, if_true, h.range, h.aligned,
    decide_true, h.form, EStateM.run_pure, if_false, zero_ne_one]

include hc

/-- A memory core's access leads where the TLB's entry says, or stops as the lookup does. -/
theorem run_locate_core (q : Bool) : (locate a n n acc [] q).run u = match lookup (u.mcore c).tlb (u.partOf u.focus) a.toNat acc with
    | .hit e => .ok (.inl (entryPlace u e a.toNat)) u
    | .miss => .error (.trap 0x07 a (some acc)) u
    | .denied => .error (.trap 0x08 a none) u := by
  have htlb : tlbOf u u.focus = (u.mcore c).tlb := by rw [hc]; rfl
  have h1 : ¬ formOf a = 1 := by rw [h.form]; decide
  have hl : ∀ {r}, (resolve a n n acc).run u = r → (locate a n n acc [] q).run u = match r with
      | .ok p t => .ok (.inl p) t
      | .error e t => .error e t := by
    rintro r rfl
    rw [locate, run_bind_ok (EStateM.run_get u), hc]
    simp only [EStateM.run_bind, h.form, if_true]
    cases (resolve a n n acc).run u <;> rfl
  refine (hl rfl).trans ?_
  rw [resolve, run_bind_ok h.run_checkAddress, run_bind_ok (EStateM.run_get u), if_neg h1]
  simp only [translate, EStateM.run_bind, EStateM.run_get, htlb]
  cases lookup (u.mcore c).tlb (u.partOf u.focus) a.toNat acc <;> rfl

end Locate

/-- A memory core belongs to no pair. -/
theorem solo_core {u : State} {c : Nat} (hc : u.focus = .m c) (hu : Calm u) : Solo u :=
  ⟨fun t ht => (by rw [hc] at ht; cases ht), hu⟩

theorem role_core {u : State} {c : Nat} (hc : u.focus = .m c) : role u = .alone := by
  rw [role, memberOf, hc]
  rfl

theorem focus_writeBytes (p g : Nat) (entry : BitVec 32) (key : Nat) (bytes : Marked) (u : State) : (writeBytes p g entry key bytes u).focus = u.focus :=
  (((DiffersInFindings.refl u).afterFindings p g (correctPart u.mem u.free entry key bytes.length)).decoded _ _).focus

/-! ## What a load takes -/

/-- A read gives at most the bytes that are asked for. -/
theorem length_readUnits_le (entry : BitVec 32) (fuel : Nat) (m : Mem) (free key n : Nat) :
    (readUnits entry fuel m free key n).bytes.length ≤ n := by
  induction fuel generalizing m free key n with
  | zero => exact Nat.zero_le _
  | succ fuel ih =>
    rw [readUnits]
    split
    · exact Nat.zero_le _
    · simp only [List.length_append, List.length_take]
      exact (Nat.add_le_add (Nat.min_le_left ..) (ih ..)).trans (Nat.le_of_eq (Nat.add_sub_cancel' (Nat.min_le_left ..)))

/-- Bytes without marks keep their values, and none is poison. -/
theorem zip_unmarked {bs : List Byte} {n : Nat} (h : bs.length ≤ n) :
    Marked.bytes (bs.zip (List.replicate n false)) = bs ∧ Marked.poisoned (bs.zip (List.replicate n false)) = false := by
  refine ⟨List.map_fst_zip (by simpa using h), ?_⟩
  rw [Marked.poisoned, List.any_eq_false]
  intro e he
  simp [List.eq_of_mem_replicate (List.of_mem_zip he).2]

/-- A plain read where every agent sees every write goes back before none. -/
theorem run_view_calm {s : State} (h : Calm s) (q : SeqId) (key : Nat) (bs : Marked) : (view q key bs).run s = .ok bs s := by
  obtain ⟨h0, hu⟩ := h
  have hstale : stale s q key bs.length = [] := by
    rw [stale, staleTo]
    split
    · simp [h0]
    · rfl
  rw [view, run_bind_ok (EStateM.run_get s)]
  simp only [hstale, reads, modUnseen_calm hu]
  rfl

section Piece
variable {u : State} {c n key : Nat} {leaf : Word} (hc : u.focus = .m c) (hw : leaf.getLsbD 7 = false)

include hw in
theorem inWindow_weak (q : SeqId) : inWindow q (.ext key leaf) = false := by rw [inWindow, hw]; rfl

include hw in
theorem run_strongBefore_weak : (strongBefore (.ext key leaf)).run u = .ok () u := by
  have hs : strong (.ext key leaf) = false := hw
  rw [strongBefore, hs]
  rfl

/-- No earlier request of the sequencer touches the words. -/
theorem run_ownOrder_ext (hf : inFlight u u.focus (wordsOf key n) = false) : (ownOrder (.ext key leaf) n).run u = .ok () u := by
  have hf' : inFlight u u.focus (wordsOf (Place.ext key leaf).key n) = false := hf
  rw [ownOrder, run_bind_ok (EStateM.run_get u), run_bind_ok (run_waitUntil_holds (by rw [hf']; rfl))]
  rfl

section Load
variable {bs : List Byte} (hi : installed key = true) (hu : Calm u)
  (hr : readDecoded u.mem u.free (leafEntry u (u.partOf u.focus) leaf) key n = ⟨bs, List.replicate n false, [], u.mem, u.free⟩)
include hw hi hr

theorem run_heldAt_ext : (heldAt (.ext key leaf) n).run u = .ok (bs.zip (List.replicate n false)) u := by
  have hfetch : (fetchBytes (u.partOf u.focus) (u.gangOf u.focus) (leafEntry u (u.partOf u.focus) leaf) key n).run u =
      .ok (bs, List.replicate n false) u := by
    rw [fetchBytes, run_bind_ok (EStateM.run_get u), if_neg (by rw [hi]; simp), hr]
    rfl
  rw [heldAt, run_bind_ok (EStateM.run_get u), inWindow_weak hw]
  exact run_bind_ok hfetch

include hu

theorem run_plainBytes_ext : (plainBytes (.ext key leaf) n).run u = .ok (bs.zip (List.replicate n false)) u :=
  (run_bind_ok (EStateM.run_get u)).trans ((run_bind_ok (run_heldAt_ext hw hi hr)).trans (run_view_calm hu ..))

theorem run_getBytes_ext : (getBytes (.ext key leaf) n).run u = .ok (bs.zip (List.replicate n false)) u :=
  (run_bind_ok (run_heldAt_ext hw hi hr)).trans ((run_bind_ok (EStateM.run_get u)).trans (run_bind_ok (run_viewNewest hu.2 ..)))

end Load

/-- A store writes its bytes with their marks at the frame. -/
theorem run_putPlain_ext (hw : leaf.getLsbD 7 = false) (hi : installed key = true) (hu : Calm u) (bytes : Marked) :
    (putPlain (.ext key leaf) bytes).run u =
      .ok () (writeBytes (u.partOf u.focus) (u.gangOf u.focus) (leafEntry u (u.partOf u.focus) leaf) key bytes u) := by
  have hs : strong (.ext key leaf) = false := hw
  have hput : (putBytes (.ext key leaf) bytes).run u =
      .ok () (writeBytes (u.partOf u.focus) (u.gangOf u.focus) (leafEntry u (u.partOf u.focus) leaf) key bytes u) := by
    rw [putBytes, run_bind_ok (EStateM.run_get u)]
    simp only [inWindow_weak hw, Bool.false_eq_true, if_false, storeMarked, hi, Bool.not_true, Bool.and_false, EStateM.run_modify]
  rw [putPlain, run_bind_ok (EStateM.run_get u), run_bind_ok hput, hs]
  simp only [Bool.not_false, if_true, EStateM.run_bind, EStateM.run_modify, hidePlain, hide_calm hu.1, ite_self, noteWrite,
    wrote_calm (unseen_writeBytes hu.2 ..)]

end Piece

/-! ## The bodies -/

section Bodies
variable {u : State} {f : F64M} {c : Nat} (hc : u.focus = .m c) (hfe : f.fe = 0) (hd : f.d.toNat < 32) (hb : xOk u f.base.toNat = true)
include hfe hd hb

/-- LD and ST come to the place of their address first. -/
theorem run_access_stops {e : Stop} (acc : Access) (ha : ∀ q, (locate (addressOf u f) (tyWidth f.ty.toNat / 8) (tyWidth f.ty.toNat / 8) acc [] q).run u =
    .error e u) : (acc = .read → (ldBody f).run u = .error e u) ∧ (acc = .write → (stBody f).run u = .error e u) := by
  have hp : ¬ f.fe ≠ 0 := not_not.mpr hfe
  constructor <;> rintro rfl
  · rw [ldBody, run_bind_ok (run_queueWaits_dest _ _ hd), run_bind_ok (run_baseAddress hb), if_neg hp]
    exact run_bind_error (ha _)
  · rw [stBody, run_bind_ok (run_queueWaits u (by simpa using lt_noQueue hd)), run_bind_ok (run_baseAddress hb), if_neg hp]
    exact run_bind_error (ha _)

section Hit
variable {key : Nat} {leaf : Word} (hw : leaf.getLsbD 7 = false) (hown : isOwn u.focus (.ext key leaf) = true) (hi : installed key = true)
  (hf : inFlight u u.focus (wordsOf key (tyWidth f.ty.toNat / 8)) = false) (hu : Calm u) (hx : xFree u f.d.toNat = true)
include hw hown hi hf hu hx

theorem run_ldBody_own {bs : List Byte}
    (ha : ∀ q, (locate (addressOf u f) (tyWidth f.ty.toNat / 8) (tyWidth f.ty.toNat / 8) .read [] q).run u = .ok (.inl (.ext key leaf)) u)
    (hr : readDecoded u.mem u.free (leafEntry u (u.partOf u.focus) leaf) key (tyWidth f.ty.toNat / 8) =
      ⟨bs, List.replicate (tyWidth f.ty.toNat / 8) false, [], u.mem, u.free⟩) :
    (ldBody f).run u = .ok .fall (withX f.d.toNat (extend f.ty.toNat (ofBytes bs)) false u) := by
  have hs : strong (.ext key leaf) = false := hw
  obtain ⟨hbytes, hclean⟩ := zip_unmarked (bs := bs) (n := tyWidth f.ty.toNat / 8)
    (by have := length_readUnits_le (leafEntry u (u.partOf u.focus) leaf) (tyWidth f.ty.toNat / 8 / 8 + 2) u.mem u.free key (tyWidth f.ty.toNat / 8)
        rwa [← readDecoded, hr] at this)
  rw [ldBody, run_bind_ok (run_queueWaits_dest _ _ hd), run_bind_ok (run_baseAddress hb), if_neg (not_not.mpr hfe), run_bind_ok (ha _)]
  refine (run_bind_ok (run_strongBefore_weak hw)).trans ((run_bind_ok (EStateM.run_get u)).trans ?_)
  rw [if_pos hfe, hown]
  refine (run_bind_ok (run_ownOrder_ext hf)).trans ?_
  rw [hs, Bool.or_false, Sync.at_, hs]
  have hend : ∀ b, (syncOwn (syncOf f false b) (.ext key leaf) >>= fun _ =>
      loadInto f.ty.toNat f.d.toNat (ofBytes (Marked.bytes (bs.zip (List.replicate (tyWidth f.ty.toNat / 8) false))))
        (Marked.poisoned (bs.zip (List.replicate (tyWidth f.ty.toNat / 8) false))) >>= fun _ => pure Flow.fall).run u =
      .ok .fall (withX f.d.toNat (extend f.ty.toNat (ofBytes bs)) false u) := by
    intro b
    rw [hbytes, hclean]
    exact (run_bind_ok (run_syncOwn_calm hu.2 ..)).trans (run_bind_ok (run_putDest _ _ _ hd hx))
  cases f.ord == 1
  · exact (run_bind_ok (run_plainBytes_ext hw hi hu hr)).trans (hend _)
  · exact (run_bind_ok (run_getBytes_ext hw hi hu hr)).trans (hend _)

include hc in
theorem run_stBody_own
    (ha : ∀ q, (locate (addressOf u f) (tyWidth f.ty.toNat / 8) (tyWidth f.ty.toNat / 8) .write [] q).run u = .ok (.inl (.ext key leaf)) u)
    (hack : f.ord = 2 → acknowledged u = true) :
    (stBody f).run u = .ok .fall (writeBytes (u.partOf u.focus) (u.gangOf u.focus) (leafEntry u (u.partOf u.focus) leaf) key
      (marked (toBytes (tyWidth f.ty.toNat / 8) ((here u).x f.d.toNat).toNat) (f.d.toNat != 0 && (here u).xPoison.getLsbD f.d.toNat)) u) := by
  have hsolo := solo_core hc hu
  have hfe2 : (f.fe == 2) = false := by rw [hfe]; rfl
  have hrel : ∀ b, ((f.ord == 2 || f.fe == 2) && !b) = true → (releaseAt false f.sc.toNat).run u = .ok () u := fun b h =>
    run_releaseAt_solo hsolo (hack (by simpa only [hfe2, Bool.or_false, beq_iff_eq] using (Bool.and_eq_true_iff.mp h).1)) _
  obtain ⟨b, hwait⟩ := run_waits .word u
  rw [stBody, run_bind_ok (run_queueWaits u (by simpa using lt_noQueue hd)), run_bind_ok (run_baseAddress hb), if_neg (not_not.mpr hfe),
    run_bind_ok (ha _)]
  refine (run_bind_ok (run_source_register hd hx)).trans ((run_bind_ok hwait).trans ((run_bind_ok (run_outsidePair_solo hsolo _)).trans
    ((run_when_bind (hrel b)).trans ((run_bind_ok (run_strongBefore_weak hw)).trans ((run_bind_ok (EStateM.run_get u)).trans ?_)))))
  rw [if_pos hfe, hown]
  have hcalm := unseen_writeBytes (s := u) hu.2 (u.partOf u.focus) (u.gangOf u.focus) (leafEntry u (u.partOf u.focus) leaf) key
    (marked (toBytes (tyWidth f.ty.toNat / 8) ((here u).x f.d.toNat).toNat) (f.d.toNat != 0 && (here u).xPoison.getLsbD f.d.toNat))
  refine (run_bind_ok (run_ownOrder_ext hf)).trans ((run_bind_ok (run_putPlain_ext hw hi hu _)).trans
    ((run_bind_ok (run_syncOwn_calm hcalm ..)).trans ((run_bind_ok (run_takeIn ..)).trans ?_)))
  rw [noted_alone _ (role_core ((focus_writeBytes ..).trans hc))]
  rfl

end Hit
end Bodies

/-- Settles O28: the address leads where the lookup says, and the bodies do there what the core does with bytes of its own. -/
theorem translatedAccessesOfTheOwner : Obligations.TranslatedAccessesOfTheOwner := by
  unfold Obligations.TranslatedAccessesOfTheOwner
  intro s c i f hfocus hi h hfe u n d a acc key entry hb hd hx hok hform hrange hal
  have hc : u.focus = .m c := (focus_issued s).trans hfocus
  have ha : VirtualAddress a n := ⟨hok, hform, hrange, hal⟩
  have hne : Instr.st f ≠ Instr.ld f := by simp
  have hloc : ∀ q, _ := fun q => run_locate_core (acc := acc) hc ha q
  have hweak : ∀ e : TlbEntry, e.leaf.getLsbD 7 = false → (e.leaf.setWidth 64 : Word).getLsbD 7 = false := fun e hw => by
    rw [BitVec.getLsbD_setWidth, hw, Bool.and_false]
  refine ⟨fun hl => ?denied, fun hl => ?miss, fun e hl hw hown hinst hfl => ⟨fun bs hcalm hld hr => ?load, fun hcalm hst hack => ?store⟩⟩
  case denied =>
    obtain ⟨hld, hst⟩ := run_access_stops hfe hd hb acc (fun q => (hloc q).trans (by rw [hl]))
    rcases hi with rfl | rfl
    · exact (exec_ld f s).trans (issue_traps_unchanged h (hld (if_pos rfl)) (by decide))
    · exact (exec_st f s).trans (issue_traps_unchanged h (hst (if_neg hne)) (by decide))
  case miss =>
    obtain ⟨hld, hst⟩ := run_access_stops hfe hd hb acc (fun q => (hloc q).trans (by rw [hl]))
    rcases hi with rfl | rfl
    · exact (exec_ld f s).trans (issue_traps h (hld (if_pos rfl)))
    · exact (exec_st f s).trans (issue_traps h (hst (if_neg hne)))
  case load =>
    have hacc : acc = .read := if_pos hld
    rw [hacc] at hl hloc
    rw [hld] at h ⊢
    refine (exec_ld f s).trans (issue_runs h (run_ldBody_own hfe hd hb (hweak e hw) hown hinst hfl hcalm hx (fun q => ?_) hr))
    rw [hloc q, hl]
    rfl
  case store =>
    have hacc : acc = .write := if_neg (hst ▸ hne)
    rw [hacc] at hl hloc
    rw [hst] at h ⊢
    refine (exec_st f s).trans (issue_runs h (run_stBody_own hc hfe hd hb (hweak e hw) hown hinst hfl hcalm hx (fun q => ?_) hack))
    rw [hloc q, hl]
    rfl

end Sys2Proof.Machine
end

section
/-! SUPPORT. The commands of a tile's engines as they are appended and published outside a pair where every agent sees every write: the
checks of COPY, GET, PUTS and COLL within scratchpads, and what each command instruction does (R163, R171-R177, R263, R353, R380, R405). -/

namespace Sys2Proof.Machine

open Sys2Proof.Claims

theorem exec_copy (f : F96E) (s : State) : exec (.copy f) s = issue (.copy f) f.pred f.pneg (copyBody f) s := rfl
theorem exec_get (f : F96E) (s : State) : exec (.get f) s = issue (.get f) f.pred f.pneg (getBody f) s := rfl
theorem exec_puts (f : F128C) (s : State) : exec (.puts f) s = issue (.puts f) f.pred f.pneg (putsBody f) s := rfl
theorem exec_coll (f : F128C) (s : State) : exec (.coll f) s = issue (.coll f) f.pred f.pneg (collBody f) s := rfl

/-! ## Appending and publishing (R171, R173) -/

section Append
variable {u : State} {t : Nat} (e : Nat) (op : CmdOp) (wait : CmdWait) (record : Option Nat) (spans : List Span)

theorem mem_withCommand : (withCommand t e op wait record spans u).mem = u.mem := by
  rw [withCommand, State.mem_modSeq, State.mem_modEngine]

theorem fabric_withCommand : (withCommand t e op wait record spans u).fabric = u.fabric := by
  rw [withCommand, State.fabric_modSeq, State.fabric_modEngine]

theorem keeps_modEngine {s v : State} (h : KeepsSingles s v) (k : Nat) (g : Engine → Engine) : KeepsSingles s (v.modEngine k e g) :=
  h.modTile k fun w hw => by
    by_cases he : e = 0
    · rw [if_pos he]; exact hw
    · rw [if_neg he]; exact hw

theorem keeps_withCommand : KeepsSingles u (withCommand t e op wait record spans u) := by
  have hf : KeepsSingles u { u with free := u.free + 1 } := (KeepsSingles.refl u).of_tiles rfl rfl
  rw [withCommand]
  exact (keeps_modEngine e hf t _).modSeq ..

theorem keeps_publishAll {s v : State} (h : KeepsSingles s v) (k n : Nat) : KeepsSingles s (publishAll k e n v) := by
  refine (keeps_modEngine e h k _).foldl (fun w c hw => ?_) _
  rw [markRecord]
  split
  · exact hw.writeScratch ..
  · exact hw

/-- A command joins its engine, and its firing has begun it; a tile in no pair keeps no checkpoint of it. -/
theorem run_appendCmd (hs : Single u) (ht : State.tileOf u.focus = some t) :
    (appendCmd t e op wait record spans).run u = .ok (u.engine t e).next (withCommand t e op wait record spans u) := by
  have hp : ¬ (isGondola (u.seq u.focus) && u.paired t) = true := by rw [hs.paired_false ht, Bool.and_false]; exact Bool.false_ne_true
  rw [appendCmd, run_bind_ok (EStateM.run_get u)]
  exact (run_bind_ok (EStateM.run_set ..)).trans ((congrArg (EStateM.run · _) (if_neg hp)).trans rfl)

/-- The fork of commands marks no write where there is none that an agent need not see. -/
theorem run_forkAppended_calm {v : State} (h : v.mem.unseen = []) (n : Nat) : (forkAppended t e n).run v = .ok () v := by
  have hf : ∀ l : List Cmd, l.foldl (fun s c => forked t e c.number s.focus s) v = v := fun l => by
    induction l with
    | nil => rfl
    | cons c l ih => rw [List.foldl_cons, forked, markUnseen_calm h]; exact ih
  rw [forkAppended, EStateM.run_modify, hf]

theorem run_publishOrHold_alone {v : State} (h : role v = .alone) (n : Nat) : (publishOrHold t e n).run v = .ok () (publishAll t e n v) := by
  rw [publishOrHold, run_bind_ok (run_myTwin v), h]
  rfl

theorem run_engineTile (hs : Solo u) (ht : State.tileOf u.focus = some t) : engineTile.run u = .ok t u := by
  rw [engineTile, run_bind_ok (EStateM.run_get u), ht]
  exact congrArg (EStateM.Result.ok · u) (primaryOf_solo hs ht)

end Append

/-! ## A command instruction -/

section Command
variable {u : State} {t : Nat} (hs : Solo u) (ht : State.tileOf u.focus = some t) {e : Nat} {prepare : Exec (CmdOp × List Span)}

/-- A command's checks that stop do so before anything else. -/
theorem run_commandBody_stops {z : Stop} (hs : Solo u) (hp : prepare.run u = .error z u) (i : Instr) (d : Nat) (ws : List Word) :
    (commandBody e i d ws prepare).run u = .error z u := by
  rw [commandBody]
  refine run_bind_error ?_
  rw [run_echoed1_alone (solo_alone hs), issueCommand]
  exact run_bind_error hp

variable {op : CmdOp} {spans : List Span} (hp : prepare.run u = .ok (op, spans) u)
include hs ht hp

theorem run_commandBody_full (hh : 64 ≤ (u.engine t e).held) (i : Instr) (d : Nat) (ws : List Word) :
    (commandBody e i d ws prepare).run u = .error (.wait .limit id) u := by
  rw [commandBody]
  refine run_bind_error ?_
  rw [run_echoed1_alone (solo_alone hs), issueCommand, run_bind_ok hp]
  refine (run_bind_ok (run_engineTile hs ht)).trans ((run_bind_ok (EStateM.run_get u)).trans (run_bind_error (run_waitUntil_waits ?_)))
  exact decide_eq_false (Nat.not_lt.mpr hh)

/-- One command is appended and published with every earlier one of its engine; D is its number. -/
theorem run_commandBody (hh : (u.engine t e).held < 64) (hack : acknowledged u = true) (i : Instr) (d : Nat) (ws : List Word)
    (hd : xFree (publishAll t e (u.engine t e).next (withCommand t e op .none none spans u)) d = true) :
    (commandBody e i d ws prepare).run u = .ok .fall (withX d (BitVec.ofNat 64 (u.engine t e).next) false
      (publishAll t e (u.engine t e).next (withCommand t e op .none none spans u))) := by
  have hsingle := single_of_solo hs
  have hc := keeps_withCommand (u := u) (t := t) e op .none none spans
  have hk := keeps_publishAll e hc t (u.engine t e).next
  have hissue : (issueCommand e prepare).run u = .ok (BitVec.ofNat 64 (u.engine t e).next)
      (publishAll t e (u.engine t e).next (withCommand t e op .none none spans u)) := by
    rw [issueCommand, run_bind_ok hp]
    refine (run_bind_ok (run_engineTile hs ht)).trans ((run_bind_ok (EStateM.run_get u)).trans ((run_bind_ok (run_waitUntil_holds
      (decide_eq_true hh))).trans ((run_bind_ok (run_awaitAcks (acknowledged_iff.mp hack).1)).trans ((run_bind_ok
      (run_appendCmd e op .none none spans hsingle ht)).trans ((run_bind_ok (run_forkAppended_calm e ?_ _)).trans
      (run_bind_ok (run_publishOrHold_alone e (hc.single_focus hsingle).alone _)))))))
    rw [mem_withCommand]
    exact hs.2.2
  have halone := (hk.single_focus hsingle).alone
  rw [commandBody, run_bind_ok ((run_echoed1_alone (solo_alone hs) _).trans hissue), run_bind_ok (run_putX _ _ hd)]
  have hx := role_withX_alone halone d (BitVec.ofNat 64 (u.engine t e).next) false
  rw [run_bind_ok (run_takeIn ..), noted_alone _ hx]
  exact run_bind_ok (run_closeAfter_role hx)

end Command

end Sys2Proof.Machine
end

section
/-! SUPPORT. The checks of COPY, GET, PUTS and COLL within scratchpads (R156, R174-R177, R263). -/

namespace Sys2Proof.Machine

open Sys2Proof.Claims

/-! ## Ranges in scratchpads (R156) -/

/-- What `scratchRange` says of a range of a scratchpad of the issuing module. -/
structure ScratchRange (u : State) (a : Word) (n align : Nat) : Prop where
  ok : formOk a = true
  form : formOf a = 1
  device : deviceOf a = u.host.devid.toNat
  range : rangeCause a n = none
  aligned : a.toNat % align = 0
  reach : mayReach u u.focus (gtileOf u a) = true

theorem scratchRange_elim {u : State} {a : Word} {n align : Nat} (h : scratchRange u a n align = true) : ScratchRange u a n align := by
  simp only [scratchRange, Bool.and_eq_true, beq_iff_eq, decide_eq_true_eq, Option.isNone_iff_eq_none] at h
  obtain ⟨⟨⟨⟨⟨hok, hform⟩, hdev⟩, hrange⟩, hal⟩, hreach⟩ := h
  exact ⟨hok, hform, hdev, hrange, hal, hreach⟩

section Ranges
variable {u : State} {a : Word} {n align : Nat}

section
variable (h : ScratchRange u a n align)
include h

theorem ScratchRange.run_checkAddress : (checkAddress a n align).run u = .ok () u := by
  have hs : shutOut u u.focus a = false := by simp [shutOut, h.device]
  simp only [checkAddress, EStateM.run_bind, EStateM.run_get, run_check, h.ok, hs, Bool.not_false, Bool.and_self, if_true, h.range, h.aligned,
    decide_true, h.form, h.reach]

/-- A range of a scratchpad passes the checks of a command and crosses no page. -/
theorem ScratchRange.run_takeSpans (acc : Access) (peer : Bool) : (takeSpans a n align acc peer).run u = .ok [] u := by
  rw [takeSpans, run_bind_ok (EStateM.run_get u), run_bind_ok (run_check_holds (by simp [h.device])), run_bind_ok h.run_checkAddress, if_pos h.form]
  rfl

theorem ScratchRange.isOwnScratch {t : Nat} (hs : Solo u) (ht : State.tileOf u.focus = some t) (hg : gtileOf u a = t) :
    isOwnScratch u a = true := by
  rw [Machine.isOwnScratch, mirrored_solo hs, hg, ht, h.ok]
  simp [h.form]

end

/-! ## COPY, GET and PUTS (R174-R177) -/

variable {b c : Word}

theorem run_prepareCopy_bytes (hn : c.toNat < 2 ^ 40) (ha : ScratchRange u a c.toNat 1) (hb : ScratchRange u b c.toNat 1) :
    (prepareCopy a b c 0).run u = .ok (.copy a b c 0, []) u := by
  have hd : (takeDestination a 0 c.toNat).run u = .ok [] u :=
    (run_bind_ok (EStateM.run_get u)).trans ((congrArg (EStateM.run · u) (if_pos rfl)).trans (ha.run_takeSpans ..))
  have hsrc : (takeSources b c 0 c.toNat).run u = .ok [] u := hb.run_takeSpans ..
  rw [prepareCopy]
  refine (run_bind_ok (run_check_holds ?_)).trans ((run_bind_ok hd).trans ((run_bind_ok hsrc).trans rfl))
  simpa [copyMode, copyEs, copyCount, copyDkind, copySlot, copySq] using hn

variable {t : Nat} (hs : Solo u) (ht : State.tileOf u.focus = some t) (hn : c.toNat < 2 ^ 40) (ha : ScratchRange u a c.toNat 1)
  (hb : ScratchRange u b c.toNat 1)
include hs ht hn ha hb

theorem run_prepareGet_own (hg : gtileOf u a = t) : (prepareGet a b c).run u = .ok (.get a b c, []) u := by
  rw [prepareGet, run_bind_ok (run_check_holds (decide_eq_true hn)), run_bind_ok (EStateM.run_get u),
    run_bind_ok (run_check_holds (ha.isOwnScratch hs ht hg)), run_bind_ok (ha.run_takeSpans ..), run_bind_ok (hb.run_takeSpans ..)]
  rfl

theorem run_preparePuts_own (hg : gtileOf u b = t) : (preparePuts a b c 0 0).run u = .ok (.puts a b c 0 0, []) u := by
  rw [preparePuts, run_bind_ok (run_check_holds (by simpa using hn)), run_bind_ok (EStateM.run_get u),
    run_bind_ok (run_check_holds (by rw [hb.isOwnScratch hs ht hg, Bool.or_true])), run_bind_ok (hb.run_takeSpans ..), run_bind_ok (ha.run_takeSpans ..)]
  rfl

end Ranges

/-- A range of the issuing tile's own scratchpad. -/
theorem run_ownRange {u : State} {t n w : Nat} {a : Word} (hs : Solo u) (ht : State.tileOf u.focus = some t) (h : ScratchRange u a n w)
    (hg : gtileOf u a = t) : (ownRange a n w).run u = .ok () u := by
  rw [ownRange, run_bind_ok (EStateM.run_get u), run_bind_ok (run_check_holds (h.isOwnScratch hs ht hg)), h.run_checkAddress]

/-! ## COLL's descriptor (R263) -/

section Words

theorem ofBytes_append (as bs : List Byte) : ofBytes (as ++ bs) = ofBytes as + 256 ^ as.length * ofBytes bs := by
  induction as with
  | nil => simp [ofBytes]
  | cons a as ih => rw [List.cons_append, ofBytes, ih, ofBytes, List.length_cons, Nat.pow_succ']; ring

theorem wordAt_lt (m : Mem) (key n : Nat) : wordAt m key n < 256 ^ n := by
  have h := ofBytes_lt (m.bytes key n)
  rwa [length_bytes] at h

theorem toNat_wordAt {m : Mem} {key n : Nat} (h : n ≤ 8) : (BitVec.ofNat 64 (wordAt m key n)).toNat = wordAt m key n :=
  toNat_ofNat_ofBytes (by rwa [length_bytes])

/-- A word of 8 bytes is its low half and its high half. -/
theorem wordAt_halves (m : Mem) (key : Nat) : wordAt m key 8 = wordAt m key 4 + 2 ^ 32 * wordAt m (key + 4) 4 := by
  rw [wordAt, bytes_add m key 4 4, ofBytes_append, length_bytes]
  rfl

/-- The 32-bit values of a descriptor stand one after another in its bytes. -/
theorem descriptorWords_eq (m : Mem) (key n : Nat) :
    descriptorWords ((List.range ((n + 1) / 2)).map (fun i => BitVec.ofNat 64 (wordAt m (key + 8 * i) 8))) n =
      (List.range n).map (fun k => wordAt m (key + 4 * k) 4) := by
  refine List.map_congr_left fun i hi => ?_
  have hi := List.mem_range.mp hi
  have hlow := wordAt_lt m (key + 8 * (i / 2)) 4
  have hhigh := wordAt_lt m (key + 8 * (i / 2) + 4) 4
  rw [List.getD_eq_getElem _ _ (by simp; omega), List.getElem_map, List.getElem_range, toNat_wordAt (Nat.le_refl 8), wordAt_halves]
  obtain h | h : i % 2 = 0 ∨ i % 2 = 1 := by omega
  · rw [h, show key + 4 * i = key + 8 * (i / 2) by omega]
    omega
  · rw [h, show key + 4 * i = key + 8 * (i / 2) + 4 by omega]
    omega

theorem distinct_of_nodup {l : List (Nat × Nat)} (h : l.Nodup) : distinct l = true := by
  induction l with
  | nil => rfl
  | cons p l ih =>
    obtain ⟨hp, hl⟩ := List.nodup_cons.mp h
    simp [distinct, hp, ih hl]

/-- Clean words of the issuing tile's scratchpad at an offset; the address names them in a trap. -/
theorem run_ownWords_at {u : State} {t off n : Nat} (hs : Solo u) (hq : u.focus = .a t) (hfree : ∀ l, inFlight u u.focus l = false)
    (hn : off + 8 * n ≤ 2 ^ 20) (hc : Claims.cleanBytes u.mem (scratchKey t off) (8 * n) = true) (a : Word) :
    (ownWords a off n).run u = .ok ((List.range n).map (fun i => BitVec.ofNat 64 (wordAt u.mem (scratchKey t off + 8 * i) 8))) u := by
  have ht : State.tileOf u.focus = some t := by rw [hq]; rfl
  have hhome : home u = t := tileOf_home ht
  rw [ownWords]
  refine (run_bind_ok (run_myTileNo u)).trans (run_mapM fun i hi => ?_)
  have hi := List.mem_range.mp hi
  have hpart := cleanBytes_part (i := 8 * i) (m := 8) (by omega) hc
  rw [scratch_add] at hpart ⊢
  rw [hhome]
  refine (run_bind_ok (run_takeScratch (solo_alone hs) (by omega) (by omega) (.inl ht) (hfree _) (by rw [hq]; rfl) hs.2.2 hpart)).trans ?_
  rw [poisoned_marked, bytes_marked]
  rfl

end Words

/-- What a descriptor at an offset of a tile's scratchpad must hold: its limits, and participants that are distinct and include the issuer. -/
structure Descriptor (u : State) (t off head m : Nat) (members : List Nat) (ranks : List (Nat × Nat)) : Prop where
  head_eq : head = wordAt u.mem (scratchKey t off) 8
  count : m = head % 2 ^ 16
  members_eq : members = (List.range m).map (fun k => wordAt u.mem (scratchKey t (off + 8) + 4 * k) 4)
  ranks_eq : ranks = members.map (fun w => (w % 256, w / 256 % 2048))
  least : 2 ≤ m
  most : m ≤ 4096
  spare : head / 2 ^ 24 % 2 ^ 8 = 0
  fits : off + 8 + 4 * m ≤ 2 ^ 20
  whole : off % 8 = 0
  clean : Claims.cleanBytes u.mem (scratchKey t off) (8 + 8 * ((m + 1) / 2)) = true
  small : members.all (fun w => decide (w < 2 ^ 19)) = true
  nodup : ranks.Nodup
  issuer : (u.host.devid.toNat, (u.tile t).index) ∈ ranks

section Descriptor
variable {u : State} {t head m : Nat} {members : List Nat} {ranks : List (Nat × Nat)} {f : F128C} (hs : Solo u) (hq : u.focus = .a t)
  (hfree : ∀ l, inFlight u u.focus l = false) (h : Descriptor u t f.imm64.toNat head m members ranks)
  (hroot : if collKind f = 1 ∨ collKind f = 2 then collRoot f < m else collRoot f = 0)
include hs hq hfree h hroot

theorem run_readDescriptor : (readDescriptor f).run u = .ok (BitVec.ofNat 32 (head / 2 ^ 32), ranks) u := by
  have ht : State.tileOf u.focus = some t := by rw [hq]; rfl
  obtain ⟨rfl, hm, hmem, hranks, hleast, hmost, hspare, hfits, hwhole, hclean, hsmall, hnodup, hissuer⟩ := h
  have hword := toNat_wordAt (m := u.mem) (key := scratchKey t f.imm64.toNat) (Nat.le_refl 8)
  have hfirst : Claims.cleanBytes u.mem (scratchKey t f.imm64.toNat) (8 * 1) = true := by
    have hpart := cleanBytes_part (i := 0) (m := 8) (by omega) hclean
    rwa [Nat.add_zero] at hpart
  have hhead : ∀ a, (ownWords a f.imm64.toNat 1).run u = .ok [BitVec.ofNat 64 (wordAt u.mem (scratchKey t f.imm64.toNat) 8)] u :=
    fun a => by
      rw [run_ownWords_at hs hq hfree (by omega) hfirst a, show List.range 1 = [0] from rfl,
        List.map_singleton, Nat.mul_zero, Nat.add_zero]
  have hlist : ∀ a, (ownWords a (f.imm64.toNat + 8) ((m + 1) / 2)).run u = .ok _ u :=
    run_ownWords_at hs hq hfree (by omega) (by rw [← scratch_add]; exact cleanBytes_part (by omega) hclean)
  have hcount : ((BitVec.ofNat 64 (wordAt u.mem (scratchKey t f.imm64.toNat) 8)).extractLsb' 0 16).toNat = m := by
    rw [BitVec.extractLsb'_toNat, hword, hm, Nat.shiftRight_zero]
  have hzero : ((BitVec.ofNat 64 (wordAt u.mem (scratchKey t f.imm64.toNat) 8)).extractLsb' 24 8 == 0) = true := by
    rw [beq_iff_eq]
    refine BitVec.eq_of_toNat_eq ?_
    rw [BitVec.extractLsb'_toNat, hword, Nat.shiftRight_eq_div_pow, hspare]
    rfl
  have htag : (BitVec.ofNat 64 (wordAt u.mem (scratchKey t f.imm64.toNat) 8)).extractLsb' 32 32 =
      BitVec.ofNat 32 (wordAt u.mem (scratchKey t f.imm64.toNat) 8 / 2 ^ 32) := by
    refine BitVec.eq_of_toNat_eq ?_
    rw [BitVec.extractLsb'_toNat, hword, Nat.shiftRight_eq_div_pow, BitVec.toNat_ofNat]
  rw [readDescriptor]
  generalize wordAt u.mem (scratchKey t f.imm64.toNat) 8 = w at *
  refine (run_bind_ok (EStateM.run_get u)).trans ((run_bind_ok (run_myTileNo u)).trans ((run_bind_ok (run_check_holds
    (decide_eq_true (by omega)))).trans ((run_bind_ok (hhead _)).trans ?_)))
  rw [List.headD_cons]
  dsimp only
  rw [hcount]
  refine (run_bind_ok (run_check_holds (by
    rw [hzero, decide_eq_true hleast, decide_eq_true hmost, decide_eq_true hfits]; rfl))).trans ((run_bind_ok (hlist _)).trans
    ((run_bind_ok (run_myTile u)).trans ?_))
  rw [descriptorWords_eq, ← hmem, ← hranks, tileOf_home ht, htag]
  refine (run_bind_ok (run_check_holds (by rw [hsmall, distinct_of_nodup hnodup, List.contains_iff_mem.mpr hissuer]; rfl))).trans
    ((run_bind_ok (run_check_holds ?_)).trans rfl)
  split at hroot <;> simp_all

/-- COLL of elements of the issuer's scratchpad, by a descriptor that holds. -/
theorem run_prepareColl {a b c : Word} (hleast : 1 ≤ c.toNat) (hmost : c.toNat ≤ 65536)
    (hb : ScratchRange u b (c.toNat * (tyWidth (collTy f) / 8)) (tyWidth (collTy f) / 8)) (hgb : gtileOf u b = t)
    (ha : ScratchRange u a ((if collKind f = 3 then m else 1) * c.toNat * (tyWidth (collTy f) / 8)) (tyWidth (collTy f) / 8))
    (hga : gtileOf u a = t) :
    (prepareColl f a b c).run u = .ok (.coll a b c.toNat (collKind f) (collFn f) (collTy f) (collRoot f) (f.flags18.getLsbD 12) f.imm64.toNat
      (BitVec.ofNat 32 (head / 2 ^ 32)) ranks, []) u := by
  have ht : State.tileOf u.focus = some t := by rw [hq]; rfl
  have hm : ranks.length = m := by rw [h.ranks_eq, List.length_map, h.members_eq, List.length_map, List.length_range]
  rw [prepareColl, run_bind_ok (run_check_holds (by rw [decide_eq_true hleast, decide_eq_true hmost]; rfl)),
    run_bind_ok (run_readDescriptor hs hq hfree h hroot)]
  dsimp only
  rw [hm, run_bind_ok (run_ownRange hs ht hb hgb), run_bind_ok (run_ownRange hs ht ha hga)]
  rfl

end Descriptor

/-! ## What a command instruction checks before its registers (R380, R405) -/

section Bodies
variable {u : State}

theorem xFree_of_xOk {n : Nat} (h : xOk u n = true) : xFree u n = true := by
  simp only [xOk, Bool.or_eq_true, Bool.and_eq_true] at h
  simp only [xFree, Bool.or_eq_true]
  exact h.imp_right (·.1)

theorem run_checkFirst_long {c : Nat} (own : Option Nat) (hc : xOk u c = true) (hn : ¬ ((here u).x c).toNat < 2 ^ 40) :
    (checkFirst c own).run u = .error (.trap 0x01 0 none) u := by
  rw [checkFirst.eq_def, run_bind_ok (run_getX (xFree_of_xOk hc)), run_bind_error (run_check_fails (decide_eq_false hn))]

theorem run_checkFirst {c : Nat} (hc : xOk u c = true) (hn : ((here u).x c).toNat < 2 ^ 40) : (checkFirst c none).run u = .ok () u := by
  rw [checkFirst, run_bind_ok (run_getX (xFree_of_xOk hc)), run_bind_ok (run_check_holds (decide_eq_true hn))]
  rfl

theorem run_checkFirst_own {a c : Nat} (ha : xOk u a = true) (hc : xOk u c = true) (hn : ((here u).x c).toNat < 2 ^ 40) :
    (checkFirst c (some a)).run u = (check (isOwnScratch u ((here u).x a)) 0x04 ((here u).x a)).run u := by
  rw [checkFirst, run_bind_ok (run_getX (xFree_of_xOk hc)), run_bind_ok (run_check_holds (decide_eq_true hn)),
    run_bind_ok (run_getX (xFree_of_xOk ha)), run_bind_ok (EStateM.run_get u)]

/-- An early check of GET that fails is one that the command's own checks make. -/
theorem run_getBody (hs : Solo u) (f : F96E) (ha : xOk u f.a.toNat = true) (hb : xOk u f.b.toNat = true) (hc : xOk u f.c.toNat = true) :
    (getBody f).run u = (commandBody 0 (.get f) f.d.toNat [(here u).x f.a.toNat, (here u).x f.b.toNat, (here u).x f.c.toNat]
      (prepareGet ((here u).x f.a.toNat) ((here u).x f.b.toNat) ((here u).x f.c.toNat))).run u := by
  rw [getBody]
  by_cases hn : ((here u).x f.c.toNat).toNat < 2 ^ 40
  · by_cases ho : isOwnScratch u ((here u).x f.a.toNat) = true
    · rw [run_bind_ok ((run_checkFirst_own ha hc hn).trans (run_check_holds ho)), run_bind_ok (run_useX ha), run_bind_ok (run_useX hb),
        run_bind_ok (run_useX hc)]
    · have hstop := run_check_fails (c := 0x04) (v := (here u).x f.a.toNat) (s := u) (Bool.eq_false_iff.mpr ho)
      rw [run_bind_error ((run_checkFirst_own ha hc hn).trans hstop)]
      refine (run_commandBody_stops hs ?_ ..).symm
      rw [prepareGet, run_bind_ok (run_check_holds (decide_eq_true hn)), run_bind_ok (EStateM.run_get u), run_bind_error hstop]
  · rw [run_bind_error (run_checkFirst_long _ hc hn)]
    refine (run_commandBody_stops hs ?_ ..).symm
    rw [prepareGet, run_bind_error (run_check_fails (decide_eq_false hn))]

/-- The early check of PUTS is one of the command's own. -/
theorem run_putsBody (hs : Solo u) (f : F128C) (ha : xOk u f.a.toNat = true) (hb : xOk u f.b.toNat = true) (hc : xOk u f.c.toNat = true)
    (hd : xOk u f.d.toNat = true) :
    (putsBody f).run u = (commandBody 0 (.puts f) f.d.toNat [(here u).x f.a.toNat, (here u).x f.b.toNat, (here u).x f.c.toNat]
      (preparePuts ((here u).x f.a.toNat) ((here u).x f.b.toNat) ((here u).x f.c.toNat) f.imm64 f.sub8)).run u := by
  rw [putsBody]
  by_cases hn : ((here u).x f.c.toNat).toNat < 2 ^ 40
  · rw [run_bind_ok (run_checkFirst hc hn), run_bind_ok (run_useX hd), run_bind_ok (run_useX ha), run_bind_ok (run_useX hb),
      run_bind_ok (run_useX hc)]
  · rw [run_bind_error (run_checkFirst_long _ hc hn)]
    refine (run_commandBody_stops hs ?_ ..).symm
    rw [preparePuts, run_bind_error (run_check_fails (by rw [decide_eq_false hn, Bool.and_false]))]

theorem run_copyBody (f : F96E) (ha : xOk u f.a.toNat = true) (hb : xOk u f.b.toNat = true) (hc : xOk u f.c.toNat = true) :
    (copyBody f).run u = (commandBody 0 (.copy f) f.d.toNat [(here u).x f.a.toNat, (here u).x f.b.toNat, (here u).x f.c.toNat]
      (prepareCopy ((here u).x f.a.toNat) ((here u).x f.b.toNat) ((here u).x f.c.toNat) f.aux32)).run u := by
  rw [copyBody, run_bind_ok (run_useX ha), run_bind_ok (run_useX hb), run_bind_ok (run_useX hc)]

theorem run_collBody (f : F128C) (ha : xOk u f.a.toNat = true) (hb : xOk u f.b.toNat = true) (hc : xOk u f.c.toNat = true) :
    (collBody f).run u = (commandBody 1 (.coll f) f.d.toNat [(here u).x f.a.toNat, (here u).x f.b.toNat, (here u).x f.c.toNat]
      (prepareColl f ((here u).x f.a.toNat) ((here u).x f.b.toNat) ((here u).x f.c.toNat))).run u := by
  rw [collBody, run_bind_ok (run_useX ha), run_bind_ok (run_useX hb), run_bind_ok (run_useX hc)]

end Bodies

end Sys2Proof.Machine
end

section
/-! SUPPORT. The chain of commands, CHAPP, CHTAIL and CHSEQ, and the statement about the commands of a tile's engines (R171-R177, R263, R349,
R353, R380, R405). -/

namespace Sys2Proof.Machine

open Sys2Proof.Claims

theorem exec_chapp (f : F96E) (s : State) : exec (.chapp f) s = issue (.chapp f) f.pred f.pneg (chappBody f) s := rfl
theorem exec_chtail (f : F64A) (s : State) : exec (.chtail f) s = issue (.chtail f) f.pred f.pneg (chtailBody f) s := rfl
theorem exec_chseq (f : F64A) (s : State) : exec (.chseq f) s = issue (.chseq f) f.pred f.pneg (chseqBody f) s := rfl

/-! ## Writes of an instruction to its own scratchpad, one after another -/

theorem fabric_afterFindings (p g : Nat) (d : Decoded) (s : State) : (afterFindings p g d s).fabric = s.fabric := by
  have h : ∀ (l : List Nat) (v : State), (l.foldl (noteClass p g) v).fabric = v.fabric := fun l => by
    induction l with
    | nil => exact fun _ => rfl
    | cons c l ih =>
      intro v
      rw [List.foldl_cons, ih, noteClass]
      split
      · rfl
      · rfl
  exact h _ _

theorem fabric_writeBytes (p g : Nat) (entry : BitVec 32) (key : Nat) (bytes : Marked) (s : State) :
    (writeBytes p g entry key bytes s).fabric = s.fabric := fabric_afterFindings ..

/-- What a state keeps of `u` while an instruction writes its own tile's scratchpad: its pairs, its requests, and that every agent has seen
every write. -/
structure KeptCalm (u v : State) : Prop where
  singles : KeepsSingles u v
  fabric : v.fabric = u.fabric
  unseen : v.mem.unseen = []

namespace KeptCalm
variable {u v : State} (h : KeptCalm u v)
include h

theorem put (key : Nat) (bs : List Byte) (p : Bool) : KeptCalm u (Claims.withBytes key bs p v) :=
  ⟨h.singles.writeBytes .., (fabric_writeBytes ..).trans h.fabric, unseen_writeBytes h.unseen ..⟩

theorem run_putScratch {t : Nat} (hs : Solo u) (hq : u.focus = .a t) (hfree : ∀ l, inFlight u u.focus l = false) (off : Nat) (bs : List Byte)
    (p : Bool) : (putScratch t off (marked bs p)).run v = .ok () (Claims.withBytes (scratchKey t off) bs p v) := by
  have hf : v.focus = .a t := h.singles.focus.trans hq
  have ht : State.tileOf v.focus = some t := by rw [hf]; rfl
  have hsingle := h.singles.single_focus (single_of_solo hs)
  refine Machine.run_putScratch hsingle.alone (hsingle t ht) (.inl ht) ?_ (by rw [hf]; rfl) h.unseen
  rw [inFlight, h.fabric, h.singles.focus]
  exact hfree _

end KeptCalm

/-! ## CHAPP (R172, R173, R349) -/

section Chapp
variable {u : State} {t : Nat} (hs : Solo u) (hq : u.focus = .a t)

theorem run_asChain_ok {α : Type} {act : Exec α} {r : α} {u v : State} (h : act.run u = .ok r v) (record : Word) :
    (asChain record act).run u = .ok r v := by
  change asChain record act u = _
  rw [asChain, show act u = _ from h]

/-- A record of opcode 1 with nothing else in its first word copies bytes and waits for nothing. -/
theorem run_readRecord_copy {u : State} {ws : List Word} (h0 : ws.getD 0 0 = 1) (hn : (ws.getD 3 0).toNat < 2 ^ 40)
    (ha : ScratchRange u (ws.getD 1 0) (ws.getD 3 0).toNat 1) (hb : ScratchRange u (ws.getD 2 0) (ws.getD 3 0).toNat 1) :
    (readRecord ws).run u = .ok (.copy (ws.getD 1 0) (ws.getD 2 0) (ws.getD 3 0) 0, .none, []) u := by
  simp only [readRecord, h0]
  exact (run_bind_ok (run_check_holds (by decide))).trans ((run_bind_ok (run_prepareCopy_bytes hn ha hb)).trans rfl)

theorem run_chappBody_other {f : F96E} (ha : xOk u f.a.toNat = true) (hform : formOf ((here u).x f.a.toNat) ≠ 1) :
    (chappBody f).run u = .error (.trap 0x15 ((here u).x f.a.toNat) none) u := by
  rw [chappBody, run_bind_ok (run_useX ha), run_bind_ok (EStateM.run_get u), run_bind_ok (run_myTileNo u)]
  exact run_bind_error (run_check_fails (by rw [isOwnScratch, decide_eq_false hform]; rfl))

/-- The record's words in a scratchpad of the issuing tile's own. -/
def chainWords (u : State) (a : Word) : List Word := (List.range 6).map (fun k => BitVec.ofNat 64 (wordAt u.mem (ownKey u a + 8 * k) 8))

/-- A record appended to its engine, and the last of its chain. -/
def chained (t e : Nat) (op : CmdOp) (wt : CmdWait) (spans : List Span) (a : Word) (u : State) : State :=
  (withCommand t e op wt (some a.toNat) spans u).modEngine t e (fun g => { g with last := some (offsetOf a) })

/-- The link that a chain's former last record holds to the one after it. -/
def linkedAfter (last : Option Nat) (t : Nat) (a : Word) (v : State) : State :=
  match last with
  | some p => withBytes (scratchKey t (p + 48)) (toBytes 8 a.toNat) false v
  | none => v

/-- A record's own last words: no link, its number, state 0. -/
def closedRecord (t : Nat) (a : Word) (n : Nat) (v : State) : State :=
  withBytes (scratchKey t (offsetOf a + 56)) (toBytes 4 (BitVec.ofNat 64 n : Word).toNat ++ toBytes 4 0) false
    (withBytes (scratchKey t (offsetOf a + 48)) (toBytes 8 0) false v)

section Record
variable {a : Word} {op : CmdOp} {wt : CmdWait} {spans : List Span} (hown : OwnAddress u a 64 64)
  (hclean : Claims.cleanBytes u.mem (ownKey u a) 64 = true) (hread : (asChain a (readRecord (chainWords u a))).run u = .ok (op, wt, spans) u)
include hs

theorem keptCalm_chained (e : Nat) : KeptCalm u (chained t e op wt spans a u) := by
  refine ⟨keeps_modEngine e (keeps_withCommand ..) t _, ?_, ?_⟩
  · rw [chained, State.fabric_modEngine, fabric_withCommand]
  · rw [chained, State.mem_modEngine, mem_withCommand]
    exact hs.2.2

include hq hown hclean hread

theorem run_chappAnswer {e : Nat} (hheld : (u.engine t e).held < 64) :
    (chappAnswer e a).run u = .ok [0, BitVec.ofNat 64 (u.engine t e).next, BitVec.ofNat 64 (((u.engine t e).last.map (· + 1)).getD 0)]
      (chained t e op wt spans a u) := by
  have ht : State.tileOf u.focus = some t := by rw [hq]; rfl
  have hpart : Claims.cleanBytes u.mem (ownKey u a) (8 * 6) = true := by
    have hpart := cleanBytes_part (i := 0) (m := 8 * 6) (by omega) hclean
    rwa [Nat.add_zero] at hpart
  rw [chappAnswer]
  refine (run_bind_ok (run_ownWords hs (hown.shorter (by omega)) hpart)).trans ((run_bind_ok hread).trans ((run_bind_ok
    (run_engineTile hs ht)).trans ((run_bind_ok (EStateM.run_get u)).trans ?_)))
  refine (congrArg (EStateM.run · u) (if_neg (Nat.not_le.mpr hheld))).trans ?_
  exact run_bind_ok (run_appendCmd e op wt (some a.toNat) spans (single_of_solo hs) ht)

/-- What CHAPP does once its record is appended and linked. -/
def closeChain (f : F96E) (t : Nat) (a n : Word) : Exec Flow := do
  putScratch t (offsetOf a + 48) (marked (toBytes 8 0) false)
  putScratch t (offsetOf a + 56) (marked (toBytes 4 n.toNat ++ toBytes 4 0) false)
  putX f.d.toNat 0 false
  takeIn (encode (.chapp f) ++ toBytes 8 a.toNat)
  return .fall

omit hown hclean hread in
theorem run_closeChain {v : State} (hv : KeptCalm u v) (hfree : ∀ l, inFlight u u.focus l = false) {f : F96E} {n : Nat}
    (hd : xFree (closedRecord t a n v) f.d.toNat = true) :
    (closeChain f t a (BitVec.ofNat 64 n)).run v = .ok .fall (withX f.d.toNat 0 false (closedRecord t a n v)) := by
  have halone : role (closedRecord t a n v) = .alone := (((hv.put ..).put ..).singles.single_focus (single_of_solo hs)).alone
  rw [closeChain, run_bind_ok (hv.run_putScratch hs hq hfree ..), run_bind_ok ((hv.put ..).run_putScratch hs hq hfree ..)]
  refine (run_bind_ok (run_putX 0 false hd)).trans ?_
  rw [run_bind_ok (run_takeIn ..), noted_alone _ (role_withX_alone halone ..)]
  rfl

/-- CHAPP appends the record, links the last one to it and closes it. -/
theorem run_chappBody {e : Nat} {f : F96E} (he : f.aux32.toNat % 2 = e) (ha : xOk u f.a.toNat = true) (hxa : (here u).x f.a.toNat = a)
    (hfree : ∀ l, inFlight u u.focus l = false) (hheld : (u.engine t e).held < 64) (hlast : ∀ p, (u.engine t e).last = some p → p < 2 ^ 20)
    (hd : xFree (closedRecord t a (u.engine t e).next (linkedAfter (u.engine t e).last t a (chained t e op wt spans a u))) f.d.toNat = true) :
    (chappBody f).run u = .ok .fall (withX f.d.toNat 0 false
      (closedRecord t a (u.engine t e).next (linkedAfter (u.engine t e).last t a (chained t e op wt spans a u)))) := by
  have ht : State.tileOf u.focus = some t := by rw [hq]; rfl
  have hhome : home u = t := tileOf_home ht
  have hscratch : isOwnScratch u a = true := by
    rw [isOwnScratch, mirrored_solo hs, hown.gtile, hhome, ht, hown.ok, hown.form]
    simp
  have hkept := keptCalm_chained (t := t) (op := op) (wt := wt) (spans := spans) (a := a) hs e
  rw [chappBody, run_bind_ok (run_useX ha), hxa, run_bind_ok (EStateM.run_get u), run_bind_ok (run_myTileNo u), hhome, he]
  refine (run_bind_ok (run_check_holds hscratch)).trans ((run_bind_ok (run_check_holds (decide_eq_true hown.aligned))).trans
    ((run_bind_ok ((run_echoed_alone (solo_alone hs) _).trans (run_chappAnswer hs hq hown hclean hread hheld))).trans ?_))
  cases hl : (u.engine t e).last with
  | none =>
    rw [hl] at hd
    exact run_closeChain hs hq hkept hfree hd
  | some p =>
    rw [hl] at hd
    have hp := hlast p hl
    have hprev : (BitVec.ofNat 64 (p + 1) : Word).toNat = p + 1 := by rw [BitVec.toNat_ofNat]; omega
    have hput := hkept.run_putScratch hs hq hfree (p + 48) (toBytes 8 a.toNat) false
    let close := closeChain f t a (BitVec.ofNat 64 (u.engine t e).next)
    change (if (BitVec.ofNat 64 (p + 1) : Word).toNat ≠ 0 then
      putScratch t ((BitVec.ofNat 64 (p + 1) : Word).toNat - 1 + 48) (marked (toBytes 8 a.toNat) false) >>= fun _ => close else close).run _ = _
    rw [hprev, if_pos (Nat.succ_ne_zero p), Nat.add_sub_cancel, run_bind_ok hput]
    exact run_closeChain hs hq (hkept.put ..) hfree hd

end Record

end Chapp

/-! ## CHTAIL and CHSEQ (R173, R349) -/

/-- What CHTAIL does for an engine, in a tile that is no twin. -/
def publishAppended (t e : Nat) : Exec Unit := do
  let g := (← get).engine t e
  if g.cmds.any (fun c => c.state == .appended) then
    forkWait
    forkAppended t e (g.next - 1)
    publishOrHold t e (g.next - 1)

theorem chtailBody_eq (f : F64A) : chtailBody f = (do
    let t ← engineTile
    unlessTwin (publishAppended t (f.imm16.toNat % 2))
    takeIn (encode (.chtail f))
    closeAfter
    return .fall) := rfl

section Tail
variable {u : State} {t e : Nat} (hs : Solo u) (ht : State.tileOf u.focus = some t)

theorem run_publishAppended_none (h : (u.engine t e).cmds.any (fun c => c.state == .appended) = false) :
    (publishAppended t e).run u = .ok () u := by
  rw [publishAppended, run_bind_ok (EStateM.run_get u)]
  exact congrArg (EStateM.run · u) (if_neg (Bool.eq_false_iff.mp h))

theorem run_publishAppended_waits (h : (u.engine t e).cmds.any (fun c => c.state == .appended) = true) (hack : allAcknowledged u u.focus = false) :
    (publishAppended t e).run u = .error (.wait .outstanding id) u := by
  rw [publishAppended, run_bind_ok (EStateM.run_get u)]
  refine (congrArg (EStateM.run · u) (if_pos h)).trans (run_bind_error ?_)
  rw [forkWait, awaitAcks, run_bind_ok (EStateM.run_get u), run_waitUntil_waits hack]

include hs in
theorem run_publishAppended (h : (u.engine t e).cmds.any (fun c => c.state == .appended) = true) (hack : allAcknowledged u u.focus = true) :
    (publishAppended t e).run u = .ok () (publishAll t e ((u.engine t e).next - 1) u) := by
  rw [publishAppended, run_bind_ok (EStateM.run_get u)]
  refine (congrArg (EStateM.run · u) (if_pos h)).trans ((run_bind_ok (run_awaitAcks hack)).trans ((run_bind_ok
    (run_forkAppended_calm e hs.2.2 _)).trans (run_publishOrHold_alone e (solo_alone hs) _)))

include hs ht

theorem run_chtailBody {f : F64A} {v : State} (hk : KeepsSingles u v) (hrun : (publishAppended t (f.imm16.toNat % 2)).run u = .ok () v) :
    (chtailBody f).run u = .ok .fall v := by
  have halone := (hk.single_focus (single_of_solo hs)).alone
  rw [chtailBody_eq, run_bind_ok (run_engineTile hs ht), run_bind_ok ((run_unlessTwin_alone (solo_alone hs) _).trans hrun),
    run_bind_ok (run_takeIn ..), noted_alone _ halone, run_bind_ok (run_closeAfter_role halone)]
  rfl

theorem run_chtailBody_stops {f : F64A} {z : Stop} (hrun : (publishAppended t (f.imm16.toNat % 2)).run u = .error z u) :
    (chtailBody f).run u = .error z u := by
  rw [chtailBody_eq, run_bind_ok (run_engineTile hs ht), run_bind_error ((run_unlessTwin_alone (solo_alone hs) _).trans hrun)]

/-- What CHSEQ asks of its engine, on the primary. -/
def completedUpTo (t e b : Nat) : Exec Word := do
  let g := (← get).engine t e
  check (b < g.next) 0x15 0
  waitUntil (b ≤ g.cs) .chain
  modify (fun s => commandJoined t e g.cs s.focus s)
  return BitVec.ofNat 64 g.cs

theorem run_chseqBody {f : F64A} (hb : xOk u f.b.toNat = true) :
    (chseqBody f).run u = (do
      let v ← completedUpTo t (f.imm16.toNat % 2) ((here u).x f.b.toNat).toNat
      putX f.d.toNat v false
      return .fall : Exec Flow).run u := by
  rw [chseqBody, run_bind_ok (run_useX hb), run_bind_ok (run_engineTile hs ht)]
  rw [EStateM.run_bind, run_echoed1_alone (solo_alone hs)]
  rfl

end Tail

section Seq
variable {u : State} {t e b : Nat}

theorem run_completedUpTo_future (h : (u.engine t e).next ≤ b) : (completedUpTo t e b).run u = .error (.trap 0x15 0 none) u := by
  rw [completedUpTo, run_bind_ok (EStateM.run_get u)]
  exact run_bind_error (run_check_fails (decide_eq_false (Nat.not_lt.mpr h)))

theorem run_completedUpTo_waits (h : b < (u.engine t e).next) (hcs : (u.engine t e).cs < b) :
    (completedUpTo t e b).run u = .error (.wait .chain id) u := by
  rw [completedUpTo, run_bind_ok (EStateM.run_get u)]
  exact (run_bind_ok (run_check_holds (decide_eq_true h))).trans (run_bind_error (run_waitUntil_waits (decide_eq_false (Nat.not_le.mpr hcs))))

theorem run_completedUpTo (hs : Solo u) (h : b < (u.engine t e).next) (hcs : b ≤ (u.engine t e).cs) :
    (completedUpTo t e b).run u = .ok (BitVec.ofNat 64 (u.engine t e).cs) u := by
  have hjoin : commandJoined t e (u.engine t e).cs u.focus u = u := markUnseen_calm hs.2.2 ..
  rw [completedUpTo, run_bind_ok (EStateM.run_get u)]
  refine (run_bind_ok (run_check_holds (decide_eq_true h))).trans ((run_bind_ok (run_waitUntil_holds (decide_eq_true hcs))).trans ?_)
  rw [EStateM.run_bind, EStateM.run_modify, hjoin]
  rfl

end Seq

/-! ## The statement about the engines' commands -/

section Statement
variable {s : State} {t : Nat} {i : Instr} {e d : Nat} {op : CmdOp} {spans : List Span} {prepare : Exec (CmdOp × List Span)}

/-- An instruction appends a command to an engine of the issuing tile and publishes all of the engine's; D is its number. -/
def Appends (s : State) (t : Nat) (i : Instr) (e d : Nat) (op : CmdOp) (spans : List Span) : Prop :=
  ((issued s).engine t e).held < 64 → acknowledged (issued s) = true →
    xFree (publishAll t e ((issued s).engine t e).next (withCommand t e op .none none spans (issued s))) d = true →
    exec i s = falls s i (withX d (BitVec.ofNat 64 ((issued s).engine t e).next) false
      (publishAll t e ((issued s).engine t e).next (withCommand t e op .none none spans (issued s))))

/-- An instruction appends the command that its checks make, waits while its engine is full, and traps where a check of another cause
than illegal operand fails. -/
def Gives (s : State) (t : Nat) (i : Instr) (e d : Nat) (op : CmdOp) (prepare : Exec (CmdOp × List Span)) : Prop :=
  (∀ spans, prepare.run (issued s) = .ok (op, spans) (issued s) →
    Appends s t i e d op spans ∧ (64 ≤ ((issued s).engine t e).held → exec i s = .next (recordWait s.focus .limit s))) ∧
  (∀ code tval miss, prepare.run (issued s) = .error (.trap code tval miss) (issued s) → code ≠ 0x01 →
    exec i s = .next (raiseTrap s.focus code tval miss (nextPc s s.focus i) (issued s)))

/-- An instruction of a sequencer of tile `t` that is ready and acts as a command of its engine `e`. -/
structure Commands (s : State) (t : Nat) (i : Instr) (e d : Nat) (prepare : Exec (CmdOp × List Span)) : Prop where
  solo : Solo (issued s)
  tile : State.tileOf (issued s).focus = some t
  issues : ∃ pred pneg body ws, Ready s i pred pneg ∧ exec i s = issue i pred pneg body s ∧
    body.run (issued s) = (commandBody e i d ws prepare).run (issued s)

theorem Commands.appends (h : Commands s t i e d prepare) (hp : prepare.run (issued s) = .ok (op, spans) (issued s)) :
    Appends s t i e d op spans := by
  obtain ⟨hs, ht, pred, pneg, body, ws, hready, hexec, hbody⟩ := h
  intro hheld hack hd
  rw [hexec]
  exact issue_runs hready (hbody.trans (run_commandBody hs ht hp hheld hack i d ws hd))

theorem Commands.gives (h : Commands s t i e d prepare) (op : CmdOp) : Gives s t i e d op prepare := by
  refine ⟨fun spans hp => ⟨h.appends hp, fun hfull => ?_⟩, fun code tval miss hp hcode => ?_⟩
  · obtain ⟨hs, ht, pred, pneg, body, ws, hready, hexec, hbody⟩ := h
    rw [hexec]
    exact issue_waits hready (hbody.trans (run_commandBody_full hs ht hp hfull i d ws))
  · obtain ⟨hs, ht, pred, pneg, body, ws, hready, hexec, hbody⟩ := h
    rw [hexec, issue_traps hready (hbody.trans (run_commandBody_stops hs hp i d ws)), if_neg hcode, keepFindings_self]

variable {f : F96E} {g : F128C} (hs : Solo (issued s)) (hq : s.focus = .a t)
include hs hq

theorem commands_copy (hr : Ready s (.copy f) f.pred f.pneg) (ha : xOk (issued s) f.a.toNat = true) (hb : xOk (issued s) f.b.toNat = true)
    (hc : xOk (issued s) f.c.toNat = true) : Commands s t (.copy f) 0 f.d.toNat
      (prepareCopy ((here (issued s)).x f.a.toNat) ((here (issued s)).x f.b.toNat) ((here (issued s)).x f.c.toNat) f.aux32) :=
  ⟨hs, by rw [focus_issued, hq]; rfl, _, _, _, _, hr, exec_copy f s, run_copyBody f ha hb hc⟩

theorem commands_get (hr : Ready s (.get f) f.pred f.pneg) (ha : xOk (issued s) f.a.toNat = true) (hb : xOk (issued s) f.b.toNat = true)
    (hc : xOk (issued s) f.c.toNat = true) : Commands s t (.get f) 0 f.d.toNat
      (prepareGet ((here (issued s)).x f.a.toNat) ((here (issued s)).x f.b.toNat) ((here (issued s)).x f.c.toNat)) :=
  ⟨hs, by rw [focus_issued, hq]; rfl, _, _, _, _, hr, exec_get f s, run_getBody hs f ha hb hc⟩

theorem commands_puts (hr : Ready s (.puts g) g.pred g.pneg) (ha : xOk (issued s) g.a.toNat = true) (hb : xOk (issued s) g.b.toNat = true)
    (hc : xOk (issued s) g.c.toNat = true) (hd : xOk (issued s) g.d.toNat = true) : Commands s t (.puts g) 0 g.d.toNat
      (preparePuts ((here (issued s)).x g.a.toNat) ((here (issued s)).x g.b.toNat) ((here (issued s)).x g.c.toNat) g.imm64 g.sub8) :=
  ⟨hs, by rw [focus_issued, hq]; rfl, _, _, _, _, hr, exec_puts g s, run_putsBody hs g ha hb hc hd⟩

theorem commands_coll (hr : Ready s (.coll g) g.pred g.pneg) (ha : xOk (issued s) g.a.toNat = true) (hb : xOk (issued s) g.b.toNat = true)
    (hc : xOk (issued s) g.c.toNat = true) : Commands s t (.coll g) 1 g.d.toNat
      (prepareColl g ((here (issued s)).x g.a.toNat) ((here (issued s)).x g.b.toNat) ((here (issued s)).x g.c.toNat)) :=
  ⟨hs, by rw [focus_issued, hq]; rfl, _, _, _, _, hr, exec_coll g s, run_collBody g ha hb hc⟩

end Statement

/-- A descriptor that COLL decodes stands at a multiple of 8. -/
theorem coll_offset_whole {s : State} {g : F128C} (hr : Ready s (.coll g) g.pred g.pneg) : g.imm64.toNat % 8 = 0 := by
  have hf : fieldsOk (.coll g) = true := by
    have hd := hr.2.1
    simp only [decodeOk, Bool.and_eq_true] at hd
    exact hd.1.1.1
  have hc : collOk g = true := by simpa [fieldsOk] using hf
  simp only [collOk, Bool.and_eq_true, decide_eq_true_eq] at hc
  obtain ⟨_, hlow⟩ := hc
  have h := congrArg BitVec.toNat hlow
  rw [BitVec.extractLsb'_toNat, Nat.shiftRight_zero] at h
  exact h

/-- Settles O47: a command's checks either stop it or append it, and the chain's instructions by their branches. -/
theorem engineCommands : Obligations.EngineCommands := by
  unfold Obligations.EngineCommands
  intro s t hq hs
  have hf : (issued s).focus = .a t := (focus_issued (s := s)).trans hq
  have ht : State.tileOf (issued s).focus = some t := by rw [hf]; rfl
  refine ⟨fun f ha hb hc => ⟨fun hr => (commands_copy hs hq hr ha hb hc).gives _, fun hr => (commands_get hs hq hr ha hb hc).gives _,
      fun hn hra hrb => ⟨fun hr h0 => ?copy, fun hr hg => ?get⟩⟩,
    fun g ha hb hc => ⟨fun hr hd => (commands_puts hs hq hr ha hb hc hd).gives _, fun hr tag ranks => (commands_coll hs hq hr ha hb hc).gives _,
      fun hr h8 h64 hd hn hra hrb hg => ?puts, fun hr => ?coll⟩,
    fun f hr ha => ⟨fun hown hclean hfree op wt spans hread hheld hd hlast => ?chapp, fun h0 hn hra hrb => ?record, fun hform => ?other⟩,
    fun f hr => ⟨fun hnone => ?none, fun hsome hack => ?publish, fun hsome hack => ?held⟩,
    fun f hr hb hd => ⟨fun hnext => ?future, fun hnext hcs => ?short, fun hnext hcs => ?done⟩⟩
  case copy =>
    refine (commands_copy hs hq hr ha hb hc).appends ?_
    rw [h0]
    exact run_prepareCopy_bytes hn (scratchRange_elim hra) (scratchRange_elim hrb)
  case get => exact (commands_get hs hq hr ha hb hc).appends (run_prepareGet_own hs ht hn (scratchRange_elim hra) (scratchRange_elim hrb) hg)
  case puts =>
    refine (commands_puts hs hq hr ha hb hc hd).appends ?_
    rw [h8, h64]
    exact run_preparePuts_own hs ht hn (scratchRange_elim hra) (scratchRange_elim hrb) hg
  case coll =>
    intro kind ty root n off head m key members ranks bytes hleast hmost hm hm' hspare hfits hfree hclean hsmall hnodup hissuer hroot hrb hgb hra hga
    have hd : Descriptor (issued s) t off head m members ranks :=
      ⟨rfl, rfl, rfl, rfl, hm, hm', hspare, hfits, coll_offset_whole hr, hclean, hsmall, hnodup, hissuer⟩
    have hrb := scratchRange_elim hrb
    simp only [bytes, Nat.one_mul] at hrb hra
    exact (commands_coll hs hq hr ha hb hc).appends
      (run_prepareColl hs hf hfree hd hroot hleast hmost hrb hgb (scratchRange_elim hra) hga)
  case chapp =>
    rw [exec_chapp]
    exact issue_runs hr (run_chappBody hs hf (ownAddress hown) hclean hread rfl ha rfl hfree hheld hlast hd)
  case record => exact run_asChain_ok (run_readRecord_copy h0 hn (scratchRange_elim hra) (scratchRange_elim hrb)) _
  case other =>
    rw [exec_chapp]
    exact issue_traps_unchanged hr (run_chappBody_other ha hform) (by decide)
  case none =>
    rw [exec_chtail]
    exact issue_runs hr (run_chtailBody hs ht (.refl _) (run_publishAppended_none hnone))
  case publish =>
    rw [exec_chtail]
    exact issue_runs hr (run_chtailBody hs ht (keeps_publishAll _ (.refl _) _ _) (run_publishAppended hs hsome (acknowledged_iff.mp hack).1))
  case held =>
    have hwait : allAcknowledged (issued s) (issued s).focus = false :=
      Bool.eq_false_iff.mpr fun h => Bool.eq_false_iff.mp hack (acknowledged_iff.mpr ⟨h, hs.2⟩)
    rw [exec_chtail]
    exact issue_waits hr (run_chtailBody_stops hs ht (run_publishAppended_waits hsome hwait))
  case future =>
    rw [exec_chseq]
    exact issue_traps_unchanged hr ((run_chseqBody hs ht hb).trans (run_bind_error (run_completedUpTo_future hnext))) (by decide)
  case short =>
    rw [exec_chseq]
    exact issue_waits hr ((run_chseqBody hs ht hb).trans (run_bind_error (run_completedUpTo_waits hnext hcs)))
  case done =>
    rw [exec_chseq]
    exact issue_runs hr ((run_chseqBody hs ht hb).trans ((run_bind_ok (run_completedUpTo hs hnext hcs)).trans (run_bind_ok (run_putX _ _ hd))))

end Sys2Proof.Machine
end

section
/-! SUPPORT. The life of an engine's command and the collectives: the start of a command, PUTS's signal, its completion, and how the values
of a collective's devices arrive and combine (R171, R172, R177, R264, R265, R405, R440). -/

namespace Sys2Proof.Machine

open Sys2Proof.Claims

theorem exec_commandStart (t e : Nat) (s : State) : exec (.commandStart t e) s = execCommandStart t e s := rfl
theorem exec_commandCompletion (t e n : Nat) (s : State) : exec (.commandCompletion t e n) s = execCommandCompletion t e n s := rfl
theorem exec_putsSignal (t e n : Nat) (s : State) : exec (.putsSignal t e n) s = execPutsSignal t e n s := rfl
theorem exec_switchCombine (n d : Nat) (o : CollOffer) (vs : List Word) (s : State) :
    exec (.switchCombine n d o vs) s = execSwitchCombine n d o vs s := rfl

/-! ## The life of a command (R171, R172, R177) -/

section Life
variable {s : State} {t e n : Nat}

theorem commandStart_idle (hr : enginesRun s t = false) (hf : finishes s t e (s.subject % actBase) = false) :
    exec (.commandStart t e) s = .next s := by
  rw [exec_commandStart, execCommandStart, hr, hf]
  rfl

theorem engineOutcome_ok {act : Exec Unit} {v : State} (h : act.run s = .ok () v) : engineOutcome t s act = .next v := by
  rw [engineOutcome, h]

/-- The oldest published command that waits for nothing starts. -/
theorem run_startNext {c : Cmd} (hroom : ((s.engine t e).cmds.filter (fun c => c.state == .running)).length < 8)
    (hn : (s.engine t e).nextToStart = some c) (hw : c.wait = .none) :
    (startNext t e).run s = .ok (some c) (noteLanded t e c.number
      (markRecord t c (toBytes 2 2) 62 (modCmd t e c.number (fun d => { d with state := .running }) s))) := by
  rw [startNext, run_bind_ok (EStateM.run_get s)]
  refine (run_bind_ok (run_waitUntil_holds (decide_eq_true hroom))).trans ?_
  simp only [hn, hw]
  rfl

theorem commandStart_starts {c : Cmd} (hr : enginesRun s t = true) (h0 : s.subject = 0)
    (hroom : ((s.engine t e).cmds.filter (fun c => c.state == .running)).length < 8)
    (hn : (s.engine t e).nextToStart = some c) (hc : c.isColl = false) (hw : c.wait = .none) :
    exec (.commandStart t e) s = .next (noteLanded t e c.number
      (markRecord t c (toBytes 2 2) 62 (modCmd t e c.number (fun d => { d with state := .running }) s))) := by
  rw [exec_commandStart, execCommandStart, hr, Bool.true_or, if_pos rfl, h0]
  refine engineOutcome_ok ?_
  rw [engineAct, if_pos (Nat.zero_mod _), run_bind_ok (run_startNext hroom hn hw)]
  simp only [hc, Bool.false_eq_true, if_false]
  rfl

theorem number_of_findCmd {c : Cmd} (h : findCmd s t e n = some c) : c.number = n :=
  eq_of_beq (List.find?_some (p := fun c : Cmd => c.number == n) h)

theorem commandCompletion_absent (h : findCmd s t e n = none) : exec (.commandCompletion t e n) s = .next s := by
  rw [exec_commandCompletion, execCommandCompletion, h]

theorem putsSignal_absent (h : findCmd s t e n = none) : exec (.putsSignal t e n) s = .next s := by
  rw [exec_putsSignal, execPutsSignal, h]

theorem commandCompletion_present {c : Cmd} (h : findCmd s t e n = some c) :
    exec (.commandCompletion t e n) s = .next (if c.finished then completeCmd t e c s else s) := by
  rw [exec_commandCompletion, execCommandCompletion, h]

/-- Once PUTS's data has landed its signal leaves for the counter's home. -/
theorem putsSignal_leaves {c : Cmd} {a b len ctr : Word} {dec : Byte} {key home : Nat} {entry : BitVec 32} (h : findCmd s t e n = some c)
    (hop : c.op = .puts a b len ctr dec) (hrun : c.state = .running) (hland : c.landed = true) (hsig : c.signalled = false)
    (haw : c.awaiting = 0) (hplace : placeAt s c ctr = some (key, entry)) (hhome : homeAt s c ctr = some home) :
    exec (.putsSignal t e n) s = .next (modCmd t e n (fun d => { d with awaiting := 1 })
      (addRequest (.a t) (some (e, n)) 0 c.gang (partOfGang s c.gang) (.add ⟨key, entry, 8⟩ (0 - dec.setWidth 64) ctr) home true none none s)) := by
  obtain rfl := number_of_findCmd h
  have hready : (c.landed && !c.signalled && decide (c.awaiting = 0)) = true := by rw [hland, hsig, haw]; rfl
  rw [exec_putsSignal, execPutsSignal, h]
  refine (if_pos (by rw [hrun]; rfl)).trans (engineOutcome_ok ?_)
  simp only [signalPuts, hop]
  rw [run_bind_ok (EStateM.run_get s), run_bind_ok (run_waitUntil_holds hready), hplace, hhome]
  rfl

end Life

/-! ## A device's value for a collective (R264, R265) -/

section Switch
variable {s : State} {n d : Nat} {offer : CollOffer} {values : List Word} {x : Collective}

theorem switchCombine_absent (h : s.launch.collectives[n]? = none) : exec (.switchCombine n d offer values) s = .next s := by
  rw [exec_switchCombine, execSwitchCombine, h]

variable (h : s.launch.collectives[n]? = some x)
include h

theorem switchCombine_drains (hd : draining s (partOfGang s x.gang) = true) : exec (.switchCombine n d offer values) s = .next s := by
  rw [exec_switchCombine, execSwitchCombine, h]
  exact if_pos (by rw [hd, Bool.or_true])

variable (hopen : x.settled = none) (hmember : x.devices.contains d = true) (hnew : x.values.any (fun v => v.1 == d) = false)
  (hdrain : draining s (partOfGang s x.gang) = false)
include hopen hmember hnew hdrain

/-- A value that a collective expects is this module's own or another device's. -/
theorem switchCombine_taken : exec (.switchCombine n d offer values) s =
    if d = s.host.devid.toNat then ownValue n x s
    else if offer.what ≠ x.what then .next (endGang x.gang 10 0x15 s)
    else if values.length = x.valueLength d then .next (takeValue n x d offer.inNetwork values s)
    else .next s := by
  rw [exec_switchCombine, execSwitchCombine, h]
  exact if_neg (by rw [hopen, hmember, hnew, hdrain]; decide)

end Switch

section Own
variable {s : State} {n : Nat} {x : Collective}

theorem ownValue_formed {vs : List Word} {v : State} (hs : x.sending = none) (hr : x.ready s.host.devid.toNat = true)
    (hrun : (deviceStage x s.host.devid.toNat).run s = .ok vs v) :
    ownValue n x s = .next (if x.leaves s.host.devid.toNat (x.started.all (fun e => e.2.2.2)) vs = true then
        putCollective n { x with sending := some ⟨x.started.all (fun e => e.2.2.2), vs, 0,
          Way.start (routerOf ((x.started.map (fun e => e.2.1)).headD 0)) s.time⟩ } v
      else takeValue n x s.host.devid.toNat (x.started.all (fun e => e.2.2.2)) vs v) := by
  simp only [ownValue, hs, hr, if_true, hrun]

theorem ownValue_travels {w : Sending} (hs : x.sending = some w) (hw : w.way.hop ≠ .across) : ownValue n x s = .next s := by
  simp only [ownValue, hs]
  exact if_pos hw

theorem ownValue_arrives {w : Sending} (hs : x.sending = some w) (hw : w.way.hop = .across) (hl : (x.bytesOf w.values).length ≤ w.done + 256) :
    ownValue n x s = .next (takeValue n { x with sending := none } s.host.devid.toNat w.inNetwork w.values s) := by
  simp only [ownValue, hs]
  exact (if_neg (not_not_intro hw)).trans (if_neg (Nat.not_lt.mpr hl))

end Own

/-! ## Combination -/

/-- A round at a distance past the last of three positions changes none. -/
theorem combineRound_far (fn ty : Nat) {d : Nat} (a b c : List Word) (h : 3 ≤ d) : combineRound fn ty d [a, b, c] = [a, b, c] := by
  have hfar : ∀ i, ¬ (i % (2 * d) = 0 ∧ i + d < 3) := fun i hi => by omega
  simp only [combineRound, List.length_cons, List.length_nil, hfar, if_false]
  rfl

theorem combineTree_three (fn ty : Nat) (a b c : List Word) : combineTree fn ty [a, b, c] = combineAll fn ty (combineAll fn ty a b) c := by
  have h1 : combineRound fn ty (2 ^ 0) [a, b, c] = [combineAll fn ty a b, b, c] := by simp [combineRound, List.range_succ]
  have h2 : combineRound fn ty (2 ^ 1) [combineAll fn ty a b, b, c] = [combineAll fn ty (combineAll fn ty a b) c, b, c] := by
    simp [combineRound, List.range_succ]
  have hfar : ∀ (l : List Nat) (v : List Word), (∀ r ∈ l, 2 ≤ r) → l.foldl (fun vs r => combineRound fn ty (2 ^ r) vs) [v, b, c] = [v, b, c] := by
    intro l v
    induction l with
    | nil => exact fun _ => rfl
    | cons r l ih =>
      intro hl
      have hr : 2 ^ 2 ≤ 2 ^ r := Nat.pow_le_pow_right (by decide) (hl r List.mem_cons_self)
      rw [List.foldl_cons, combineRound_far fn ty v b c (by omega), ih fun r hr => hl r (List.mem_cons_of_mem _ hr)]
  rw [combineTree, show List.range 9 = 0 :: 1 :: [2, 3, 4, 5, 6, 7, 8] from rfl, List.foldl_cons, h1, List.foldl_cons, h2, hfar _ _ (by decide)]
  rfl

/-- A switch of three devices combines their values in the order in which they come. -/
theorem combineSwitches_one (fn ty : Nat) (a b c : List Word) :
    combineSwitches fn ty [⟨0, [1, 2, 3], []⟩] [(2, a), (1, b), (3, c)] = combineAll fn ty (combineAll fn ty a b) c := rfl

/-- The top of a tree of three switches combines what the two below it send on. -/
theorem combineSwitches_two (fn ty : Nat) {a b c d : List Word} (hab : combineAll fn ty a b ≠ []) (hcd : combineAll fn ty c d ≠ []) :
    combineSwitches fn ty [⟨0, [], [1, 2]⟩, ⟨1, [1, 2], []⟩, ⟨2, [3, 4], []⟩] [(1, a), (2, b), (3, c), (4, d)] =
      combineAll fn ty (combineAll fn ty a b) (combineAll fn ty c d) := by
  have hbelow : ([(1, combineAll fn ty a b), (3, combineAll fn ty c d)] : List Arrival).filter (fun a => !a.2.isEmpty) =
      [(1, combineAll fn ty a b), (3, combineAll fn ty c d)] := by
    simp [hab, hcd]
  change combineFold fn ty ((inOrder ([] ++ ([(1, combineAll fn ty a b), (3, combineAll fn ty c d)] : List Arrival).filter
    (fun a => !a.2.isEmpty))).map (·.2)) = _
  rw [hbelow]
  rfl

end Sys2Proof.Machine
end

section
/-! SUPPORT. A memory core's MCPOLL and PUSH: the request it takes and the one it returns, the rows that a block packs, and what the block
waits for (R163, R169, R170, R389, R404). -/

namespace Sys2Proof.Machine

open Sys2Proof.Claims

theorem exec_mcpoll (f : F64A) (s : State) : exec (.mcpoll f) s = issue (.mcpoll f) f.pred f.pneg mcpollBody s := rfl
theorem exec_push (f : F96E) (s : State) : exec (.push f) s = issue (.push f) f.pred f.pneg (pushBody f) s := rfl

/-! ## MCPOLL (R389) -/

section Mcpoll
variable {u : State} {c : Nat} (hc : u.focus = .m c)

/-- A memory core whose registers are pending as in `u`. -/
structure PendsAs (c : Nat) (u v : State) : Prop where
  focus : v.focus = .m c
  pending : (here v).xPending = (here u).xPending

/-- The request at the head of a core's queue. -/
def headRequest (m : MCore) : Request8 := m.slots.getD (m.c.toNat % 64) (Vector.replicate 8 0)

/-- A core takes the request at the head of its queue and returns the one before it. -/
def tookRequest (c : Nat) (u : State) : State :=
  ((List.range 8).foldl (fun v k => withX (8 + k) ((headRequest (u.mcore c)).getD k 0)
      ((u.mcore c).slotMarks.getLsbD (8 * ((u.mcore c).c.toNat % 64) + k)) v) (returnRequest c u)).modMCore c
    (fun v => { v with c := v.c + 1, taken := some (headRequest (u.mcore c)), takenPoison := 0 })

theorem PendsAs.withX {v : State} (h : PendsAs c u v) (n : Nat) (w : Word) (p : Bool) : PendsAs c u (withX n w p v) := by
  by_cases h0 : n = 0
  · subst h0; exact h
  · rw [withX_alone w p (role_core h.focus) h0]
    refine ⟨(State.focus_modSeq ..).trans h.focus, ?_⟩
    rw [here, State.focus_modSeq, State.seq_modSeq_same, Seq.setX_eq _ _ _ h0]
    exact h.pending

include hc

theorem pendsAs_returnRequest : PendsAs c u (returnRequest c u) := by
  refine ⟨hc, ?_⟩
  have hf : (returnRequest c u).focus = .m c := hc
  have hm : ((returnRequest c u).mcore c).m = (u.mcore c).m := by
    rw [returnRequest, State.mcore_modMCore_same]
    split
    · rfl
    · rfl
  rw [here, here, hf, hc, State.seq, State.seq, hm]

variable (htaken : (u.mcore c).taken.isSome = true → requestServed u c = true)
include htaken

/-- A poll finds that the request taken before is served. -/
theorem run_mcpollBody : mcpollBody.run u = (do
    if (u.mcore c).p = (u.mcore c).c then throw (.wait .queue (returnRequest c))
    set (returnRequest c u)
    for i in List.range 8 do
      putX (8 + i) ((headRequest (u.mcore c)).getD i 0) ((u.mcore c).slotMarks.getLsbD (8 * ((u.mcore c).c.toNat % 64) + i))
    modify (fun s => s.modMCore c (fun v => { v with c := v.c + 1, taken := some (headRequest (u.mcore c)), takenPoison := 0 }))
    return .fall : Exec Flow).run u := by
  rw [mcpollBody, run_bind_ok (EStateM.run_get u)]
  simp only [hc]
  by_cases ht : (u.mcore c).taken.isSome = true
  · refine (congrArg (EStateM.run · u) (if_pos ht)).trans ?_
    exact run_bind_ok (run_waitUntil_holds (htaken ht))
  · exact congrArg (EStateM.run · u) (if_neg ht)

theorem run_mcpollBody_empty (hp : (u.mcore c).p = (u.mcore c).c) : mcpollBody.run u = .error (.wait .queue (returnRequest c)) u := by
  rw [run_mcpollBody hc htaken, if_pos hp]
  rfl

theorem run_mcpollBody_takes (hp : (u.mcore c).p ≠ (u.mcore c).c) (hx : ∀ k, k < 8 → xFree u (8 + k) = true) :
    mcpollBody.run u = .ok .fall (tookRequest c u) := by
  have hfree : ∀ v, PendsAs c u v → ∀ k ∈ List.range 8, xFree v (8 + k) = true := fun v hv k hk => by
    rw [xFree, hv.pending]
    exact hx k (List.mem_range.mp hk)
  have hloop := run_forIn (l := List.range 8) (P := PendsAs c u) (body := fun i _ => do
      putX (8 + i) ((headRequest (u.mcore c)).getD i 0) ((u.mcore c).slotMarks.getLsbD (8 * ((u.mcore c).c.toNat % 64) + i))
      pure (ForInStep.yield PUnit.unit))
    (fun k _ v hv => hv.withX (8 + k) ((headRequest (u.mcore c)).getD k 0)
      ((u.mcore c).slotMarks.getLsbD (8 * ((u.mcore c).c.toNat % 64) + k)))
    (fun k hk v hv => run_bind_ok (run_putX _ _ (hfree v hv k hk))) (pendsAs_returnRequest hc)
  rw [run_mcpollBody hc htaken, if_neg hp]
  exact (run_bind_ok (EStateM.run_set ..)).trans ((run_bind_ok hloop).trans rfl)

end Mcpoll

/-! ## PUSH (R404) -/

/-- The block that a core's PUSH packs. -/
def packed (u : State) (c : Nat) (x : BitVec 32) (dst : Word) (bs : Marked) (asked : Nat) : Pushed :=
  { id := u.next, core := c, firing := u.firingOf u.focus, gang := (u.tile (gtileOf u dst)).gang, kind := x.extractLsb' 30 2
    tile := gtileOf u dst, offset := offsetOf dst, slot := if pushKind x = 2 then pushSlot x % 8 else pushSlot x
    seqX := (pushSlot x).testBit 4, bytes := bs, rows := [], pending := asked, way := Way.start (routerOfSeq u.focus) u.time, cmd := none }

/-- A block sets out. -/
def setOut (b : Pushed) (u : State) : State :=
  { (u.modLaunch (fun l => { l with pushes := l.pushes ++ [b] })) with next := u.next + 1 }

/-- What others own of a block is asked of them. -/
def askOwners (asked : List (List (Nat × Reach))) (id : Nat) (u : State) : State :=
  asked.foldl (fun v rs => addRequest v.focus none (v.firingOf v.focus) (v.gangOf v.focus) (v.partOf v.focus) (.pull rs id)
    (homeOfKey ((rs.map (·.2.key)).headD 0)) false none none v) u

/-- PUSH after the checks of its lengths and its destination, for the state of its issue. -/
def packAndSend (x : BitVec 32) (dst a stride : Word) (rows : Nat) (s : State) : Exec Flow := do
  let parts ← sourceRows a stride (pushRow x) rows
  let asked := pulls s parts
  if parts.any (fun e => strong e.1) then strongFence
  waitUntil (asked.isEmpty || outstanding s s.focus + asked.length ≤ 64) .outstanding
  let bs ← ownParts parts
  let core := match s.focus with
    | .m c => c
    | _ => 0
  let id := (← get).next
  modify (fun v => setOut { packed v core x dst bs asked.length with
    tile := gtileOf s dst, gang := (v.tile (gtileOf s dst)).gang, id := id } v)
  modify (askOwners asked id)
  if parts.any (fun e => strong e.1) && !asked.isEmpty then modMe (fun q => { q with hold := some id })
  return .fall

theorem run_packAndSend {u : State} {c : Nat} {x : BitVec 32} {dst a stride : Word} {rows : Nat} {parts : List (Place × Nat)} {bs : Marked}
    (hc : u.focus = .m c) (hrows : (sourceRows a stride (pushRow x) rows).run u = .ok parts u)
    (hweak : parts.all (fun e => !strong e.1) = true) (hown : (ownParts parts).run u = .ok bs u)
    (hroom : pulls u parts = [] ∨ outstanding u u.focus + (pulls u parts).length ≤ 64) :
    (packAndSend x dst a stride rows u).run u =
      .ok .fall (askOwners (pulls u parts) u.next (setOut (packed u c x dst bs (pulls u parts).length) u)) := by
  have hstrong : ¬ parts.any (fun e => strong e.1) = true := by
    rw [List.any_eq_true]
    rintro ⟨e, he, hs⟩
    have hw := List.all_eq_true.mp hweak e he
    rw [hs] at hw
    exact Bool.false_ne_true hw
  have hroom : ((pulls u parts).isEmpty || decide (outstanding u u.focus + (pulls u parts).length ≤ 64)) = true := by
    rw [Bool.or_eq_true, List.isEmpty_iff, decide_eq_true_eq]
    exact hroom
  rw [packAndSend]
  refine (run_bind_ok hrows).trans ((congrArg (EStateM.run · u) (if_neg hstrong)).trans ?_)
  refine (run_bind_ok (run_waitUntil_holds hroom)).trans ((run_bind_ok hown).trans ((run_bind_ok (EStateM.run_get u)).trans ?_))
  rw [run_bind_ok (EStateM.run_modify ..), run_bind_ok (EStateM.run_modify ..), Bool.eq_false_iff.mpr hstrong, hc]
  rfl

section Push
variable {u : State} {f : F96E} (hd : xOk u f.d.toNat = true) (ha : xOk u f.a.toNat = true) (hb : xOk u f.b.toNat = true)
  (hx : xOk u f.c.toNat = true)
include hd ha hb hx

theorem run_pushBody_unfit (hfit : pushFits f.aux32 ((here u).x f.c.toNat).toNat = false) :
    (pushBody f).run u = .error (.trap 0x01 0 none) u := by
  rw [pushBody, run_bind_ok (run_useX hd), run_bind_ok (run_useX ha), run_bind_ok (run_useX hb), run_bind_ok (run_useX hx)]
  exact run_bind_error (run_check_fails hfit)

variable (hfit : pushFits f.aux32 ((here u).x f.c.toNat).toNat = true)
include hfit

theorem run_pushBody_unreached (hreach : (decide (formOf ((here u).x f.d.toNat) = 1) && formOk ((here u).x f.d.toNat) &&
      decide (deviceOf ((here u).x f.d.toNat) = u.host.devid.toNat) && mayReach u u.focus (gtileOf u ((here u).x f.d.toNat))) = false) :
    (pushBody f).run u = .error (.trap 0x04 ((here u).x f.d.toNat) none) u := by
  rw [pushBody, run_bind_ok (run_useX hd), run_bind_ok (run_useX ha), run_bind_ok (run_useX hb), run_bind_ok (run_useX hx)]
  refine (run_bind_ok (run_check_holds hfit)).trans ((run_bind_ok (EStateM.run_get u)).trans (run_bind_error (run_check_fails hreach)))

/-- PUSH packs its rows, which set out, and asks others for what they own of them. -/
theorem run_pushBody {c : Nat} (hc : u.focus = .m c) (hreach : (decide (formOf ((here u).x f.d.toNat) = 1) && formOk ((here u).x f.d.toNat) &&
      decide (deviceOf ((here u).x f.d.toNat) = u.host.devid.toNat) && mayReach u u.focus (gtileOf u ((here u).x f.d.toNat))) = true)
    (hrange : pushKind f.aux32 = 0 → rangeCause ((here u).x f.d.toNat) (((here u).x f.c.toNat).toNat * pushRow f.aux32) = none)
    (hclaim : pushKind f.aux32 = 1 ∨ pushKind f.aux32 = 3 → claimed (u.tile (gtileOf u ((here u).x f.d.toNat))) (pushSlot f.aux32) = true)
    {parts : List (Place × Nat)} {bs : Marked}
    (hrows : (sourceRows ((here u).x f.a.toNat) ((here u).x f.b.toNat) (pushRow f.aux32) ((here u).x f.c.toNat).toNat).run u = .ok parts u)
    (hweak : parts.all (fun e => !strong e.1) = true) (hown : (ownParts parts).run u = .ok bs u)
    (hroom : pulls u parts = [] ∨ outstanding u u.focus + (pulls u parts).length ≤ 64) :
    (pushBody f).run u = .ok .fall (askOwners (pulls u parts) u.next
      (setOut (packed u c f.aux32 ((here u).x f.d.toNat) bs (pulls u parts).length) u)) := by
  refine Eq.trans ?_ (run_packAndSend (dst := (here u).x f.d.toNat) hc hrows hweak hown hroom)
  rw [pushBody, run_bind_ok (run_useX hd), run_bind_ok (run_useX ha), run_bind_ok (run_useX hb), run_bind_ok (run_useX hx)]
  refine (run_bind_ok (run_check_holds hfit)).trans ((run_bind_ok (EStateM.run_get u)).trans ((run_bind_ok (run_check_holds hreach)).trans ?_))
  have hkinds : ∀ {k : Exec Flow}, (if (decide (pushKind f.aux32 = 1) || decide (pushKind f.aux32 = 3)) = true then
      check (claimed (u.tile (gtileOf u ((here u).x f.d.toNat))) (pushSlot f.aux32)) 0x0F (BitVec.ofNat 64 (pushSlot f.aux32)) >>= fun _ => k
      else k).run u = k.run u := by
    intro k
    split
    · next h =>
      rw [Bool.or_eq_true, decide_eq_true_eq, decide_eq_true_eq] at h
      exact run_bind_ok (run_check_holds (hclaim h))
    · rfl
  refine Eq.trans ?_ hkinds
  by_cases hk : pushKind f.aux32 = 0
  · rw [if_pos hk, hrange hk]
    rfl
  · rw [if_neg hk]
    rfl

end Push

/-- A row in a scratchpad is one part, and none of it is a memory core's own. -/
theorem run_sourceRows_scratch {u : State} {c : Nat} {a stride : Word} {n : Nat} (hc : u.focus = .m c) (h : ScratchRange u a n 1) (hn : 0 < n) :
    (sourceRows a stride n 1).run u = .ok [(.scratch (gtileOf u a) (offsetOf a), n)] u := by
  have hplace : (resolve a n 1 .read).run u = .ok (.scratch (gtileOf u a) (offsetOf a)) u := by
    rw [resolve, run_bind_ok h.run_checkAddress, run_bind_ok (EStateM.run_get u), if_pos h.form, mirrored, hc]
    rfl
  have hrow : (sourceRow (n / 2 ^ 14 + 2) a n).run u = .ok [(.scratch (gtileOf u a) (offsetOf a), n)] u := by
    rw [sourceRow, if_neg (Nat.ne_of_gt hn)]
    simp only [h.form, if_true]
    rw [run_bind_ok hplace, Nat.sub_self, sourceRow, if_pos rfl]
    rfl
  rw [sourceRows, run_bind_ok h.run_checkAddress, run_bind_ok hrow]
  rfl

theorem run_ownParts_scratch {u : State} {c t off n : Nat} (hc : u.focus = .m c) :
    (ownParts [(.scratch t off, n)]).run u = .ok (marked (List.replicate n 0) false) u := by
  have hown : isOwn u.focus (.scratch t off) = false := by rw [hc]; rfl
  have hall : (marked (List.replicate n 0) false) ++ [] = marked (List.replicate n 0) false := List.append_nil _
  rw [ownParts, run_bind_ok (run_me u)]
  refine (congrArg (EStateM.run · u) (if_neg (Bool.eq_false_iff.mp hown))).trans ?_
  rw [EStateM.run_bind]
  exact congrArg (EStateM.Result.ok · u) hall

end Sys2Proof.Machine
end

section
/-! SUPPORT. The delivery of pushed blocks and the return of a memory core's request, and the statement about a command's life and the memory
core's part of a copy (R163, R169, R170, R278, R404). -/

namespace Sys2Proof.Machine

open Sys2Proof.Claims

theorem exec_pushDelivery (s : State) : exec .pushDelivery s = execPushDelivery s := rfl
theorem exec_mcRequestCompletion (s : State) : exec .mcRequestCompletion s = execMcRequestCompletion s := rfl

/-! ## Blocks in transit, over writes -/

theorem pushes_noteClass (p g : Nat) (s : State) (c : Nat) : (noteClass p g s c).launch.pushes = s.launch.pushes := by
  rw [noteClass]
  split
  · rfl
  · rfl

theorem pushes_writeBytes (p g : Nat) (entry : BitVec 32) (key : Nat) (bytes : Marked) (s : State) :
    (writeBytes p g entry key bytes s).launch.pushes = s.launch.pushes := by
  have h : ∀ (l : List Nat) (v : State), (l.foldl (noteClass p g) v).launch.pushes = v.launch.pushes := fun l => by
    induction l with
    | nil => exact fun _ => rfl
    | cons c l ih =>
      intro v
      rw [List.foldl_cons, ih, pushes_noteClass]
  exact h _ _

theorem pushes_fillSlot (p g t slot off : Nat) (bs : Marked) (s : State) : (fillSlot p g t slot off bs s).launch.pushes = s.launch.pushes :=
  foldl_keeps (P := fun v => v.launch.pushes = s.launch.pushes) (fun _ _ _ hv => (pushes_writeBytes ..).trans hv) rfl

theorem pushes_countDelivered (b : Pushed) (bad : Nat) (s : State) : (countDelivered b bad s).launch.pushes = s.launch.pushes := rfl
theorem mem_countDelivered (b : Pushed) (bad : Nat) (s : State) : (countDelivered b bad s).mem = s.mem := rfl

/-- A write to words of a scratchpad that hold no error changes nothing but memory. -/
theorem writeBytes_clean {s : State} {p g t off : Nat} {bytes : Marked} (hn : off + bytes.length ≤ 2 ^ 20)
    (hc : Claims.cleanBytes s.mem (scratchKey t off) bytes.length = true) :
    writeBytes p g 0 (scratchKey t off) bytes s = { s with mem := writeMarked s.mem 0 (scratchKey t off) bytes } := by
  have hcp := correctPart_clean 0 s.mem s.free (scratchKey t off) bytes.length (fun i hi =>
    ⟨scratch_bytes_not_external hn i hi, List.all_eq_true.mp hc i (by simpa using hi)⟩)
  rw [writeBytes, hcp]
  rfl

/-! ## The delivery of a block -/

section Delivery
variable {s : State} {i row : Nat} {b : Pushed} {p : Nat × Nat}

/-- The state in which a part of a block lands: its copies are counted, and what remains of it is in transit. -/
def handedOver (i : Nat) (b : Pushed) (rest : Option Pushed) (s : State) : State :=
  (countError s (partOfGang s b.gang) 6 b.way.copies).modLaunch (fun l => { l with pushes := match rest with
    | some r => l.pushes.set i r
    | none => l.pushes.eraseIdx i })

/-- A fence drops the whole block. -/
theorem deliverBlock_eq (hn : b.next s row = some p) : deliverBlock i row b s =
    if fenced s b.tile then dropWrite (partOfGang s b.gang) (handedOver i b none s) else landPart b p (handedOver i b (b.rest row p) s) := by
  have hcount : fenced (countError s (partOfGang s b.gang) 6 b.way.copies) b.tile = fenced s b.tile := rfl
  simp only [deliverBlock, hn]
  cases hf : fenced s b.tile with
  | true =>
    have hrest : (if fenced (countError s (partOfGang s b.gang) 6 b.way.copies) b.tile = true then none else b.rest row p) = none :=
      if_pos (hcount.trans hf)
    rw [hrest]
    exact if_pos hf
  | false =>
    have hrest : (if fenced (countError s (partOfGang s b.gang) 6 b.way.copies) b.tile = true then none else b.rest row p) = b.rest row p :=
      if_neg (Bool.eq_false_iff.mp (hcount.trans hf))
    rw [hrest]
    exact if_neg (Bool.eq_false_iff.mp hf)

theorem next_of_pushReady (h : pushReady s i row b = true) : ∃ p, b.next s row = some p := by
  simp only [pushReady, Bool.and_eq_true] at h
  exact Option.isSome_iff_exists.mp h.2

theorem pushDelivery_delivers (hb : s.launch.pushes[s.subject % 2 ^ 32]? = some b)
    (h : pushReady s (s.subject % 2 ^ 32) (s.subject / 2 ^ 32) b = true) :
    exec .pushDelivery s = .next (deliverBlock (s.subject % 2 ^ 32) (s.subject / 2 ^ 32) b s) := by
  rw [exec_pushDelivery, execPushDelivery]
  simp only [show s.launch.pushes[s.subject % pushBase]? = some b from hb]
  exact congrArg Host.Outcome.next (if_pos h)

/-- A block for memory is written whole. -/
theorem next_memory (hk : b.kind = 0) : b.next s row = some (0, b.bytes.length) := by
  rw [Pushed.next, hk]
  rfl

theorem rest_memory (hk : b.kind = 0) : b.rest row (0, b.bytes.length) = none := by
  have hne : ¬ b.kind = 1 := by rw [hk]; decide
  simp only [Pushed.rest]
  rw [if_neg hne]
  exact if_neg (Nat.lt_irrefl _)

theorem rest_slot (hk : b.kind = 1) (hl : b.rows.length + 1 < b.rowParts.length) :
    b.rest row p = some { b with rows := b.rows ++ [row], way := { b.way with copies := 0 } } := by
  simp only [Pushed.rest]
  rw [if_pos hk]
  exact if_pos hl

theorem landPart_memory {v : State} (hk : b.kind = 0) (hc : b.cmd = none) (ht : (v.tile b.tile).twin = .alone) :
    landPart b (0, b.bytes.length) v = countDelivered b (poisonedParts b.start b.bytes)
      (writeBytes (partOfGang v b.gang) b.gang 0 (scratchKey b.tile b.offset) b.bytes v) := by
  have hpart : partOfBlock b.bytes (0, b.bytes.length) = b.bytes := List.take_length
  have hwrite : landBlock b b.bytes v = writeBytes (partOfGang v b.gang) b.gang 0 (scratchKey b.tile b.offset) b.bytes v := by
    simp only [landBlock, hk]
    exact if_neg fun h => h.2 ht
  simp only [landPart, hc, hpart, hk]
  rw [if_neg (by decide), hwrite]
  rfl

theorem pushes_landPart_slot {v : State} (hk : b.kind = 1) (hc : b.cmd = none) : (landPart b p v).launch.pushes = v.launch.pushes := by
  simp only [landPart, hc, hk]
  exact pushes_fillSlot ..

end Delivery

theorem bytes_congr_byte {m m' : Mem} (h : ∀ j, m.byte j = m'.byte j) (k n : Nat) : m.bytes k n = m'.bytes k n := by
  induction n generalizing k with
  | zero => rfl
  | succ n ih => rw [Mem.bytes, Mem.bytes, h, ih]

/-- What a write of marked bytes to clean words of a scratchpad leaves there, and what it leaves alone. -/
theorem bytes_writeBytes_clean {s : State} {p g t off : Nat} {bytes : Marked} (hn : off + bytes.length ≤ 2 ^ 20)
    (hc : Claims.cleanBytes s.mem (scratchKey t off) bytes.length = true) :
    (writeBytes p g 0 (scratchKey t off) bytes s).mem.bytes (scratchKey t off) bytes.length = bytes.map (·.1) ∧
      ∀ key, key < scratchKey t off ∨ scratchKey t off + bytes.length ≤ key →
        (writeBytes p g 0 (scratchKey t off) bytes s).mem.byte key = s.mem.byte key := by
  have hbyte := byte_writeMarked s.mem 0 (scratchKey t off) bytes (scratch_bytes_not_external hn)
  have hl : bytes.bytes.length = bytes.length := List.length_map ..
  rw [writeBytes_clean hn hc]
  refine ⟨?_, fun key hkey => (hbyte key).trans (Mem.byte_setBytes_outside _ _ _ (by rwa [hl]))⟩
  have hset := Mem.bytes_setBytes s.mem (scratchKey t off) bytes.bytes
  rw [hl] at hset
  exact (bytes_congr_byte hbyte _ _).trans hset

/-! ## The statement about commands and copies -/

/-- Settles O48: each clause is one branch of its instruction. -/
theorem commandsAndMemoryCoreCopies : Obligations.CommandsAndMemoryCoreCopies := by
  unfold Obligations.CommandsAndMemoryCoreCopies
  refine ⟨fun s t e n => ⟨commandStart_idle, fun c => commandStart_starts, fun h => ⟨commandCompletion_absent h, putsSignal_absent h⟩,
      fun c h => ⟨fun hf => ?unfinished, fun hf => ?finished, fun a b len ctr dec key entry home => putsSignal_leaves h⟩,
      fun d offer values => switchCombine_absent, fun x d offer values h hopen hmember hnew => ⟨switchCombine_drains h, fun hdrain => ?value⟩,
      fun fn ty a b c d => ⟨combineTree_three fn ty a b c, combineSwitches_one fn ty a b c, combineSwitches_two fn ty⟩⟩,
    fun s c f hc hr => ?poll, fun s c f hc hr => ?push, fun s => ⟨fun hnone => ?nothing, fun b hb => ⟨fun hnot => ?unready, ?memory, ?row, ?fence⟩,
      fun hnone => ?idle, fun r n rest hret => ?returns⟩⟩
  case unfinished => rw [commandCompletion_present h, hf]; rfl
  case finished => rw [commandCompletion_present h, hf]; rfl
  case value =>
    have htaken := switchCombine_taken (offer := offer) (values := values) h hopen hmember hnew hdrain
    refine ⟨fun hd hwhat => ?_, fun hd hwhat hlen => ?_, fun vs v hd hsend hready hrun => ?_, fun w hd hsend => ?_⟩
    · rw [htaken, if_neg hd, if_pos hwhat]
    · rw [htaken, if_neg hd, if_neg (not_not_intro hwhat), if_pos hlen]
    · subst hd
      rw [htaken, if_pos rfl]
      exact ownValue_formed hsend hready hrun
    · subst hd
      rw [htaken, if_pos rfl]
      exact ⟨ownValue_travels hsend, ownValue_arrives hsend⟩
  case poll =>
    intro u m r htaken
    have hf : (issued s).focus = .m c := (focus_issued (s := s)).trans hc
    rw [exec_mcpoll]
    exact ⟨fun hp => issue_waits hr (run_mcpollBody_empty hf htaken hp),
      fun hp hx => issue_runs hr (run_mcpollBody_takes hf htaken hp hx)⟩
  case push =>
    intro u x dst rows t k reaches ha hb hx hd
    have hf : (issued s).focus = .m c := (focus_issued (s := s)).trans hc
    rw [exec_push]
    refine ⟨fun hfit => issue_illegalOperand hr (run_pushBody_unfit hd ha hb hx hfit),
      fun hfit hreach => issue_traps_unchanged hr (run_pushBody_unreached hd ha hb hx hfit hreach) (by decide),
      fun hfit hreach hrange hclaim parts bs hrows hweak hown => ?_, ?_⟩
    · intro asked block leaves hroom
      exact issue_runs hr (run_pushBody hd ha hb hx hfit hf hreach hrange hclaim hrows hweak hown hroom)
    · intro a n part hrange
      exact ⟨run_sourceRows_scratch hf (scratchRange_elim hrange) (Nat.succ_pos _), run_ownParts_scratch hf⟩
  case nothing =>
    rw [exec_pushDelivery, execPushDelivery]
    simp only [show s.launch.pushes[s.subject % pushBase]? = none from hnone]
  case unready =>
    rw [exec_pushDelivery, execPushDelivery]
    simp only [show s.launch.pushes[s.subject % pushBase]? = some b from hb]
    exact congrArg Host.Outcome.next (if_neg (Bool.eq_false_iff.mp hnot))
  case memory =>
    intro hready hfence hk hcmd htwin hclean hfits
    have htwin : ((handedOver (s.subject % 2 ^ 32) b none s).tile b.tile).twin = .alone := htwin
    have hbytes := bytes_writeBytes_clean (s := handedOver (s.subject % 2 ^ 32) b none s) (p := partOfGang s b.gang) (g := b.gang) hfits hclean
    refine ⟨_, pushDelivery_delivers hb hready, ?_⟩
    rw [deliverBlock_eq (next_memory hk), if_neg (Bool.eq_false_iff.mp hfence), rest_memory hk, landPart_memory hk hcmd htwin,
      pushes_countDelivered, pushes_writeBytes, mem_countDelivered]
    exact ⟨rfl, hbytes⟩
  case row =>
    intro hready hfence hk hcmd hlen
    obtain ⟨p, hp⟩ := next_of_pushReady hready
    refine ⟨_, pushDelivery_delivers hb hready, ?_⟩
    rw [deliverBlock_eq hp, if_neg (Bool.eq_false_iff.mp hfence), rest_slot hk hlen, pushes_landPart_slot hk hcmd]
    rfl
  case fence =>
    intro hready hfence
    obtain ⟨p, hp⟩ := next_of_pushReady hready
    rw [pushDelivery_delivers hb hready, deliverBlock_eq hp, if_pos hfence]
    rfl
  case idle => rw [exec_mcRequestCompletion, execMcRequestCompletion, hnone]
  case returns =>
    rw [exec_mcRequestCompletion, execMcRequestCompletion, hret]
    exact ⟨fun hwaits => if_pos hwaits, fun hclear => if_neg (Bool.eq_false_iff.mp hclear)⟩

end Sys2Proof.Machine
end

section
/-! SUPPORT. A packet's way through the fabric, its delivery, the access at a request's home, the answer, and the time-outs, with the
statement about them (R165, R179, R208, R250-R256, R259). -/

namespace Sys2Proof.Machine

open Sys2Proof.Claims

theorem exec_packetForward (s : State) : exec .packetForward s = execPacketForward s := rfl
theorem exec_packetDelivery (s : State) : exec .packetDelivery s = execPacketDelivery s := rfl
theorem exec_ownerAccess (s : State) : exec .ownerAccess s = execOwnerAccess s := rfl
theorem exec_requestResponse (s : State) : exec .requestResponse s = execRequestResponse s := rfl

/-! ## Where a packet stands (R250, R252, R259) -/

section Forward
variable {s : State} {p : Packet} (h : packetAt s (carrierOf s.subject) = some p)

theorem packetForward_absent (h : packetAt s (carrierOf s.subject) = none) : exec .packetForward s = .next s := by
  simp only [exec_packetForward, execPacketForward, h]

include h

theorem packetForward_issuer (hh : p.way.hop = .issuer) : exec .packetForward s = .next (inject (carrierOf s.subject) p s) := by
  simp only [exec_packetForward, execPacketForward, h, hh]

theorem packetForward_across (hh : p.way.hop = .across) : exec .packetForward s = .next (enter (carrierOf s.subject) p s) := by
  simp only [exec_packetForward, execPacketForward, h, hh]

section Router
variable {here : Nat} (hh : p.way.hop = .router here) (hc : ∀ i, carrierOf s.subject ≠ .multicast i)
include hh hc

/-- A packet of one destination at a router goes on, or takes its tether, or has come. -/
theorem packetForward_routes (hne : here ≠ p.dest) : exec .packetForward s = .next (routePacket (carrierOf s.subject) p here s) := by
  simp only [exec_packetForward, execPacketForward, h, hh]
  exact if_pos hne

theorem packetForward_leaves {port : Nat} (hdest : here = p.dest) (hport : p.port = some port) :
    exec .packetForward s = .next (takeTether (carrierOf s.subject) port s) := by
  simp only [exec_packetForward, execPacketForward, h, hh, hport]
  exact if_neg (not_not_intro hdest)

theorem packetForward_stays (hdest : here = p.dest) (hport : p.port = none) : exec .packetForward s = .next s := by
  simp only [exec_packetForward, execPacketForward, h, hh, hport]
  exact if_neg (not_not_intro hdest)

end Router

end Forward

/-- A multicast packet at a router: copies of one that has arrived are discarded. -/
theorem packetForward_multicast {s : State} {i here : Nat} {m : Multicast} (hc : carrierOf s.subject = .multicast i)
    (hm : s.launch.multicasts[i]? = some m) (hh : m.way.hop = .router here) : exec .packetForward s =
    .next (if (branches s m here).isEmpty && 0 < m.way.copies then
      countResend (partOfGang s m.gang) 1 (modWay (.multicast i) (fun w => { w with copies := w.copies - 1 }) s) else routeMulticast i m here s) := by
  simp only [exec_packetForward, execPacketForward, hc, packetAt, hm, Option.map_some, hh]

/-- An entry of the table sends a packet on, loses it, or makes it wait behind an older one. -/
theorem routePacket_invalid {s : State} {c : Carrier} {p : Packet} {here : Nat} (h : routeNext s here p.dest p.part = none) :
    routePacket c p here s = countError (moveTo c .lost s) p.part 7 1 := by
  simp only [routePacket, h]

theorem routePacket_on {s : State} {c : Carrier} {p : Packet} {here n : Nat} {vc : BitVec 2}
    (h : routeNext s here p.dest p.part = some (.router n, vc)) : routePacket c p here s =
      if contended s p.age here (.router n) then s else modWay c (fun w => { w with hop := .router n, vc := vc }) s := by
  simp only [routePacket, h]

theorem routePacket_astray {s : State} {c : Carrier} {p : Packet} {here : Nat} {b : Behind} {vc : BitVec 2}
    (h : routeNext s here p.dest p.part = some (b, vc)) (hb : ∀ n, b ≠ .router n) : routePacket c p here s = moveTo c .lost s := by
  simp only [routePacket, h]
  cases b with
  | router n => exact absurd rfl (hb n)
  | _ => rfl

/-! ### A multicast packet's branches (R259) -/

section Multicast
variable {s : State} {m : Multicast} {here i : Nat}

/-- The branch that stops a multicast packet. -/
def stopped (s : State) (m : Multicast) (here : Nat) (b : Option (Behind × BitVec 2)) : Bool :=
  match b with
  | some (n, _) => contended s m.id here n
  | none => false

/-- A multicast packet parted into its branches. -/
def parted (i : Nat) (m : Multicast) (here : Nat) (s : State) : State :=
  s.modLaunch (fun l => { l with multicasts := l.multicasts.take i ++ splitMulticast s m here ++ l.multicasts.drop (i + 1) })

theorem routeMulticast_eq : routeMulticast i m here s =
    if (branches s m here).isEmpty || (branches s m here).any (stopped s m here) then s
    else if (branches s m here).contains none then countError (parted i m here s) (partOfGang s m.gang) 7 1 else parted i m here s := rfl

theorem routeMulticast_stops {b : Behind} {vc : BitVec 2} (hb : some (b, vc) ∈ branches s m here) (hc : contended s m.id here b = true) :
    routeMulticast i m here s = s := by
  have hany : (branches s m here).any (stopped s m here) = true := List.any_eq_true.mpr ⟨_, hb, hc⟩
  rw [routeMulticast_eq, hany, Bool.or_true, if_pos rfl]

theorem routeMulticast_parts (hne : branches s m here ≠ []) (hfree : ∀ b vc, some (b, vc) ∈ branches s m here → contended s m.id here b = false) :
    routeMulticast i m here s =
      if (branches s m here).contains none then countError (parted i m here s) (partOfGang s m.gang) 7 1 else parted i m here s := by
  have hnone : (branches s m here).any (stopped s m here) = false := by
    rw [← Bool.not_eq_true, List.any_eq_true]
    rintro ⟨b, hb, hs⟩
    cases b with
    | none => exact Bool.false_ne_true hs
    | some b => exact Bool.false_ne_true ((hfree b.1 b.2 hb).symm.trans hs)
  have hempty : (branches s m here).isEmpty = false := by rwa [← Bool.not_eq_true, List.isEmpty_iff]
  rw [routeMulticast_eq, hnone, hempty]
  rfl

end Multicast

/-! ## Time-outs (R256) -/

section Timeout
variable {s : State}

theorem endToEndTimeout_eq : exec .endToEndTimeout s =
    if !timedOut s (carrierOf s.subject) then .next s
    else if 8 ≤ (carrierGang s (carrierOf s.subject)).2.2 + 1 then .next (endGang (carrierGang s (carrierOf s.subject)).1 3 0x13
      (modWay (carrierOf s.subject) (fun w => { w with timeouts := 8, sentAt := s.time }) s))
    else .next (countResend (carrierGang s (carrierOf s.subject)).2.1 1 (resend (carrierOf s.subject) s)) := rfl

/-- What is sent again begins where its way began if it was lost, and is a copy if it is under way. -/
theorem again_spec (w : Way) (time : Nat) : (w.again time).timeouts = w.timeouts + 1 ∧ (w.again time).sentAt = time ∧
    (w.hop = .lost → (w.again time).hop = (if w.inbound.isSome = true then .across else .issuer) ∧ (w.again time).copies = w.copies) ∧
    (w.hop ≠ .lost → (w.again time).hop = w.hop ∧ (w.again time).copies = if w.hop = .issuer then w.copies else w.copies + 1) := by
  cases hw : w.hop with
  | lost => simp [Way.again, hw]
  | issuer => simp [Way.again, hw]
  | router n => simp [Way.again, hw]
  | tether n k => simp [Way.again, hw]
  | across => simp [Way.again, hw]

theorem findRequest_modRequest {n : Nat} {r : Request} {f : Request → Request} (h : findRequest s n = some r) (hf : ∀ x, (f x).id = x.id) :
    findRequest (modRequest n f s) n = some (f r) := by
  have hid : r.id = n := eq_of_beq (List.find?_some (p := fun r : Request => r.id == n) h)
  have hmap : findRequest (modRequest n f s) n =
      (s.fabric.requests.map (fun r => if r.id = n then f r else r)).find? (fun r => r.id == n) := rfl
  have hsame : ((fun r : Request => r.id == n) ∘ fun r => if r.id = n then f r else r) = fun r => r.id == n := by
    funext x
    by_cases hx : x.id = n
    · simp [hx, hf]
    · simp [hx]
  rw [hmap, List.find?_map, hsame, show s.fabric.requests.find? (fun r => r.id == n) = some r from h, Option.map_some, if_pos hid]

/-- A request sent again, its lost answer asked for again. -/
theorem findRequest_resend {n : Nat} {r : Request} (h : findRequest s n = some r) : ∃ x, findRequest (resend (.request n) s) n = some x ∧
    (if r.way.hop = .lost ∧ r.stage.isAnswer = true then x.stage = .sent ∧ x.way.hop = .issuer
      else x.stage = r.stage ∧ x.way = r.way.again s.time) := by
  refine ⟨_, findRequest_modRequest h fun x => ?_, ?_⟩
  · split
    · rfl
    · rfl
  · by_cases hl : r.way.hop = .lost ∧ r.stage.isAnswer = true
    · rw [if_pos hl, if_pos (by rw [decide_eq_true hl.1, hl.2]; rfl)]
      exact ⟨rfl, ((again_spec { r.way with inbound := none, origin := routerOfSeq r.seq } s.time).2.2.1 hl.1).1⟩
    · rw [if_neg hl, if_neg (by rwa [Bool.and_eq_true, decide_eq_true_eq])]
      exact ⟨rfl, rfl⟩

end Timeout

/-! ## The delivery of a request (R198, R208, R256) -/

section Delivered
variable {s : State} {r : Request}

theorem request_absent (h : findRequest s s.subject = none) :
    exec .packetDelivery s = .next s ∧ exec .ownerAccess s = .next s ∧ exec .requestResponse s = .next s := by
  simp only [exec_packetDelivery, execPacketDelivery, exec_ownerAccess, execOwnerAccess, exec_requestResponse, execRequestResponse, h, and_self]

variable (h : findRequest s s.subject = some r)
include h

theorem packetDelivery_sent (hs : r.stage = .sent) : exec .packetDelivery s =
    if !r.there || waitsBefore s r || behindPush s r then .next s else .next (if wasDelivered s r then deliverAgain r s else deliverFirst r s) := by
  have hu : r.underway = true := by rw [Request.underway, hs]; rfl
  simp only [exec_packetDelivery, execPacketDelivery, h]
  exact if_pos hu

theorem packetDelivery_waits (hs : r.stage = .sent) (hw : r.there = false ∨ waitsBefore s r = true ∨ behindPush s r = true) :
    exec .packetDelivery s = .next s := by
  rw [packetDelivery_sent h hs]
  exact if_pos (by rcases hw with hw | hw | hw <;> simp [hw])

theorem packetDelivery_arrives (hs : r.stage = .sent) (ht : r.there = true) (hw : waitsBefore s r = false) (hb : behindPush s r = false) :
    exec .packetDelivery s = .next (if wasDelivered s r then deliverAgain r s else deliverFirst r s) := by
  rw [packetDelivery_sent h hs]
  exact if_neg (by rw [ht, hw, hb]; decide)

/-- A packet of a request that its home has had, or whose answer is on its way, is a copy. -/
theorem packetDelivery_copy (hs : r.stage ≠ .sent) : exec .packetDelivery s =
    if 0 < r.way.copies then
      .next (countResend r.part 1 (modRequest r.id (fun r => { r with way := { r.way with copies := r.way.copies - 1 } }) s))
    else .next s := by
  have hu : ¬ r.underway = true := by
    rw [Request.underway, beq_iff_eq]
    exact hs
  simp only [exec_packetDelivery, execPacketDelivery, h]
  exact if_neg hu

end Delivered

/-- What a duplicate does: the kept answer, the answer of a write done before, or another read. -/
theorem deliverAgain_kept {s : State} {r : Request} {x : Cached} (h : cachedFor s r = some x) :
    deliverAgain r s = countError (modRequest r.id (fun y => y.answer x.value x.poison) s) r.part 6 1 := by
  simp only [deliverAgain, h]
  rfl

theorem deliverAgain_write {s : State} {r : Request} (h : cachedFor s r = none)
    (hop : (∃ ps, r.op = .store ps) ∨ ∃ lo bs, r.op = .land lo bs) :
    deliverAgain r s = countError (modRequest r.id (fun y => y.answer 0 0) s) r.part 6 1 := by
  simp only [deliverAgain, h]
  rcases hop with ⟨ps, hop⟩ | ⟨lo, bs, hop⟩
  · rw [hop]; rfl
  · rw [hop]; rfl

theorem deliverAgain_read {s : State} {r : Request} (h : cachedFor s r = none) (hstore : ∀ ps, r.op ≠ .store ps)
    (hland : ∀ lo bs, r.op ≠ .land lo bs) : deliverAgain r s =
      countError { modRequest r.id (fun x => { x with stage := .delivered s.next }) s with next := s.next + 1 } r.part 6 1 := by
  simp only [deliverAgain, h]
  rfl

/-! ## The access at a request's home (R165) -/

section Access
variable {s : State} {r : Request}

theorem atTurn_sent (hs : r.stage = .sent) : atTurn s r = false := by
  rw [atTurn, hs]

theorem atTurn_delivered {n : Nat} (hs : r.stage = .delivered n) : atTurn s r = true ↔ refused s r = false ∧ behindOther s r n = false := by
  rw [atTurn, hs, Bool.and_eq_true, Bool.not_eq_true', Bool.not_eq_true']

section Owner
variable (h : findRequest s s.subject = some r)
include h

theorem ownerAccess_waits (ht : atTurn s r = false) : exec .ownerAccess s = .next s := by
  simp only [exec_ownerAccess, execOwnerAccess, h, ht]
  rfl

theorem ownerAccess_answers {v : BitVec 1024} {p : BitVec 32} {t : State} (ht : atTurn s r = true)
    (hp : (performRequest r).run s = .ok (some (v, p)) t) : exec .ownerAccess s = .next (answerRequest r.id v p t) := by
  simp only [exec_ownerAccess, execOwnerAccess, h, ht, hp]
  rfl

theorem ownerAccess_holds {t : State} (ht : atTurn s r = true) (hp : (performRequest r).run s = .ok none t) :
    exec .ownerAccess s = .next t := by
  simp only [exec_ownerAccess, execOwnerAccess, h, ht, hp]
  rfl

end Owner

theorem fenceOrder_calm (h : s.mem.unseen = []) (q : SeqId) (scope : Nat) : fenceOrder q scope s = s := by
  rw [fenceOrder, acquiresOn_calm h, releasesOn_calm h]

theorem fenceAcquire_calm (h : s.mem.unseen = []) (q : SeqId) (scope : Nat) : fenceAcquire q scope s = s := markUnseen_calm h ..

/-- An acquire changes nothing where every agent sees every write. -/
theorem acquire_calm (h : s.mem.unseen = []) (q : SeqId) (y : Sync) (key : Nat) : acquire q y key s = s := by
  obtain ⟨release, acq, full, order⟩ := y
  have hfull : ∀ scope, fenceAcquire q scope (if order then fenceOrder q scope s else s) = s := fun scope => by
    rw [fenceOrder_calm h, ite_self, fenceAcquire_calm h]
  cases acq with
  | none =>
    cases full with
    | none => rfl
    | some scope => exact hfull scope
  | some reach =>
    cases full with
    | none => exact acquired_calm h ..
    | some scope =>
      simp only [acquire, acquired_calm h]
      exact hfull scope

theorem lanesOf_unmarked (n : Nat) : lanesOf (List.replicate n false) = 0 := by
  have hnone : ∀ i, (((List.replicate n false).drop (4 * i)).take 4).any id = false := fun i => by
    rw [← Bool.not_eq_true, List.any_eq_true]
    rintro ⟨b, hb, hs⟩
    have := List.eq_of_mem_replicate (List.mem_of_mem_drop (List.mem_of_mem_take hb))
    rw [this] at hs
    exact Bool.false_ne_true hs
  simp only [lanesOf, hnone, Bool.false_eq_true, if_false]
  rfl

/-- A load of a scratchpad's clean bytes answers them. -/
theorem run_performRequest_load {x : Reach} {ty : BitVec 4} {d : BitVec 6} {t off : Nat} (hop : r.op = .load x ty d) (hecho : r.echo = none)
    (hkey : x.key = scratchKey t off) (hentry : x.entry = 0) (hfits : off + x.len ≤ 2 ^ 20) (hoff : off < 2 ^ 20)
    (hfence : fencedKey s x.key = false) (hclean : Claims.cleanBytes s.mem x.key x.len = true) (hcalm : Calm s) :
    (performRequest r).run s = .ok (some (BitVec.ofNat 1024 (wordAt s.mem x.key x.len), 0)) s := by
  have hfetch : (fetchMarked r.part r.gang x.entry x.key x.len).run s = .ok (marked (s.mem.bytes x.key x.len) false) s := by
    rw [hkey] at hclean
    rw [fetchMarked, run_bind_ok (EStateM.run_get s), hfence, hentry, hkey]
    refine (run_bind_ok (run_fetchClean (scratch_not_external hoff) (read_scratch hfits hclean))).trans ?_
    rw [← zip_replicate_false _ x.len (length_bytes ..)]
    rfl
  have hheld : (heldBytes r x).run s = .ok (marked (s.mem.bytes x.key x.len) false) s := by
    simp only [heldBytes, hecho]
    exact hfetch
  have hview : (plainOrNewest r x (marked (s.mem.bytes x.key x.len) false)).run s = .ok (marked (s.mem.bytes x.key x.len) false) s := by
    rw [plainOrNewest]
    split
    · exact run_view_calm hcalm ..
    · exact run_bind_ok (run_viewNewest hcalm.2 ..)
  have hanswer : answerOf (marked (s.mem.bytes x.key x.len) false) = (BitVec.ofNat 1024 (wordAt s.mem x.key x.len), 0) := by
    have hmarks : (marked (s.mem.bytes x.key x.len) false).map (·.2) = List.replicate x.len false := by
      have hconst := List.map_const' (l := s.mem.bytes x.key x.len) (b := false)
      rw [length_bytes] at hconst
      rw [marked, List.map_map]
      exact hconst
    rw [answerOf, bytes_marked, hmarks, lanesOf_unmarked, wordAt]
  simp only [performRequest, hop]
  rw [run_bind_ok hheld, run_bind_ok hview, run_bind_ok (EStateM.run_modify ..), acquire_calm hcalm.2, hanswer]
  rfl

end Access

/-! ## The answer (R179) -/

section Response
variable {s : State} {r : Request} {v : BitVec 1024} {p : BitVec 32}

theorem requestResponse_unanswered (h : findRequest s s.subject = some r) (hs : ∀ v p, r.stage ≠ .answered v p) :
    exec .requestResponse s = .next s := by
  cases hstage : r.stage with
  | answered v p => exact absurd hstage (hs v p)
  | sent => simp only [exec_requestResponse, execRequestResponse, h, hstage]
  | delivered n => simp only [exec_requestResponse, execRequestResponse, h, hstage]
  | waiting => simp only [exec_requestResponse, execRequestResponse, h, hstage]

section Answered
variable (h : findRequest s s.subject = some r) (hs : r.stage = .answered v p)
include h hs

theorem requestResponse_travels (hh : r.way.hop ≠ .router (routerOfSeq r.seq)) : exec .requestResponse s = .next s := by
  simp only [exec_requestResponse, execRequestResponse, h, hs]
  exact if_pos hh

variable (hh : r.way.hop = .router (routerOfSeq r.seq))
include hh

theorem requestResponse_claim {x : Reach} {slot : Nat} {d : Nest} (hop : r.op = .claim x slot d) :
    exec .requestResponse s = .next (answerClaim r slot d v p (closeRequest r s)) := by
  simp only [exec_requestResponse, execRequestResponse, h, hs, hop]
  exact if_neg (not_not_intro hh)

/-- The answer of a sequencer's request, which is neither a claim nor a piece of a pushed block. -/
theorem requestResponse_seq (he : r.engine = none) (hpull : ∀ rs id, r.op ≠ .pull rs id) (hclaim : ∀ x slot d, r.op ≠ .claim x slot d) :
    exec .requestResponse s = answerSeq r v p (closeRequest r s) := by
  simp only [exec_requestResponse, execRequestResponse, h, hs, he]
  refine (if_neg (not_not_intro hh)).trans ?_
  cases hop : r.op with
  | claim x slot d => exact absurd hop (hclaim x slot d)
  | pull rs id => exact absurd hop (hpull rs id)
  | _ => rfl

end Answered

theorem answerSeq_gone (h : r.void = true ∨ s.firingOf r.seq ≠ r.firing) : answerSeq r v p s = .next s := by
  rw [answerSeq]
  exact if_pos (by rwa [Bool.or_eq_true, decide_eq_true_eq])

section Taken
variable (hv : r.void = false) (hf : s.firingOf r.seq = r.firing)
include hv hf

theorem answerSeq_here : answerSeq r v p s =
    if r.op.mayConsume && p = 2 then
      .next (consumePoison r.seq (noteConsumed r.seq (r.op.wordAddress s) (r.op.noteUnit r.seq (releaseHold r s))))
    else match (takeAnswer r (v, p)).run { s with focus := r.seq } with
      | .ok _ s' => .next (releaseHold r { s' with focus := s.focus })
      | .error (.fault x) _ => .fault x
      | .error _ _ => .next s := by
  rw [answerSeq]
  exact if_neg (by rw [hv, hf]; simp)

theorem answerSeq_consumes (hop : r.op.mayConsume = true) (hp : p = 2) : answerSeq r v p s =
    .next (consumePoison r.seq (noteConsumed r.seq (r.op.wordAddress s) (r.op.noteUnit r.seq (releaseHold r s)))) := by
  rw [answerSeq_here hv hf]
  exact if_pos (by rw [hop, hp]; rfl)

theorem answerSeq_takes {t : State} (hop : r.op.mayConsume = false) (ht : (takeAnswer r (v, p)).run { s with focus := r.seq } = .ok () t) :
    answerSeq r v p s = .next (releaseHold r { t with focus := s.focus }) := by
  rw [answerSeq_here hv hf, hop, ht]
  rfl

end Taken

theorem run_takeAnswer_load {x : Reach} {ty : BitVec 4} {d : BitVec 6} (hop : r.op = .load x ty d) (hd : d.toNat < 32) (he : r.echo = none) :
    (takeAnswer r (v, p)).run s = .ok () (respondX s.focus d.toNat (extend ty.toNat (v.setWidth 64 : Word).toNat) (p != 0) s) := by
  simp only [takeAnswer, he, hop, respond, hd, if_true]
  rfl

theorem run_takeAnswer_store {ps : List Piece} (hop : r.op = .store ps) (he : r.echo = none) : (takeAnswer r (v, p)).run s = .ok () s := by
  simp only [takeAnswer, he, hop, respond]
  rfl

end Response

/-! ## The statement about packets and accesses -/

/-- Settles O56: each clause is one branch of its instruction. -/
theorem packetsAndAccesses : Obligations.PacketsAndAccesses := by
  unfold Obligations.PacketsAndAccesses
  intro s c tether
  refine ⟨packetForward_absent, fun p hp => ⟨fun hh => ?issuer, fun hh => ?across, fun here hh hc => ?router, fun i m here hc hm hh => ?multicast⟩,
    ?timeout, again_spec, fun n r => findRequest_resend, request_absent, fun r hr => ?request⟩
  case issuer =>
    rw [packetForward_issuer hp hh, inject]
    exact ⟨fun hd => by rw [if_pos hd], fun hd => by rw [if_neg (Bool.eq_false_iff.mp hd)]⟩
  case across =>
    rw [packetForward_across hp hh]
    refine ⟨fun hi => ?_, fun port hi => ?_⟩
    · simp only [enter, hi]
    · simp only [enter, hi]
      exact ⟨fun hd => by rw [if_pos hd], fun hd => by rw [if_neg (Bool.eq_false_iff.mp hd)]; rfl⟩
  case router =>
    refine ⟨fun hne => ?_, fun hdest => ⟨packetForward_stays hp hh hc hdest, fun port => packetForward_leaves hp hh hc hdest⟩⟩
    rw [packetForward_routes hp hh hc hne]
    refine ⟨fun hnext => by rw [routePacket_invalid hnext], fun n vc hnext => ?_, fun b vc hnext hb => by rw [routePacket_astray hnext hb]⟩
    rw [routePacket_on hnext]
    exact ⟨fun hold => by rw [if_pos hold], fun hfree => by rw [if_neg (Bool.eq_false_iff.mp hfree)]⟩
  case multicast =>
    rw [packetForward_multicast hc hm hh, hc]
    intro bs taken
    have hcopies : bs ≠ [] → (bs.isEmpty && decide (0 < m.way.copies)) = false := fun hne => by
      rw [Bool.eq_false_iff.mpr (mt List.isEmpty_iff.mp hne), Bool.false_and]
    refine ⟨fun hb h0 => ?_, fun hb h0 => ?_, fun b vc hb hold => ?_, fun hne hfree => ?_⟩
    · rw [if_neg (by rw [h0]; simp), routeMulticast_eq, if_pos (by rw [show branches s m here = [] from hb]; rfl)]
    · rw [if_pos (by rw [show branches s m here = [] from hb, decide_eq_true h0]; rfl)]
      rfl
    · rw [if_neg (Bool.eq_false_iff.mp (hcopies (List.ne_nil_of_mem hb))), routeMulticast_stops hb hold]
    · rw [if_neg (Bool.eq_false_iff.mp (hcopies hne)), routeMulticast_parts hne hfree]
      rfl
  case timeout =>
    intro e
    refine ⟨fun ht => ?_, fun ht hn => ?_, fun ht hn => ?_⟩
    · rw [endToEndTimeout_eq, show timedOut s (carrierOf s.subject) = false from ht]
      rfl
    · rw [endToEndTimeout_eq, show timedOut s (carrierOf s.subject) = true from ht]
      exact (if_neg (by decide)).trans (if_neg (Nat.not_le.mpr (Nat.succ_lt_succ hn)))
    · rw [endToEndTimeout_eq, show timedOut s (carrierOf s.subject) = true from ht]
      exact (if_neg (by decide)).trans (if_pos (Nat.succ_le_succ hn))
  case request =>
    intro comes
    refine ⟨fun hs => ⟨packetDelivery_waits hr hs, fun ht hw hb => ?_, ownerAccess_waits hr (atTurn_sent hs),
        requestResponse_unanswered hr fun v p hv => by rw [hs] at hv; cases hv⟩,
      fun hs => ?_, fun n => atTurn_delivered, ownerAccess_waits hr, fun ht => ⟨fun v p t => ownerAccess_answers hr ht, fun t => ownerAccess_holds hr ht⟩,
      fun x ty d t off hop hecho hkey hentry hfits hoff hfence hclean _ hcalm =>
        run_performRequest_load hop hecho hkey hentry hfits hoff hfence hclean hcalm, fun v p hs => ?_⟩
    · rw [packetDelivery_arrives hr hs ht hw hb]
      refine ⟨fun hnew => by rw [if_neg (Bool.eq_false_iff.mp hnew)]; rfl, fun x hold hkept => by rw [if_pos hold, deliverAgain_kept hkept],
        fun hold hkept => ⟨fun hop => by rw [if_pos hold, deliverAgain_write hkept hop],
          fun hstore hland => by rw [if_pos hold, deliverAgain_read hkept hstore hland]⟩⟩
    · rw [packetDelivery_copy hr hs]
      exact ⟨fun h0 => if_neg (by rw [h0]; exact Nat.lt_irrefl 0), fun h0 => if_pos h0⟩
    · intro done
      refine ⟨requestResponse_travels hr hs, fun x slot d hh hop => requestResponse_claim hr hs hh hop, fun hh he hpull hclaim => ?_⟩
      rw [requestResponse_seq hr hs hh he hpull hclaim]
      have hfocus : (closeRequest r s).focus = s.focus := by
        rw [closeRequest]
        split
        · rfl
        · rfl
      refine ⟨fun hgone => answerSeq_gone hgone, fun hv hf => ⟨fun hop hp2 => answerSeq_consumes hv hf hop hp2, fun x ty d hop hd hecho => ?_,
        fun ps hop hecho => ?_⟩⟩
      · rw [answerSeq_takes hv hf (by rw [hop]; rfl) (run_takeAnswer_load hop hd hecho), hfocus]
      · rw [answerSeq_takes hv hf (by rw [hop]; rfl) (run_takeAnswer_store hop hecho)]

end Sys2Proof.Machine
end

section
/-! SUPPORT. BIND, UNBIND and PROBE: what a binding's checks and its answer come to, what a probed address answers, and the statement about
them (R188, R192, R206, R345, R403, R429). -/

namespace Sys2Proof.Machine

open Sys2Proof.Claims

theorem exec_bind (f : F64A) (s : State) : exec (.bind f) s = issue (.bind f) f.pred f.pneg (bindBody f) s := rfl
theorem exec_unbind (f : F64A) (s : State) : exec (.unbind f) s = issue (.unbind f) f.pred f.pneg (unbindBody f) s := rfl
theorem exec_probe (f : F64M) (s : State) : exec (.probe f) s = issue (.probe f) f.pred f.pneg (probeBody f) s := rfl

/-! ## The checks of BIND (R206) -/

/-- A check that is made of addresses of form 0b01 only. -/
theorem run_checkReach {a : Word} {u : State} (h : formOf a = 1 → mayReach u u.focus (gtileOf u a) = true) :
    (if formOf a = 1 then check (mayReach u u.focus (gtileOf u a)) 0x0B a else pure () : Exec Unit).run u = .ok () u := by
  split
  · next hf => exact run_check_holds (h hf)
  · rfl

/-- An address of a form that the machine has is virtual or a scratchpad's. -/
theorem form_of_formOk {a : Word} (h : formOk a = true) : formOf a = 0 ∨ formOf a = 1 := by
  unfold formOk at h
  split at h
  · next h0 => exact .inl h0
  · next h1 => exact .inr h1
  · cases h

theorem run_checkRegion {a len : Word} {u : State} (h : regionFits u a len = true) : (checkRegion a len).run u = .ok () u := by
  simp only [regionFits, Bool.and_eq_true] at h
  obtain ⟨⟨⟨⟨hok, hshut⟩, ha⟩, hlen⟩, hfit⟩ := h
  have haligned := Bool.and_eq_true_iff.mpr ⟨ha, hlen⟩
  rw [checkRegion, run_bind_ok (EStateM.run_get u), run_bind_ok (run_check_holds (Bool.and_eq_true_iff.mpr ⟨hok, hshut⟩))]
  by_cases h0 : formOf a = 0
  · rw [if_pos h0] at hfit
    simp only [if_pos h0] at haligned ⊢
    rw [run_bind_ok (run_check_holds hfit), run_bind_ok (run_check_holds haligned)]
    exact run_checkReach fun h1 => absurd (h0.symm.trans h1) (by decide)
  · rw [if_neg h0, Bool.and_eq_true] at hfit
    simp only [if_neg h0] at haligned ⊢
    rw [run_bind_ok (run_check_holds hfit.1), run_bind_ok (run_check_holds haligned)]
    exact run_checkReach fun _ => hfit.2

theorem run_checkObject {c : Word} {u : State} (h : objectFits u c = true) : (checkObject c).run u = .ok () u := by
  simp only [objectFits, Bool.and_eq_true] at h
  obtain ⟨⟨⟨⟨hok, hshut⟩, hrange⟩, haligned⟩, hreach⟩ := h
  rw [checkObject, run_bind_ok (EStateM.run_get u),
    run_bind_ok (run_check_holds (by simp only [Bool.and_eq_true]; exact ⟨⟨hok, hshut⟩, hrange⟩)), run_bind_ok (run_check_holds haligned)]
  exact run_checkReach fun h1 => by simpa [h1] using hreach

/-! ## BIND and UNBIND (R206, R345, R429) -/

/-- The bindings of the launch of the sequencer in focus, those of its peers among them; none outside a launch. -/
def launchTable (u : State) : Option (List Binding) := (u.gang? (u.gangOf u.focus)).map (bindingTable u)

/-- The state with what BIND adds to the bindings of a launch. -/
def addBinding (g : Nat) (new : Option Binding) (u : State) : State :=
  match new with
  | some b => u.modGang g (fun v => { v with bindings := v.bindings ++ [b] })
  | none => u

theorem here_addBinding (g : Nat) (new : Option Binding) (u : State) : here (addBinding g new u) = here u := by
  cases new <;> rfl

theorem here_removeBinding (g : Nat) (a : Word) (u : State) : here (removeBinding g a u) = here u := by
  unfold removeBinding
  split <;> rfl

theorem xFree_congr {u v : State} (h : here v = here u) (n : Nat) : xFree v n = xFree u n := by rw [xFree, xFree, h]

section Bodies
variable {u : State} {f : F64A} (hs : Solo u) (ha : xOk u f.a.toNat = true) (hd : xFree u f.d.toNat = true)
include hs ha hd

theorem run_bindBody {len : Word} (hc : xOk u f.c.toNat = true) (hlen : scalarAt u 3 f.b f.imm16 = some len)
    (hr : regionFits u ((here u).x f.a.toNat) len = true) (ho : objectFits u ((here u).x f.c.toNat) = true) :
    let answer := bindStatus (launchTable u) ((here u).x f.a.toNat) len ((here u).x f.c.toNat)
    (bindBody f).run u = .ok .fall (withX f.d.toNat answer.1 false (addBinding (u.gangOf u.focus) answer.2 u)) := by
  intro answer
  have hx : xFree (addBinding (u.gangOf u.focus) answer.2 u) f.d.toNat = true := (xFree_congr (here_addBinding ..) _).trans hd
  rw [bindBody, run_bind_ok (run_useX ha), run_bind_ok (run_useSource _ hlen), run_bind_ok (run_useX hc), run_bind_ok (run_checkRegion hr),
    run_bind_ok (run_checkObject ho)]
  refine (run_bind_ok ((run_echoed1_alone (solo_alone hs) _).trans ?_)).trans (run_bind_ok (run_putX _ _ hx))
  have hadd : ∀ r : Word × Option Binding, (do
      let (st, new) := r
      match new with
      | some b => set (u.modGang (u.gangOf u.focus) (fun v => { v with bindings := v.bindings ++ [b] }))
      | none => pure ()
      return st : Exec Word).run u = .ok r.1 (addBinding (u.gangOf u.focus) r.2 u) := by
    rintro ⟨st, new⟩
    cases new
    · rfl
    · rfl
  exact (run_bind_ok (EStateM.run_get u)).trans (hadd answer)

theorem run_unbindBody : (unbindBody f).run u = .ok .fall (withX f.d.toNat
    (if ((launchTable u).getD []).any (fun b => b.base == (here u).x f.a.toNat) then 0 else 1) false
    (removeBinding (u.gangOf u.focus) ((here u).x f.a.toNat) u)) := by
  have hx := (xFree_congr (here_removeBinding (u.gangOf u.focus) ((here u).x f.a.toNat) u) f.d.toNat).trans hd
  rw [unbindBody, run_bind_ok (run_useX ha)]
  refine (run_bind_ok ((run_echoed1_alone (solo_alone hs) _).trans ?_)).trans (run_bind_ok (run_putX _ _ hx))
  rfl

end Bodies

/-- BIND's answer in the order of R206: a region bound already or empty, one that meets another, a full table or no launch, a new binding. -/
theorem withX_bindStatus (table : Option (List Binding)) (a len c : Word) (d g : Nat) (u : State) :
    withX d (bindStatus table a len c).1 false (addBinding g (bindStatus table a len c).2 u) =
      if len = 0 ∨ (match table with
        | some t => t.contains ⟨a, len.toNat, c⟩
        | none => false) = true then withX d 0 false u
      else if (match table with
        | some t => t.any (fun b => b.meets a.toNat len.toNat)
        | none => false) = true then withX d 2 false u
      else if (match table with
        | some t => decide (256 ≤ t.length)
        | none => true) = true then withX d 1 false u
      else withX d 0 false (addBinding g (some ⟨a, len.toNat, c⟩) u) := by
  cases table with
  | none =>
    change withX d (if len = 0 then 0 else 1) false u = _
    by_cases h0 : len = 0
    · rw [if_pos h0, if_pos (.inl h0)]
    · rw [if_neg h0, if_neg (by simpa using h0)]
      rfl
  | some t =>
    by_cases hk : len = 0 ∨ t.contains ⟨a, len.toNat, c⟩ = true
    · rw [if_pos hk, bindStatus, if_pos (by simpa using hk)]
      rfl
    · rw [if_neg hk, bindStatus, if_neg (by simpa using hk)]
      by_cases hm : t.any (fun b => b.meets a.toNat len.toNat) = true
      · simp only [if_pos hm]
        rfl
      · simp only [if_neg hm, decide_eq_true_eq]
        by_cases hf : 256 ≤ t.length
        · simp only [if_pos hf]
          rfl
        · simp only [if_neg hf]

/-! ## PROBE (R192) -/

/-- No miss of the sequencer's has been served with a value. -/
def NoServedMiss (u : State) : Prop := ∀ w g, (here u).wait = some w → w.grant = some g → w.why ≠ .memory

theorem run_granted_memory {u : State} (h : NoServedMiss u) : (granted .memory).run u = .ok none u := by
  rw [granted, run_bind_ok (run_mySeq u)]
  refine congrArg (EStateM.Result.ok · u) ?_
  split
  · next w hw =>
    split
    · next hm => exact Option.eq_none_iff_forall_ne_some.mpr fun g hg => h w g hw hg hm
    · rfl
  · rfl

/-- One byte at a well-formed address lies in its space. -/
theorem rangeCause_one {a : Word} (h : formOk a = true) : rangeCause a 1 = none := by
  rcases form_of_formOk h with h0 | h1
  · have hv : a.toNat < 2 ^ 54 := by
      have hdev : deviceOf a = 0 := by simpa [formOk, h0] using h
      simp only [formOf, deviceOf, BitVec.extractLsb'_toNat, Nat.shiftRight_eq_div_pow] at h0 hdev
      omega
    rw [rangeCause, if_pos h0, if_neg (by omega)]
  · have hoff : offsetOf a < 2 ^ 20 := (a.extractLsb' 0 20).isLt
    rw [rangeCause, if_neg (by rw [h1]; decide), if_neg (by omega)]

section Probe
variable {u : State} {a : Word} {acc : Access} (hg : NoServedMiss u)
include hg

theorem run_probeAnswer_shut (h : (formOk a && !shutOut u u.focus a) = false) :
    (probeAnswer a acc).run u = .ok 0x8000000000000004 u := by
  have hc : (!formOk a || shutOut u u.focus a) = true := by
    revert h
    cases formOk a <;> cases shutOut u u.focus a <;> decide
  refine (run_bind_ok (EStateM.run_get u)).trans ((run_bind_ok (run_granted_memory hg)).trans ?_)
  dsimp only
  rw [if_pos hc]
  rfl

variable (h : (formOk a && !shutOut u u.focus a) = true)
include h

/-- What PROBE makes of a virtual address of the machine's form. -/
def probeVirtual (u : State) (a : Word) (acc : Access) : Exec Word := do
  match lookup (tlbOf u u.focus) (u.partOf u.focus) a.toNat acc with
  | .hit e => return probeWord (u.focus.kind == .s) e
  | .denied => return probeFault 0x08
  | .miss =>
    if u.focus.kind ≠ .s && ownHandler u u.focus then throw (.trap 0x07 a (some acc))
    match walk u (u.partOf u.focus) a.toNat with
    | .leaf l =>
      if !installable u (u.partOf u.focus) l then return probeFault 0x07
      if u.focus.kind ≠ .s then throw (.trap 0x07 a (some acc))
      set (install u.focus (entryOf (u.partOf u.focus) l acc) (markLeaf (u.partOf u.focus) 0 l acc u))
      return if permits (entryOf (u.partOf u.focus) l acc).leaf acc then probeWord true (entryOf (u.partOf u.focus) l acc) else probeFault 0x08
    | .nothing => return probeFault 0x07
    | .broken => if u.focus.kind ≠ .s then throw (.trap 0x07 a (some acc)) else consumed a

theorem run_probeAnswer_form : (probeAnswer a acc).run u =
    (if formOf a = 1 then return if mayReach u u.focus (gtileOf u a) then 0x4000_0000_0000_0000#64 else probeFault 0x0B
      else probeVirtual u a acc : Exec Word).run u := by
  obtain ⟨hok, hshut⟩ := Bool.and_eq_true_iff.mp h
  have hc : ¬ (!formOk a || shutOut u u.focus a) = true := by simpa [hok] using hshut
  refine (run_bind_ok (EStateM.run_get u)).trans ((run_bind_ok (run_granted_memory hg)).trans ?_)
  dsimp only
  rw [if_neg hc, rangeCause_one hok]
  rfl

theorem run_probeAnswer_scratchpad (h1 : formOf a = 1) : (probeAnswer a acc).run u =
    .ok (if mayReach u u.focus (gtileOf u a) then 0x4000000000000000 else 0x800000000000000B) u := by
  rw [run_probeAnswer_form hg h, if_pos h1]
  rfl

variable (h0 : formOf a = 0)
include h0

theorem run_probeAnswer_virtual : (probeAnswer a acc).run u = (probeVirtual u a acc).run u := by
  rw [run_probeAnswer_form hg h, if_neg (by rw [h0]; decide)]

theorem run_probeAnswer_hit {e : TlbEntry} (hl : lookup (tlbOf u u.focus) (u.partOf u.focus) a.toNat acc = .hit e) :
    (probeAnswer a acc).run u = .ok (probeWord (u.focus.kind == .s) e) u := by
  rw [run_probeAnswer_virtual hg h h0, probeVirtual, hl]
  rfl

theorem run_probeAnswer_denied (hl : lookup (tlbOf u u.focus) (u.partOf u.focus) a.toNat acc = .denied) :
    (probeAnswer a acc).run u = .ok 0x8000000000000008 u := by
  rw [run_probeAnswer_virtual hg h h0, probeVirtual, hl]
  rfl

section Miss
variable (hl : lookup (tlbOf u u.focus) (u.partOf u.focus) a.toNat acc = .miss)
include hl

/-- The shipped firmware's walk finds nothing there. -/
theorem run_probeAnswer_unmapped (hh : ownHandler u u.focus = false) (hw : walk u (u.partOf u.focus) a.toNat = .nothing) :
    (probeAnswer a acc).run u = .ok 0x8000000000000007 u := by
  rw [run_probeAnswer_virtual hg h h0, probeVirtual, hl]
  dsimp only
  rw [hh, hw, if_neg (by simp)]
  rfl

/-- A handler of the system's own is given the miss. -/
theorem run_probeAnswer_handled (hk : u.focus.kind ≠ .s) (hh : ownHandler u u.focus = true) :
    (probeAnswer a acc).run u = .error (.trap 0x07 a (some acc)) u := by
  rw [run_probeAnswer_virtual hg h h0, probeVirtual, hl]
  dsimp only
  rw [if_pos (by simpa [hh] using hk)]
  rfl

end Miss
end Probe

section Body
variable {u : State} {f : F64M} (hs : Solo u) (hb : xOk u f.base.toNat = true)
include hs hb

theorem run_probeBody {v : Word} (hd : xFree u f.d.toNat = true)
    (ha : (probeAnswer (addressOf u f) (if f.fn3.getLsbD 0 then .write else .read)).run u = .ok v u) :
    (probeBody f).run u = .ok .fall (withX f.d.toNat v false u) := by
  rw [probeBody, run_bind_ok (run_baseAddress hb), run_bind_ok ((run_echoed1_alone (solo_alone hs) _).trans ha)]
  exact run_bind_ok (run_putX _ _ hd)

theorem run_probeBody_stops {e : Stop}
    (ha : (probeAnswer (addressOf u f) (if f.fn3.getLsbD 0 then .write else .read)).run u = .error e u) :
    (probeBody f).run u = .error e u := by
  rw [probeBody, run_bind_ok (run_baseAddress hb)]
  exact run_bind_error ((run_echoed1_alone (solo_alone hs) _).trans ha)

end Body

/-- Settles O31: BIND's and UNBIND's bodies, and PROBE's by what its address answers. -/
theorem bindUnbindProbe : Obligations.BindUnbindProbe := by
  unfold Obligations.BindUnbindProbe
  intro s u g table hs
  refine ⟨fun f h ha hc hd len hlen hr ho => ?bind, fun f h ha hd => ?unbind, fun f h hb hd hg => ?probe⟩
  case bind =>
    intro x c meets known full
    rw [exec_bind]
    exact (issue_runs h (run_bindBody hs ha hd hc hlen hr ho)).trans (congrArg (falls s (.bind f)) (withX_bindStatus ..))
  case unbind =>
    intro x
    exact (exec_unbind f s).trans (issue_runs h (run_unbindBody hs ha hd))
  case probe =>
    intro a acc gives
    have answered : ∀ {v : Word}, (probeAnswer a acc).run u = .ok v u → gives v := fun hv =>
      (exec_probe f s).trans (issue_runs h (run_probeBody hs hb hd hv))
    refine ⟨fun hx => answered (run_probeAnswer_shut hg hx), fun hx h1 => answered (run_probeAnswer_scratchpad hg hx h1), fun hx h0 =>
      ⟨fun hl => answered (run_probeAnswer_denied hg hx h0 hl), fun e hl => answered (run_probeAnswer_hit hg hx h0 hl), fun hl hk =>
        ⟨fun hh hw => answered (run_probeAnswer_unmapped hg hx h0 hl hh hw), fun hh => ?_⟩⟩⟩
    exact (exec_probe f s).trans (issue_traps h (run_probeBody_stops hs hb (run_probeAnswer_handled hg hx h0 hl hk hh)))

end Sys2Proof.Machine
end

section
/-! SUPPORT. TLBW and TLBINV at a service core: what each body does with the pending misses of a span and with the entries in a scope, and the
statement about them (R188-R190, R424, R425). -/

namespace Sys2Proof.Machine

open Sys2Proof.Claims

theorem exec_tlbw (f : F128C) (s : State) : exec (.tlbw f) s = issue (.tlbw f) f.pred f.pneg (tlbwBody (.tlbw f) f) s := rfl
theorem exec_tlbinv (f : F64M) (s : State) : exec (.tlbinv f) s = issue (.tlbinv f) f.pred f.pneg (tlbinvBody f) s := rfl

/-! ## TLBW (R189, R425) -/

/-- The partition that a TLBW names. -/
def tlbwPart (f : F128C) : Nat := (f.flags18.extractLsb' 0 4).toNat

/-- A miss of a partition in a span. -/
def inSpan (p lo hi : Nat) (m : Miss) : Bool := m.part == p && decide (lo ≤ m.va) && decide (m.va < hi)

/-- The state in which some misses of a sequencer's TLB are pending no more. -/
def withoutMisses (q : SeqId) (gone : Miss → Bool) (u : State) : State :=
  modTlb q (fun t => { t with misses := t.misses.filter (fun m => !gone m) }) u

section Tlbw
variable {u : State} {i : Instr} {f : F128C} (ha : xOk u f.a.toNat = true) (hb : xOk u f.b.toNat = true) (hc : xOk u f.c.toNat = true)
include ha hb hc

/-- A span or a leaf outside the rules raises 0x01. -/
theorem run_tlbwBody_refuses
    (ho : installOk u (tlbwPart f) f.sub8.toNat ((here u).x f.a.toNat) ((here u).x f.c.toNat) ((here u).x f.b.toNat) = false) :
    (tlbwBody i f).run u = .error (.trap 0x01 (lowBits i) none) u := by
  rw [tlbwBody, run_bind_ok (run_useX ha), run_bind_ok (run_useX hb), run_bind_ok (run_useX hc), run_bind_ok (EStateM.run_get u)]
  exact run_bind_error (run_check_fails ho)

variable (ho : installOk u (tlbwPart f) f.sub8.toNat ((here u).x f.a.toNat) ((here u).x f.c.toNat) ((here u).x f.b.toNat) = true)
include ho

/-- A unit that the core does not serve raises 0x01. -/
theorem run_tlbwBody_unserved (ht : tlbTarget (serverOf u.focus) (f.imm64.extractLsb' 0 16) = none) :
    (tlbwBody i f).run u = .error (.trap 0x01 (lowBits i) none) u := by
  rw [tlbwBody, run_bind_ok (run_useX ha), run_bind_ok (run_useX hb), run_bind_ok (run_useX hc), run_bind_ok (EStateM.run_get u)]
  refine (run_bind_ok (run_check_holds ho)).trans ?_
  rw [ht]
  rfl

/-- What TLBW does with the misses of the span, which no cause precedes. -/
def serveSpan (u : State) (q : SeqId) (p lo hi : Nat) (e : TlbEntry) (d : Nat) : Exec Flow := do
  let pending := (tlbOf u q).misses.filter (inSpan p lo hi)
  if pending.isEmpty then putX d 2 false
  else if pending.any (·.isStale lo hi) then
    modify (withoutMisses q (fun m => inSpan p lo hi m && m.isStale lo hi))
    putX d 1 false
  else
    modify (fun s => withoutMisses q (inSpan p lo hi) (install q e s))
    putX d 0 false
  return .fall

theorem run_tlbwBody {q : SeqId} {lo hi : Nat} (ht : tlbTarget (serverOf u.focus) (f.imm64.extractLsb' 0 16) = some q)
    (hs : spanOf f.sub8.toNat ((here u).x f.a.toNat) ((here u).x f.c.toNat) = (lo, hi)) :
    (tlbwBody i f).run u = (serveSpan u q (tlbwPart f) lo hi
      ⟨tlbwPart f, BitVec.ofNat 2 f.sub8.toNat, lo, hi, ((here u).x f.b.toNat).extractLsb' 0 62⟩ f.d.toNat).run u := by
  rw [tlbwBody, run_bind_ok (run_useX ha), run_bind_ok (run_useX hb), run_bind_ok (run_useX hc), run_bind_ok (EStateM.run_get u)]
  refine (run_bind_ok (run_check_holds ho)).trans ?_
  rw [ht, hs]
  rfl

end Tlbw

section Span
variable {u : State} {q : SeqId} {p lo hi d : Nat} {e : TlbEntry}

theorem run_serveSpan_none (hp : (tlbOf u q).misses.filter (inSpan p lo hi) = []) (hx : xFree u d = true) :
    (serveSpan u q p lo hi e d).run u = .ok .fall (withX d 2 false u) := by
  rw [serveSpan]
  dsimp only
  rw [hp]
  exact run_bind_ok (run_putX _ _ hx)

variable (hp : (tlbOf u q).misses.filter (inSpan p lo hi) ≠ [])
include hp

theorem run_serveSpan_stale (hst : ((tlbOf u q).misses.filter (inSpan p lo hi)).any (·.isStale lo hi) = true)
    (hx : xFree (withoutMisses q (fun m => inSpan p lo hi m && m.isStale lo hi) u) d = true) :
    (serveSpan u q p lo hi e d).run u =
      .ok .fall (withX d 1 false (withoutMisses q (fun m => inSpan p lo hi m && m.isStale lo hi) u)) := by
  rw [serveSpan]
  dsimp only
  rw [if_neg (by rwa [List.isEmpty_iff]), if_pos hst]
  exact (run_bind_ok (EStateM.run_modify ..)).trans (run_bind_ok (run_putX _ _ hx))

theorem run_serveSpan_installs (hst : ((tlbOf u q).misses.filter (inSpan p lo hi)).any (·.isStale lo hi) = false)
    (hx : xFree (withoutMisses q (inSpan p lo hi) (install q e u)) d = true) :
    (serveSpan u q p lo hi e d).run u = .ok .fall (withX d 0 false (withoutMisses q (inSpan p lo hi) (install q e u))) := by
  rw [serveSpan]
  dsimp only
  rw [if_neg (by rwa [List.isEmpty_iff]), if_neg (by rw [hst]; decide)]
  exact (run_bind_ok (EStateM.run_modify ..)).trans (run_bind_ok (run_putX _ _ hx))

end Span

/-! ## TLBINV (R190, R424) -/

/-- The operand of a TLBINV of an address is well formed and in range; of the others it is not asked. -/
def InvalidationOk (u : State) (f : F64M) : Prop := f.fn3.toNat = 0 → formOk (addressOf u f) = true ∧ rangeCause (addressOf u f) 1 = none

/-- The drop that a TLBINV of the service core in focus makes. -/
def tlbinvDrop (u : State) (f : F64M) : State → State :=
  invalidateAll f.sc.toNat (serverOf u.focus) f.fn3.toNat (((here u).x f.d.toNat).toNat % 16) (addressOf u f).toNat

/-- A TLBINV that waits keeps in its wait that it has dropped. -/
def noteDropped (v : Seq) : Seq := { v with wait := v.wait.map (fun w => { w with grant := some (0, false) }) }

/-- TLBINV once its operand is checked: it drops when it first issues, and waits for the accesses. -/
def dropAndWait (u : State) (f : F64M) : Exec Flow := do
  match (here u).wait with
  | some ⟨.outstanding, _, some _⟩ => waitUntil (accessesDone (serverOf u.focus) u) .outstanding
  | _ =>
    if accessesDone (serverOf u.focus) (tlbinvDrop u f u) then modify (tlbinvDrop u f)
    else throw (.wait .outstanding (fun s => (tlbinvDrop u f s).modSeq s.focus noteDropped))
  return .fall

section Tlbinv
variable {u : State} {f : F64M} (hd : xOk u f.d.toNat = true) (hb : xOk u f.base.toNat = true)

include hb in
theorem run_tlbinvBody_baseAddress : (tlbinvBody.baseAddress f).run u = .ok (addressOf u f) u := run_bind_ok (run_useX hb)

include hd hb

theorem run_tlbinvBody_badForm (h0 : f.fn3.toNat = 0) (hf : formOk (addressOf u f) = false) :
    (tlbinvBody f).run u = .error (.trap 0x04 (addressOf u f) none) u := by
  rw [tlbinvBody, run_bind_ok (run_useX hd)]
  refine (run_bind_ok (run_tlbinvBody_baseAddress hb)).trans ?_
  dsimp only
  rw [if_pos h0]
  exact run_bind_error (run_check_fails hf)

theorem run_tlbinvBody (hok : InvalidationOk u f) : (tlbinvBody f).run u = (dropAndWait u f).run u := by
  rw [tlbinvBody, run_bind_ok (run_useX hd)]
  refine (run_bind_ok (run_tlbinvBody_baseAddress hb)).trans ?_
  dsimp only
  by_cases h0 : f.fn3.toNat = 0
  · obtain ⟨hform, hrange⟩ := hok h0
    rw [if_pos h0]
    refine (run_bind_ok (run_check_holds hform)).trans ?_
    rw [hrange]
    rfl
  · rw [if_neg h0]
    rfl

end Tlbinv

section Drop
variable {u : State} {f : F64M}

/-- A TLBINV that has dropped already waits for the accesses. -/
theorem run_dropAndWait_again {w : Wait} {g : Word × Bool} (hw : (here u).wait = some w) (hy : w.why = .outstanding) (hg : w.grant = some g) :
    (dropAndWait u f).run u = if accessesDone (serverOf u.focus) u then .ok .fall u else .error (.wait .outstanding id) u := by
  obtain ⟨why, since, grant⟩ := w
  subst hy hg
  rw [dropAndWait, hw]
  dsimp only
  split
  · next hdone => exact run_bind_ok (run_waitUntil_holds hdone)
  · next hdone => exact run_bind_error (run_waitUntil_waits (Bool.eq_false_iff.mpr hdone))

/-- A TLBINV that issues first drops, and is over where no access that is not done has used what it drops. -/
theorem run_dropAndWait_first (hw : ∀ w, (here u).wait = some w → w.grant = none) :
    (dropAndWait u f).run u = if accessesDone (serverOf u.focus) (tlbinvDrop u f u) then .ok .fall (tlbinvDrop u f u)
      else .error (.wait .outstanding (fun s => (tlbinvDrop u f s).modSeq s.focus noteDropped)) u := by
  rw [dropAndWait]
  split
  · next since g h => exact absurd (hw _ h) (by simp)
  · dsimp only
    split
    · exact run_bind_ok (EStateM.run_modify ..)
    · rfl

end Drop

/-- Settles O41: TLBW by the misses of its span, TLBINV by its operand and by whether it has dropped before. -/
theorem translationInstructions : Obligations.TranslationInstructions := by
  unfold Obligations.TranslationInstructions
  intro s c hfocus u
  have hserver : serverOf u.focus = c := by rw [show u.focus = s.focus from focus_issued s, hfocus]; rfl
  refine ⟨fun f h ha hb hc => ?tlbw, fun f h hd hb => ?tlbinv⟩
  case tlbw =>
    intro a leaf k p size
    refine ⟨fun ho => ?_, fun ht => ?_, fun q ho ht => ?_⟩
    · exact (exec_tlbw f s).trans (issue_refuses h (run_tlbwBody_refuses ha hb hc ho))
    · refine (exec_tlbw f s).trans (issue_refuses h ?_)
      cases ho : installOk u p size a k leaf
      · exact run_tlbwBody_refuses ha hb hc ho
      · exact run_tlbwBody_unserved ha hb hc ho (hserver ▸ ht)
    · intro lo hi met pending without done
      have hrun := run_tlbwBody (i := .tlbw f) ha hb hc ho (hserver ▸ ht) (lo := lo) (hi := hi) rfl
      exact ⟨fun hp hx => (exec_tlbw f s).trans (issue_runs h (hrun.trans (run_serveSpan_none hp hx))),
        fun hp hst hx => (exec_tlbw f s).trans (issue_runs h (hrun.trans (run_serveSpan_stale hp hst hx))),
        fun hp hst hx => (exec_tlbw f s).trans (issue_runs h (hrun.trans (run_serveSpan_installs hp hst hx)))⟩
  case tlbinv =>
    intro p a fn drop
    have hdrop : tlbinvDrop u f = drop := by rw [tlbinvDrop, hserver]
    refine ⟨fun h0 hf => ?_, fun hok w g hw hy hg => ?_, fun hok hw => ?_⟩
    · exact (exec_tlbinv f s).trans (issue_traps_unchanged h (run_tlbinvBody_badForm hd hb h0 hf) (by decide))
    · have hrun := (run_tlbinvBody hd hb hok).trans (run_dropAndWait_again hw hy hg)
      rw [hserver] at hrun
      exact ⟨fun hd => (exec_tlbinv f s).trans (issue_runs h (hrun.trans (if_pos hd))),
        fun hd => (exec_tlbinv f s).trans (issue_waits h (hrun.trans (if_neg (by rw [hd]; decide))))⟩
    · have hrun := (run_tlbinvBody hd hb hok).trans (run_dropAndWait_first hw)
      rw [hserver, hdrop] at hrun
      refine ⟨fun hd => (exec_tlbinv f s).trans (issue_runs h (hrun.trans (if_pos hd))), fun hd => (exec_tlbinv f s).trans ?_⟩
      refine (issue_waits h (hrun.trans (if_neg (by rw [hd]; decide)))).trans ?_
      rw [focus_recordWait]
      rfl

end Sys2Proof.Machine
end

section
/-! SUPPORT. Vector accesses of an X-sequencer to its own scratchpad, part by part: where the parts stand, what a load gathers from them and
what a store leaves there, and the statement about VLD, VST, VGATH and VSCAT (R195, R431, R434, R436). -/

namespace Sys2Proof.Machine

open Sys2Proof.Claims

/-! ## Parts of the own scratchpad (R156) -/

/-- Fields above the offset stay while the offset does not run over. -/
theorem extractLsb'_offset_add {a : Word} {i k w : Nat} (hk : 20 ≤ k) (h : offsetOf a + i < 2 ^ 20) :
    (a + BitVec.ofNat 64 i).extractLsb' k w = a.extractLsb' k w := by
  have hlt := a.isLt
  have hdiv : ∀ x : Nat, x / 2 ^ k = x / 2 ^ 20 / 2 ^ (k - 20) := fun x => by
    rw [Nat.div_div_eq_div_mul, ← Nat.pow_add, Nat.add_sub_cancel' hk]
  refine BitVec.eq_of_toNat_eq ?_
  simp only [offsetOf, BitVec.extractLsb'_toNat, BitVec.toNat_add, BitVec.toNat_ofNat, Nat.shiftRight_eq_div_pow] at h ⊢
  rw [hdiv, hdiv a.toNat]
  congr 2
  omega

namespace OwnAddress
variable {u : State} {a : Word} {n align : Nat} (ha : OwnAddress u a n align)
include ha

/-- Bytes of a range are a range themselves. -/
theorem part {i m : Nat} (hi : i < n) (him : i + m ≤ n) : OwnAddress u (a + BitVec.ofNat 64 i) m 1 := by
  have hfits := ha.fits
  have hoff := ha.offset_add hi
  have hfield : ∀ {k w : Nat}, 20 ≤ k → (a + BitVec.ofNat 64 i).extractLsb' k w = a.extractLsb' k w := fun hk =>
    extractLsb'_offset_add hk (by omega)
  have hform : formOf (a + BitVec.ofNat 64 i) = formOf a := by rw [formOf, hfield (by decide), formOf]
  have hdev : deviceOf (a + BitVec.ofNat 64 i) = deviceOf a := by rw [deviceOf, hfield (by decide), deviceOf]
  have htile : gtileOf u (a + BitVec.ofNat 64 i) = gtileOf u a := by
    rw [gtileOf, hdev, tileField, hfield (by decide), gtileOf, tileField]
  have hok : formOk (a + BitVec.ofNat 64 i) = formOk a := by rw [formOk, formOk, hform, hdev, hfield (by decide)]
  have hshut : shutOut u u.focus (a + BitVec.ofNat 64 i) = shutOut u u.focus a := by rw [shutOut, shutOut, hform, hdev]
  exact ⟨ha.tile, hok.trans ha.ok, hform.trans ha.form, hshut.trans ha.reached, htile.trans ha.gtile, by omega, Nat.mod_one _,
    by rw [hoff]; exact ha.part_free him⟩

theorem unaligned : OwnAddress u a n 1 :=
  ⟨ha.tile, ha.ok, ha.form, ha.reached, ha.gtile, ha.fits, Nat.mod_one _, ha.calm⟩

theorem run_vectorPlace (hs : Solo u) {t : Nat} (hx : u.focus = .x t) (acc : Access) :
    (vectorPlace a n align acc).run u = .ok (.scratch (home u) (offsetOf a)) u := by
  rw [vectorPlace, run_bind_ok (EStateM.run_get u)]
  simp only [hx]
  rw [run_bind_ok ha.run_checkAddress, if_neg (by rw [ha.form]; decide), ← hx, mirrored_solo hs, ha.gtile]
  rfl

end OwnAddress

/-- A part of a vector access that stands in the own scratchpad. -/
def ownPart (u : State) (a : Word) (len off : Nat) : Part1 := ⟨a, .scratch (home u) (offsetOf a), len, off⟩

/-- What makes a part of a vector access one of the own scratchpad. -/
structure OwnPart (u : State) (p : Part1) : Prop where
  place : p.place = .scratch (home u) (offsetOf p.addr)
  own : OwnAddress u p.addr p.len 1

theorem ownPart_own {u : State} {a : Word} {len align : Nat} (ha : OwnAddress u a len align) (off : Nat) : OwnPart u (ownPart u a len off) :=
  ⟨rfl, ha.unaligned⟩

/-- Parts follow one another in the register, from an offset on. -/
def Abut : Nat → List Part1 → Prop
  | _, [] => True
  | k, p :: ps => p.off = k ∧ Abut (k + p.len) ps

/-- The bytes of parts all together. -/
def lengthOfParts (ps : List Part1) : Nat := (ps.map (·.len)).sum

theorem lengthOfParts_cons (p : Part1) (ps : List Part1) : lengthOfParts (p :: ps) = p.len + lengthOfParts ps := rfl

theorem lengthOfParts_append (ps qs : List Part1) : lengthOfParts (ps ++ qs) = lengthOfParts ps + lengthOfParts qs := by
  rw [lengthOfParts, List.map_append, List.sum_append, lengthOfParts, lengthOfParts]

theorem abut_append {k : Nat} {ps qs : List Part1} (hp : Abut k ps) (hq : Abut (k + lengthOfParts ps) qs) : Abut k (ps ++ qs) := by
  induction ps generalizing k with
  | nil => simpa [lengthOfParts] using hq
  | cons p ps ih =>
    obtain ⟨hoff, hp⟩ := hp
    refine ⟨hoff, ih hp ?_⟩
    rwa [lengthOfParts_cons, ← Nat.add_assoc] at hq

/-- Parts of one length, one after another. -/
theorem abut_range {n k c : Nat} {g : Nat → Part1} (hoff : ∀ i, i < n → (g i).off = k + c * i) (hlen : ∀ i, i < n → (g i).len = c) :
    Abut k ((List.range n).map g) ∧ lengthOfParts ((List.range n).map g) = c * n := by
  induction n with
  | zero => exact ⟨trivial, rfl⟩
  | succ n ih =>
    obtain ⟨habut, hsum⟩ := ih (fun i hi => hoff i (by omega)) (fun i hi => hlen i (by omega))
    rw [List.range_succ, List.map_append]
    refine ⟨abut_append habut ⟨by rw [hsum, hoff n (by omega)], trivial⟩, ?_⟩
    rw [lengthOfParts_append, hsum]
    simp [lengthOfParts, hlen n (by omega), Nat.mul_succ]

/-! ### The parts of a contiguous access (R195, R436) -/

/-- The parts of 128 bytes of the own scratchpad, word by word. -/
def contiguousParts (u : State) (a : Word) : List Part1 := (wordSpans a).map (fun p => ownPart u p.1 p.2.1 p.2.2)

/-- Whole words of a contiguous access, from an offset on. -/
def wordsFrom (a : Word) (k n : Nat) : List (Word × Nat × Nat) :=
  (List.range n).map (fun i => (a + BitVec.ofNat 64 (k + 8 * i), 8, k + 8 * i))

/-- 128 bytes are 16 words, or 15 with a part of one at each end. -/
theorem wordSpans_cases (a : Word) : wordSpans a = wordsFrom a 0 16 ∨ ∃ r, 0 < r ∧ r < 8 ∧
    wordSpans a = (a, 8 - r, 0) :: (wordsFrom a (8 - r) 15 ++ [(a + BitVec.ofNat 64 (128 - r), r, 128 - r)]) := by
  by_cases h : a.toNat % 8 = 0
  · refine .inl ((if_pos h).trans ?_)
    simp only [wordsFrom, Nat.zero_add]
  · exact .inr ⟨a.toNat % 8, Nat.pos_of_ne_zero h, Nat.mod_lt _ (by decide), if_neg h⟩

/-- The first span starts at the address. -/
theorem wordSpans_cons (a : Word) : ∃ k l, k ≤ 8 ∧ wordSpans a = (a, k, 0) :: l := by
  rcases wordSpans_cases a with h | ⟨r, -, -, h⟩
  · refine ⟨8, (wordsFrom a 0 16).tail, Nat.le_refl 8, h.trans ?_⟩
    rw [wordsFrom, List.range_succ_eq_map, List.map_cons, List.tail_cons]
    simp only [Nat.mul_zero, Nat.add_zero, BitVec.add_zero]
  · exact ⟨8 - r, _, Nat.sub_le 8 r, h⟩

theorem mem_wordsFrom {a : Word} {k n : Nat} {p : Word × Nat × Nat} (h : p ∈ wordsFrom a k n) :
    p.1 = a + BitVec.ofNat 64 p.2.2 ∧ p.2.1 = 8 ∧ p.2.2 + 8 ≤ k + 8 * n := by
  obtain ⟨i, hi, rfl⟩ := List.mem_map.mp h
  have hi := List.mem_range.mp hi
  exact ⟨rfl, rfl, by dsimp only; omega⟩

/-- A span stands at its offset within the 128 bytes. -/
theorem mem_wordSpans {a : Word} {p : Word × Nat × Nat} (h : p ∈ wordSpans a) :
    p.1 = a + BitVec.ofNat 64 p.2.2 ∧ 0 < p.2.1 ∧ p.2.2 + p.2.1 ≤ 128 := by
  rcases wordSpans_cases a with hw | ⟨r, h0, h8, hw⟩
  · obtain ⟨hat, hlen, hle⟩ := mem_wordsFrom (hw ▸ h)
    exact ⟨hat, by omega, by omega⟩
  · rw [hw, List.mem_cons, List.mem_append, List.mem_singleton] at h
    rcases h with rfl | h | rfl
    · exact ⟨(BitVec.add_zero a).symm, by dsimp only; omega, by dsimp only; omega⟩
    · obtain ⟨hat, hlen, hle⟩ := mem_wordsFrom h
      exact ⟨hat, by omega, by omega⟩
    · exact ⟨rfl, h0, by dsimp only; omega⟩

theorem abut_wordsFrom (u : State) (a : Word) (k n : Nat) : Abut k ((wordsFrom a k n).map (fun p => ownPart u p.1 p.2.1 p.2.2)) ∧
    lengthOfParts ((wordsFrom a k n).map (fun p => ownPart u p.1 p.2.1 p.2.2)) = 8 * n := by
  rw [wordsFrom, List.map_map]
  exact abut_range (fun _ _ => rfl) (fun _ _ => rfl)

theorem abut_contiguousParts (u : State) (a : Word) : Abut 0 (contiguousParts u a) ∧ lengthOfParts (contiguousParts u a) = 128 := by
  rw [contiguousParts]
  rcases wordSpans_cases a with h | ⟨r, h0, h8, h⟩
  · rw [h]
    exact abut_wordsFrom ..
  · obtain ⟨habut, hsum⟩ := abut_wordsFrom u a (8 - r) 15
    rw [h, List.map_cons, List.map_append]
    refine ⟨⟨rfl, abut_append (by rw [Nat.zero_add]; exact habut) ⟨?_, trivial⟩⟩, ?_⟩
    · rw [hsum]
      simp only [ownPart]
      omega
    · rw [lengthOfParts_cons, lengthOfParts_append, hsum]
      simp only [ownPart, lengthOfParts, List.map_cons, List.map_nil, List.sum_cons, List.sum_nil]
      omega

section Contiguous
variable {u : State} {a : Word} {align : Nat} (ha : OwnAddress u a 128 align)
include ha

theorem contiguousParts_own {p : Part1} (hp : p ∈ contiguousParts u a) :
    OwnPart u p ∧ ownKey u p.addr = ownKey u a + p.off ∧ p.off + p.len ≤ 128 := by
  obtain ⟨x, hx, rfl⟩ := List.mem_map.mp hp
  obtain ⟨hat, hpos, hle⟩ := mem_wordSpans hx
  have hpart : OwnAddress u x.1 x.2.1 1 := hat ▸ ha.part (by omega) hle
  refine ⟨ownPart_own hpart _, ?_, hle⟩
  change scratchKey (home u) (offsetOf x.1) = scratchKey (home u) (offsetOf a) + x.2.2
  rw [hat, ha.offset_add (by omega), scratch_add]

end Contiguous

/-! ## Loads -/

theorem answerOf_unmarked (bs : List Byte) : answerOf (marked bs false) = (BitVec.ofNat 1024 (ofBytes bs), 0) := by
  have hmarks : (marked bs false).map (·.2) = List.replicate bs.length false := by
    rw [marked, List.map_map]
    exact List.map_const' ..
  rw [answerOf, bytes_marked, hmarks, lanesOf_unmarked]

/-- Bytes put in their place in a register's image. -/
def placeBytes (im : Marked) (e : Nat × Marked) : Marked := im.take e.1 ++ e.2 ++ im.drop (e.1 + e.2.length)

theorem placeBytes_append {k : Nat} {pre rest bs : Marked} (hk : pre.length = k) :
    placeBytes (pre ++ rest) (k, bs) = pre ++ bs ++ rest.drop bs.length := by
  subst hk
  simp only [placeBytes, List.take_left', List.drop_append, List.drop_eq_nil_of_le (Nat.le_add_right ..), Nat.add_sub_cancel_left,
    List.nil_append]

theorem marked_append (as bs : List Byte) (p : Bool) : marked (as ++ bs) p = marked as p ++ marked bs p := List.map_append

section Image
variable {b : Part1 → List Byte} (hb : ∀ p, (b p).length = p.len)
include hb

theorem length_flatten_parts (ps : List Part1) : (ps.map b).flatten.length = lengthOfParts ps := by
  induction ps with
  | nil => rfl
  | cons p ps ih => rw [List.map_cons, List.flatten_cons, List.length_append, hb, ih, lengthOfParts_cons]

/-- Parts that follow one another fill the image in their order. -/
theorem foldl_placeBytes {ps : List Part1} {k : Nat} (h : Abut k ps) {pre rest : Marked} (hk : pre.length = k) :
    (ps.map (fun p => (p.off, marked (b p) false))).foldl placeBytes (pre ++ rest) =
      pre ++ marked (ps.map b).flatten false ++ rest.drop (lengthOfParts ps) := by
  induction ps generalizing k pre rest with
  | nil => simp [lengthOfParts, marked]
  | cons p ps ih =>
    obtain ⟨hoff, h⟩ := h
    have hl : (marked (b p) false).length = p.len := by rw [marked, List.length_map, hb]
    rw [List.map_cons, List.foldl_cons, hoff, placeBytes_append hk, ih h (by rw [List.length_append, hl, hk]), List.map_cons, List.flatten_cons,
      marked_append, lengthOfParts_cons, List.drop_drop, hl]
    simp only [List.append_assoc]

/-- Parts that follow one another over the whole register give its bytes. -/
theorem imageOf_abut {ps : List Part1} (h : Abut 0 ps) (hn : lengthOfParts ps = 128) :
    imageOf (ps.map (fun p => (p.off, marked (b p) false))) = marked (ps.map b).flatten false := by
  refine (foldl_placeBytes hb h (pre := []) rfl).trans ?_
  rw [hn, List.nil_append, List.drop_eq_nil_of_le (by simp), List.append_nil]

end Image

/-- The bytes at which a part stands. -/
def bytesAt (u : State) (p : Part1) : List Byte := u.mem.bytes (ownKey u p.addr) p.len

theorem length_bytesAt (u : State) (p : Part1) : (bytesAt u p).length = p.len := length_bytes ..

/-- Bytes that follow one another in memory too are read as one range. -/
theorem flatten_abut {m : Mem} {key k : Nat} {ps : List Part1} (h : Abut k ps) :
    (ps.map (fun p => m.bytes (key + p.off) p.len)).flatten = m.bytes (key + k) (lengthOfParts ps) := by
  induction ps generalizing k with
  | nil => rfl
  | cons p ps ih =>
    obtain ⟨rfl, h⟩ := h
    rw [List.map_cons, List.flatten_cons, ih h, lengthOfParts_cons, bytes_add, Nat.add_assoc]

section Own
variable {u : State}

/-- Clean bytes of the own scratchpad are read as they stand. The read is kept opaque, since the kernel would compute its keys. -/
theorem OwnAddress.run_heldAt {a : Word} {n align : Nat} (ha : OwnAddress u a n align)
    (hc : Claims.cleanBytes u.mem (ownKey u a) n = true) :
    (heldAt (.scratch (home u) (offsetOf a)) n).run u = .ok (marked (u.mem.bytes (ownKey u a) n) false) u := by
  have hoff : offsetOf a < 2 ^ 20 := (a.extractLsb' 0 20).isLt
  have hF : ∀ p g, (fetchBytes p g 0 (scratchKey (home u) (offsetOf a)) n).run u = .ok (u.mem.bytes (ownKey u a) n, List.replicate n false) u :=
    fun p g => run_fetchClean (scratch_not_external hoff) (read_scratch ha.fits hc)
  rw [← zip_replicate_false _ n (length_bytes ..), heldAt]
  generalize fetchBytes = F at hF ⊢
  exact (run_bind_ok (EStateM.run_get u)).trans ((run_bind_ok (hF _ _)).trans rfl)

section Parts
variable {ps : List Part1} (hown : ∀ p ∈ ps, OwnPart u p)
include hown

theorem strong_ownParts : ps.any (fun p => strong p.place) = false := by
  rw [List.any_eq_false]
  intro p hp
  rw [(hown p hp).place]
  exact Bool.false_ne_true

theorem isOwn_ownPart {p : Part1} (hp : p ∈ ps) : isOwn u.focus p.place = true := by
  rw [(hown p hp).place]
  exact (hown p hp).own.isOwn

theorem ownParts1_own : ownParts1 u ps = ps := List.filter_eq_self.mpr fun _ hp => isOwn_ownPart hown hp

theorem farParts_own : farParts u ps = [] := by
  have hfar : ps.filter (fun p => !isOwn u.focus p.place) = [] :=
    List.filter_eq_nil_iff.mpr fun _ hp => by rw [isOwn_ownPart hown hp]; decide
  rw [farParts, hfar]
  rfl

theorem run_ownOrders : (ownOrders ps).run u = .ok () u := by
  induction ps with
  | nil => rfl
  | cons p ps ih =>
    have hp := hown p (by simp)
    refine (run_bind_ok (v := ()) ?_).trans (ih fun q hq => hown q (by simp [hq]))
    dsimp only
    rw [hp.place]
    exact hp.own.run_ownOrder

variable (hs : Solo u)
include hs

theorem run_gatherBytes (hc : ∀ p ∈ ps, Claims.cleanBytes u.mem (ownKey u p.addr) p.len = true) :
    (gatherBytes ps).run u = .ok (ps.map (fun p => (p.off, marked (bytesAt u p) false))) u := by
  rw [gatherBytes]
  dsimp only
  rw [List.filterMap_eq_nil_iff.mpr ?lines]
  case lines => exact fun p hp => by rw [(hown p hp).place]
  refine run_mapM fun p hp => ?_
  rw [(hown p hp).place]
  refine (run_bind_ok ((hown p hp).own.run_heldAt (hc p hp))).trans ((run_bind_ok (run_me u)).trans ?_)
  exact run_bind_ok (run_view_calm hs.2 ..)

/-- A load whose parts follow one another over the whole register takes the bytes at which they stand. -/
theorem run_vectorLoad_own {f : F96Q} (hd : f.base.d.toNat < 32) (hfree : vFree u f.base.d.toNat = true)
    (hc : ∀ p ∈ ps, Claims.cleanBytes u.mem (ownKey u p.addr) p.len = true) (habut : Abut 0 ps) (hn : lengthOfParts ps = 128) :
    (vectorLoad f ps).run u = .ok () (withV f.base.d.toNat (BitVec.ofNat 1024 (ofBytes (ps.map (bytesAt u)).flatten)) 0 u) := by
  rw [vectorLoad, run_bind_ok (EStateM.run_get u)]
  dsimp only
  rw [if_neg (by rw [strong_ownParts hown]; decide), ownParts1_own hown, farParts_own hown, run_bind_ok (run_ownOrders hown)]
  refine (run_bind_ok (run_gatherBytes hown hs hc)).trans ?_
  rw [imageOf_abut (length_bytesAt u) habut hn, answerOf_unmarked]
  exact run_putVDest _ _ _ hd hfree

end Parts
end Own

/-! ## Stores -/

/-- The bytes of a register's part. -/
def bytesOfPart (d : VReg) (off len : Nat) : List Byte := ((toBytes 128 d.toNat).drop off).take len

theorem length_bytesOfPart {d : VReg} {off len : Nat} (h : off + len ≤ 128) : (bytesOfPart d off len).length = len := by
  rw [bytesOfPart, List.length_take, List.length_drop, length_toBytes]
  omega

/-- A register without marks gives its bytes without marks. -/
theorem partBytes_unmarked (d : VReg) (tval : Word) (off len : Nat) : partBytes ⟨d, 0, tval⟩ off len = marked (bytesOfPart d off len) false := by
  have hlanes : laneBytes d 0 = marked (toBytes 128 d.toNat) false := by
    have hmark : ∀ i, (0 : BitVec 32).getLsbD i = false := fun _ => BitVec.getLsbD_zero
    have hmap := List.map_map (f := Prod.fst) (g := fun b : Byte => (b, false)) (l := (toBytes 128 d.toNat).zipIdx)
    rw [List.zipIdx_map_fst] at hmap
    simp only [laneBytes, hmark]
    exact hmap.symm
  rw [partBytes, hlanes, bytesOfPart, marked, marked, List.map_take, List.map_drop]

theorem toBytes_drop (n k v : Nat) : (toBytes n v).drop k = toBytes (n - k) (v / 256 ^ k) := by
  induction k generalizing n v with
  | zero => rw [List.drop_zero, Nat.sub_zero, Nat.pow_zero, Nat.div_one]
  | succ k ih =>
    cases n with
    | zero => rw [Nat.zero_sub]; rfl
    | succ n => rw [toBytes, List.drop_succ_cons, ih, Nat.succ_sub_succ, Nat.div_div_eq_div_mul, Nat.pow_succ']

theorem toBytes_mod (n v : Nat) : toBytes n (v % 256 ^ n) = toBytes n v := by
  have h := toBytes_ofBytes (toBytes n v)
  rwa [length_toBytes, ofBytes_toBytes] at h

theorem bytesOfPart_all (d : VReg) : bytesOfPart d 0 128 = toBytes 128 d.toNat := by
  rw [bytesOfPart, List.drop_zero, List.take_of_length_le (by rw [length_toBytes])]

/-- The bytes of an element of whole bytes. -/
theorem bytesOfPart_element {d : VReg} {c j : Nat} (h : j * c + c ≤ 128) : bytesOfPart d (j * c) c = toBytes c (element d (8 * c) j) := by
  rw [bytesOfPart, toBytes_drop, toBytes_take _ _ _ (by omega), ← toBytes_mod]
  congr 1
  rw [element, BitVec.extractLsb'_toNat, Nat.shiftRight_eq_div_pow, Nat.mul_assoc, Nat.mul_comm c j]
  norm_num [Nat.pow_mul]

/-- A part of the register stands at its place. -/
def storePart (u : State) (d : VReg) (v : State) (p : Part1) : State :=
  withBytes (ownKey u p.addr) (bytesOfPart d p.off p.len) false v

/-- A plain write of the own scratchpad by a sequencer outside a pair, where every agent sees every write. -/
theorem OwnAddress.run_putPlain {v : State} {a : Word} {n align : Nat} (ha : OwnAddress v a n align) (hs : Solo v) {bs : List Byte}
    (hn : bs.length = n) : (putPlain (.scratch (home v) (offsetOf a)) (marked bs false)).run v = .ok () (withBytes (ownKey v a) bs false v) := by
  have hw : writeScratch false (v.partOf v.focus) (v.gangOf v.focus) (home v) (offsetOf a) (marked bs false) v =
      withBytes (ownKey v a) bs false v := if_neg fun h => h.2 (hs.1 _ ha.tile).1
  have hput : (putBytes (.scratch (home v) (offsetOf a)) (marked bs false)).run v = .ok () (withBytes (ownKey v a) bs false v) := by
    rw [putBytes, run_bind_ok (EStateM.run_get v)]
    dsimp only
    rw [inPair_alone (solo_alone hs), hw]
    exact EStateM.run_set ..
  have hu : (withBytes (ownKey v a) bs false v).mem.unseen = [] := unseen_withBytes_scratch hs.2.2 (by rw [hn]; exact ha.fits)
  rw [putPlain, run_bind_ok (EStateM.run_get v), run_bind_ok hput]
  simp only [strong, Bool.not_false, if_true, EStateM.run_bind, EStateM.run_modify, hidePlain, hide_calm hs.2.1, ite_self, noteWrite, wrote_calm hu]

section Store
variable {u : State} {d : VReg} (hs : Solo u)
include hs

/-- A part is written, where only parts have been written since. -/
theorem run_storePart {p : Part1} (hp : OwnPart u p) (hle : p.off + p.len ≤ 128) {v : State} (hv : WrittenSince u v) :
    (putPlain p.place (partBytes ⟨d, 0, 0⟩ p.off p.len)).run v = .ok () (storePart u d v p) ∧ WrittenSince u (storePart u d v p) := by
  obtain ⟨hv, hu⟩ := hv
  have hhome : home v = home u := by
    obtain ⟨⟨m, n, ps, gs, rfl⟩, -, -⟩ := hv
    rfl
  have hlen := length_bytesOfPart (d := d) hle
  have hput := (hv.ownAddress hp.own).run_putPlain (hv.solo hs hu) hlen
  rw [ownKey, hhome] at hput
  refine ⟨?_, hv.withBytes .., unseen_withBytes_scratch hu (by rw [hlen]; exact hp.own.fits)⟩
  rw [partBytes_unmarked, hp.place]
  exact hput

/-- A store writes its parts in their order. -/
theorem run_vectorStore_own {f : F96Q} {whole : Bool} {ps cut : List Part1} (hd : f.base.d.toNat < 32) (hok : vOk u f.base.d.toNat = true)
    (hval : (here u).v f.base.d.toNat = d) (hown : ∀ p ∈ ps, OwnPart u p) (hcut : (if whole = true then joined ps else ps) = cut)
    (hcutOwn : ∀ p ∈ cut, OwnPart u p ∧ p.off + p.len ≤ 128) :
    (vectorStore f whole ps).run u = .ok () (cut.foldl (storePart u d) u) := by
  obtain ⟨hfree, hmark⟩ : vFree u f.base.d.toNat = true ∧ (here u).vPoison.getD f.base.d.toNat 0 = 0 := by
    simpa only [vOk, vFree, Bool.and_eq_true, beq_iff_eq] using hok
  have hsource : (vsource f.base.ty.toNat f.base.d.toNat 0 f.wd).run u = .ok ⟨d, 0, 0⟩ u := by
    rw [run_vsource_register hd hfree, hval, hmark]
  have hloop := run_forIn (P := WrittenSince u) (g := storePart u d) (l := cut)
    (body := fun p _ => do putPlain p.place (partBytes ⟨d, 0, 0⟩ p.off p.len); pure (.yield ⟨⟩))
    (fun p hp v hv => (run_storePart hs (hcutOwn p hp).1 (hcutOwn p hp).2 hv).2)
    (fun p hp v hv => run_bind_ok (run_storePart hs (hcutOwn p hp).1 (hcutOwn p hp).2 hv).1) (v := u) ⟨.refl u, hs.2.2⟩
  have hwritten : WrittenSince u (cut.foldl (storePart u d) u) :=
    foldl_keeps (P := WrittenSince u) (fun p hp v hv => (run_storePart hs (hcutOwn p hp).1 (hcutOwn p hp).2 hv).2) ⟨.refl u, hs.2.2⟩
  have halone : role (cut.foldl (storePart u d) u) = .alone := solo_alone (hwritten.1.solo hs hwritten.2)
  rw [vectorStore, run_bind_ok hsource]
  dsimp only
  rw [if_neg (by rw [strong_ownParts hown]; decide), run_bind_ok (EStateM.run_get u), ownParts1_own hown, farParts_own hown,
    run_bind_ok (run_ownOrders hown), if_neg (by rw [solo_isPaired hs]; decide), hcut]
  refine (run_bind_ok (run_waitUntil_holds rfl)).trans ?_
  rw [List.zipIdx_nil, List.forIn_nil]
  refine (run_bind_ok (EStateM.run_pure ..)).trans ((run_bind_ok hloop).trans ?_)
  cases whole
  · rw [if_neg (by decide), run_takeIn, noted_alone _ halone]
  · rw [if_pos rfl, run_takeIn, noted_alone _ halone]

end Store

/-- Parts that follow one another in memory and in the register are one piece. -/
theorem joined_abut {key k : Nat} {p : Part1} {ps : List Part1} (h : Abut k (p :: ps))
    (hkey : ∀ q ∈ p :: ps, q.place.key = key + q.off ∧ leafOf q.place = 0) :
    joined (p :: ps) = [{ p with len := lengthOfParts (p :: ps) }] := by
  induction ps generalizing k p with
  | nil => rfl
  | cons q qs ih =>
    obtain ⟨hp, habut⟩ := h
    obtain ⟨hkp, hlp⟩ := hkey p (by simp)
    obtain ⟨hkq, hlq⟩ := hkey q (by simp)
    have hq : q.off = p.off + p.len := by rw [habut.1, hp]
    have htail := ih habut fun x hx => hkey x (by simp [List.mem_cons.mp hx])
    rw [joined, htail]
    dsimp only
    rw [if_pos ⟨by omega, hq, by rw [hlp, hlq]⟩, lengthOfParts_cons p]

/-! ## Where the parts stand -/

/-- A virtual address in range passes the checks of an access that asks for no alignment. -/
theorem run_checkAddress_virtual {u : State} {v : Word} {n : Nat} (hok : formOk v = true) (hshut : shutOut u u.focus v = false) (h0 : formOf v = 0)
    (hn : v.toNat + n ≤ 2 ^ 54) : (checkAddress v n 1).run u = .ok () u := by
  have hrange : rangeCause v n = none := by rw [rangeCause, if_pos h0, if_neg (by omega)]
  rw [checkAddress, run_bind_ok (EStateM.run_get u), run_bind_ok (run_check_holds (by rw [hok, hshut]; rfl)), hrange]
  refine (run_bind_ok (run_check_holds (decide_eq_true (Nat.mod_one _)))).trans ?_
  rw [if_neg (by rw [h0]; decide)]
  rfl

section Placed
variable {u : State} {f : F96Q} {t : Nat} {a : Word} (hs : Solo u) (hx : u.focus = .x t) (acc : Access)
  (ha : scalarAt u 3 f.base.a f.base.imm16 = some a)

section Contiguous
variable {b : Word} (hb : scalarAt u 3 f.base.b f.base.imm16 = some b)
include ha hb

include hs hx in
theorem run_contiguous_own (hown : OwnAddress u (a + b) 128 (tyWidth f.base.ty.toNat / 8)) :
    (contiguous f acc).run u = .ok (contiguousParts u (a + b)) u := by
  rw [contiguous, run_bind_ok (run_useSource _ ha), run_bind_ok (run_useSource _ hb)]
  refine (run_bind_ok (run_check_holds (decide_eq_true hown.aligned))).trans ((run_bind_ok hown.unaligned.run_checkAddress).trans ?_)
  refine run_mapM fun p hp => ?_
  obtain ⟨hat, hpos, hle⟩ := mem_wordSpans hp
  have hpart : OwnAddress u p.1 p.2.1 1 := hat ▸ hown.part (by omega) hle
  exact run_bind_ok (hpart.run_vectorPlace hs hx acc)

include hx in
/-- An X-sequencer reaches no virtual address (R193, R431). -/
theorem run_contiguous_virtual (hok : formOk (a + b) = true) (hshut : shutOut u u.focus (a + b) = false) (h0 : formOf (a + b) = 0)
    (hn : (a + b).toNat + 128 ≤ 2 ^ 54) (hal : (a + b).toNat % (tyWidth f.base.ty.toNat / 8) = 0) :
    (contiguous f acc).run u = .error (.trap 0x09 (a + b) none) u := by
  obtain ⟨k, l, hk, hspans⟩ := wordSpans_cons (a + b)
  rw [contiguous, run_bind_ok (run_useSource _ ha), run_bind_ok (run_useSource _ hb)]
  refine (run_bind_ok (run_check_holds (decide_eq_true hal))).trans
    ((run_bind_ok (run_checkAddress_virtual hok hshut h0 hn)).trans ?_)
  rw [hspans, List.mapM_cons]
  refine run_bind_error (run_bind_error ?_)
  rw [vectorPlace, run_bind_ok (EStateM.run_get u)]
  simp only [hx]
  rw [run_bind_ok (run_checkAddress_virtual hok hshut h0 (by omega)), if_pos h0]
  rfl

end Contiguous

/-- Where an indexed access puts its elements. -/
def indexedAt (u : State) (f : F96Q) (a : Word) (j : Nat) : Word := a + BitVec.ofNat 64 (element ((here u).v f.base.b.toNat) 32 j)

/-- The parts of an indexed access to the own scratchpad, one for each element. -/
def indexedParts (u : State) (f : F96Q) (a : Word) : List Part1 := (List.range (elementsAt (tyWidth f.base.ty.toNat))).map (fun j =>
  ownPart u (indexedAt u f a j) (tyWidth f.base.ty.toNat / 8) (j * (tyWidth f.base.ty.toNat / 8)))

section Indexed
variable (hown : ∀ j, j < elementsAt (tyWidth f.base.ty.toNat) →
  OwnAddress u (indexedAt u f a j) (tyWidth f.base.ty.toNat / 8) (tyWidth f.base.ty.toNat / 8))
include hown

include hs hx ha in
theorem run_indexed_own (hb : f.base.b.toNat < 32) (hob : vOk u f.base.b.toNat = true) : (indexed f acc).run u = .ok (indexedParts u f a) u := by
  obtain ⟨hfree, hmark⟩ : vFree u f.base.b.toNat = true ∧ (here u).vPoison.getD f.base.b.toNat 0 = 0 := by
    simpa only [vOk, vFree, Bool.and_eq_true, beq_iff_eq] using hob
  have hclean : ¬ (List.range (elementsAt (tyWidth f.base.ty.toNat))).any
      (fun i => ((here u).vPoison.getD f.base.b.toNat 0).getLsbD i) = true := by
    rw [hmark, Bool.not_eq_true, List.any_eq_false]
    exact fun i _ => by rw [show (0 : BitVec 32).getLsbD i = false from BitVec.getLsbD_zero]; decide
  rw [indexed]
  dsimp only
  rw [run_bind_ok (run_useSource _ ha), run_bind_ok (run_vsource_register hb hfree), if_neg hclean]
  exact run_mapM fun j hj => run_bind_ok ((hown j (List.mem_range.mp hj)).run_vectorPlace hs hx acc)

theorem indexedParts_own {p : Part1} (hp : p ∈ indexedParts u f a) : OwnPart u p := by
  obtain ⟨j, hj, rfl⟩ := List.mem_map.mp hp
  exact ownPart_own (hown j (List.mem_range.mp hj)) _

end Indexed
end Placed

/-- Types are whole bytes wide, and their elements fill a register. -/
theorem tyWidth_fills (ty : Nat) : 8 * (tyWidth ty / 8) = tyWidth ty ∧ tyWidth ty / 8 * elementsAt (tyWidth ty) = 128 := by
  unfold tyWidth elementsAt
  split <;> decide

theorem abut_indexedParts (u : State) (f : F96Q) (a : Word) : Abut 0 (indexedParts u f a) ∧ lengthOfParts (indexedParts u f a) = 128 := by
  obtain ⟨habut, hsum⟩ := abut_range (n := elementsAt (tyWidth f.base.ty.toNat)) (k := 0) (c := tyWidth f.base.ty.toNat / 8)
    (g := fun j => ownPart u (indexedAt u f a j) (tyWidth f.base.ty.toNat / 8) (j * (tyWidth f.base.ty.toNat / 8)))
    (fun j _ => by rw [Nat.zero_add, Nat.mul_comm]; rfl) (fun _ _ => rfl)
  exact ⟨habut, hsum.trans (tyWidth_fills _).2⟩

theorem element_within {ty j : Nat} (hj : j < elementsAt (tyWidth ty)) : j * (tyWidth ty / 8) + tyWidth ty / 8 ≤ 128 := by
  rw [← (tyWidth_fills ty).2, ← Nat.succ_mul, Nat.mul_comm]
  exact Nat.mul_le_mul_left _ hj

/-! ## The bodies -/

section Bodies
variable {u : State} {f : F96Q} {t : Nat} {a : Word} (hs : Solo u) (hx : u.focus = .x t) (hd : f.base.d.toNat < 32)
  (ha : scalarAt u 3 f.base.a f.base.imm16 = some a)
include hs hx hd ha

section Contiguous
variable {b : Word} (hb : scalarAt u 3 f.base.b f.base.imm16 = some b)
include hb

section Own
variable (hown : OwnAddress u (a + b) 128 (tyWidth f.base.ty.toNat / 8)) (hc : Claims.cleanBytes u.mem (ownKey u (a + b)) 128 = true)
include hown

include hc in
theorem run_vldBody (hfree : vFree u f.base.d.toNat = true) : (vldBody f).run u =
    .ok .fall (withV f.base.d.toNat (BitVec.ofNat 1024 (wordAt u.mem (ownKey u (a + b)) 128)) 0 u) := by
  obtain ⟨habut, hn⟩ := abut_contiguousParts u (a + b)
  have hbytes : ((contiguousParts u (a + b)).map (bytesAt u)).flatten = u.mem.bytes (ownKey u (a + b)) 128 := by
    rw [← hn, ← Nat.add_zero (ownKey u (a + b)), ← flatten_abut habut]
    refine congrArg List.flatten (List.map_congr_left fun p hp => ?_)
    rw [bytesAt, (contiguousParts_own hown hp).2.1]
  have hload := run_vectorLoad_own (fun p hp => (contiguousParts_own hown hp).1) hs hd hfree (fun p hp => by
    obtain ⟨-, hkey, hle⟩ := contiguousParts_own hown hp
    rw [hkey]
    exact cleanBytes_part hle hc) habut hn
  rw [hbytes] at hload
  rw [vldBody, run_bind_ok (run_queueWaits_two u (scalarAt_noQueue ha) hd (scalarAt_noQueue hb)),
    run_bind_ok (run_contiguous_own hs hx .read ha hb hown)]
  exact run_bind_ok hload

omit hd ha hb hs hx in
/-- The parts of a contiguous store are written as one piece. -/
theorem joined_contiguousParts : joined (contiguousParts u (a + b)) = [ownPart u (a + b) 128 0] := by
  obtain ⟨k, l, -, hspans⟩ := wordSpans_cons (a + b)
  obtain ⟨habut, hn⟩ := abut_contiguousParts u (a + b)
  have hkey : ∀ q ∈ contiguousParts u (a + b), q.place.key = ownKey u (a + b) + q.off ∧ leafOf q.place = 0 := fun q hq => by
    obtain ⟨hq, hk, -⟩ := contiguousParts_own hown hq
    rw [hq.place]
    exact ⟨hk, rfl⟩
  have hcons : contiguousParts u (a + b) = ownPart u (a + b) k 0 :: l.map (fun p => ownPart u p.1 p.2.1 p.2.2) := by
    rw [contiguousParts, hspans, List.map_cons]
  rw [hcons] at habut hn hkey ⊢
  rw [joined_abut habut hkey, hn]
  rfl

theorem run_vstBody (hok : vOk u f.base.d.toNat = true) : (vstBody f).run u =
    .ok .fall (withBytes (ownKey u (a + b)) (toBytes 128 ((here u).v f.base.d.toNat).toNat) false u) := by
  have hstore := run_vectorStore_own hs (whole := true) hd hok rfl (fun p hp => (contiguousParts_own hown hp).1) (joined_contiguousParts hown)
    (fun p hp => by rw [List.mem_singleton.mp hp]; exact ⟨ownPart_own hown 0, Nat.le_refl 128⟩)
  rw [vstBody, run_bind_ok (run_queueWaits_two u (scalarAt_noQueue ha) hd (scalarAt_noQueue hb)),
    run_bind_ok (run_contiguous_own hs hx .write ha hb hown)]
  refine (run_bind_ok hstore).trans ?_
  rw [List.foldl_cons, List.foldl_nil, storePart, ownPart, bytesOfPart_all]
  rfl

end Own

omit hs in
theorem run_contiguousBody_virtual {body : F96Q → Exec Flow} (hbody : body = vldBody ∨ body = vstBody) (hok : formOk (a + b) = true)
    (hshut : shutOut u u.focus (a + b) = false) (h0 : formOf (a + b) = 0) (hn : (a + b).toNat + 128 ≤ 2 ^ 54)
    (hal : (a + b).toNat % (tyWidth f.base.ty.toNat / 8) = 0) : (body f).run u = .error (.trap 0x09 (a + b) none) u := by
  have hstop := fun acc => run_contiguous_virtual hx acc ha hb hok hshut h0 hn hal
  rcases hbody with rfl | rfl
  · rw [vldBody, run_bind_ok (run_queueWaits_two u (scalarAt_noQueue ha) hd (scalarAt_noQueue hb))]
    exact run_bind_error (hstop _)
  · rw [vstBody, run_bind_ok (run_queueWaits_two u (scalarAt_noQueue ha) hd (scalarAt_noQueue hb))]
    exact run_bind_error (hstop _)

end Contiguous

section Indexed
variable (hb : f.base.b.toNat < 32) (hob : vOk u f.base.b.toNat = true) (hown : ∀ j, j < elementsAt (tyWidth f.base.ty.toNat) →
  OwnAddress u (indexedAt u f a j) (tyWidth f.base.ty.toNat / 8) (tyWidth f.base.ty.toNat / 8))
include hb hob hown

theorem run_vgathBody (hfree : vFree u f.base.d.toNat = true) (hc : ∀ j, j < elementsAt (tyWidth f.base.ty.toNat) →
    Claims.cleanBytes u.mem (ownKey u (indexedAt u f a j)) (tyWidth f.base.ty.toNat / 8) = true) :
    (vgathBody f).run u = .ok .fall (withV f.base.d.toNat (BitVec.ofNat 1024 (ofBytes ((List.range (elementsAt (tyWidth f.base.ty.toNat))).map
      (fun j => u.mem.bytes (ownKey u (indexedAt u f a j)) (tyWidth f.base.ty.toNat / 8))).flatten)) 0 u) := by
  obtain ⟨habut, hn⟩ := abut_indexedParts u f a
  have hload := run_vectorLoad_own (fun p => indexedParts_own hown) hs hd hfree (fun p hp => by
    obtain ⟨j, hj, rfl⟩ := List.mem_map.mp hp
    exact hc j (List.mem_range.mp hj)) habut hn
  rw [indexedParts, List.map_map] at hload
  rw [vgathBody, run_bind_ok (run_queueWaits_two u (scalarAt_noQueue ha) hd (lt_noQueue hb)),
    run_bind_ok (run_indexed_own hs hx .read ha hown hb hob)]
  exact run_bind_ok hload

theorem run_vscatBody (hok : vOk u f.base.d.toNat = true) : (vscatBody f).run u = .ok .fall
    ((List.range (elementsAt (tyWidth f.base.ty.toNat))).foldl (fun v j => withBytes (ownKey u (indexedAt u f a j))
      (toBytes (tyWidth f.base.ty.toNat / 8) (element ((here u).v f.base.d.toNat) (tyWidth f.base.ty.toNat) j)) false v) u) := by
  have hstore := run_vectorStore_own hs (whole := false) hd hok rfl (fun p => indexedParts_own hown) (if_neg (by decide)) (fun p hp => by
    refine ⟨indexedParts_own hown hp, ?_⟩
    obtain ⟨j, hj, rfl⟩ := List.mem_map.mp hp
    exact element_within (List.mem_range.mp hj))
  rw [vscatBody, run_bind_ok (run_queueWaits_two u (scalarAt_noQueue ha) hd (lt_noQueue hb)),
    run_bind_ok (run_indexed_own hs hx .write ha hown hb hob)]
  refine (run_bind_ok hstore).trans (congrArg (EStateM.Result.ok Flow.fall) ?_)
  rw [indexedParts, List.foldl_map]
  refine List.foldl_ext _ _ _ fun v j hj => ?_
  simp only [storePart, ownPart, bytesOfPart_element (element_within (List.mem_range.mp hj)), (tyWidth_fills _).1]

end Indexed
end Bodies

/-- A write to clean words of a scratchpad changes memory alone, and there the bytes that it names. -/
theorem withBytes_own {u : State} {t off n : Nat} {bs : List Byte} (hn : off + n ≤ 2 ^ 20)
    (hc : Claims.cleanBytes u.mem (scratchKey t off) n = true) (hl : bs.length = n) :
    ∃ m : Mem, withBytes (scratchKey t off) bs false u = { u with mem := m } ∧ m.bytes (scratchKey t off) n = bs ∧
      ∀ k, k < scratchKey t off ∨ scratchKey t off + n ≤ k → m.byte k = u.mem.byte k := by
  subst hl
  have hlen : (marked bs false).length = bs.length := List.length_map ..
  obtain ⟨hbytes, hframe⟩ := bytes_writeBytes_clean (p := u.partOf u.focus) (g := u.gangOf u.focus) (bytes := marked bs false)
    (by rw [hlen]; exact hn) (by rw [hlen]; exact hc)
  rw [hlen] at hbytes hframe
  refine ⟨(withBytes (scratchKey t off) bs false u).mem, ?_, hbytes.trans (bytes_marked ..), hframe⟩
  rw [withBytes_clean hn hc]

/-- Either form of an operation raises the cause that its body raises before it changes anything. -/
theorem either_traps {i : Instr} {mk : F64A → Instr} {mq : F96Q → Instr} {f : F96Q} {s : State} {body : F96Q → Exec Flow} {c : Byte} {v : Word}
    (hb : ∀ wa wb wc wd, (body ⟨f.base, wa, wb, wc, wd⟩).run (issued s) = .error (.trap c v none) (issued s)) (hc : c ≠ 0x01)
    (h1 : exec (mk f.base) s = issueA (mk f.base) f.base (body (plain f.base)) s) (h2 : exec (mq f) s = issueQ (mq f) f (body f) s)
    (hr : Ready s i f.base.pred f.base.pneg) (h : EitherForm i mk mq f) : exec i s = traps s i c v := by
  rcases h with rfl | rfl
  · exact h1.trans (issue_traps_unchanged hr (hb 0 0 0 0) hc)
  · exact h2.trans (issue_traps_unchanged hr (hb f.wa f.wb f.wc f.wd) hc)

/-- Settles O32: each body with parts that all stand in the own scratchpad, and the contiguous ones at a virtual address. -/
theorem vectorAccesses : Obligations.VectorAccesses := by
  unfold Obligations.VectorAccesses
  refine ⟨fun s i f a b h => ?contiguous, fun s i f a h => ?indexed⟩
  case contiguous =>
    intro u d at_ key ⟨t, hx⟩ hs hd ha hb
    refine ⟨fun hscratch => ?_, fun hi hok hshut h0 hn hal => ?_⟩
    · have hown := ownAddress hscratch
      refine ⟨fun hi hfree hc => ?_, fun hi hok hc => ?_⟩
      · exact either_falls (fun wa wb wc wd => run_vldBody (f := ⟨f.base, wa, wb, wc, wd⟩) hs hx hd ha hb hown hc hfree) rfl rfl h hi
      · obtain ⟨m, hm, hbytes, hframe⟩ := withBytes_own hown.fits hc (length_toBytes 128 ((here u).v d).toNat)
        refine ⟨m, ?_, hbytes, fun k hk => (hframe k hk).trans (by rw [mem_issued])⟩
        rw [← hm]
        exact either_falls (fun wa wb wc wd => run_vstBody (f := ⟨f.base, wa, wb, wc, wd⟩) hs hx hd ha hb hown hok) rfl rfl h hi
    · rcases hi with hi | hi
      · exact either_traps (fun wa wb wc wd => run_contiguousBody_virtual (f := ⟨f.base, wa, wb, wc, wd⟩) hx hd ha hb (.inl rfl)
          hok hshut h0 hn hal) (by decide) rfl rfl h hi
      · exact either_traps (fun wa wb wc wd => run_contiguousBody_virtual (f := ⟨f.base, wa, wb, wc, wd⟩) hx hd ha hb (.inr rfl)
          hok hshut h0 hn hal) (by decide) rfl rfl h hi
  case indexed =>
    intro u d w n at_ ⟨t, hx⟩ hs hd hb hob ha hscratch
    have hown := fun j hj => ownAddress (hscratch j hj)
    refine ⟨fun hi hfree hc => ?_, fun hi hok => ?_⟩
    · exact either_falls (fun wa wb wc wd => run_vgathBody (f := ⟨f.base, wa, wb, wc, wd⟩) hs hx hd ha hb hob hown hfree hc) rfl rfl h hi
    · exact either_falls (fun wa wb wc wd => run_vscatBody (f := ⟨f.base, wa, wb, wc, wd⟩) hs hx hd ha hb hob hown hok) rfl rfl h hi

end Sys2Proof.Machine
end

section
/-! SUPPORT. The writes that not every agent sees, as releases, acquires and fences mark them: what one edge brings to an agent, and what
it leaves (R198, R201-R204). -/

namespace Sys2Proof.Machine

open Sys2Proof.Claims

/-! ## Marks on one write -/

namespace Unseen

/-- The same write with no mark fewer. -/
structure Extends (e x : Unseen) : Prop where
  id : x.id = e.id
  word : x.word = e.word
  marks : e.marks ⊆ x.marks

theorem Extends.refl (e : Unseen) : e.Extends e := ⟨rfl, rfl, List.Subset.refl _⟩

theorem Extends.trans {e x y : Unseen} (h : e.Extends x) (h' : x.Extends y) : e.Extends y :=
  ⟨h'.id.trans h.id, h'.word.trans h.word, List.Subset.trans h.marks h'.marks⟩

theorem seenBy_iff {q : SeqId} {e : Unseen} : e.seenBy q = true ↔ Mark.seen q ∈ e.marks := List.contains_iff_mem

theorem Extends.seenBy {e x : Unseen} {q : SeqId} (h : e.Extends x) (hq : e.seenBy q = true) : x.seenBy q = true :=
  seenBy_iff.mpr (h.marks (seenBy_iff.mp hq))

theorem mem_mark {k j : Mark} {e : Unseen} : j ∈ (e.mark k).marks ↔ j ∈ e.marks ∨ j = k := by
  rw [Unseen.mark]
  split
  · next h => exact ⟨.inl, fun hj => hj.elim (fun hj => hj) fun hj => hj ▸ List.contains_iff_mem.mp h⟩
  · rw [List.mem_append, List.mem_singleton]

theorem extends_mark (k : Mark) (e : Unseen) : e.Extends (e.mark k) :=
  ⟨by rw [Unseen.mark]; split <;> rfl, by rw [Unseen.mark]; split <;> rfl, fun _ hj => mem_mark.mpr (.inl hj)⟩

theorem seenBy_mark_same (q : SeqId) (e : Unseen) : (e.mark (.seen q)).seenBy q = true := seenBy_iff.mpr (mem_mark.mpr (.inr rfl))

theorem seenBy_mark_of_ne {k : Mark} {q : SeqId} (h : k ≠ .seen q) (e : Unseen) : (e.mark k).seenBy q = e.seenBy q := by
  rw [Bool.eq_iff_iff, seenBy_iff, seenBy_iff, mem_mark]
  exact or_iff_left h.symm

theorem extends_markAll (ks : List Mark) (e : Unseen) : e.Extends (e.markAll ks) := by
  induction ks generalizing e with
  | nil => exact .refl e
  | cons k ks ih => exact (extends_mark k e).trans (ih _)

theorem mem_markAll {k : Mark} {ks : List Mark} (h : k ∈ ks) (e : Unseen) : k ∈ (e.markAll ks).marks := by
  induction ks generalizing e with
  | nil => cases h
  | cons j ks ih =>
    rcases List.mem_cons.mp h with rfl | h
    · exact (extends_markAll ks _).marks (mem_mark.mpr (.inr rfl))
    · exact ih h _

end Unseen

/-! ## What marks leave of the state -/

/-- A state that differs in its unseen writes alone. -/
def DiffersInUnseen (u s : State) : Prop := ∃ l, s = { u with mem := { u.mem with unseen := l } }

namespace DiffersInUnseen

theorem refl (u : State) : DiffersInUnseen u u := ⟨u.mem.unseen, rfl⟩

section
variable {u s : State} (h : DiffersInUnseen u s)
include h

theorem modUnseen (f : List Unseen → List Unseen) : DiffersInUnseen u (s.modUnseen f) := by
  obtain ⟨l, rfl⟩ := h
  rw [State.modUnseen]
  split <;> exact ⟨_, rfl⟩

theorem leadSeq (q : SeqId) : leadSeq s q = leadSeq u q := by
  obtain ⟨l, rfl⟩ := h
  rfl

theorem leadWord (w : Nat) : leadWord s w = leadWord u w := by
  obtain ⟨l, rfl⟩ := h
  rfl

theorem pairs (a : SeqId) (r : Nat) (b : SeqId) (c : Nat) : pairs s a r b c = pairs u a r b c := by
  obtain ⟨l, rfl⟩ := h
  rfl

theorem markUnseen (k : Mark) (p : Unseen → Bool) : DiffersInUnseen u (markUnseen k p s) := h.modUnseen _
theorem wrote (q : SeqId) (ws : List Nat) : DiffersInUnseen u (wrote q ws s) := h.modUnseen _
theorem reads (q : SeqId) (ws : List Nat) : DiffersInUnseen u (reads q ws s) := h.modUnseen _

end
end DiffersInUnseen

theorem unseen_modUnseen_map (s : State) (f : Unseen → Unseen) : (s.modUnseen (·.map f)).mem.unseen = s.mem.unseen.map f := by
  rw [State.modUnseen]
  split
  · next h => rw [List.isEmpty_iff.mp h, List.map_nil]
  · rfl

section Marks
variable {s : State} {e : Unseen} (he : e ∈ s.mem.unseen) {k : Mark} {p : Unseen → Bool}
include he

theorem mem_markUnseen (hp : p e = true) : e.mark k ∈ (markUnseen k p s).mem.unseen := by
  rw [markUnseen, unseen_modUnseen_map]
  exact List.mem_map.mpr ⟨e, he, if_pos hp⟩

theorem mem_markUnseen_of_not (hp : p e = false) : e ∈ (markUnseen k p s).mem.unseen := by
  rw [markUnseen, unseen_modUnseen_map]
  exact List.mem_map.mpr ⟨e, he, if_neg (Bool.eq_false_iff.mp hp)⟩

theorem exists_markUnseen (k : Mark) (p : Unseen → Bool) : ∃ x ∈ (markUnseen k p s).mem.unseen, x = e ∨ x = e.mark k := by
  cases hp : p e with
  | true => exact ⟨_, mem_markUnseen he hp, .inr rfl⟩
  | false => exact ⟨e, mem_markUnseen_of_not he hp, .inl rfl⟩

theorem exists_extends_markUnseen (k : Mark) (p : Unseen → Bool) : ∃ x ∈ (markUnseen k p s).mem.unseen, e.Extends x := by
  obtain ⟨x, hx, rfl | rfl⟩ := exists_markUnseen he k p
  · exact ⟨x, hx, .refl x⟩
  · exact ⟨_, hx, e.extends_mark k⟩

end Marks

/-! ## Edges (R201, R202, R204) -/

/-- A write that no release covers and that came with no word that an agent has read after a fence. -/
def Unseen.Bare (e : Unseen) : Prop := (∀ w c r x, Mark.released w c r x ∉ e.marks) ∧ (∀ c a r, Mark.noticed c a r ∉ e.marks)

section Acquire
variable {s : State} {e : Unseen} (he : e ∈ s.mem.unseen) {a b : SeqId} {r scope object : Nat}
include he

/-- An acquire brings what a release with which it pairs covers. -/
theorem mem_seesReleased (hm : Mark.released object a r false ∈ e.marks) (hp : pairs s a r b scope = true) :
    e.mark (.seen b) ∈ (seesReleased b scope object s).mem.unseen :=
  mem_markUnseen he (List.any_eq_true.mpr ⟨_, hm, by simp only [beq_self_eq_true, hp, Bool.and_self]⟩)

/-- An acquire leaves a write that no release with which it pairs covers. -/
theorem mem_seesReleased_of_not (h : ∀ w c n, Mark.released w c n false ∈ e.marks → pairs s c n b scope = false) :
    e ∈ (seesReleased b scope object s).mem.unseen := by
  refine mem_markUnseen_of_not he (List.any_eq_false.mpr fun k hk => ?_)
  split
  · next w c n => simp only [h w c n hk, Bool.and_false, Bool.false_eq_true, not_false_eq_true]
  · exact Bool.false_ne_true

/-- An acquiring fence brings what came with a word that its agent has read, where the scopes fit. -/
theorem mem_fenceAcquire (hb : leadSeq s b = b) (hm : Mark.noticed b a r ∈ e.marks) (hp : pairs s a r b scope = true) :
    e.mark (.seen b) ∈ (fenceAcquire b scope s).mem.unseen := by
  rw [fenceAcquire, hb]
  exact mem_markUnseen he (List.any_eq_true.mpr ⟨_, hm, by simp only [beq_self_eq_true, hp, Bool.and_self]⟩)

/-- An acquiring fence leaves a write that came with no word that its agent has read. -/
theorem mem_fenceAcquire_of_not (h : ∀ c n, Mark.noticed (leadSeq s b) c n ∉ e.marks) : e ∈ (fenceAcquire b scope s).mem.unseen := by
  refine mem_markUnseen_of_not he (List.any_eq_false.mpr fun k hk => ?_)
  split
  · next q c n =>
    have hq : q ≠ leadSeq s b := fun hq => h c n (hq ▸ hk)
    simp only [beq_eq_false_iff_ne.mpr hq, Bool.false_and, Bool.false_eq_true, not_false_eq_true]
  · exact Bool.false_ne_true

/-- A word that an agent writes takes along what its releasing fences cover. -/
theorem exists_extends_wrote {w : Nat} (ha : leadSeq s a = a) (hw : leadWord s w = w) (hm : Mark.fenced a r ∈ e.marks) :
    ∃ x ∈ (wrote a [w] s).mem.unseen, e.Extends x ∧ Mark.released w a r true ∈ x.marks := by
  rw [wrote, unseen_modUnseen_map, ha, List.map_singleton, hw]
  refine ⟨_, List.mem_map.mpr ⟨e, he, rfl⟩, e.extends_markAll _, Unseen.mem_markAll ?_ e⟩
  exact List.mem_flatMap.mpr ⟨w, List.mem_singleton_self w, List.mem_filterMap.mpr ⟨_, hm, if_pos rfl⟩⟩

/-- A read of a word notes what the word has taken along. -/
theorem exists_extends_reads {w : Nat} (hb : leadSeq s b = b) (hw : leadWord s w = w) (hm : Mark.released w a r true ∈ e.marks) :
    ∃ x ∈ (reads b [w] s).mem.unseen, e.Extends x ∧ Mark.noticed b a r ∈ x.marks := by
  rw [reads, unseen_modUnseen_map, hb, List.map_singleton, hw]
  have hread : e.Extends (if [w].contains e.word then e.mark (.read b) else e) := by
    split
    · exact e.extends_mark _
    · exact .refl e
  refine ⟨_, List.mem_map.mpr ⟨e, he, rfl⟩, hread.trans (Unseen.extends_markAll _ _), Unseen.mem_markAll ?_ _⟩
  exact List.mem_filterMap.mpr ⟨_, hread.marks hm, if_pos (List.contains_iff_mem.mpr (List.mem_singleton_self w))⟩

end Acquire

section Edges
variable {u : State} {q b : SeqId} {sc sc' word : Nat} {e : Unseen}

/-- An agent outside a pair has marks of its own. -/
theorem leadSeq_of_not_twin (h : isTwin u q = false) : leadSeq u q = q := if_neg (Bool.eq_false_iff.mp h)

theorem bound_alignedKey (g key : Nat) (e : Unseen) : bound u q g (8 * (key / 8)) e = bound u q g key e := by
  rw [bound, bound, Nat.mul_div_cancel_left _ (by decide : 0 < 8), Nat.mul_comm]

variable (hq : isTwin u q = false) (hw : leadWord u (word / 8) = word / 8)
include hq hw

/-- A release covers the writes that its agent sees in the regions bound to its object. -/
theorem released_eq : released q sc word u =
    markUnseen (.released (word / 8) q sc false) (fun e => e.seenBy q && bound u q (u.gangOf q) word e) u := by
  simp only [released, leadSeq_of_not_twin hq, hw, bound_alignedKey]

theorem differsInUnseen_released : DiffersInUnseen u (released q sc word u) := by
  rw [released_eq hq hw]
  exact (DiffersInUnseen.refl u).markUnseen ..

variable (hb : isTwin u b = false)
include hb

omit hq in
theorem acquired_eq {s : State} (h : DiffersInUnseen u s) : acquired b sc' word s = seesReleased b sc' (word / 8) s := by
  rw [acquired, h.leadSeq, leadSeq_of_not_twin hb, h.leadWord, hw]

variable (he : e ∈ u.mem.unseen)
include he

/-- An acquire that pairs with a release brings what the release covers. -/
theorem exists_extends_acquired (hs : e.seenBy q = true) (hc : bound u q (u.gangOf q) word e = true) (hp : pairs u q sc b sc' = true) :
    ∃ x ∈ (acquired b sc' word (released q sc word u)).mem.unseen, e.Extends x ∧ x.seenBy b = true := by
  have hu : DiffersInUnseen u (released q sc word u) := differsInUnseen_released hq hw
  rw [acquired_eq hw hb hu]
  refine ⟨_, mem_seesReleased (e := e.mark (.released (word / 8) q sc false)) ?_ (Unseen.mem_mark.mpr (.inr rfl)) (by rw [hu.pairs, hp]),
    (e.extends_mark _).trans (Unseen.extends_mark _ _), Unseen.seenBy_mark_same _ _⟩
  rw [released_eq hq hw]
  exact mem_markUnseen he (by rw [hs, hc, Bool.and_self])

/-- Without a binding of its region to the object, a write stays as it was. -/
theorem mem_acquired_unbound (hc : bound u q (u.gangOf q) word e = false) (hbare : e.Bare) :
    e ∈ (acquired b sc' word (released q sc word u)).mem.unseen := by
  rw [acquired_eq hw hb (differsInUnseen_released hq hw)]
  refine mem_seesReleased_of_not ?_ (fun w c n hm => absurd hm (hbare.1 w c n false))
  rw [released_eq hq hw]
  exact mem_markUnseen_of_not he (by rw [hc, Bool.and_false])

/-- Where a scope is too narrow, a write is seen by whom it was. -/
theorem exists_acquired_narrow (hp : pairs u q sc b sc' = false) (hbare : e.Bare) :
    ∃ x ∈ (acquired b sc' word (released q sc word u)).mem.unseen, x.id = e.id ∧ x.seenBy b = e.seenBy b := by
  have hu : DiffersInUnseen u (released q sc word u) := differsInUnseen_released hq hw
  rw [acquired_eq hw hb hu]
  obtain ⟨x, hx, hid, hseen, hm⟩ : ∃ x ∈ (released q sc word u).mem.unseen, x.id = e.id ∧ x.seenBy b = e.seenBy b ∧
      ∀ w c n, Mark.released w c n false ∈ x.marks → c = q ∧ n = sc := by
    rw [released_eq hq hw]
    obtain ⟨x, hx, hxe⟩ := exists_markUnseen he (.released (word / 8) q sc false) fun e => e.seenBy q && bound u q (u.gangOf q) word e
    obtain rfl | rfl := hxe
    · exact ⟨x, hx, rfl, rfl, fun w c n hm => absurd hm (hbare.1 w c n false)⟩
    · refine ⟨_, hx, (e.extends_mark _).id, Unseen.seenBy_mark_of_ne Mark.noConfusion e, fun w c n hm => ?_⟩
      have hk := (Unseen.mem_mark.mp hm).resolve_left (hbare.1 w c n false)
      injection hk with _ hc hn
      exact ⟨hc, hn⟩
  refine ⟨x, mem_seesReleased_of_not hx (fun w c n hk => ?_), hid, hseen⟩
  obtain ⟨rfl, rfl⟩ := hm w c n hk
  rw [hu.pairs, hp]

/-- An acquiring fence after a read of a word that an agent has written after its releasing fence brings what that agent sees. -/
theorem exists_extends_fences (hs : e.seenBy q = true) (hp : pairs u q sc b sc' = true) :
    ∃ x ∈ (fenceAcquire b sc' (reads b [word / 8] (wrote q [word / 8] (fenceRelease q sc u)))).mem.unseen,
      e.Extends x ∧ x.seenBy b = true := by
  have hq := leadSeq_of_not_twin hq
  have hb := leadSeq_of_not_twin hb
  have h1 : DiffersInUnseen u (fenceRelease q sc u) := (DiffersInUnseen.refl u).markUnseen ..
  have h2 := h1.wrote q [word / 8]
  have h3 := h2.reads b [word / 8]
  have he1 : e.mark (.fenced q sc) ∈ (fenceRelease q sc u).mem.unseen := by
    rw [fenceRelease, hq]
    exact mem_markUnseen he hs
  obtain ⟨e2, he2, hx2, hm2⟩ := exists_extends_wrote he1 (by rw [h1.leadSeq, hq]) (by rw [h1.leadWord, hw])
    (Unseen.mem_mark.mpr (.inr rfl))
  obtain ⟨e3, he3, hx3, hm3⟩ := exists_extends_reads he2 (by rw [h2.leadSeq, hb]) (by rw [h2.leadWord, hw]) hm2
  exact ⟨_, mem_fenceAcquire he3 (by rw [h3.leadSeq, hb]) hm3 (by rw [h3.pairs, hp]),
    ((e.extends_mark _).trans hx2).trans (hx3.trans (e3.extends_mark _)), e3.seenBy_mark_same b⟩

omit hw in
/-- A full fence brings what a full fence before it saw, where the scopes fit. -/
theorem exists_extends_fenceOrder (hs : e.seenBy q = true) (hp : pairs u q sc b sc' = true) :
    ∃ x ∈ (fenceOrder b sc' (fenceOrder q sc u)).mem.unseen, e.Extends x ∧ x.seenBy b = true := by
  have hq := leadSeq_of_not_twin hq
  have hb := leadSeq_of_not_twin hb
  have h1 : DiffersInUnseen u (acquiresOn fullObject q sc u) := (DiffersInUnseen.refl u).markUnseen ..
  have h2 : DiffersInUnseen u (fenceOrder q sc u) := h1.markUnseen ..
  have h3 : DiffersInUnseen u (acquiresOn fullObject b sc' (fenceOrder q sc u)) := h2.markUnseen ..
  obtain ⟨e1, he1, hx1⟩ : ∃ x ∈ (acquiresOn fullObject q sc u).mem.unseen, e.Extends x := exists_extends_markUnseen he _ _
  have he2 : e1.mark (.released fullObject q sc false) ∈ (fenceOrder q sc u).mem.unseen := by
    rw [fenceOrder, releasesOn, h1.leadSeq, hq]
    exact mem_markUnseen he1 (hx1.seenBy hs)
  have he3 : (e1.mark (.released fullObject q sc false)).mark (.seen b) ∈ (acquiresOn fullObject b sc' (fenceOrder q sc u)).mem.unseen := by
    rw [acquiresOn, h2.leadSeq, hb]
    exact mem_seesReleased he2 (Unseen.mem_mark.mpr (.inr rfl)) (by rw [h2.pairs, hp])
  obtain ⟨x, hx, hx4⟩ : ∃ x ∈ (fenceOrder b sc' (fenceOrder q sc u)).mem.unseen, Unseen.Extends _ x := exists_extends_markUnseen he3 _ _
  exact ⟨x, hx, (hx1.trans (e1.extends_mark _)).trans ((Unseen.extends_mark _ _).trans hx4), hx4.seenBy (Unseen.seenBy_mark_same _ _)⟩

end Edges

/-! ## Scopes (R197) -/

theorem tileOf_eq_some_iff {b : SeqId} {t : Nat} : State.tileOf b = some t ↔ b = .a t ∨ b = .x t := by
  cases b <;> simp [State.tileOf]

theorem beq_or_iff {a b : SeqId} {x : Bool} : (a == b || x) = true ↔ b = a ∨ x = true := by
  rw [Bool.or_eq_true, beq_iff_eq, eq_comm]

section Scopes
variable (u : State) (t : Nat) (b : SeqId)

theorem inScope_agent : inScope u (.a t) 0 b = true ↔ b = .a t := beq_or_iff.trans (or_iff_left Bool.false_ne_true)

theorem inScope_tile : inScope u (.a t) 1 b = true ↔ b = .a t ∨ b = .x t := by
  refine (beq_or_iff (x := State.tileOf b == some t)).trans (Iff.trans ?_ or_self_left)
  rw [beq_iff_eq, tileOf_eq_some_iff]

theorem inScope_cluster : inScope u (.a t) 2 b = true ↔ b = .s (t / 4) ∨ ∃ t', t' / 4 = t / 4 ∧ (b = .a t' ∨ b = .x t') := by
  have hc : ((State.tileOf b).map clusterOf == some (clusterOf t)) = true ↔ ∃ t', t' / 4 = t / 4 ∧ (b = .a t' ∨ b = .x t') := by
    simp only [beq_iff_eq, Option.map_eq_some_iff, tileOf_eq_some_iff, clusterOf, and_comm]
  refine (beq_or_iff (x := b == .s (t / 4) || (State.tileOf b).map clusterOf == some (clusterOf t))).trans ?_
  rw [Bool.or_eq_true, beq_iff_eq, hc]
  exact or_iff_right_of_imp fun h => .inr ⟨t, rfl, .inl h⟩

theorem inScope_group : inScope u (.a t) 3 b = true ↔
    b = .a t ∨ ∃ t', (b = .a t' ∨ b = .x t') ∧ groupShared u (u.gangOf (.a t)) t t' = true := by
  refine (beq_or_iff (x := (State.tileOf b).any (groupShared u (u.gangOf (.a t)) t))).trans (or_congr_right ?_)
  simp only [Option.any_eq_true, tileOf_eq_some_iff]

theorem inScope_die : inScope u (.a t) 4 b = true ↔ dieOfSeq b = t / 512 := by
  refine (beq_or_iff (x := t / 512 == dieOfSeq b)).trans ?_
  rw [beq_iff_eq, eq_comm (b := dieOfSeq b)]
  exact or_iff_right_of_imp fun h => h ▸ rfl

theorem inScope_job : inScope u (.a t) 6 b = true ↔ b = .a t ∨ sameJob u (u.gangOf (.a t)) (u.gangOf b) = true := beq_or_iff

theorem inScope_all {n : Nat} (h : n = 5 ∨ n = 7 ∨ n = 8) : inScope u (.a t) n b = true := by
  rcases h with rfl | rfl | rfl <;> exact Bool.or_true _

/-- A sequencer of no tile has itself alone in the scopes within a die. -/
theorem inScope_no_tile {a : SeqId} (ha : State.tileOf a = none) {n : Nat} (h : n < 4) : inScope u a n b = true ↔ b = a := by
  have hn : inScope u a n b = (a == b) := by
    simp only [inScope, ha]
    obtain rfl | rfl | rfl | rfl : n = 0 ∨ n = 1 ∨ n = 2 ∨ n = 3 := by omega
    all_goals exact Bool.or_false _
  rw [hn, beq_iff_eq, eq_comm]

end Scopes

end Sys2Proof.Machine
end

section
/-! SUPPORT. ACQ, WAITSEQ, REL and FENCE: what each body does, and the statement about them (R197, R201-R205, R370, R408, R439). -/

namespace Sys2Proof.Machine

open Sys2Proof.Claims

theorem exec_acq (f : F64M) (s : State) : exec (.acq f) s = issue (.acq f) f.pred f.pneg (acqBody f) s := rfl
theorem exec_rel (f : F64M) (s : State) : exec (.rel f) s = issue (.rel f) f.pred f.pneg (relBody f) s := rfl
theorem exec_fence (f : F64M) (s : State) : exec (.fence f) s = issue (.fence f) f.pred f.pneg (fenceBody f) s := rfl
theorem exec_waitseq (f : F64M) (s : State) : exec (.waitseq f) s = issue (.waitseq f) f.pred f.pneg (waitseqBody f) s := rfl

/-! ## Releases outside a pair (R201) -/

theorem unpaired_isPaired {u : State} (h : Unpaired u) : isPaired u u.focus = false := by
  have hr : memberOf u u.focus = .alone := unpaired_alone h
  rw [isPaired, hr]
  rfl

/-- A release waits for the accesses before it. -/
theorem run_releaseAt_waits {u : State} (h : allAcknowledged u u.focus = false) (outside : Bool) (scope : Nat) :
    (releaseAt outside scope).run u = .error (.wait .outstanding id) u := by
  rw [releaseAt]
  refine run_bind_error ?_
  rw [awaitAcks, run_bind_ok (EStateM.run_get u), run_waitUntil_waits h]

/-- Outside a pair a release waits for no more than that. -/
theorem run_releaseAt_unpaired {u : State} (hu : Unpaired u) (h : allAcknowledged u u.focus = true) (scope : Nat) :
    (releaseAt false scope).run u = .ok () u := by
  have hp := unpaired_isPaired hu
  have hheld : settleHeld.run u = .ok () u := by
    simp only [settleHeld, EStateM.run_bind, EStateM.run_get, hp]
    split <;> simp_all
  rw [releaseAt, run_bind_ok (run_awaitAcks h), run_when_bind fun _ => hheld, run_bind_ok (EStateM.run_get u), hp,
    if_neg Bool.false_ne_true]
  rfl

theorem run_queueWaits_source {d : Nat} (w : BitVec 8) (u : State) (hd : d < 32) : (queueWaits [⟨d, w, false, false⟩]).run u = .ok () u :=
  run_queueWaits u (by simpa only [List.forall_mem_cons] using ⟨lt_noQueue hd, by simp⟩)

theorem run_useSource_x {u : State} {ty : Nat} {spec : BitVec 6} {imm : BitVec 16} {w : BitVec 8} (hn : spec.toNat < 32)
    (hx : xOk u spec.toNat = true) : (useSource ty spec.toNat imm w).run u = .ok ((here u).x spec.toNat) u :=
  run_useSource w (by rw [scalarAt, if_pos hn, if_pos hx])

/-! ## The own scratchpad's word -/

/-- What else an access does at a place of a scratchpad needs no translation. -/
theorem OwnAddress.run_locate_also {u : State} {a : Word} {n align : Nat} (ha : OwnAddress u a n align) (hs : Solo u) (acc : Access)
    (also : List Access) (q : Bool) : (locate a n align acc also q).run u = .ok (.inl (.scratch (home u) (offsetOf a))) u := by
  rw [← ha.run_locate hs acc q]
  simp only [locate, ha.form, if_neg (by decide : ¬ (1 = 0))]

/-- Bytes written to the own scratchpad by a sequencer outside a pair. -/
theorem OwnAddress.run_putBytes {u : State} {a : Word} {n align : Nat} (ha : OwnAddress u a n align) (hs : Solo u) (bs : List Byte) :
    (putBytes (.scratch (home u) (offsetOf a)) (marked bs false)).run u = .ok () (withBytes (ownKey u a) bs false u) := by
  have hw : writeScratch false (u.partOf u.focus) (u.gangOf u.focus) (home u) (offsetOf a) (marked bs false) u =
      withBytes (ownKey u a) bs false u := if_neg fun h => h.2 (hs.1 _ ha.tile).1
  rw [putBytes, run_bind_ok (EStateM.run_get u)]
  dsimp only
  rw [inPair_alone (solo_alone hs), hw]
  exact EStateM.run_set ..

/-- An ordered access marks no write where every agent sees every write. -/
theorem run_syncOwn_of_calm {u : State} (h : u.mem.unseen = []) (y : Sync) (p : Place) : (syncOwn y p).run u = .ok () u := by
  rw [syncOwn, run_bind_ok (run_me u)]
  cases y.release with
  | none => rw [EStateM.run_modify, acquire_calm h]
  | some scope => rw [run_bind_ok (by rw [EStateM.run_modify, released_calm h]), EStateM.run_modify, acquire_calm h]

/-! ## The end of a wait -/

theorem unwatch_eq (q : SeqId) (u : State) : ∃ l, unwatch q u = { u with mem := { u.mem with watches := l } } := by
  rw [unwatch]
  split <;> exact ⟨_, rfl⟩

section Unwatch
variable (q : SeqId) (u : State)

theorem unseen_unwatch : (unwatch q u).mem.unseen = u.mem.unseen := by
  obtain ⟨l, h⟩ := unwatch_eq q u
  rw [h]

theorem xFree_unwatch (n : Nat) : xFree (unwatch q u) n = xFree u n := by
  obtain ⟨l, h⟩ := unwatch_eq q u
  rw [h]
  rfl

end Unwatch

section Word
variable {u : State} {a : Word} (hs : Solo u) (ha : OwnAddress u a 8 8) (hc : Claims.cleanBytes u.mem (ownKey u a) 8 = true)
include hs ha hc

theorem OwnAddress.run_getWord : (getBytes (.scratch (home u) (offsetOf a)) 8).run u = .ok (marked (u.mem.bytes (ownKey u a) 8) false) u := by
  have h := ha.run_getPart (i := 0) (m := 8) hs hc (Nat.le_refl 8) (by decide)
  rwa [Nat.add_zero, Nat.add_zero] at h

theorem run_objectWord : (objectWord (.scratch (home u) (offsetOf a)) a).run u = .ok (BitVec.ofNat 64 (wordAt u.mem (ownKey u a) 8)) u := by
  rw [objectWord, run_bind_ok ha.run_ownOrder, run_bind_ok (ha.run_getWord hs hc), poisoned_marked, if_neg Bool.false_ne_true, bytes_marked]
  rfl

/-- A wait for the own scratchpad's word goes on while the word is less than the value and has been since the wait began. -/
theorem run_awaitWord (hg : NoServedMiss u) (y : Sync) (least : Word) {v : Word} (hv : BitVec.ofNat 64 (wordAt u.mem (ownKey u a) 8) = v) :
    (awaitWord y (.scratch (home u) (offsetOf a)) a least).run u =
      if v.toNat < least.toNat ∧ valueCame u u.focus (ownKey u a) least.toNat = false then
        .error (.wait .memory (fun s => watch s.focus (ownKey u a) least.toNat (keepFindings s u))) u
      else .ok v (unwatch u.focus u) := by
  have hkey : (Place.scratch (home u) (offsetOf a)).key = ownKey u a := rfl
  rw [awaitWord, run_bind_ok (run_granted_memory hg)]
  dsimp only
  rw [run_bind_ok (EStateM.run_get u), if_pos ha.isOwn, run_bind_ok (run_objectWord hs ha hc), run_bind_ok (EStateM.run_get u), hkey, hv]
  simp only [Bool.and_eq_true, decide_eq_true_eq, Bool.not_eq_true']
  split
  · rfl
  · rw [run_bind_ok (EStateM.run_modify ..), run_bind_ok (run_syncOwn_of_calm ((unseen_unwatch ..).trans hs.2.2) ..)]
    rfl

/-- `.add` of an 8-byte word. -/
theorem run_atomAt_add (v : Nat) : (atomAt (.scratch (home u) (offsetOf a)) a 3 0 v 0).run u =
    .ok (wordAt u.mem (ownKey u a) 8) (withBytes (ownKey u a) (toBytes 8 (wordAt u.mem (ownKey u a) 8 + v)) false u) := by
  have hal := ha.ownSpill.offset_aligned
  have hword : wordPlace (.scratch (home u) (offsetOf a)) = (.scratch (home u) (offsetOf a), 0) := by
    rw [wordPlace, hal, Nat.div_mul_cancel (Nat.dvd_of_mod_eq_zero hal)]
  have hwidth : tyWidth 3 / 8 = 8 := rfl
  have hold : ofBytes (((u.mem.bytes (ownKey u a) 8).drop 0).take 8) = wordAt u.mem (ownKey u a) 8 := by
    rw [List.drop_zero, List.take_of_length_le (length_bytes ..).le, wordAt]
  have hnew : toBytes 8 (atomOp 3 0 (wordAt u.mem (ownKey u a) 8) v 0) = toBytes 8 (wordAt u.mem (ownKey u a) 8 + v) := toBytes_mod 8 _
  have hu : (withBytes (ownKey u a) (toBytes 8 (wordAt u.mem (ownKey u a) 8 + v)) false u).mem.unseen = [] :=
    unseen_withBytes_scratch hs.2.2 (by rw [length_toBytes]; exact ha.fits)
  rw [atomAt, hword]
  dsimp only
  rw [run_bind_ok (ha.run_getWord hs hc), poisoned_marked, if_neg Bool.false_ne_true, bytes_marked, hwidth, hold,
    if_pos (.inl (by decide)), hnew, run_bind_ok (EStateM.run_get u), run_bind_ok (ha.run_putBytes hs _),
    run_bind_ok (EStateM.run_modify ..), keepReleases, modUnseen_calm hu, noteWrite, run_bind_ok (EStateM.run_modify ..), wrote_calm hu]
  rfl

omit hc in
/-- What follows the write of a release marks nothing where every agent sees every write, and notes nothing outside a pair. -/
theorem run_afterWrite {bs : List Byte} (hn : bs.length = 8) (y : Sync) (takes : List Byte) :
    (syncOwn y (.scratch (home u) (offsetOf a)) >>= fun _ => takeIn takes >>= fun _ => pure Flow.fall).run
      (withBytes (ownKey u a) bs false u) = .ok .fall (withBytes (ownKey u a) bs false u) := by
  have hu : (withBytes (ownKey u a) bs false u).mem.unseen = [] := unseen_withBytes_scratch hs.2.2 (by rw [hn]; exact ha.fits)
  have hr : role (withBytes (ownKey u a) bs false u) = .alone := ((KeepsSingles.refl u).writeBytes ..).role_alone hs.1
  rw [run_bind_ok (run_syncOwn_of_calm hu ..), run_bind_ok (run_takeIn ..), noted_alone _ hr]
  rfl

end Word

/-! ## ACQ and WAITSEQ (R335, R439) -/

/-- One of two steps, with the same continuation. -/
theorem run_ite_bind {α β : Type} {c : Prop} [Decidable c] {x y : Exec α} {k : α → Exec β} (u : State) :
    (if c then x >>= k else y >>= k).run u = ((if c then x else y) >>= k).run u := by
  split <;> rfl

/-- A step that stops in one case, with a continuation that does not. -/
theorem run_bind_ite {α β : Type} {c : Prop} [Decidable c] {x : Exec α} {k : α → Exec β} {u t t' : State} {e : Stop} {v : α} {w : β}
    (hx : x.run u = if c then .error e u else .ok v t) (hk : (k v).run t = .ok w t') :
    (x >>= k).run u = if c then .error e u else .ok w t' := by
  by_cases h : c
  · rw [if_pos h] at hx ⊢
    exact run_bind_error hx
  · rw [if_neg h] at hx ⊢
    exact (run_bind_ok hx).trans hk

/-- The value that a wait ends with goes into D. -/
theorem run_putAwaited {d : Nat} {u : State} (hd : xFree u d = true) (v : Word) :
    (putX d v false >>= fun _ => pure Flow.fall).run (unwatch u.focus u) = .ok .fall (withX d v false (unwatch u.focus u)) :=
  run_bind_ok (run_putX _ _ ((xFree_unwatch ..).trans hd))

section Bodies
variable {f : F64M} {u : State} (hs : Solo u) (hb : xOk u f.base.toNat = true) (ha : OwnAddress u (addressOf u f) 8 8)
include hs hb ha

section Awaits
variable (hc : Claims.cleanBytes u.mem (ownKey u (addressOf u f)) 8 = true) (hg : NoServedMiss u) {v : Word}
  (hv : BitVec.ofNat 64 (wordAt u.mem (ownKey u (addressOf u f)) 8) = v)
include hc hg hv

theorem run_acqBody (hd : xFree u f.d.toNat = true) {least : Word}
    (hl : (if f.fn3 == 1 then useX f.d.toNat else pure 0 : Exec Word).run u = .ok least u) : (acqBody f).run u =
      if v.toNat < least.toNat ∧ valueCame u u.focus (ownKey u (addressOf u f)) least.toNat = false then
        .error (.wait .memory (fun s => watch s.focus (ownKey u (addressOf u f)) least.toNat (keepFindings s u))) u
      else .ok .fall (withX f.d.toNat v false (unwatch u.focus u)) := by
  rw [acqBody, run_bind_ok (run_baseAddress hb), run_bind_ok (ha.run_locate hs ..)]
  dsimp only
  rw [run_bind_ok (EStateM.run_get u), run_ite_bind, run_bind_ok hl]
  simp only [ha.isOwn, if_true, solo_isPaired hs, Bool.false_and, Bool.false_eq_true, if_false, Bool.true_or]
  rw [run_bind_ok (run_strongBefore_scratch ..)]
  exact run_bind_ite (run_awaitWord hs ha hc hg _ _ hv) (run_putAwaited hd v)

theorem run_waitseqBody (hx : xOk u f.d.toNat = true) {least : Word} (hl : (here u).x f.d.toNat = least) : (waitseqBody f).run u =
      if v.toNat < least.toNat ∧ valueCame u u.focus (ownKey u (addressOf u f)) least.toNat = false then
        .error (.wait .memory (fun s => watch s.focus (ownKey u (addressOf u f)) least.toNat (keepFindings s u))) u
      else .ok .fall (withX f.d.toNat v false (unwatch u.focus u)) := by
  have hjoin : (modify (fun s => commandsJoined s.focus s) : Exec Unit).run (unwatch u.focus u) = .ok () (unwatch u.focus u) := by
    rw [EStateM.run_modify, commandsJoined, markUnseen_calm ((unseen_unwatch ..).trans hs.2.2)]
  rw [waitseqBody, run_bind_ok (run_baseAddress hb), run_bind_ok (ha.run_locate hs ..)]
  dsimp only
  rw [run_bind_ok (EStateM.run_get u), if_pos ha.isOwn, run_bind_ok (run_strongBefore_scratch ..), run_bind_ok (run_useX hx), hl,
    solo_isPaired hs, if_neg Bool.false_ne_true]
  exact run_bind_ite (run_bind_ite (run_awaitWord hs ha hc hg _ _ hv) (run_bind_ok hjoin)) (run_putAwaited (xFree_of_xOk hx) v)

end Awaits

/-! ## REL (R408) -/

section Release
variable (hd : f.d.toNat < 32) (hx : xOk u f.d.toNat = true)
include hd hx

/-- REL comes to its release (R201). -/
theorem run_relBody_waits (h : acknowledged u = false) : (relBody f).run u = .error (.wait .outstanding id) u := by
  have hack : allAcknowledged u u.focus = false := Bool.eq_false_iff.mpr fun h' => by rw [acknowledged_iff.mpr ⟨h', hs.2⟩] at h; cases h
  rw [relBody, run_bind_ok (run_queueWaits_source _ u hd), run_bind_ok (run_baseAddress hb)]
  dsimp only
  rw [run_bind_ok (ha.run_locate_also hs ..)]
  dsimp only
  rw [run_bind_ok (run_useSource_x hd hx), run_bind_ok (run_outsidePair_solo hs _),
    run_bind_error (run_releaseAt_waits hack _ _)]

/-- Once its accesses are acknowledged it writes its word. -/
theorem run_relBody (hc : Claims.cleanBytes u.mem (ownKey u (addressOf u f)) 8 = true) (h : acknowledged u = true) :
    (relBody f).run u = .ok .fall (withBytes (ownKey u (addressOf u f)) (toBytes 8 (if f.fn3 = 1 then
      wordAt u.mem (ownKey u (addressOf u f)) 8 + ((here u).x f.d.toNat).toNat else ((here u).x f.d.toNat).toNat)) false u) := by
  rw [relBody, run_bind_ok (run_queueWaits_source _ u hd), run_bind_ok (run_baseAddress hb)]
  dsimp only
  rw [run_bind_ok (ha.run_locate_also hs ..)]
  dsimp only
  rw [run_bind_ok (run_useSource_x hd hx), run_bind_ok (run_outsidePair_solo hs _),
    run_bind_ok (run_releaseAt_solo hs h _), run_bind_ok (run_strongBefore_scratch ..), run_bind_ok (EStateM.run_get u),
    if_neg Bool.false_ne_true, if_pos ha.isOwn, run_bind_ok ha.run_ownOrder]
  by_cases h1 : f.fn3 = 1
  · rw [if_pos (beq_iff_eq.mpr h1), if_pos h1, run_bind_ok (run_atomAt_add hs ha hc _)]
    exact run_afterWrite hs ha (length_toBytes ..) _ _
  · rw [if_neg (h1 ∘ beq_iff_eq.mp), if_neg h1, run_bind_ok (ha.run_putPlain hs (length_toBytes ..))]
    exact run_afterWrite hs ha (length_toBytes ..) _ _

end Release
end Bodies

/-! ## FENCE (R370) -/

section Fence
variable {f : F64M} {u : State}

theorem run_fenceBody_none (h : f.sc = 0) : (fenceBody f).run u = .ok .fall u := by
  rw [fenceBody, h]
  rfl

section Scoped
variable (hs : f.sc ≠ 0)
include hs

theorem scope_ne_zero : f.sc.toNat ≠ 0 := fun h => hs (BitVec.eq_of_toNat_eq h)

theorem fenceBody_acquire (hf : f.fn3 = 0) : fenceBody f = (do
    let s ← get
    waitUntil (!readsPending s s.focus) .outstanding
    modify (fun s => fenceAcquire s.focus f.sc.toNat s)
    return .fall) := by
  have hn : f.fn3.toNat = 0 := by rw [hf]; rfl
  simp only [fenceBody, scope_ne_zero hs, ne_eq, not_false_eq_true, if_true, hn]

theorem fenceBody_release (hf : f.fn3 = 1) : fenceBody f = (do
    fenceFirst f.sc.toNat
    return .fall) := by
  have hn : f.fn3.toNat = 1 := by rw [hf]; rfl
  simp only [fenceBody, scope_ne_zero hs, ne_eq, not_false_eq_true, if_true, hn]

theorem fenceBody_full (h0 : f.fn3 ≠ 0) (h1 : f.fn3 ≠ 1) : fenceBody f = (do
    let s ← get
    waitUntil (!readsPending s s.focus) .outstanding
    fenceFull f.sc.toNat
    return .fall) := by
  simp only [fenceBody, scope_ne_zero hs, ne_eq, not_false_eq_true, if_true]
  split
  · next hn => exact absurd (BitVec.eq_of_toNat_eq hn) h0
  · next hn => exact absurd (BitVec.eq_of_toNat_eq hn) h1
  · rfl

/-- `.acq` waits for the agent's loads, `.rel` for its accesses, `.full` for both. -/
theorem run_fenceBody_waits (h : (f.fn3 ≠ 1 ∧ readsPending u u.focus = true) ∨ (f.fn3 ≠ 0 ∧ allAcknowledged u u.focus = false)) :
    (fenceBody f).run u = .error (.wait .outstanding id) u := by
  have hfirst : allAcknowledged u u.focus = false → (fenceFirst f.sc.toNat).run u = .error (.wait .outstanding id) u := fun ha => by
    rw [fenceFirst, run_bind_error (run_releaseAt_waits ha ..)]
  by_cases h0 : f.fn3 = 0
  · have hr : readsPending u u.focus = true := (h.resolve_right fun hx => hx.1 h0).2
    rw [fenceBody_acquire hs h0, run_bind_ok (EStateM.run_get u), run_bind_error (run_waitUntil_waits (by rw [hr]; rfl))]
  by_cases h1 : f.fn3 = 1
  · rw [fenceBody_release hs h1, run_bind_error (hfirst (h.resolve_left fun hx => hx.1 h1).2)]
  rw [fenceBody_full hs h0 h1, run_bind_ok (EStateM.run_get u)]
  cases hr : readsPending u u.focus with
  | true => rw [run_bind_error (run_waitUntil_waits (Bool.not_true))]
  | false =>
    have ha : allAcknowledged u u.focus = false := (h.resolve_left fun hx => by rw [hr] at hx; cases hx.2).2
    rw [run_bind_ok (run_waitUntil_holds Bool.not_false), fenceFull, run_bind_error (run_bind_error (hfirst ha))]

theorem run_fenceBody_acquire (hf : f.fn3 = 0) (hr : readsPending u u.focus = false) :
    (fenceBody f).run u = .ok .fall (fenceAcquire u.focus f.sc.toNat u) := by
  rw [fenceBody_acquire hs hf, run_bind_ok (EStateM.run_get u), run_bind_ok (run_waitUntil_holds (by rw [hr]; rfl)),
    run_bind_ok (EStateM.run_modify ..)]
  rfl

variable (hu : Unpaired u) (ha : allAcknowledged u u.focus = true)
include hu ha

omit hs in
theorem run_fenceFirst (scope : Nat) : (fenceFirst scope).run u = .ok () (fenceRelease u.focus scope u) := by
  rw [fenceFirst, run_bind_ok (run_releaseAt_unpaired hu ha scope), EStateM.run_modify]

omit hs in
theorem run_fenceFull (scope : Nat) : (fenceFull scope).run u =
    .ok () (fenceAcquire u.focus scope (fenceOrder u.focus scope (fenceRelease u.focus scope u))) := by
  have hfocus : (fenceRelease u.focus scope u).focus = u.focus := focus_modUnseen ..
  rw [fenceFull, run_bind_ok (run_fenceFirst hu ha _), EStateM.run_modify, hfocus]

theorem run_fenceBody_release (hf : f.fn3 = 1) : (fenceBody f).run u = .ok .fall (fenceRelease u.focus f.sc.toNat u) := by
  rw [fenceBody_release hs hf, run_bind_ok (run_fenceFirst hu ha _)]
  rfl

theorem run_fenceBody_full (h0 : f.fn3 ≠ 0) (h1 : f.fn3 ≠ 1) (hr : readsPending u u.focus = false) : (fenceBody f).run u =
    .ok .fall (fenceAcquire u.focus f.sc.toNat (fenceOrder u.focus f.sc.toNat (fenceRelease u.focus f.sc.toNat u))) := by
  rw [fenceBody_full hs h0 h1, run_bind_ok (EStateM.run_get u), run_bind_ok (run_waitUntil_holds (by rw [hr]; rfl)),
    run_bind_ok (run_fenceFull hu ha _)]
  rfl

end Scoped

/-- Where every agent sees every write, a fence that waits for nothing changes nothing. -/
theorem run_fenceBody_calm (hs : Solo u) (h : ¬(f.sc ≠ 0 ∧ ((f.fn3 ≠ 1 ∧ readsPending u u.focus = true) ∨
    (f.fn3 ≠ 0 ∧ allAcknowledged u u.focus = false)))) : (fenceBody f).run u = .ok .fall u := by
  by_cases hsc : f.sc = 0
  · exact run_fenceBody_none hsc
  obtain ⟨hreads, hacks⟩ := not_or.mp (not_and.mp h hsc)
  have hr : f.fn3 ≠ 1 → readsPending u u.focus = false := fun h1 => Bool.eq_false_iff.mpr fun hr => hreads ⟨h1, hr⟩
  have ha : f.fn3 ≠ 0 → allAcknowledged u u.focus = true := fun h0 => Bool.of_not_eq_false fun ha => hacks ⟨h0, ha⟩
  have hrel : fenceRelease u.focus f.sc.toNat u = u := markUnseen_calm hs.2.2 ..
  by_cases h0 : f.fn3 = 0
  · rw [run_fenceBody_acquire hsc h0 (hr (by rw [h0]; decide)), fenceAcquire_calm hs.2.2]
  by_cases h1 : f.fn3 = 1
  · rw [run_fenceBody_release hsc hs.1 (ha h0) h1, hrel]
  · rw [run_fenceBody_full hsc hs.1 (ha h0) h0 h1 (hr h1), hrel, fenceOrder_calm hs.2.2, fenceAcquire_calm hs.2.2]

end Fence

/-! ## The statement -/

/-- A wait for a word's value leaves the state before it, with the wait noted. -/
theorem issue_watches {s : State} {i : Instr} {p : BitVec 3} {n : BitVec 1} {body : Exec Flow} {key least : Nat} (h : Ready s i p n)
    (hb : body.run (issued s) = .error (.wait .memory (fun v => watch v.focus key least (keepFindings v (issued s)))) (issued s)) :
    issue i p n body s = .next (watch s.focus key least (recordWait s.focus .memory s)) := by
  have hk : keepFindings (recordWait s.focus .memory s) (issued s) = recordWait s.focus .memory s := keepFindings_issued s _ _
  rw [issue_waits h hb, hk, focus_recordWait]

/-- Settles O30: an access of the own scratchpad's word finds nothing, and its body comes to that word; a fence makes the edges of its
marks, and each edge is followed on one write from mark to mark. -/
theorem synchronisingAccesses : Obligations.SynchronisingAccesses := by
  unfold Obligations.SynchronisingAccesses
  refine ⟨fun s f => ?own, fun s f => ?fences, fun u q b sc sc' word e he hs => ?edges, fun u t c b => ?scopes⟩
  case own =>
    intro u d a key word hs hb ha hc hd hg
    have ha := ownAddress ha
    refine ⟨fun h h1 hx => ?_, fun i hi h hx => ?_, fun h hx => ⟨fun hk => ?_, fun hk => ?_⟩, fun h => ⟨fun hw => ?_, fun hw => ?_⟩⟩
    · have hl : (if f.fn3 == 1 then useX f.d.toNat else pure 0 : Exec Word).run u = .ok 0 u := by
        rw [if_neg (h1 ∘ beq_iff_eq.mp), EStateM.run_pure]
      have hrun := run_acqBody hs hb ha hc hg rfl hx hl
      rw [if_neg fun h => absurd h.1 (Nat.not_lt_zero _), focus_issued] at hrun
      rw [exec_acq]
      exact issue_runs h hrun
    · have hissue : ∃ body : Exec Flow, exec i s = issue i f.pred f.pneg body s ∧ body.run u =
          if word.toNat < ((here u).x d).toNat ∧ valueCame u u.focus key ((here u).x d).toNat = false then
            .error (.wait .memory (fun s => watch s.focus key ((here u).x d).toNat (keepFindings s u))) u
          else .ok .fall (withX d word false (unwatch u.focus u)) := by
        rcases hi with ⟨rfl, h1⟩ | rfl
        · have hl : (if f.fn3 == 1 then useX f.d.toNat else pure 0 : Exec Word).run u = .ok ((here u).x d) u := by
            rw [if_pos (beq_iff_eq.mpr h1), run_useX hx]
          exact ⟨_, exec_acq f s, run_acqBody hs hb ha hc hg rfl (xFree_of_xOk hx) hl⟩
        · exact ⟨_, exec_waitseq f s, run_waitseqBody hs hb ha hc hg rfl hx rfl⟩
      obtain ⟨body, hexec, hrun⟩ := hissue
      rw [hexec]
      refine ⟨fun hm => ?_, fun hlt hn => ?_⟩
      · rw [if_neg fun hw => hm.elim (Nat.not_le.mpr hw.1) (Bool.eq_false_iff.mp hw.2), focus_issued] at hrun
        exact issue_runs h hrun
      · rw [if_pos ⟨hlt, hn⟩] at hrun
        exact issue_watches h hrun
    · rw [exec_rel, issue_waits h (run_relBody_waits hs hb ha hd hx hk)]
      rfl
    · have hrun := run_relBody hs hb ha hd hx hc hk
      have hw : word.toNat = wordAt u.mem key 8 := toNat_ofNat_ofBytes (length_bytes ..).le
      rw [exec_rel, hw]
      exact issue_runs h hrun
    · rw [exec_fence, issue_waits h (run_fenceBody_waits hw.1 hw.2)]
      rfl
    · rw [exec_fence]
      exact issue_runs h (run_fenceBody_calm hs hw)
  case fences =>
    intro u hu hsc h q sc
    exact ⟨fun hf hr => issue_runs h (run_fenceBody_acquire hsc hf hr), fun hf ha => issue_runs h (run_fenceBody_release hsc hu ha hf),
      fun hf hr ha => issue_runs h (run_fenceBody_full hsc hu ha (by rw [hf]; decide) (by rw [hf]; decide) hr)⟩
  case edges =>
    intro edge fences full covered bare hq hb hw
    refine ⟨fun hc hp => ?_, fun hc hbare => mem_acquired_unbound hq hw hb he hc hbare,
      fun hp hbare => exists_acquired_narrow hq hw hb he hp hbare, fun hp => ⟨?_, ?_⟩, fun hbare => ?_⟩
    · obtain ⟨x, hx, hex, hseen⟩ := exists_extends_acquired hq hw hb he hs hc hp
      exact ⟨x, hx, hex.id, hex.word, hseen⟩
    · obtain ⟨x, hx, hex, hseen⟩ := exists_extends_fences hq hw hb he hs hp
      exact ⟨x, hx, hex.id, hex.word, hseen⟩
    · obtain ⟨x, hx, hex, hseen⟩ := exists_extends_fenceOrder hq hb he hs hp
      exact ⟨x, hx, hex.id, hex.word, hseen⟩
    · exact mem_fenceAcquire_of_not he fun c n => hbare.2 _ c n
  case scopes =>
    exact ⟨inScope_agent u t b, inScope_tile u t b, inScope_cluster u t b, inScope_group u t b, inScope_die u t b, inScope_job u t b,
      fun n => inScope_all u t b, fun n h => ⟨inScope_no_tile u b rfl h, inScope_no_tile u b rfl h⟩⟩

end Sys2Proof.Machine
end
